-- ==== Sys2Proof/Word.lean ====
section
/-! DEFINITION. The plain number types of the model and the saturating count. -/

namespace Sys2Proof

/-- A station number, 0 to 262,143; 0 means none and 262,143 means ALL (00, Conventions). -/
abbrev Station := Nat

/-- A time on the part's timebase in milliseconds since the part left reset (00, Two time scales). -/
abbrev Time := Nat

/-- One received eight-unit pattern, first unit the most significant bit (R1). -/
abbrev Pattern := BitVec 8

/-- The destination of broadcast bursts (00, Conventions). -/
def allStations : Station := 262143

end Sys2Proof
end

