-- ==== Sys2Proof/Syntax.lean ====
section
/-! DEFINITION. The commands: one constructor per row of spec/opcode_table.json, with the payload of
R205 for a frame, what the Modem or transceiver hands over for a radio event, and the record's name for
a timer. -/

namespace Sys2Proof

/-- The four access classes in class order (R21, R26). -/
inductive AccessClass | answer | distress | priority | routine
deriving DecidableEq, Repr

/-- The four protection monitors, in the order of R39. -/
inductive MonitorId | tune | reflect | supply | keytime
deriving DecidableEq, Repr

/-- The two item kinds of the Relay Wait List (R74). -/
inductive WaitKind | distress | warning
deriving DecidableEq, Repr

inductive Instr where
  /-- Power-up or release of RESETN (R203). -/
  | hardReset
  /-- RESETN goes low (R187, R203). -/
  | resetnAsserted
  /-- CSEL is asserted (R188). -/
  | cselAssert
  /-- CSEL is released (R187). -/
  | cselRelease
  /-- A complete exchange with a NONE frame (R189). Every frame carries its tag. -/
  | noneFrame (tag : Nat)
  /-- A complete exchange whose kind code is in no table (R189, R205). -/
  | unknownKind (tag kind : Nat)
  /-- A READ whose selector is none of the nine (R195). -/
  | readBadSelector (tag selector : Nat)
  /-- SETUP head: own station, port id, settle time in 10 ms units (R196, R205). -/
  | setup (tag own port settle : Nat)
  | setupPart1 (tag count source1 source2 source3 : Nat)
  | setupPart2 (tag source4 count area1 area2 area3 area4 area5 area6 : Nat)
  | setupPart3 (tag area7 area8 area9 area10 area11 area12 stale tDirect tRelay hour : Nat)
  | setupPart4 (tag dTune dReflect dSupply dKeytime recovery latch retry beacon hold : Nat)
  | setupPart5 (tag receipt position message distress warning : Nat)
  /-- TIME (R198). -/
  | time (tag year month day hour minute second : Nat)
  /-- POSITION (R199); signed hundredths of an arc minute. -/
  | position (tag : Nat) (latitude longitude : Int) (hour minute : Nat)
  | submit (tag destination length : Nat)
  /-- TEXT: the eight symbols of the payload (R201). -/
  | text (tag : Nat) (symbols : List Nat)
  | withdraw (tag consoleTag : Nat)
  | readStatus (tag : Nat)
  | readNeighbours (tag : Nat)
  | readCases (tag : Nat)
  | readForecast (tag area : Nat)
  | readWarnings (tag : Nat)
  | readTally (tag : Nat)
  | readQuota (tag : Nat)
  | readHaul (tag number : Nat)
  | readTransfers (tag : Nat)
  /-- DISTRESS: nature and persons, 255 meaning omitted (R108, R205). -/
  | distress (tag nature persons : Nat)
  | cancel (tag : Nat)
  | ackCase (tag station : Nat)
  | closeCase (tag station : Nat)
  | flush (tag : Nat)
  | recover (tag : Nat)
  | loopTest (tag : Nat)
  | reportNow (tag : Nat)
  | haulOpen (tag : Nat)
  | haulClose (tag number : Nat)
  /-- CATCH LINE: haul number, three letters, disposition, weight (R154). -/
  | catchLine (tag number letter1 letter2 letter3 disposition weight : Nat)
  | haulDiscard (tag number : Nat)
  | haulCommit (tag number : Nat)
  | restart (tag : Nat)
  /-- The Modem's raw carrier indication changes to `up` (R20). -/
  | rawCarrierChange (up : Bool)
  | carrierDebounce
  /-- SYNC-A in the last eight units, with its quality 0 to 15 (R11). -/
  | syncAFound (quality : Nat)
  /-- One character with its quality 0 to 15 (R2, R12, R13). -/
  | characterReceived (pattern : Pattern) (quality : Nat)
  | gapEnd (cls : AccessClass)
  | backoffSlot (cls : AccessClass)
  | settleEnd
  | burstEnd
  | keytimeLimit
  | ackLimit
  | blindTimer
  | channelBlocked
  /-- A protection check with the levels sampled on TUNEF, REFL and SUPLO (R39, R40). -/
  | protectionCheck (tuneF refl supLo : Bool)
  | recoveryTime (monitor : MonitorId)
  | quietTimer
  | loopStart
  /-- The 48 patterns the looped Modem handed over (R18). -/
  | loopResult (received : List Pattern)
  | staleTime (station : Station)
  | neighbourRemoval (station : Station)
  | avoidMarkExpiry (station : Station)
  | beaconDue
  /-- The wait's kind and identity: station and alert, or issuer and issue (R74). -/
  | relayWaitExpiry (kind : WaitKind) (station number : Nat)
  | ackTimeout
  | refusalWaitEnd (slot : Nat)
  | lifetimeEnd (slot : Nat)
  | inactivityExpiry (source number : Nat)
  | recentPairExpiry (source number : Nat)
  | repeatDue
  | cancelDue
  | caseExpiry (station : Station)
  | holdTimerExpiry
  | collectionDiscard (area : Nat)
  /-- The area's COMPLETE record, or its COLLECTING one (R140). -/
  | forecastExpiry (area : Nat) (complete : Bool)
  | warningExpiry (issuer issue : Nat)
  | reportHour
  | receiptDeadline
  | submitVoidTimer
deriving DecidableEq, Repr

end Sys2Proof
end

