-- ==== Sys2Proof/Decode.lean ====
section
/-! DEFINITION. Commands as words. spec/opcode_table.json gives no row any bits. The down frames do have a form, the
twelve bytes of R205: `decodeFrame` reads them, `encodeFrame` writes them, and `decodeTableWord` reads a word of 96
bits as such a frame, the kind byte first (entry 44). A word of any other length spells no command. -/

namespace Sys2Proof

/-! ## Down frames (R205) -/

/-- The `w` bytes of a number, most significant first. -/
def frameBytes : Nat → Nat → List Nat
  | 0, _ => []
  | w + 1, v => (v / 256 ^ w) % 256 :: frameBytes w v

/-- The number in `w` bytes of a frame from byte `i`, most significant first. -/
def frameNum (bytes : List Nat) (i w : Nat) : Nat :=
  ((bytes.drop i).take w).foldl (fun acc b => acc * 256 + b) 0

/-- A four-byte two's-complement number. -/
def frameSigned (bytes : List Nat) (i : Nat) : Int :=
  let v := frameNum bytes i 4
  if v < 2147483648 then (v : Int) else (v : Int) - 4294967296

/-- The READ that a selector asks for; a selector in none of the nine places is judged BAD PARAM (R195). -/
def decodeRead (tag selector parameter : Nat) : Instr :=
  match selector with
  | 1 => .readStatus tag
  | 2 => .readNeighbours tag
  | 3 => .readCases tag
  | 4 => .readForecast tag parameter
  | 5 => .readWarnings tag
  | 6 => .readTally tag
  | 7 => .readQuota tag
  | 8 => .readHaul tag parameter
  | 9 => .readTransfers tag
  | _ => .readBadSelector tag selector

/-- The command of a down frame's kind, tag and payload (R205): `n i w` is the number in `w` bytes from byte `i`. -/
def decodeKind (bytes : List Nat) : Instr :=
  let n := frameNum bytes
  let b := fun i => frameNum bytes i 1
  let t := b 1
  match b 0 with
  | 0 => .noneFrame t
  | 1 => .setup t (n 2 3) (n 5 3) (b 8)
  | 2 => .setupPart1 t (b 2) (n 3 3) (n 6 3) (n 9 3)
  | 3 => .setupPart2 t (n 2 3) (b 5) (b 6) (b 7) (b 8) (b 9) (b 10) (b 11)
  | 4 => .setupPart3 t (b 2) (b 3) (b 4) (b 5) (b 6) (b 7) (b 8) (b 9) (b 10) (b 11)
  | 5 => .setupPart4 t (b 2) (b 3) (b 4) (b 5) (b 6) (b 7) (b 8) (b 9) (b 10)
  | 6 => .setupPart5 t (n 2 2) (b 4) (b 5) (b 6) (b 7)
  | 7 => .time t (n 2 2) (b 4) (b 5) (b 6) (b 7) (b 8)
  | 8 => .position t (frameSigned bytes 2) (frameSigned bytes 6) (b 10) (b 11)
  | 9 => .submit t (n 2 3) (n 5 2)
  | 10 => .text t ((bytes.drop 2).take 8)
  | 11 => .withdraw t (b 2)
  | 12 => decodeRead t (b 2) (n 3 2)
  | 13 => .distress t (b 2) (b 3)
  | 14 => .cancel t
  | 15 => .ackCase t (n 2 3)
  | 16 => .closeCase t (n 2 3)
  | 17 => .flush t
  | 18 => .recover t
  | 19 => .loopTest t
  | 20 => .reportNow t
  | 21 => .haulOpen t
  | 22 => .haulClose t (n 2 2)
  | 23 => .catchLine t (n 2 2) (b 4) (b 5) (b 6) (b 7) (n 8 3)
  | 24 => .haulDiscard t (n 2 2)
  | 25 => .haulCommit t (n 2 2)
  | 26 => .restart t
  | k => .unknownKind t k

/-- The command that a down frame orders; none unless it is twelve bytes. -/
def decodeFrame (bytes : List Nat) : Option Instr :=
  if bytes.length = 12 ∧ bytes.all (fun b => decide (b < 256)) then some (decodeKind bytes) else none

/-- The bytes of a word, the first in its lowest eight bits. -/
def wordBytes : Nat → Nat → List Nat
  | 0, _ => []
  | n + 1, w => w % 256 :: wordBytes n (w / 256)

/-- The command that a word spells: the down frame of its twelve bytes; the table gives bits for no row, so a word of
any other length spells none. -/
def decodeTableWord (nbits w : Nat) : Option Instr := if nbits = 96 then decodeFrame (wordBytes 12 w) else none

/-- A frame of a kind with its payload, filled with 0. -/
def frameOf (kind tag : Nat) (payload : List Nat) : List Nat :=
  kind :: tag :: payload ++ List.replicate (10 - payload.length) 0

/-- Four bytes of a signed number. -/
def signedBytes (v : Int) : List Nat := frameBytes 4 (v % 4294967296).toNat

/-- The twelve bytes of a command's down frame (R205); none for a row that is no frame. -/
def encodeFrame : Instr → Option (List Nat)
  | .noneFrame t => some (frameOf 0 t [])
  | .unknownKind t k => some (frameOf k t [])
  | .readBadSelector t sel => some (frameOf 12 t [sel])
  | .setup t own port settle => some (frameOf 1 t (frameBytes 3 own ++ frameBytes 3 port ++ [settle]))
  | .setupPart1 t c s1 s2 s3 =>
    some (frameOf 2 t (c :: frameBytes 3 s1 ++ frameBytes 3 s2 ++ frameBytes 3 s3))
  | .setupPart2 t s4 c a1 a2 a3 a4 a5 a6 => some (frameOf 3 t (frameBytes 3 s4 ++ [c, a1, a2, a3, a4, a5, a6]))
  | .setupPart3 t a7 a8 a9 a10 a11 a12 stale td tr hour =>
    some (frameOf 4 t [a7, a8, a9, a10, a11, a12, stale, td, tr, hour])
  | .setupPart4 t d1 d2 d3 d4 rec latch retry beacon hold =>
    some (frameOf 5 t [d1, d2, d3, d4, rec, latch, retry, beacon, hold])
  | .setupPart5 t receipt p m d w => some (frameOf 6 t (frameBytes 2 receipt ++ [p, m, d, w]))
  | .time t y mo d h mi s => some (frameOf 7 t (frameBytes 2 y ++ [mo, d, h, mi, s]))
  | .position t lat lon h mi => some (frameOf 8 t (signedBytes lat ++ signedBytes lon ++ [h, mi]))
  | .submit t dest len => some (frameOf 9 t (frameBytes 3 dest ++ frameBytes 2 len))
  | .text t syms => some (frameOf 10 t syms)
  | .withdraw t ct => some (frameOf 11 t [ct])
  | .readStatus t => some (frameOf 12 t [1])
  | .readNeighbours t => some (frameOf 12 t [2])
  | .readCases t => some (frameOf 12 t [3])
  | .readForecast t area => some (frameOf 12 t (4 :: frameBytes 2 area))
  | .readWarnings t => some (frameOf 12 t [5])
  | .readTally t => some (frameOf 12 t [6])
  | .readQuota t => some (frameOf 12 t [7])
  | .readHaul t n => some (frameOf 12 t (8 :: frameBytes 2 n))
  | .readTransfers t => some (frameOf 12 t [9])
  | .distress t nature persons => some (frameOf 13 t [nature, persons])
  | .cancel t => some (frameOf 14 t [])
  | .ackCase t st => some (frameOf 15 t (frameBytes 3 st))
  | .closeCase t st => some (frameOf 16 t (frameBytes 3 st))
  | .flush t => some (frameOf 17 t [])
  | .recover t => some (frameOf 18 t [])
  | .loopTest t => some (frameOf 19 t [])
  | .reportNow t => some (frameOf 20 t [])
  | .haulOpen t => some (frameOf 21 t [])
  | .haulClose t n => some (frameOf 22 t (frameBytes 2 n))
  | .catchLine t n l1 l2 l3 disp weight =>
    some (frameOf 23 t (frameBytes 2 n ++ [l1, l2, l3, disp] ++ frameBytes 3 weight))
  | .haulDiscard t n => some (frameOf 24 t (frameBytes 2 n))
  | .haulCommit t n => some (frameOf 25 t (frameBytes 2 n))
  | .restart t => some (frameOf 26 t [])
  | .hardReset | .resetnAsserted | .cselAssert | .cselRelease => none
  | .rawCarrierChange _ | .carrierDebounce | .syncAFound _ | .characterReceived _ _ => none
  | .gapEnd _ | .backoffSlot _ | .settleEnd | .burstEnd | .keytimeLimit | .ackLimit => none
  | .blindTimer | .channelBlocked | .protectionCheck _ _ _ | .recoveryTime _ | .quietTimer => none
  | .loopStart | .loopResult _ | .staleTime _ | .neighbourRemoval _ | .avoidMarkExpiry _ => none
  | .beaconDue | .relayWaitExpiry _ _ _ | .ackTimeout | .refusalWaitEnd _ | .lifetimeEnd _ => none
  | .inactivityExpiry _ _ | .recentPairExpiry _ _ | .repeatDue | .cancelDue | .caseExpiry _ => none
  | .holdTimerExpiry | .collectionDiscard _ | .forecastExpiry _ _ | .warningExpiry _ _ => none
  | .reportHour | .receiptDeadline | .submitVoidTimer => none

end Sys2Proof
end

