-- ==== Sys2Proof/Config.lean ====
section
/-! DEFINITION. The free values: constants without a body, so that nothing can be proved of their values. -/

namespace Sys2Proof.Config

/-- Random draw number `n` (00, Random draws). It is brought into the range of its rule by `Device.draw`. -/
opaque draw : Nat → Nat

/-- Which of several events due at one instant the part takes first on an empty queue (R22, R26, R64 and
others leave the order open). -/
opaque pick : Nat → Nat

/-- The cause that HOLD STARTED carries when the end of the part's own distress-class burst brings the
hold into force, which R127's five causes do not name. -/
opaque ownBurstHoldCause : Nat → Nat

end Sys2Proof.Config
end

