-- ==== Sys2Proof/Machine/State.lean ====
section
/-! DEFINITION. The machine's state as plain data, block by block as 00 (Blocks) lists them, and its reset. -/

namespace Sys2Proof.Machine

/-! ## Stops -/

/-- The part has no condition under which it stops: the spec answers a frame it will not carry out with a
disposition (R189) and a transmitter fault with a monitor state (R40). So there is no fault. -/
inductive Fault
deriving DecidableEq, Repr

/-- Why a command has no meaning in this model. -/
inductive Refusal
  /-- Raised by an arm of `exec` for a row that has no meaning yet; safe. No arm raises it. -/
  | notModelled (mnemonic : String)
deriving DecidableEq, Repr

/-! ## Bursts and items (01, 02) -/

/-- The burst kinds (R5). -/
inductive BurstKind
  | data | ack | beacon | forecast | warning | distress | distressAck | distressRelay | cancel | test
deriving DecidableEq, Repr

/-- The six states of the receive assembly record (R11). -/
inductive RxState | closed | hunting | syncing | linked | broadcast | skipping
deriving DecidableEq, Repr

/-- The Modem's receive modes (R2). -/
inductive ModemMode | idle | listening | hunting | locked | looped
deriving DecidableEq, Repr

/-- The receive assembly record (R11 to R15). -/
structure Rx where
  st : RxState
  /-- in SYNCING: IDLE has been taken and a third character is awaited -/
  third : Bool
  /-- when the character being received ends -/
  nextChar : Time
  /-- characters taken: the position reached in linked framing, twice the pair in broadcast framing -/
  count : Nat
  /-- first copies awaiting their repeats, oldest first (R13) -/
  firsts : List (Pattern × Nat)
  /-- the symbols taken, position 2 first; an erased body position as 63 -/
  syms : List Nat
  /-- sum of the qualities taken, positions 0 on (R15) -/
  qsum : Nat
  /-- run of consecutive erased positions (R14) -/
  run : Nat
  erasures : Nat
  /-- a check or END position was erased (R14) -/
  bad : Bool
deriving DecidableEq, Repr

/-- The received burst record (R16). -/
structure Burst where
  kind : BurstKind
  linked : Bool
  source : Station
  dest : Station
  seq : Nat
  len : Nat
  body : List Nat
  erasures : Nat
  pass : Bool
  score : Nat
  endTime : Time
deriving DecidableEq, Repr

/-- The transmit record (R8): the character ranks in sending order. -/
structure Tx where
  chars : List Nat
  /-- when the settle time ends -/
  startAt : Time
  /-- ms from the first character to the end of the last -/
  duration : Nat
  /-- the settle time has ended and the characters pass to the Modem -/
  passing : Bool
deriving DecidableEq, Repr

/-- The receive counts (R17). -/
structure RxCounts where
  taken : Nat
  headerDiscards : Nat
  damaged : Nat
  abandoned : Nat
deriving DecidableEq, Repr

/-- The record that placed an item with the Controller (R23). -/
inductive Owner
  | slot (i : Nat)
  | answer
  | beacon
  | own
  | caseAck (station alert : Nat)
  | caseRelay (station alert : Nat)
  | warning (issuer issue : Nat)
deriving DecidableEq, Repr

/-- An item placed with the Controller (R23). -/
structure Item where
  kind : BurstKind
  dest : Station
  seq : Nat
  body : List Nat
  owner : Owner
  /-- the ready time -/
  ready : Time
  /-- CW, for DATA -/
  cw : Nat
  /-- end time of the answered DATA burst, for ACK -/
  ackEnd : Time
  /-- in which order the Controller took the offers -/
  order : Nat
  /-- start of the blind timer of an own item (R34) -/
  blindFrom : Time
  /-- the blind timer has reached 30 s (R34) -/
  overdue : Bool
deriving DecidableEq, Repr

/-- A class's contender (R22, R23). -/
structure Contender where
  item : Item
  counter : Nat
  /-- the later of becoming contender and becoming eligible -/
  since : Time
  /-- start of the slot in progress; none before the gap's end, and when slots do not count -/
  slotBase : Option Time
  eligible : Bool
deriving DecidableEq, Repr

structure ClassQueue where
  waiting : List Item
  contender : Option Contender
deriving DecidableEq, Repr

/-- The channel state (R19). -/
inductive Channel | clear | busy | own
deriving DecidableEq, Repr

structure OnAir where
  item : Item
  keyedAt : Time
  /-- protection checks made in this keying (R39) -/
  checks : Nat
deriving DecidableEq, Repr

/-- R38. -/
structure AccessCounts where
  keyings : Nat
  aborts : Nat
  preemptions : Nat
  acksDropped : Nat
  blindSends : Nat
deriving DecidableEq, Repr

/-- The Channel Access Controller (02). -/
structure Access where
  onAir : Option OnAir
  chan : Channel
  clearSince : Option Time
  raw : Bool
  debounced : Bool
  filterFrom : Time
  answer : ClassQueue
  distress : ClassQueue
  priority : ClassQueue
  routine : ClassQueue
  nextOffer : Nat
  /-- the key-time count as it stopped -/
  keyTime : Nat
  notClearSince : Option Time
  blocked : Bool
  lastBlocked : Nat
  counts : AccessCounts
deriving DecidableEq, Repr

/-- Why a burst on air was cut (R30). -/
inductive AbortReason | trip | keytime | preempted | restart
deriving DecidableEq, Repr

/-! ## Transmitter protection (03) -/

inductive MonState | normal | alert | tripped | latched
deriving DecidableEq, Repr

structure Monitor where
  st : MonState
  run : Nat
  /-- when the recovery timer runs out (R44) -/
  recoverAt : Option Time
  /-- while the owed mark stands: the state before the first unreported change (R47) -/
  owedFrom : Option MonState
  /-- recovered by its timer during the keying on air: sampled again from the next keying (R44) -/
  resting : Bool
deriving DecidableEq, Repr

/-- Causes of a PROTECTION report (R47). -/
inductive ProtCause
  | activeSample | inactiveSample | runComplete | latchLimit | keyTimeLimit | keyDropped | recoveryTime
  | recover | owed
deriving DecidableEq, Repr

structure Protection where
  tune : Monitor
  reflect : Monitor
  supply : Monitor
  keytime : Monitor
  trips : Nat
  quietEnd : Option Time
deriving DecidableEq, Repr

structure Pins where
  tuneF : Bool
  refl : Bool
  supLo : Bool
deriving DecidableEq, Repr

inductive LoopState | idle | waiting | looping
deriving DecidableEq, Repr

/-- R50. -/
inductive LoopOutcome | pass | fail | abandoned
deriving DecidableEq, Repr

structure LoopKept where
  outcome : LoopOutcome
  mutilated : Nat
  check : Bool
  tag : Nat
deriving DecidableEq, Repr

structure LoopTest where
  st : LoopState
  /-- the tag of the latest LOOP TEST taken; none since a hard reset (R48) -/
  tag : Option Nat
  endAt : Time
  kept : Option LoopKept
deriving DecidableEq, Repr

/-! ## Page Store (04) -/

inductive Holder | forecast | inbound | outbound | warning | report
deriving DecidableEq, Repr

structure Grant where
  id : Nat
  holder : Holder
  pages : List Nat
deriving DecidableEq, Repr

structure PerHolder where
  forecast : Nat
  inbound : Nat
  outbound : Nat
  warning : Nat
  report : Nat
deriving DecidableEq, Repr

structure Store where
  cells : List Host.Cell
  grants : List Grant
  nextId : Nat
  refusals : PerHolder
deriving DecidableEq, Repr

/-! ## Neighbour Table and Relay Wait List (05) -/

inductive StationKind | vessel | port | source | unknown
deriving DecidableEq, Repr

/-- Beacon facts (R60, R66). -/
structure Facts where
  willing : Bool
  pos : Option (Int × Int)
  /-- port id and port quality P -/
  port : Option (Nat × Nat)
deriving DecidableEq, Repr

structure Neigh where
  station : Station
  kind : StationKind
  q : Nat
  lastHeard : Time
  heard : Nat
  facts : Option Facts
  avoidUntil : Option Time
  fresh : Bool
  /-- the removal time passed while the entry was pinned (R64) -/
  removalWaits : Bool
deriving DecidableEq, Repr

/-- R76. -/
structure NeighCounts where
  notEntered : Nat
  factsRejected : Nat
  beaconsSent : Nat
  beaconsSkipped : Nat
  waitRefusals : Nat
deriving DecidableEq, Repr

structure NeighTable where
  entries : List Neigh
  beaconDue : Option Time
  counts : NeighCounts
deriving DecidableEq, Repr

/-- R74: `station` and `number` are the distressed station and alert, or the issuer and issue. -/
structure Wait where
  kind : WaitKind
  station : Nat
  number : Nat
  expiry : Time
  held : Bool
deriving DecidableEq, Repr

/-! ## Transfer Engine (06) -/

inductive SlotState
  | free | reserved | awaitingRoute | ready | awaitingAck | refusalWait | held | outcomeOwed
deriving DecidableEq, Repr

inductive Origin | console | catchReport | relay
deriving DecidableEq, Repr

inductive MsgClass | text | catchReport | receipt | quota
deriving DecidableEq, Repr

/-- R92. -/
inductive Outcome | delivered | failed | expired | withdrawn | flushed | void
deriving DecidableEq, Repr

/-- An outbound transfer slot (R79). -/
structure Slot where
  st : SlotState
  origin : Origin
  tag : Nat
  num : Nat
  cls : MsgClass
  dest : Station
  orig : Station
  hop : Option Station
  /-- the last next hop held, 0 for none (R92) -/
  lastHop : Station
  grant : Option Nat
  len : Nat
  idx : Nat
  cnt : Nat
  retries : Nat
  cw : Nat
  refusals : Nat
  restarts : Nat
  lifetimeEnd : Time
  readySince : Time
  onAir : Bool
  heldFrom : SlotState
  heldRefusal : Nat
  /-- when the ACK timeout falls, in AWAITING ACK (R85) -/
  ackDue : Option Time
  /-- the timeout has fallen and waits for a reception's end (R85) -/
  ackWaiting : Bool
  refusalEnd : Option Time
  /-- withdrawal or lifetime end taken as pending (R91) -/
  pendingEnd : Option Outcome
  /-- in OUTCOME OWED: the outcome (R92) -/
  outcome : Option Outcome
deriving DecidableEq, Repr

/-- A time remaining that the hold pauses (R99, R100, R181). -/
inductive Countdown
  | running (endAt : Time)
  | paused (left : Nat)
deriving DecidableEq, Repr

/-- An inbound reassembly entry (R93). -/
structure Reasm where
  source : Station
  num : Nat
  cls : MsgClass
  dest : Station
  orig : Station
  cnt : Nat
  next : Nat
  grant : Nat
  len : Nat
  lastActivity : Time
  timer : Countdown
  relaySlot : Option Nat
  /-- HAND-OVER WAIT, else COLLECTING -/
  waiting : Bool
  /-- when the message was complete (R98) -/
  doneAt : Time
deriving DecidableEq, Repr

/-- R99. -/
structure Recent where
  source : Station
  num : Nat
  timer : Countdown
deriving DecidableEq, Repr

/-- R106. -/
structure XferCounts where
  dataSent : Nat
  ackTimeouts : Nat
  gotAccepted : Nat
  gotFull : Nat
  gotNoRelay : Nat
  gotUnknown : Nat
  strayAcks : Nat
  gaveAccepted : Nat
  gaveFull : Nat
  gaveNoRelay : Nat
  gaveUnknown : Nat
  heldData : Nat
  malformed : Nat
  inactivity : Nat
  relaysLost : Nat
  delivered : Nat
  failed : Nat
  expired : Nat
  withdrawn : Nat
  flushed : Nat
deriving DecidableEq, Repr

structure Transfers where
  /-- the 8 slots, slot 0 first -/
  slots : List Slot
  reasms : List Reasm
  /-- in the order entered -/
  recents : List Recent
  nextNum : Nat
  counts : XferCounts
deriving DecidableEq, Repr

/-! ## Distress Unit (07) -/

inductive OwnState | idle | alerting | acknowledged | cancelling
deriving DecidableEq, Repr

/-- The own alert record (R107). -/
structure OwnAlert where
  st : OwnState
  num : Nat
  nature : Nat
  persons : Option Nat
  repeatDue : Option Time
  cancelDue : Option Time
  cancelCount : Nat
  ackedBy : Option Station
  /-- an immediate repeat was ordered while the own DISTRESS burst was on air (R109) -/
  repeatAsked : Bool
deriving DecidableEq, Repr

inductive CaseState | unacked | acked | closed
deriving DecidableEq, Repr

inductive CloseReason | cancelled | expired | host | replaced
deriving DecidableEq, Repr

inductive RelayState | none | waiting | offered | relayed | suppressed
deriving DecidableEq, Repr

inductive OwnAckState | none | offered | sent
deriving DecidableEq, Repr

inductive AckedBy | station (s : Station) | own
deriving DecidableEq, Repr

/-- A distress case (R114). -/
structure Case where
  station : Station
  alert : Nat
  nature : Nat
  pos : Option (Int × Int)
  posTime : Option (Nat × Nat)
  persons : Option Nat
  firstHeard : Time
  lastHeard : Time
  /-- none for DIRECT -/
  via : Option Station
  readable : Bool
  st : CaseState
  ackedBy : Option AckedBy
  closeReason : Option CloseReason
  relay : RelayState
  ownAck : OwnAckState
deriving DecidableEq, Repr

/-- R130. -/
structure DistressCounts where
  heard : Nat
  unattributed : Nat
  unreadable : Nat
  notRecorded : Nat
  relaysSent : Nat
  acksSent : Nat
deriving DecidableEq, Repr

structure DistressUnit where
  own : OwnAlert
  cases : List Case
  settled : List (Station × Nat)
  /-- when the hold timer runs out (R125) -/
  holdTimer : Option Time
  /-- when the hold came into force (R127) -/
  holdSince : Option Time
  /-- cause number and station of the hold that came into force last, for an owed HOLD STARTED (R127, R129) -/
  holdCause : Nat
  holdStation : Station
  /-- length in whole seconds of the hold that ended last, for an owed HOLD ENDED (R127, R129) -/
  lastHold : Nat
  counts : DistressCounts
deriving DecidableEq, Repr

/-! ## Weather Store (08) -/

/-- A present part of a forecast record (R133). -/
structure PartInfo where
  score : Nat
  erasures : Nat
  pass : Bool
  len : Nat
deriving DecidableEq, Repr

structure Forecast where
  issuer : Station
  area : Nat
  issue : Nat
  cnt : Nat
  parts : List (Option PartInfo)
  headerPart : Nat
  day : Nat
  hour : Nat
  minute : Nat
  validFor : Nat
  issued : Option Int
  validUntil : Option Int
  grant : Nat
  lastPart : Time
  complete : Bool
deriving DecidableEq, Repr

inductive Severity | gale | storm | hurricane
deriving DecidableEq, Repr

/-- R141. -/
structure Warning where
  issuer : Station
  issue : Nat
  severity : Severity
  day : Nat
  hour : Nat
  minute : Nat
  validFor : Nat
  areas : List Nat
  wanted : Bool
  issued : Option Int
  validUntil : Option Int
  grant : Nat
  len : Nat
  score : Nat
  erasures : Nat
  pass : Bool
  firstStored : Time
  relay : RelayState
deriving DecidableEq, Repr

/-- R147. -/
structure WeatherCounts where
  malformed : Nat
  headerErasures : Nat
  foreignIssuer : Nat
  unwantedArea : Nat
  otherIssuer : Nat
  oldIssue : Nat
  inconsistent : Nat
  notBetter : Nat
  superseded : Nat
  evicted : Nat
  discarded : Nat
  droppedForRoom : Nat
  stale : Nat
  completed : Nat
  expired : Nat
  stored : Nat
  notStored : Nat
  relaysSent : Nat
  lostReports : Nat
deriving DecidableEq, Repr

/-- The last COMPLETE record freed in an area (R146). -/
structure LastFreed where
  area : Nat
  issuer : Station
  issue : Nat
deriving DecidableEq, Repr

structure WeatherStore where
  forecasts : List Forecast
  warnings : List Warning
  lastFreed : List LastFreed
  counts : WeatherCounts
deriving DecidableEq, Repr

/-! ## Catch Log (09) -/

/-- Three letters, 0 to 25 for A to Z. -/
structure Species where
  a : Nat
  b : Nat
  c : Nat
deriving DecidableEq, Repr

structure CatchLine where
  species : Species
  retained : Bool
  weight : Nat
deriving DecidableEq, Repr

inductive HaulState | free | open' | weighing
deriving DecidableEq, Repr

structure Haul where
  st : HaulState
  num : Nat
  startUtc : Nat
  startPos : Int × Int
  endUtc : Option Nat
  endPos : Option (Int × Int)
  estimated : Bool
  longTow : Bool
  startRect : Nat
  endRect : Option Nat
  lines : List CatchLine
deriving DecidableEq, Repr

/-- One of a cell's three amounts, kept three ways (R162). -/
structure Amount where
  total : Nat
  reported : Nat
  inFlight : Nat
deriving DecidableEq, Repr

structure TallyCell where
  rect : Nat
  species : Species
  retained : Amount
  discarded : Amount
  hauls : Amount
  saturated : Bool
  estimated : Bool
  longTow : Bool
deriving DecidableEq, Repr

inductive QuotaState | normal | alert | reached
deriving DecidableEq, Repr

structure QuotaEntry where
  species : Species
  quota : Nat
  consumed : Nat
  st : QuotaState
  /-- while the owed mark stands: the state before the first unreported change; the inner none is NONE (R163) -/
  owedFrom : Option (Option QuotaState)
deriving DecidableEq, Repr

/-- R170. -/
structure LogCounts where
  commits : Nat
  tallyFull : Nat
  linesReplaced : Nat
  discarded : Nat
  lostReports : Nat
deriving DecidableEq, Repr

structure CatchLog where
  /-- records 1 to 4 -/
  hauls : List Haul
  counter : Nat
  /-- in the order of R161 -/
  cells : List TallyCell
  quotas : List QuotaEntry
  counts : LogCounts
deriving DecidableEq, Repr

/-! ## Report Builder (10) -/

inductive ReportState | none | inTransfer | awaitingReceipt
deriving DecidableEq, Repr

inductive ReportReason | scheduled | ordered | quota
deriving DecidableEq, Repr

inductive Ending | accepted | rejected | lost
deriving DecidableEq, Repr

/-- The cause of a LOST ending (R179). -/
inductive LostCause | expired | flushed | deadline | restart
deriving DecidableEq, Repr

/-- R185. -/
structure RepCounts where
  built : Nat
  nil : Nat
  accepted : Nat
  rejected : Nat
  lost : Nat
  slotWaits : Nat
  merged : Nat
  lateReceipts : Nat
  applied : Nat
  partly : Nat
  stale : Nat
  rejectedNotices : Nat
  lostReports : Nat
deriving DecidableEq, Repr

structure ReportBuilder where
  st : ReportState
  num : Option Nat
  kind : Option ReportReason
  buildUtc : Option Nat
  lineCount : Nat
  grant : Option Nat
  deadline : Option Countdown
  early : Option Ending
  pending : Option ReportReason
  lastEnding : Option (Nat × Ending)
  counter : Nat
  lastNotice : Option Nat
  hourDue : Option Time
  counts : RepCounts
deriving DecidableEq, Repr

/-! ## Console Link (11, 12) -/

/-- Dispositions in the order of their codes (R206). -/
inductive Disposition
  | taken | notSet | alreadySet | badParam | busy | tableFull | poolFull | queueFull | noFix | timeUnset
  | oneOpen | haulFull | linesFull | noLines | tallyFull | range | noHold | noCase | state | unknownKind
deriving DecidableEq, Repr

/-- Report kinds (R206); an answer carries its READ selector. -/
inductive ReportKind
  | started | configured | channelBlocked | channelCleared | protection | loopResult | transferOutcome
  | delivery | ownAlertState | caseUpdate | caseClosed | distressHeard | holdStarted | holdEnded
  | forecastReady | forecastUpdated | forecastExpired | warning | haulOpened | haulCommitted | quotaState
  | catchReportState | lateReceipt | noticeRejected | noticeStale | noticeApplied | noticePartial
  | answer (selector : Nat)
deriving DecidableEq, Repr

/-- One field of an entry's content (R207): a number in so many bytes, or a text. -/
inductive Datum
  | num (width value : Nat)
  | text (symbols : List Nat)
deriving DecidableEq, Repr

inductive EntryBody
  | report (data : List Datum)
  | delivery (id : Nat)
deriving DecidableEq, Repr

structure Entry where
  kind : ReportKind
  tag : Nat
  body : EntryBody
  /-- frames gone up (R192) -/
  sent : Nat
deriving DecidableEq, Repr

/-- A record that holds an owed mark (R193). -/
inductive OwedRef
  | setup
  | blocked
  | monitor (m : MonitorId)
  | loop
  | slot (i : Nat)
  | delivery (id : Nat)
  | ownAlert
  | caseOf (station : Station)
  | hold
  | forecast (area : Nat)
  | warning (issuer issue : Nat)
  | quota (species : Species)
  | report
deriving DecidableEq, Repr

structure Lane where
  entries : List Entry
  owed : List OwedRef
deriving DecidableEq, Repr

inductive LaneName | distress | general
deriving DecidableEq, Repr

/-- The up frame settled for an exchange (R188): its 12 bytes, and the lane its report frame is from. -/
structure UpFrame where
  bytes : List Nat
  lane : Option LaneName
deriving DecidableEq, Repr

/-- The exchange state: none; in progress; complete with CSEL still asserted (R187). -/
inductive Exchange
  | idle
  | running (up : UpFrame)
  | finished
deriving DecidableEq, Repr

/-- Setup state (R196). -/
inductive SetupState
  | idle
  | collecting (next : Nat)
  | done
deriving DecidableEq, Repr

/-- The values a setup sequence carries, as carried (R197). -/
structure SetupRaw where
  own : Nat
  port : Nat
  settle : Nat
  sourceCount : Nat
  sources : List Nat
  areaCount : Nat
  areas : List Nat
  stale : Nat
  tDirect : Nat
  tRelay : Nat
  hour : Nat
  dTune : Nat
  dReflect : Nat
  dSupply : Nat
  dKeytime : Nat
  recovery : Nat
  latch : Nat
  retry : Nat
  beacon : Nat
  hold : Nat
  receipt : Nat
  position : Nat
  message : Nat
  distress : Nat
  warning : Nat
deriving DecidableEq, Repr

/-- The configuration in force (00, Configurable parameters), in the units of its table. -/
structure Setup where
  own : Station
  port : Station
  sources : List Station
  areas : List Nat
  settleMs : Nat
  dTune : Nat
  dReflect : Nat
  dSupply : Nat
  dKeytime : Nat
  recovery : Nat
  latch : Nat
  stale : Nat
  tDirect : Nat
  tRelay : Nat
  beacon : Nat
  position : Bool
  retry : Nat
  message : Bool
  distress : Bool
  warning : Bool
  hold : Nat
  reportHour : Option Nat
  receipt : Nat
deriving DecidableEq, Repr

/-- Ship's time (R198): the value set, in seconds from 1 January 2000, and when it was set. -/
structure Utc where
  setAt : Time
  value : Nat
deriving DecidableEq, Repr

/-- The fix (R199). -/
structure Fix where
  lat : Int
  lon : Int
  hour : Nat
  minute : Nat
  takenAt : Time
deriving DecidableEq, Repr

/-- The open submit (11, Text submission). -/
structure Submit where
  tag : Nat
  dest : Station
  len : Nat
  received : Nat
  grant : Nat
  slot : Nat
  voidAt : Time
deriving DecidableEq, Repr

/-- A delivery record (R194). -/
structure Delivery where
  id : Nat
  source : Station
  orig : Station
  cls : MsgClass
  num : Nat
  len : Nat
  grant : Nat
deriving DecidableEq, Repr

/-- R204. -/
structure ConsoleCounts where
  complete : Nat
  void : Nat
  refused : Nat
  lostReports : Nat
deriving DecidableEq, Repr

structure Console where
  setup : SetupState
  held : SetupRaw
  marks : List Nat
  exchange : Exchange
  reoffer : Option UpFrame
  echoTag : Nat
  echoDisp : Disposition
  distress : Lane
  general : Lane
  deliveries : List Delivery
  nextDelivery : Nat
  utc : Option Utc
  fix : Option Fix
  submit : Option Submit
  counts : ConsoleCounts
deriving DecidableEq, Repr

/-! ## The part and the machine -/

/-- The part: its thirteen blocks, its timebase and its input levels. -/
structure Device where
  now : Time
  resetLow : Bool
  /-- index of the next random draw: the model's own -/
  draws : Nat
  pins : Pins
  config : Setup
  rx : Rx
  tx : Option Tx
  rxCounts : RxCounts
  access : Access
  prot : Protection
  loop : LoopTest
  store : Store
  neigh : NeighTable
  waits : List Wait
  xfer : Transfers
  distress : DistressUnit
  weather : WeatherStore
  log : CatchLog
  rep : ReportBuilder
  console : Console
deriving DecidableEq, Repr

/-- The machine: the part and the commands that wait, first in, first out. -/
structure State where
  pending : List Instr
  dev : Device
deriving DecidableEq, Repr

/-! ## Values after a hard reset -/

/-- A receive record with nothing taken, in the given state. -/
def Rx.blank (st : RxState) : Rx :=
  { st := st, third := false, nextChar := 0, count := 0, firsts := [], syms := [], qsum := 0, run := 0,
    erasures := 0, bad := false }

def ClassQueue.empty : ClassQueue := { waiting := [], contender := none }

/-- R37. -/
def Access.reset : Access :=
  { onAir := none, chan := .clear, clearSince := none, raw := false, debounced := false, filterFrom := 0,
    answer := .empty, distress := .empty, priority := .empty, routine := .empty, nextOffer := 0,
    keyTime := 0, notClearSince := none, blocked := false, lastBlocked := 0,
    counts := { keyings := 0, aborts := 0, preemptions := 0, acksDropped := 0, blindSends := 0 } }

def Monitor.reset : Monitor := { st := .normal, run := 0, recoverAt := none, owedFrom := none, resting := false }

/-- R48. -/
def Protection.reset : Protection :=
  { tune := .reset, reflect := .reset, supply := .reset, keytime := .reset, trips := 0, quietEnd := none }

def LoopTest.reset : LoopTest := { st := .idle, tag := none, endAt := 0, kept := none }

/-- R58. -/
def Store.reset : Store :=
  { cells := [], grants := [], nextId := 0,
    refusals := { forecast := 0, inbound := 0, outbound := 0, warning := 0, report := 0 } }

/-- R60, R76. -/
def NeighTable.reset : NeighTable :=
  { entries := [], beaconDue := none,
    counts := { notEntered := 0, factsRejected := 0, beaconsSent := 0, beaconsSkipped := 0,
                waitRefusals := 0 } }

/-- A FREE slot, which holds none of the fields of R79. -/
def Slot.free : Slot :=
  { st := .free, origin := .console, tag := 0, num := 0, cls := .text, dest := 0, orig := 0, hop := none,
    lastHop := 0, grant := none, len := 0, idx := 0, cnt := 0, retries := 0, cw := 8, refusals := 0,
    restarts := 0, lifetimeEnd := 0, readySince := 0, onAir := false, heldFrom := .ready, heldRefusal := 0,
    ackDue := none, ackWaiting := false, refusalEnd := none, pendingEnd := none, outcome := none }

def XferCounts.zero : XferCounts :=
  { dataSent := 0, ackTimeouts := 0, gotAccepted := 0, gotFull := 0, gotNoRelay := 0, gotUnknown := 0,
    strayAcks := 0, gaveAccepted := 0, gaveFull := 0, gaveNoRelay := 0, gaveUnknown := 0, heldData := 0,
    malformed := 0, inactivity := 0, relaysLost := 0, delivered := 0, failed := 0, expired := 0,
    withdrawn := 0, flushed := 0 }

/-- R105. -/
def Transfers.reset : Transfers :=
  { slots := List.replicate 8 Slot.free, reasms := [], recents := [], nextNum := 0, counts := .zero }

/-- R107. Acknowledged-by, which R107 does not list, is absent (entry 5). -/
def OwnAlert.reset : OwnAlert :=
  { st := .idle, num := 0, nature := 0, persons := none, repeatDue := none, cancelDue := none,
    cancelCount := 0, ackedBy := none, repeatAsked := false }

/-- R107, R114, R125, R130. -/
def DistressUnit.reset : DistressUnit :=
  { own := .reset, cases := [], settled := [], holdTimer := none, holdSince := none,
    holdCause := 0, holdStation := 0, lastHold := 0,
    counts := { heard := 0, unattributed := 0, unreadable := 0, notRecorded := 0, relaysSent := 0,
                acksSent := 0 } }

/-- R148. -/
def WeatherStore.reset : WeatherStore :=
  { forecasts := [], warnings := [], lastFreed := [],
    counts := { malformed := 0, headerErasures := 0, foreignIssuer := 0, unwantedArea := 0,
                otherIssuer := 0, oldIssue := 0, inconsistent := 0, notBetter := 0, superseded := 0,
                evicted := 0, discarded := 0, droppedForRoom := 0, stale := 0, completed := 0,
                expired := 0, stored := 0, notStored := 0, relaysSent := 0, lostReports := 0 } }

/-- A FREE haul record (R149). -/
def Haul.free : Haul :=
  { st := .free, num := 0, startUtc := 0, startPos := (0, 0), endUtc := none, endPos := none,
    estimated := false, longTow := false, startRect := 0, endRect := none, lines := [] }

/-- R171. -/
def CatchLog.reset : CatchLog :=
  { hauls := List.replicate 4 Haul.free, counter := 0, cells := [], quotas := [],
    counts := { commits := 0, tallyFull := 0, linesReplaced := 0, discarded := 0, lostReports := 0 } }

/-- R173, with the line count 0 in NONE (DESIGN CHOICE, entry 80). -/
def ReportBuilder.reset : ReportBuilder :=
  { st := .none, num := none, kind := none, buildUtc := none, lineCount := 0, grant := none,
    deadline := none, early := none, pending := none, lastEnding := none, counter := 0,
    lastNotice := none, hourDue := none,
    counts := { built := 0, nil := 0, accepted := 0, rejected := 0, lost := 0, slotWaits := 0, merged := 0,
                lateReceipts := 0, applied := 0, partly := 0, stale := 0, rejectedNotices := 0,
                lostReports := 0 } }

def SetupRaw.zero : SetupRaw :=
  { own := 0, port := 0, settle := 0, sourceCount := 0, sources := [], areaCount := 0, areas := [],
    stale := 0, tDirect := 0, tRelay := 0, hour := 0, dTune := 0, dReflect := 0, dSupply := 0,
    dKeytime := 0, recovery := 0, latch := 0, retry := 0, beacon := 0, hold := 0, receipt := 0,
    position := 0, message := 0, distress := 0, warning := 0 }

def Setup.zero : Setup :=
  { own := 0, port := 0, sources := [], areas := [], settleMs := 0, dTune := 0, dReflect := 0,
    dSupply := 0, dKeytime := 0, recovery := 0, latch := 0, stale := 0, tDirect := 0, tRelay := 0,
    beacon := 0, position := false, retry := 0, message := false, distress := false, warning := false,
    hold := 0, reportHour := none, receipt := 0 }

/-- The STARTED entry (R203): its cause (0 HARD, 1 RESTART) and the configuration state (0 UNCONFIGURED,
1 READY). -/
def startedEntry (cause state : Nat) : Entry :=
  { kind := .started, tag := 0, body := .report [.num 1 cause, .num 1 state], sent := 0 }

/-- R203, with the lanes still empty. -/
def Console.reset : Console :=
  { setup := .idle, held := .zero, marks := [], exchange := .idle, reoffer := none, echoTag := 0,
    echoDisp := .taken, distress := ⟨[], []⟩, general := ⟨[], []⟩, deliveries := [], nextDelivery := 0,
    utc := none, fix := none, submit := none,
    counts := { complete := 0, void := 0, refused := 0, lostReports := 0 } }

/-- The part held in hard reset, RESETN low: every block at its hard-reset values. -/
def Device.inReset (draws : Nat) : Device :=
  { now := 0, resetLow := true, draws := draws, pins := ⟨false, false, false⟩, config := .zero,
    rx := .blank .closed, tx := none,
    rxCounts := { taken := 0, headerDiscards := 0, damaged := 0, abandoned := 0 },
    access := .reset, prot := .reset, loop := .reset, store := .reset, neigh := .reset, waits := [],
    xfer := .reset, distress := .reset, weather := .reset, log := .reset, rep := .reset,
    console := .reset }

/-- The part as RESETN is released or power comes up (R203): STARTED is queued. -/
def Device.afterReset (draws : Nat) : Device :=
  { Device.inReset draws with
    resetLow := false,
    console := { Console.reset with general := ⟨[startedEntry 0 0], []⟩ } }

/-- The machine right after a hard reset. -/
def State.reset : State := { pending := [], dev := Device.afterReset 0 }

end Sys2Proof.Machine
end

