-- ==== Sys2Proof/Machine/Ops.lean ====
section
/-! DEFINITION. The named operations below every block: saturating counts, numbers as symbols, block updates,
random draws, and the Page Store (04). -/

namespace Sys2Proof.Machine

/-! ## Numbers -/

/-- One more, saturating at 65,535 (R17, R38, R76 and the other count tables). -/
def bump (n : Nat) : Nat := if n < 65535 then n + 1 else 65535

/-- At most 65,535. -/
def sat16 (n : Nat) : Nat := min n 65535

/-- A number as `w` symbols, most significant first, six bits each (R4). -/
def toSyms : Nat → Nat → List Nat
  | 0, _ => []
  | w + 1, v => (v / 64 ^ w) % 64 :: toSyms w v

/-- The number that symbols carry, most significant first (R4). -/
def fromSyms (l : List Nat) : Nat := l.foldl (fun a s => a * 64 + s) 0

/-- The number carried by `w` symbols from place `i`. -/
def symsAt (l : List Nat) (i w : Nat) : Nat := fromSyms ((l.drop i).take w)

/-- The symbol at place `i`, 0 beyond the end. -/
def symAt (l : List Nat) (i : Nat) : Nat := l.getD i 0

/-- Whether issue or notice number `n` is newer than `m` (R132). -/
def newer (n m : Nat) : Bool :=
  let d := (n + 4096 - m % 4096) % 4096
  decide (1 ≤ d) && decide (d ≤ 2047)

/-- Insertion into a list ordered by `key`, after the equal ones. -/
def insertBy {α : Type} (key : α → Nat) (x : α) : List α → List α
  | [] => [x]
  | y :: r => if key x < key y then x :: y :: r else y :: insertBy key x r

/-- The list in rising order of `key`; equal keys keep their order. -/
def sortBy {α : Type} (key : α → Nat) (l : List α) : List α :=
  l.foldl (fun acc x => insertBy key x acc) []

/-- The first element with the smallest key. -/
def minBy? {α : Type} (key : α → Nat) : List α → Option α
  | [] => none
  | x :: r =>
    match minBy? key r with
    | none => some x
    | some y => if key y < key x then some y else some x

/-- The first element with the largest key; a later equal one wins. -/
def maxLastBy? {α : Type} (key : α → Nat) : List α → Option α
  | [] => none
  | x :: r =>
    match maxLastBy? key r with
    | none => some x
    | some y => if key x ≤ key y then some y else some x

/-- `l` with `f` applied to the elements that satisfy `p`. -/
def mapIf {α : Type} (p : α → Bool) (f : α → α) (l : List α) : List α :=
  l.map fun x => if p x then f x else x

/-- `l` with the element at place `i` changed by `f`. -/
def modAt {α : Type} (l : List α) (i : Nat) (f : α → α) : List α :=
  match l[i]? with
  | none => l
  | some x => l.set i (f x)

/-! ## Block updates -/

namespace Device

def onAccess (d : Device) (f : Access → Access) : Device := { d with access := f d.access }
def onProt (d : Device) (f : Protection → Protection) : Device := { d with prot := f d.prot }
def onLoop (d : Device) (f : LoopTest → LoopTest) : Device := { d with loop := f d.loop }
def onRx (d : Device) (f : Rx → Rx) : Device := { d with rx := f d.rx }
def onRxCounts (d : Device) (f : RxCounts → RxCounts) : Device := { d with rxCounts := f d.rxCounts }
def onStore (d : Device) (f : Store → Store) : Device := { d with store := f d.store }
def onNeigh (d : Device) (f : NeighTable → NeighTable) : Device := { d with neigh := f d.neigh }
def onXfer (d : Device) (f : Transfers → Transfers) : Device := { d with xfer := f d.xfer }
def onDistress (d : Device) (f : DistressUnit → DistressUnit) : Device := { d with distress := f d.distress }
def onWeather (d : Device) (f : WeatherStore → WeatherStore) : Device := { d with weather := f d.weather }
def onLog (d : Device) (f : CatchLog → CatchLog) : Device := { d with log := f d.log }
def onRep (d : Device) (f : ReportBuilder → ReportBuilder) : Device := { d with rep := f d.rep }
def onConsole (d : Device) (f : Console → Console) : Device := { d with console := f d.console }

/-- The timebase has reached `t` (entry 1: a timed row takes place at its own moment). -/
def reach (d : Device) (t : Time) : Device := { d with now := max d.now t }

/-- Random draw from `lo` to `hi` inclusive (00, Random draws): a free value within its bounds. -/
def draw (d : Device) (lo hi : Nat) : Nat × Device :=
  (lo + Config.draw d.draws % (hi - lo + 1), { d with draws := d.draws + 1 })

end Device

/-! ## Page Store -/

/-- What a symbol place reads when nothing was written since its grant was made (R52, R53). -/
def erasureMark : BitVec 8 := 63#8

/-- The symbol at an address (60 × page + offset). -/
def Store.getCell : List Host.Cell → Nat → BitVec 8
  | [], _ => erasureMark
  | (x, c) :: r, a => if a = x then c else Store.getCell r a

/-- A cell put in front of cells with higher addresses; a cell that reads as unlisted is not listed. -/
def Store.consCell (a : Nat) (b : BitVec 8) (r : List Host.Cell) : List Host.Cell :=
  if b = erasureMark then r else (a, b) :: r

/-- Writes one symbol, keeping the cells in canonical form. -/
def Store.putCell : List Host.Cell → Nat → BitVec 8 → List Host.Cell
  | [], a, b => Store.consCell a b []
  | (x, c) :: r, a, b =>
    if a < x then Store.consCell a b ((x, c) :: r)
    else if a = x then Store.consCell a b r
    else (x, c) :: Store.putCell r a b

/-- Fills a page with 63 (R52). -/
def Store.clearPage (cells : List Host.Cell) (page : Nat) : List Host.Cell :=
  cells.filter fun c => c.1 / 60 != page

/-- The canonical form of the page contents: addresses strictly rising, no cell that reads as unlisted. -/
def Store.wf : List Host.Cell → Bool
  | [] => true
  | [c] => c.2 != erasureMark
  | c :: c' :: r => c.2 != erasureMark && decide (c.1 < c'.1) && Store.wf (c' :: r)

/-- First page and size of a holder's pool (R51). -/
def Holder.pool : Holder → Nat × Nat
  | .forecast | .inbound | .outbound => (0, 212)
  | .warning => (212, 24)
  | .report => (236, 20)

/-- The holder's cap (R51). -/
def Holder.cap : Holder → Nat
  | .forecast => 96
  | .inbound => 64
  | .outbound => 128
  | .warning => 24
  | .report => 20

def PerHolder.bump (c : PerHolder) : Holder → PerHolder
  | .forecast => { c with forecast := Machine.bump c.forecast }
  | .inbound => { c with inbound := Machine.bump c.inbound }
  | .outbound => { c with outbound := Machine.bump c.outbound }
  | .warning => { c with warning := Machine.bump c.warning }
  | .report => { c with report := Machine.bump c.report }

/-- Pages a holder holds: the sum of its grants' page counts (R51). -/
def Store.held (s : Store) (h : Holder) : Nat :=
  ((s.grants.filter fun g => g.holder == h).map fun g => g.pages.length).sum

/-- The pages in use, over all grants. -/
def Store.used (s : Store) : List Nat := s.grants.flatMap fun g => g.pages

/-- The free pages of a pool, in ascending order. -/
def Store.freePages (s : Store) (pool : Nat × Nat) : List Nat :=
  (List.range' pool.1 pool.2).filter fun p => !(s.used.contains p)

/-- A request's outcome (R52). -/
inductive Reserved | granted (id : Nat) | refusedCap | refusedPool
deriving DecidableEq, Repr

/-- A reservation of `size` symbols for a holder (R52). -/
def Store.reserve (s : Store) (h : Holder) (size : Nat) : Reserved × Store :=
  let n := (size + 59) / 60
  let free := s.freePages h.pool
  if n = 0 then
    (.granted s.nextId, { s with grants := s.grants ++ [⟨s.nextId, h, []⟩], nextId := s.nextId + 1 })
  else if h.cap < s.held h + n then (.refusedCap, { s with refusals := s.refusals.bump h })
  else if free.length < n then (.refusedPool, { s with refusals := s.refusals.bump h })
  else
    (.granted s.nextId,
     { s with
        cells := (free.take n).foldl Store.clearPage s.cells,
        grants := s.grants ++ [⟨s.nextId, h, free.take n⟩],
        nextId := s.nextId + 1 })

/-- A release of a grant as a whole (R54); the contents stay. -/
def Store.release (s : Store) (id : Nat) : Store :=
  { s with grants := s.grants.filter fun g => g.id != id }

def Store.grant? (s : Store) (id : Nat) : Option Grant := s.grants.find? fun g => g.id == id

/-- A hand-over of a grant to a record of holder `taker` (R55): whether it is taken, and the store after it.
Only INBOUND to INBOUND, and INBOUND to OUTBOUND under its cap, are taken; a refusal is counted for the
holder the grant was to pass to (R56). -/
def Store.handOver (s : Store) (id : Nat) (taker : Holder) : Bool × Store :=
  match s.grant? id with
  | none => (false, s)
  | some g =>
    if g.holder = .inbound ∧ taker = .inbound then (true, s)
    else if g.holder = .inbound ∧ taker = .outbound ∧
        s.held .outbound + g.pages.length ≤ Holder.outbound.cap then
      (true, { s with grants := mapIf (fun x => x.id == id) (fun x => { x with holder := .outbound }) s.grants })
    else (false, { s with refusals := s.refusals.bump taker })

/-- The address of a grant's symbol `i` (R53); none beyond the grant. -/
def Grant.addr (g : Grant) (i : Nat) : Option Nat :=
  match g.pages[i / 60]? with
  | none => none
  | some p => some (60 * p + i % 60)

/-- Writes symbol `i` of a grant; beyond the grant it changes nothing (R53). -/
def Store.writeSym (s : Store) (id i v : Nat) : Store :=
  match s.grant? id with
  | none => s
  | some g =>
    match g.addr i with
    | none => s
    | some a => { s with cells := Store.putCell s.cells a (BitVec.ofNat 8 v) }

/-- Reads symbol `i` of a grant; beyond the grant it is 63 (R53). -/
def Store.readSym (s : Store) (id i : Nat) : Nat :=
  match s.grant? id with
  | none => 63
  | some g =>
    match g.addr i with
    | none => 63
    | some a => (Store.getCell s.cells a).toNat

/-- Writes symbols of a grant from `i` on (R53). -/
def Store.writeSyms (s : Store) (id : Nat) : Nat → List Nat → Store
  | _, [] => s
  | i, v :: r => Store.writeSyms (s.writeSym id i v) id (i + 1) r

/-- Reads `n` symbols of a grant from `i` on (R53). -/
def Store.readSyms (s : Store) (id i n : Nat) : List Nat :=
  (List.range n).map fun k => s.readSym id (i + k)

namespace Device

/-- A reservation from the Page Store (R52). -/
def reserve (d : Device) (h : Holder) (size : Nat) : Reserved × Device :=
  let (r, s) := d.store.reserve h size
  (r, { d with store := s })

def writeText (d : Device) (id i : Nat) (syms : List Nat) : Device :=
  d.onStore fun s => s.writeSyms id i syms

end Device

end Sys2Proof.Machine
end

