-- ==== Sys2Proof/Machine/Operands.lean ====
section
/-! DEFINITION. Characters, bursts and bodies on air (01): ranks, kinds, the check, the sent sequences, and
the body layouts of R6. -/

namespace Sys2Proof.Machine

/-! ## Characters -/

/-- The number of mark units of an eight-unit pattern. -/
def marks (n : Nat) : Nat :=
  n % 2 + n / 2 % 2 + n / 4 % 2 + n / 8 % 2 + n / 16 % 2 + n / 32 % 2 + n / 64 % 2 + n / 128 % 2

/-- The rank of a four-mark pattern; none for a mutilated one (R1). -/
def rankOf (p : Pattern) : Option Nat :=
  if marks p.toNat = 4 then some ((List.range p.toNat).filter fun n => marks n == 4).length else none

/-- The pattern of a rank (R1). -/
def patternOf (rank : Nat) : Pattern :=
  BitVec.ofNat 8 (((List.range 256).filter fun n => marks n == 4).getD rank 0)

def syncARank : Nat := 64
def syncBRank : Nat := 65
def idleRank : Nat := 66
def endRank : Nat := 67

/-- The data symbol of a pattern; none when it counts as mutilated for a symbol position (R1). -/
def symbolOf (p : Pattern) : Option Nat :=
  match rankOf p with
  | some r => if r < 64 then some r else none
  | none => none

/-- Whether a pattern is the control character of the given rank. -/
def isControl (p : Pattern) (rank : Nat) : Bool := rankOf p == some rank

/-! ## Kinds -/

namespace BurstKind

/-- The kind value (R5). -/
def value : BurstKind → Nat
  | .data => 1 | .ack => 2 | .beacon => 3 | .forecast => 4 | .warning => 5 | .distress => 6
  | .distressAck => 7 | .distressRelay => 8 | .cancel => 9 | .test => 10

/-- The kind of a value; none for 0 and 11 to 63 (R5). -/
def ofValue : Nat → Option BurstKind
  | 1 => some .data | 2 => some .ack | 3 => some .beacon | 4 => some .forecast | 5 => some .warning
  | 6 => some .distress | 7 => some .distressAck | 8 => some .distressRelay | 9 => some .cancel
  | 10 => some .test | _ => none

/-- Linked mode, else broadcast (R5). -/
def isLinked : BurstKind → Bool
  | .data | .ack | .test => true
  | _ => false

/-- The access class of a kind (R21). -/
def cls : BurstKind → AccessClass
  | .ack => .answer
  | .distress | .cancel | .distressAck | .distressRelay => .distress
  | .warning => .priority
  | _ => .routine

/-- An own DISTRESS or own CANCEL (R25, R32). -/
def isOwn : BurstKind → Bool
  | .distress | .cancel => true
  | _ => false

end BurstKind

/-- Whether a received kind value is a header fault in the given framing (R5). -/
def kindFault (linked : Bool) (v : Nat) : Bool :=
  match BurstKind.ofValue v with
  | none => true
  | some .test => true
  | some k => k.isLinked != linked

/-- Whether a received source is a header fault (R4). -/
def sourceFault (own s : Station) : Bool := s == 0 || s == allStations || s == own

/-- Whether a received destination is a header fault (R4): examined in linked framing only. -/
def destFault (linked : Bool) (s : Station) : Bool := linked && (s == 0 || s == allStations)

/-- Whether a received body length is a header fault (R4). -/
def lengthFault (n : Nat) : Bool := decide (120 < n)

/-! ## The check (R7) -/

/-- Feeds one bit. -/
def checkBit (v bit : Nat) : Nat :=
  let shifted := v * 2 % 65536
  if v / 32768 % 2 = bit then shifted else Nat.xor shifted 4129

/-- Feeds one symbol, six bits, most significant first. -/
def checkSym (v s : Nat) : Nat :=
  [32, 16, 8, 4, 2, 1].foldl (fun a w => checkBit a (s / w % 2)) v

/-- The check over the symbols of positions 2 to 11 + L. -/
def checkOf (syms : List Nat) : Nat := syms.foldl checkSym 65535

/-! ## Sending -/

/-- The symbols of positions 2 to 11 + L (R4). -/
def coveredSyms (kind : BurstKind) (source dest : Station) (seq : Nat) (body : List Nat) : List Nat :=
  kind.value :: toSyms 3 source ++ toSyms 3 dest ++ [seq] ++ toSyms 2 body.length ++ body

/-- The N character ranks of a burst in position order (R4). -/
def burstRanks (kind : BurstKind) (source dest : Station) (seq : Nat) (body : List Nat) : List Nat :=
  let cov := coveredSyms kind source dest seq body
  [syncARank, syncBRank] ++ cov ++ toSyms 3 (checkOf cov) ++ [endRank]

/-- The interleaved sequence of a broadcast burst: N + 6 pairs of first copy and repeat (R9). -/
def interleave (ranks : List Nat) : List Nat :=
  (List.range (ranks.length + 6)).flatMap fun k =>
    [ranks.getD k idleRank, if k < 6 then idleRank else ranks.getD (k - 6) idleRank]

/-- The whole character sequence the transmit record holds (R8). -/
def charSequence (kind : BurstKind) (source dest : Station) (seq : Nat) (body : List Nat) : List Nat :=
  let ranks := burstRanks kind source dest seq body
  if kind.isLinked then ranks else interleave ranks

/-- Duration in ms from the first character to the end of the last (R10). -/
def burstDuration (kind : BurstKind) (bodyLen : Nat) : Nat :=
  if kind.isLinked then (16 + bodyLen) * 80 else (22 + bodyLen) * 160

/-- The loop pattern: 0, 63, 1, 62 and so on to 15, 48 (R18). -/
def loopBody : List Nat := (List.range 16).flatMap fun j => [j, 63 - j]

/-- The 48 character ranks of the TEST burst (R18). -/
def loopRanks (own : Station) : List Nat := burstRanks .test own own 0 loopBody

/-! ## Bodies (R6) -/

/-- Optional position: presence symbol, then latitude and longitude in 4 symbols each. -/
def positionSyms : Option (Int × Int) → List Nat
  | none => [0]
  | some (lat, lon) => 1 :: toSyms 4 (lat + 540000).toNat ++ toSyms 4 (lon + 1080000).toNat

/-- The facts a DISTRESS body carries. -/
structure DistressFacts where
  nature : Nat
  pos : Option (Int × Int)
  posTime : Option (Nat × Nat)
  persons : Option Nat
deriving DecidableEq, Repr

def distressBody (f : DistressFacts) : List Nat :=
  f.nature :: positionSyms f.pos
    ++ (match f.posTime with | none => [0] | some (h, m) => [1, h, m])
    ++ (match f.persons with | none => [0] | some p => [1, p])

/-- Reads an optional position at the head of a body: the position, and the rest; none when ill formed. -/
def readPosition : List Nat → Option (Option (Int × Int) × List Nat)
  | 0 :: r => some (none, r)
  | 1 :: r =>
    let lat := symsAt r 0 4
    let lon := symsAt r 4 4
    if 8 ≤ r.length ∧ lat ≤ 1080000 ∧ lon ≤ 2159999 then
      some (some ((lat : Int) - 540000, (lon : Int) - 1080000), r.drop 8)
    else none
  | _ => none

/-- Reads an optional position time. -/
def readPosTime : List Nat → Option (Option (Nat × Nat) × List Nat)
  | 0 :: r => some (none, r)
  | 1 :: h :: m :: r => if h ≤ 23 ∧ m ≤ 59 then some (some (h, m), r) else none
  | _ => none

/-- Reads optional persons; nothing may follow. -/
def readPersons : List Nat → Option (Option Nat)
  | [0] => some none
  | [1, p] => if p ≤ 62 then some (some p) else none
  | _ => none

/-- A DISTRESS body, when it is well formed (R115). -/
def readDistressBody : List Nat → Option DistressFacts
  | [] => none
  | nature :: r =>
    if 9 < nature then none
    else match readPosition r with
      | none => none
      | some (pos, r) => match readPosTime r with
        | none => none
        | some (time, r) => match readPersons r with
          | none => none
          | some persons => some ⟨nature, pos, time, persons⟩

/-- The facts of a BEACON body with its station kind (0 VESSEL, 1 PORT), when they meet R66. -/
def readBeaconBody : List Nat → Option (Nat × Facts)
  | kind :: willing :: r =>
    if 1 < kind ∨ 1 < willing then none
    else match readPosition r with
      | none => none
      | some (pos, r) => match r with
        | [0] => some (kind, ⟨willing == 1, pos, none⟩)
        | [1, a, b, c, q1, q0] =>
          let id := fromSyms [a, b, c]
          let q := fromSyms [q1, q0]
          if 1 ≤ id ∧ id < allStations ∧ q ≤ 255 then some (kind, ⟨willing == 1, pos, some (id, q)⟩)
          else none
        | _ => none
  | _ => none

/-- The BEACON body the part sends: station kind VESSEL (R72). -/
def beaconBody (f : Facts) : List Nat :=
  [0, if f.willing then 1 else 0] ++ positionSyms f.pos
    ++ (match f.port with | none => [0] | some (id, q) => 1 :: toSyms 3 id ++ toSyms 2 q)

namespace MsgClass

/-- The class symbol of a DATA body (R6). -/
def value : MsgClass → Nat
  | .text => 1 | .catchReport => 2 | .receipt => 3 | .quota => 4

def ofValue : Nat → Option MsgClass
  | 1 => some .text | 2 => some .catchReport | 3 => some .receipt | 4 => some .quota | _ => none

end MsgClass

/-- A DATA body's header: fragment index, count, class, final destination, original source (R6). -/
structure DataHeader where
  idx : Nat
  cnt : Nat
  cls : MsgClass
  dest : Station
  orig : Station
deriving DecidableEq, Repr

def dataBody (h : DataHeader) (text : List Nat) : List Nat :=
  [h.idx, h.cnt, h.cls.value] ++ toSyms 3 h.dest ++ toSyms 3 h.orig ++ text

/-- The header and text of a DATA body that is not malformed (R94). -/
def readDataBody (body : List Nat) : Option (DataHeader × List Nat) :=
  let idx := symAt body 0
  let cnt := symAt body 1
  let dest := symsAt body 3 3
  let orig := symsAt body 6 3
  match MsgClass.ofValue (symAt body 2) with
  | none => none
  | some cls =>
    if body.length < 10 ∨ cnt < 1 ∨ 16 < cnt ∨ cnt ≤ idx ∨ dest = 0 ∨ dest = allStations ∨ orig = 0
        ∨ orig = allStations ∨ (idx + 1 ≠ cnt ∧ body.length ≠ 120) then none
    else some (⟨idx, cnt, cls, dest, orig⟩, body.drop 9)

/-- The answers of an ACK (R6). -/
inductive AckAnswer | accepted | full | noRelay | unknown
deriving DecidableEq, Repr

namespace AckAnswer

def value : AckAnswer → Nat
  | .accepted => 0 | .full => 1 | .noRelay => 2 | .unknown => 3

def ofValue : Nat → Option AckAnswer
  | 0 => some .accepted | 1 => some .full | 2 => some .noRelay | 3 => some .unknown | _ => none

end AckAnswer

namespace Severity

def value : Severity → Nat
  | .gale => 1 | .storm => 2 | .hurricane => 3

def ofValue : Nat → Option Severity
  | 1 => some .gale | 2 => some .storm | 3 => some .hurricane | _ => none

end Severity

end Sys2Proof.Machine
end

