-- ==== Sys2Proof/Machine/Flags.lean ====
section
/-! DEFINITION. The conditions and lines the spec derives from the state: the hold, the inhibit, the channel's
BUSY condition, KEY and ATTN, the Modem's mode, ship's time and its calendar, and pins. -/

namespace Sys2Proof.Machine

/-! ## Calendar of ship's time (R198) -/

def leapYear (y : Nat) : Bool := y % 4 == 0

/-- Days of a month (R198: February has 29 days in years divisible by 4). -/
def monthDays (y m : Nat) : Nat :=
  if m = 2 then (if leapYear y then 29 else 28)
  else if m = 4 ∨ m = 6 ∨ m = 9 ∨ m = 11 then 30 else 31

/-- Days from 1 January of the year to the first of the month. -/
def daysBeforeMonth (y m : Nat) : Nat := ((List.range (m - 1)).map fun k => monthDays y (k + 1)).sum

/-- Days from 1 January 1996 to the given date. Dates are counted from 1996, a leap year before 2000, so
that the months just before 2000 (R139's search) are natural numbers too. -/
def dayNumber (y m d : Nat) : Nat :=
  (y - 1996) * 365 + (y - 1996 + 3) / 4 + daysBeforeMonth y m + (d - 1)

/-- Seconds from 1 January 1996 to 1 January 2000. -/
def epochShift : Nat := 1461 * 86400

/-- Seconds from 1 January 1996 to a moment. -/
def secondsOf (y m d h mi s : Nat) : Nat := dayNumber y m d * 86400 + h * 3600 + mi * 60 + s

/-- The month and day of a day of the year, walking from month `m`. -/
def monthOfDay (y : Nat) : List Nat → Nat → Nat × Nat
  | [], day => (12, day + 1)
  | m :: r, day => if day < monthDays y m then (m, day + 1) else monthOfDay y r (day - monthDays y m)

/-- Year, month and day of a day number counted from 1 January 1996. -/
def dateOf (n : Nat) : Nat × Nat × Nat :=
  let r := n % 1461
  let k := if r < 366 then 0 else 1 + (r - 366) / 365
  let y := 1996 + n / 1461 * 4 + k
  let day := if r < 366 then r else (r - 366) % 365
  let md := monthOfDay y [1, 2, 3, 4, 5, 6, 7, 8, 9, 10, 11, 12] day
  (y, md.1, md.2)

/-- R139's search, back month by month: the latest moment not after `now` with the given day, hour and
minute; a month without the day is passed over. All in seconds from 1 January 1996. -/
def searchIssued (now day hour minute : Nat) : Nat → Nat → Nat → Option Nat
  | 0, _, _ => none
  | fuel + 1, y, m =>
    let t := secondsOf y m day hour minute 0
    if day ≤ monthDays y m ∧ t ≤ now then some t
    else if m = 1 then searchIssued now day hour minute fuel (y - 1) 12
    else searchIssued now day hour minute fuel y (m - 1)

/-- The issued UTC of R139, in seconds from 1 January 2000 (negative before it). No two months in a row
lack a day, so four months suffice. -/
def issuedUtc (utc day hour minute : Nat) : Option Int :=
  let now := utc + epochShift
  let date := dateOf (now / 86400)
  match searchIssued now day hour minute 4 date.1 date.2.1 with
  | none => none
  | some t => some ((t : Int) - (epochShift : Int))

/-! ## Fixed times and gaps -/

/-- The gap of a class in ms (R21). -/
def gapOf : AccessClass → Nat
  | .answer => 200
  | .distress => 400
  | .priority => 600
  | .routine => 1000

/-- The largest backoff count of a kind; CW for DATA (R21). -/
def backoffMax (kind : BurstKind) (cw : Nat) : Nat :=
  match kind with
  | .ack => 0
  | .distress | .cancel | .distressAck | .distressRelay => 3
  | .warning => 7
  | .data => cw - 1
  | _ => 15

namespace Countdown

/-- What is left at `now`, in ms. -/
def left (c : Countdown) (now : Time) : Nat :=
  match c with
  | .running t => t - now
  | .paused l => l

/-- Paused at `now` (R99, R100, R181). -/
def pause (c : Countdown) (now : Time) : Countdown := .paused (c.left now)

/-- Resumed at `now`. -/
def resume (c : Countdown) (now : Time) : Countdown :=
  match c with
  | .running t => .running t
  | .paused l => .running (now + l)

end Countdown

namespace Device

/-- The setup is DONE and the part READY; otherwise UNCONFIGURED (R196). -/
def ready (d : Device) : Bool := d.console.setup == .done

/-- The channel hold is in force (R125). -/
def holdInForce (d : Device) : Bool := d.distress.holdTimer.isSome || d.distress.own.st != .idle

def inhibits (m : Monitor) : Bool := m.st == .tripped || m.st == .latched

/-- The transmit inhibit (R42). -/
def inhibit (d : Device) : Bool :=
  inhibits d.prot.tune || inhibits d.prot.reflect || inhibits d.prot.supply || inhibits d.prot.keytime

/-- A reception is in progress (R11). -/
def reception (d : Device) : Bool :=
  d.rx.st == .syncing || d.rx.st == .linked || d.rx.st == .broadcast

/-- A BUSY condition holds (R19); it makes the channel BUSY while the key is down. -/
def busyCondition (d : Device) : Bool := d.access.debounced || d.reception || d.loop.st == .looping

/-- The KEY line (R27). -/
def keyLine (d : Device) : Bool := d.access.onAir.isSome

/-- ATTN asserted (R190). -/
def attn (d : Device) : Bool :=
  (!d.console.distress.entries.isEmpty || !d.console.general.entries.isEmpty)
    && d.console.exchange == .idle

/-- The Modem's receive mode (R2, R11). -/
def modemMode (d : Device) : ModemMode :=
  match d.rx.st with
  | .closed => if d.loop.st = .looping then .looped else .idle
  | .hunting => .hunting
  | .skipping => .listening
  | _ => .locked

/-- The key-time count in ms (R27). -/
def keyTime (d : Device) : Nat :=
  match d.access.onAir with
  | none => d.access.keyTime
  | some a => d.now - a.keyedAt

/-- Ship's time now, in seconds from 1 January 2000; none while UNSET (R198). -/
def utcNow (d : Device) : Option Nat :=
  match d.console.utc with
  | none => none
  | some u => some (u.value + (d.now - u.setAt) / 1000)

/-- When UTC counting on reaches the value `v` (R198). -/
def whenUtc (u : Utc) (v : Int) : Time := u.setAt + (v - (u.value : Int)).toNat * 1000

/-- The current UTC has reached the moment `v` (R140, R143). -/
def utcReached (d : Device) (v : Option Int) : Bool :=
  match d.utcNow, v with
  | some now, some v => decide (v ≤ (now : Int))
  | _, _ => false

/-- The fix is stale: its age has reached 10 min (R199). -/
def fixStale (d : Device) (f : Fix) : Bool := decide (600000 ≤ d.now - f.takenAt)

/-- Some case is not CLOSED. -/
def caseOpen (d : Device) : Bool := d.distress.cases.any fun c => c.st != .closed

/-- An entry's station is pinned (R63). -/
def pinned (d : Device) (st : Station) : Bool :=
  (d.xfer.slots.any fun s => (s.st == .ready || s.st == .awaitingAck) && s.hop == some st)
    || d.xfer.reasms.any fun e => e.source == st

/-- The kind of the burst on air, when one is. -/
def onAirKind (d : Device) : Option BurstKind := d.access.onAir.map fun a => a.item.kind

/-- Whether the item may key as far as the hold and the inhibit go (R25). -/
def eligibleItem (d : Device) (it : Item) : Bool :=
  (!d.holdInForce || it.kind.cls == .distress) && (!d.inhibit || it.kind.isOwn)

end Device

end Sys2Proof.Machine
end

