-- ==== Sys2Proof/Machine/Layout.lean ====
section
/-! DEFINITION. What goes up the console link (12): codes, field encodings and frames (R206, R207). -/

namespace Sys2Proof.Machine

/-! ## Codes (R206; enumerations from 0 in the order their rules list them, R207) -/

namespace Disposition

def code : Disposition → Nat
  | .taken => 0 | .notSet => 1 | .alreadySet => 2 | .badParam => 3 | .busy => 4 | .tableFull => 5
  | .poolFull => 6 | .queueFull => 7 | .noFix => 8 | .timeUnset => 9 | .oneOpen => 10 | .haulFull => 11
  | .linesFull => 12 | .noLines => 13 | .tallyFull => 14 | .range => 15 | .noHold => 16 | .noCase => 17
  | .state => 18 | .unknownKind => 19

end Disposition

namespace ReportKind

def code : ReportKind → Nat
  | .started => 1 | .configured => 2 | .channelBlocked => 3 | .channelCleared => 4 | .protection => 5
  | .loopResult => 6 | .transferOutcome => 7 | .delivery => 8 | .ownAlertState => 9 | .caseUpdate => 10
  | .caseClosed => 11 | .distressHeard => 12 | .holdStarted => 13 | .holdEnded => 14
  | .forecastReady => 15 | .forecastUpdated => 16 | .forecastExpired => 17 | .warning => 18
  | .haulOpened => 19 | .haulCommitted => 20 | .quotaState => 21 | .catchReportState => 22
  | .lateReceipt => 23 | .noticeRejected => 24 | .noticeStale => 25 | .noticeApplied => 26
  | .noticePartial => 27 | .answer sel => 64 + sel

/-- The lane a report belongs to (R191). -/
def lane : ReportKind → LaneName
  | .distressHeard | .caseUpdate | .caseClosed | .holdStarted | .holdEnded | .ownAlertState => .distress
  | _ => .general

end ReportKind

/-- A flag or switch. -/
def flag (b : Bool) : Nat := if b then 1 else 0

def monitorCode : MonitorId → Nat
  | .tune => 0 | .reflect => 1 | .supply => 2 | .keytime => 3

def MonState.code : MonState → Nat
  | .normal => 0 | .alert => 1 | .tripped => 2 | .latched => 3

def ProtCause.code : ProtCause → Nat
  | .activeSample => 0 | .inactiveSample => 1 | .runComplete => 2 | .latchLimit => 3 | .keyTimeLimit => 4
  | .keyDropped => 5 | .recoveryTime => 6 | .recover => 7 | .owed => 8

def LoopOutcome.code : LoopOutcome → Nat
  | .pass => 0 | .fail => 1 | .abandoned => 2

/-- Check outcome: PASS 0, FAIL 1. -/
def checkCode (pass : Bool) : Nat := if pass then 0 else 1

def Channel.code : Channel → Nat
  | .clear => 0 | .busy => 1 | .own => 2

def LoopState.code : LoopState → Nat
  | .idle => 0 | .waiting => 1 | .looping => 2

def StationKind.code : StationKind → Nat
  | .vessel => 0 | .port => 1 | .source => 2 | .unknown => 3

def SlotState.code : SlotState → Nat
  | .free => 0 | .reserved => 1 | .awaitingRoute => 2 | .ready => 3 | .awaitingAck => 4 | .refusalWait => 5
  | .held => 6 | .outcomeOwed => 7

def Origin.code : Origin → Nat
  | .console => 0 | .catchReport => 1 | .relay => 2

def MsgClass.code : MsgClass → Nat
  | .text => 0 | .catchReport => 1 | .receipt => 2 | .quota => 3

def Outcome.code : Outcome → Nat
  | .delivered => 0 | .failed => 1 | .expired => 2 | .withdrawn => 3 | .flushed => 4 | .void => 5

def OwnState.code : OwnState → Nat
  | .idle => 0 | .alerting => 1 | .acknowledged => 2 | .cancelling => 3

def CaseState.code : CaseState → Nat
  | .unacked => 0 | .acked => 1 | .closed => 2

def CloseReason.code : CloseReason → Nat
  | .cancelled => 0 | .expired => 1 | .host => 2 | .replaced => 3

def RelayState.code : RelayState → Nat
  | .none => 0 | .waiting => 1 | .offered => 2 | .relayed => 3 | .suppressed => 4

def OwnAckState.code : OwnAckState → Nat
  | .none => 0 | .offered => 1 | .sent => 2

def Severity.code : Severity → Nat
  | .gale => 0 | .storm => 1 | .hurricane => 2

def HaulState.code : HaulState → Nat
  | .free => 0 | .open' => 1 | .weighing => 2

def QuotaState.code : QuotaState → Nat
  | .normal => 0 | .alert => 1 | .reached => 2

def ReportState.code : ReportState → Nat
  | .none => 0 | .inTransfer => 1 | .awaitingReceipt => 2

def ReportReason.code : ReportReason → Nat
  | .scheduled => 0 | .ordered => 1 | .quota => 2

def Ending.code : Ending → Nat
  | .accepted => 0 | .rejected => 1 | .lost => 2

def LostCause.code : LostCause → Nat
  | .expired => 0 | .flushed => 1 | .deadline => 2 | .restart => 3

/-! ## Fields (R207) -/

/-- An absent optional field: every byte 255. -/
def absentOf (w : Nat) : Datum := .num w (256 ^ w - 1)

/-- An optional field of `w` bytes. -/
def optNum (w : Nat) : Option Nat → Datum
  | none => absentOf w
  | some v => .num w v

/-- A latitude or longitude: 3 bytes, two's complement. -/
def coordinate (v : Int) : Datum := .num 3 (v % 16777216).toNat

/-- An optional position: an absent latitude or longitude is 128, 0, 0. -/
def positionData : Option (Int × Int) → List Datum
  | none => [.num 3 8388608, .num 3 8388608]
  | some (lat, lon) => [coordinate lat, coordinate lon]

/-- An optional hour and minute. -/
def hourMinuteData : Option (Nat × Nat) → List Datum
  | none => [absentOf 1, absentOf 1]
  | some (h, m) => [.num 1 h, .num 1 m]

/-- A UTC: 4 bytes, 4,294,967,295 for UNSET or absent; a moment before 2000 modulo 4,294,967,296 (entry 70). -/
def utcData : Option Int → Datum
  | none => absentOf 4
  | some v => .num 4 (v % 4294967296).toNat

/-- A time on the timebase, modulo 4,294,967,296. -/
def timeData (t : Time) : Datum := .num 4 (t % 4294967296)

/-- A count, saturating at two bytes. -/
def count16 (n : Nat) : Datum := .num 2 (sat16 n)

def speciesData (s : Species) : List Datum := [.num 1 s.a, .num 1 s.b, .num 1 s.c]

/-- A list or table: a count byte, then the items. -/
def tableData (rows : List (List Datum)) : List Datum := .num 1 rows.length :: rows.flatten

/-! ## Frames (R206, R207) -/

/-- The `w` bytes of a number, most significant first. -/
def toBytes : Nat → Nat → List Nat
  | 0, _ => []
  | w + 1, v => (v / 256 ^ w) % 256 :: toBytes w v

/-- Bytes cut into 7-byte pieces, the last filled with 0. -/
def cut7 : Nat → List Nat → List (List Nat)
  | 0, _ => []
  | _, [] => []
  | fuel + 1, b :: r =>
    let piece := (b :: r).take 7
    (piece ++ List.replicate (7 - piece.length) 0) :: cut7 fuel ((b :: r).drop 7)

/-- A text: 8 symbols per frame in 6 bytes, filled with 63, then a 0 byte. An empty text takes no frame (entry 78). -/
def textFrames : Nat → List Nat → List (List Nat)
  | 0, _ => []
  | _, [] => []
  | fuel + 1, s :: r =>
    let piece := (s :: r).take 8
    (toBytes 6 (fromSyms (piece ++ List.replicate (8 - piece.length) 63)) ++ [0])
      :: textFrames fuel ((s :: r).drop 8)

/-- Lays a stream of fields out in 7-byte contents; a text begins on a fresh frame, and so does what
follows it, an empty text's too (entry 78). -/
def layOut : List Datum → List Nat → List (List Nat)
  | [], acc => cut7 acc.length acc
  | .num w v :: r, acc => layOut r (acc ++ toBytes w v)
  | .text s :: r, acc => cut7 acc.length acc ++ textFrames s.length s ++ layOut r []

/-- The contents of an entry's frames; an entry has at least one. -/
def contents (data : List Datum) : List (List Nat) :=
  match layOut data [] with
  | [] => [List.replicate 7 0]
  | fs => fs

/-- The fields of a DELIVERY (R207). -/
def deliveryData (s : Store) (r : Delivery) : List Datum :=
  [.num 3 (r.num * 262144 + r.source),
   .num 4 ((r.cls.value * 2048 + r.len) * 262144 + r.orig),
   .text (s.readSyms r.grant 0 r.len)]

namespace Device

/-- The contents of an entry's frames as they stand: a DELIVERY reads its text as it drains (R191). -/
def entryContents (d : Device) (e : Entry) : List (List Nat) :=
  match e.body with
  | .report data => contents data
  | .delivery id =>
    match d.console.deliveries.find? fun r => r.id == id with
    | none => contents []
    | some r => contents (deliveryData d.store r)

/-- Bytes 2 to 11 of the up frame that carries an entry's next frame (R206). -/
def entryFrame (d : Device) (e : Entry) : List Nat :=
  let fs := d.entryContents e
  let last := e.sent + 1 == fs.length
  [e.kind.code + (if last then 128 else 0), e.tag, e.sent % 256] ++ fs.getD e.sent (List.replicate 7 0)

/-- The up frame to settle at CSEL assertion: the echo, and the lane frame that R192 chooses. -/
def settledUpFrame (d : Device) : UpFrame :=
  let echo := [d.console.echoTag, d.console.echoDisp.code]
  match d.console.distress.entries, d.console.general.entries with
  | e :: _, _ => ⟨echo ++ d.entryFrame e, some .distress⟩
  | [], e :: _ => ⟨echo ++ d.entryFrame e, some .general⟩
  | [], [] => ⟨echo ++ List.replicate 10 0, none⟩

end Device

end Sys2Proof.Machine
end

