-- ==== Sys2Proof/Machine/Lanes.lean ====
section
/-! DEFINITION. The report lanes and their owed lists (R191, R193), as producers see them. -/

namespace Sys2Proof.Machine

/-- How many entries a lane holds (R191). -/
def LaneName.capacity : LaneName → Nat
  | .distress => 8
  | .general => 24

namespace Device

def lane (d : Device) : LaneName → Lane
  | .distress => d.console.distress
  | .general => d.console.general

def onLane (d : Device) (n : LaneName) (f : Lane → Lane) : Device :=
  match n with
  | .distress => d.onConsole fun c => { c with distress := f c.distress }
  | .general => d.onConsole fun c => { c with general := f c.general }

/-- The lane has room for one entry. -/
def laneRoom (d : Device) (n : LaneName) : Bool := decide ((d.lane n).entries.length < n.capacity)

/-- The record's owed mark stands in the lane's owed list. -/
def marked (d : Device) (n : LaneName) (r : OwedRef) : Bool := (d.lane n).owed.contains r

/-- Queues an entry last in its lane; a full lane takes none (R191). -/
def queueEntry (d : Device) (n : LaneName) (e : Entry) : Device :=
  if d.laneRoom n then d.onLane n fun l => { l with entries := l.entries ++ [e] } else d

def addMark (d : Device) (n : LaneName) (r : OwedRef) : Device :=
  d.onLane n fun l => { l with owed := l.owed ++ [r] }

def dropMark (d : Device) (n : LaneName) (r : OwedRef) : Device :=
  d.onLane n fun l => { l with owed := l.owed.filter fun x => x != r }

/-- A record's mark passes to another record and keeps its place (R193); when that record already holds a
mark, the one mark stands. -/
def passMark (d : Device) (n : LaneName) (old new : OwedRef) : Device :=
  d.onLane n fun l =>
    if l.owed.contains new then { l with owed := l.owed.filter fun x => x != old }
    else { l with owed := l.owed.map fun x => if x = old then new else x }

/-- A record's report with a tag: none while its mark is set; queued when the lane has room; else the
record takes an owed mark (R193). -/
def reportTagged (d : Device) (kind : ReportKind) (tag : Nat) (r : OwedRef) (data : List Datum) : Device :=
  if d.marked kind.lane r then d
  else if d.laneRoom kind.lane then d.queueEntry kind.lane ⟨kind, tag, .report data, 0⟩
  else d.addMark kind.lane r

/-- A record's report; every report but three kinds carries tag 0 (R188). -/
def report (d : Device) (kind : ReportKind) (r : OwedRef) (data : List Datum) : Device :=
  d.reportTagged kind 0 r data

/-- A report that has no record to mark: whether it was queued, and the device. -/
def reportOrLose (d : Device) (kind : ReportKind) (tag : Nat) (data : List Datum) : Bool × Device :=
  if d.laneRoom kind.lane then (true, d.queueEntry kind.lane ⟨kind, tag, .report data, 0⟩) else (false, d)

end Device

end Sys2Proof.Machine
end

