-- ==== Sys2Proof/Machine/Access.lean ====
section
/-! DEFINITION. Items and contenders of the Channel Access Controller (02): offers, withdrawals, the choice of
contenders, the channel state's changes, and the counting of slots. Keying stands in Keying.lean. -/

namespace Sys2Proof.Machine

namespace Access

def queue (a : Access) : AccessClass → ClassQueue
  | .answer => a.answer
  | .distress => a.distress
  | .priority => a.priority
  | .routine => a.routine

def onQueue (a : Access) (c : AccessClass) (f : ClassQueue → ClassQueue) : Access :=
  match c with
  | .answer => { a with answer := f a.answer }
  | .distress => { a with distress := f a.distress }
  | .priority => { a with priority := f a.priority }
  | .routine => { a with routine := f a.routine }

/-- `f` on every class. -/
def onQueues (a : Access) (f : ClassQueue → ClassQueue) : Access :=
  { a with answer := f a.answer, distress := f a.distress, priority := f a.priority, routine := f a.routine }

end Access

/-- The four classes, highest first (R26). -/
def classOrder : List AccessClass := [.answer, .distress, .priority, .routine]

namespace ClassQueue

/-- The items of a class: waiting ones and the contender's. -/
def items (q : ClassQueue) : List Item :=
  q.waiting ++ (match q.contender with | none => [] | some c => [c.item])

/-- Withdraws every item that satisfies `p`; a withdrawn contender's counter is discarded (R35). -/
def withdraw (q : ClassQueue) (p : Item → Bool) : ClassQueue :=
  { waiting := q.waiting.filter fun it => !p it,
    contender := match q.contender with
      | none => none
      | some c => if p c.item then none else some c }

/-- Changes the items that satisfy `p` in place: place, ready time and counter are kept (R109). -/
def rewrite (q : ClassQueue) (p : Item → Bool) (f : Item → Item) : ClassQueue :=
  { waiting := mapIf p f q.waiting,
    contender := q.contender.map fun c => if p c.item then { c with item := f c.item } else c }

/-- Slots stop: the slot in progress is lost and the counter keeps its value (R22). -/
def freeze (q : ClassQueue) : ClassQueue :=
  { q with contender := q.contender.map fun c => { c with slotBase := none } }

/-- Whether the first item stands before the second in the choice of R23: own items first in the DISTRESS
class, then the older ready time, the lower kind value, the earlier offer. -/
def before (x y : Item) : Bool :=
  if x.kind.isOwn != y.kind.isOwn then x.kind.isOwn
  else if x.ready != y.ready then decide (x.ready < y.ready)
  else if x.kind.value != y.kind.value then decide (x.kind.value < y.kind.value)
  else decide (x.order < y.order)

/-- The waiting item chosen next (R23). -/
def next? : List Item → Option Item
  | [] => none
  | x :: r =>
    match next? r with
    | none => some x
    | some y => if before y x then some y else some x

end ClassQueue

namespace Device

/-- An item with the part's usual fields: destination, ready time now. -/
def newItem (d : Device) (kind : BurstKind) (dest : Station) (seq : Nat) (body : List Nat) (owner : Owner) :
    Item :=
  { kind := kind, dest := dest, seq := seq, body := body, owner := owner, ready := d.now, cw := 0,
    ackEnd := 0, order := 0, blindFrom := d.now, overdue := false }

/-- Takes an offer: the item waits in its class (R23). An own item's blind timer starts (R34). -/
def offer (d : Device) (it : Item) : Device :=
  d.onAccess fun a =>
    { a.onQueue it.kind.cls (fun q =>
        { q with waiting := q.waiting ++ [{ it with order := a.nextOffer }] }) with
      nextOffer := a.nextOffer + 1 }

/-- Withdraws the items of a class that satisfy `p` (R35). -/
def withdraw (d : Device) (c : AccessClass) (p : Item → Bool) : Device :=
  d.onAccess fun a => a.onQueue c fun q => q.withdraw p

/-- Some item of the class, waiting or contender, satisfies `p`. -/
def hasItem (d : Device) (c : AccessClass) (p : Item → Bool) : Bool := (d.access.queue c).items.any p

def bumpAcksDropped (d : Device) : Device :=
  d.onAccess fun a => { a with counts := { a.counts with acksDropped := bump a.counts.acksDropped } }

/-- Offers an ACK: a pending one is dropped for it (R31). -/
def offerAck (d : Device) (dest : Station) (num idx answer : Nat) (endTime : Time) : Device :=
  let pending := d.hasItem .answer fun _ => true
  let d := if pending then (d.withdraw .answer fun _ => true).bumpAcksDropped else d
  d.offer { d.newItem .ack dest num [idx, answer] .answer with ackEnd := endTime }

/-! ## The channel state (R19, R33) -/

/-- CHANNEL CLEARED carries the length of the whole spell in whole seconds (R33). -/
def clearedData (seconds : Nat) : List Datum := [count16 seconds]

/-- The channel becomes CLEAR: a clear spell starts, and a blocked channel's mark is removed and reported. -/
def enterClear (d : Device) : Device :=
  let length := match d.access.notClearSince with
    | none => 0
    | some t => sat16 ((d.now - t) / 1000)
  let blocked := d.access.blocked
  let d := d.onAccess fun a =>
    { a with chan := .clear, clearSince := some d.now, notClearSince := none, blocked := false,
             lastBlocked := if a.blocked then length else a.lastBlocked }
  if blocked then d.report .channelCleared .blocked (clearedData length) else d

/-- The channel leaves CLEAR: the spell ends, the slots in progress are lost, the spell of not being CLEAR
is timed (R19, R22, R33). -/
def leaveClear (d : Device) (ch : Channel) : Device :=
  d.onAccess fun a =>
    { a.onQueues ClassQueue.freeze with
      chan := ch, clearSince := none,
      notClearSince := if a.chan = .clear then some d.now else a.notClearSince }

/-- Brings the channel state into step with the BUSY conditions while the key is down (R19). -/
def settleChannel (d : Device) : Device :=
  match d.access.chan with
  | .own => d
  | .clear => if d.busyCondition then d.leaveClear .busy else d
  | .busy => if d.busyCondition then d else d.enterClear

/-! ## Contenders (R22, R23, R25) -/

/-- Where slots start for a contender that becomes contender or eligible now: at once when the class's gap
has ended in this clear spell, at the gap's end otherwise (R22). -/
def slotStartNow (d : Device) (c : AccessClass) : Option Time :=
  match d.access.clearSince with
  | none => none
  | some t => if t + gapOf c ≤ d.now then some d.now else none

/-- The item becomes its class's contender with a fresh draw (R21, R23). -/
def makeContender (d : Device) (c : AccessClass) (it : Item) : Device :=
  let top := backoffMax it.kind it.cw
  let (n, d) := if top = 0 then (0, d) else d.draw 0 top
  let e := d.eligibleItem it
  d.onAccess fun a => a.onQueue c fun q =>
    { waiting := q.waiting.filter fun x => x.order != it.order,
      contender := some { item := it, counter := n, since := d.now,
                          slotBase := if e then d.slotStartNow c else none, eligible := e } }

/-- Fills an empty contender place, and lets an own DISTRESS or CANCEL item take the place of another
(R23); the displaced item waits again with its ready time. -/
def selectContender (d : Device) (c : AccessClass) : Device :=
  let q := d.access.queue c
  match ClassQueue.next? q.waiting, q.contender with
  | none, _ => d
  | some it, none => d.makeContender c it
  | some it, some cur =>
    if it.kind.isOwn ∧ cur.item.kind.isOwn = false then
      (d.onAccess fun a => a.onQueue c fun q =>
        { waiting := q.waiting ++ [cur.item], contender := none }).makeContender c it
    else d

def selectAll (d : Device) : Device := classOrder.foldl selectContender d

/-- Brings one contender's eligibility into step with the hold and the inhibit (R25). -/
def refreshOne (d : Device) (c : AccessClass) (k : Contender) : Contender :=
  let e := d.eligibleItem k.item
  if e = k.eligible then k
  else if e then { k with eligible := true, since := d.now, slotBase := d.slotStartNow c }
  else { k with eligible := false, slotBase := none }

def refreshEligible (d : Device) : Device :=
  classOrder.foldl (fun d c => d.onAccess fun a => a.onQueue c fun q =>
    { q with contender := q.contender.map (d.refreshOne c) }) d

/-- Counts what the current moment has completed of one contender's gap and slots (R22). -/
def countOne (d : Device) (c : AccessClass) (k : Contender) : Contender :=
  if k.eligible then
    match d.access.clearSince with
    | none => k
    | some t =>
      let base := match k.slotBase with
        | some b => some b
        | none => if t + gapOf c ≤ d.now then some (max (t + gapOf c) k.since) else none
      match base with
      | none => k
      | some b =>
        let n := min k.counter ((d.now - b) / 250)
        { k with counter := k.counter - n, slotBase := some (b + n * 250) }
  else k

/-- Counts what the current moment has completed, for every class, so that contenders due at one instant
are found together (R26). -/
def countSlots (d : Device) : Device :=
  classOrder.foldl (fun d c => d.onAccess fun a => a.onQueue c fun q =>
    { q with contender := q.contender.map (d.countOne c) }) d

/-- The class's contender is due (R22): eligible, its gap ended and its counter 0, on a CLEAR channel. -/
def isDue (d : Device) (c : AccessClass) : Bool :=
  match (d.access.queue c).contender with
  | none => false
  | some k => d.access.chan == .clear && k.eligible && k.slotBase.isSome && k.counter == 0

/-- The DISTRESS contender is overdue, and the channel BUSY (R34). -/
def isBlindDue (d : Device) : Bool :=
  match d.access.distress.contender with
  | none => false
  | some k => d.access.chan == .busy && k.item.kind.isOwn && k.item.overdue

end Device

end Sys2Proof.Machine
end

