-- ==== Sys2Proof/Machine/Neighbours.lean ====
section
/-! DEFINITION. The Neighbour Table and the Relay Wait List (05): entries, ageing, facts, marks, the route
question and relay waits. Functions that raise route events (R69) answer the stations concerned; the Transfer
Engine's use of them stands in Transfer.lean. -/

namespace Sys2Proof.Machine
namespace Device

def neighbour? (d : Device) (st : Station) : Option Neigh := d.neigh.entries.find? fun n => n.station == st

def onNeighbour (d : Device) (st : Station) (f : Neigh → Neigh) : Device :=
  d.onNeigh fun t => { t with entries := mapIf (fun n => n.station == st) f t.entries }

def removeNeighbour (d : Device) (st : Station) : Device :=
  d.onNeigh fun t => { t with entries := t.entries.filter fun n => n.station != st }

def onNeighCounts (d : Device) (f : NeighCounts → NeighCounts) : Device :=
  d.onNeigh fun t => { t with counts := f t.counts }

/-- The kind a new entry takes (R61). -/
def configuredKind (d : Device) (st : Station) : StationKind :=
  if st = d.config.port then .port
  else if d.config.sources.contains st then .source
  else .unknown

/-- The Q update of a taken burst (R61). -/
def blendQuality (q s : Nat) : Nat := (3 * q + s + 2) / 4

/-- The entry R62 gives up for a newcomer: an unpinned STALE one heard longest ago, else an unpinned FRESH
one of the lowest Q; ties by the older last heard and the lower station number. -/
def entryToFree (d : Device) : Option Neigh :=
  let free := sortBy (fun n => n.station) (d.neigh.entries.filter fun n => !d.pinned n.station)
  match minBy? (fun n => n.lastHeard) (free.filter fun n => !n.fresh) with
  | some n => some n
  | none => minBy? (fun n => n.q) (sortBy (fun n => n.lastHeard) (free.filter fun n => n.fresh))

/-- A new entry (R61). -/
def newNeighbour (d : Device) (st : Station) (score : Nat) (endTime : Time) : Neigh :=
  { station := st, kind := d.configuredKind st, q := score, lastHeard := endTime, heard := 1, facts := none,
    avoidUntil := none, fresh := true, removalWaits := false }

/-- The header facts of a taken burst (R61, R62), with the route events raised. -/
def headerFacts (d : Device) (st : Station) (score : Nat) (endTime : Time) : Device × List Station :=
  match d.neighbour? st with
  | some n =>
    (d.onNeighbour st fun n =>
      { n with q := blendQuality n.q score, lastHeard := endTime, heard := bump n.heard, fresh := true,
               removalWaits := false },
     if n.fresh then [] else [st])
  | none =>
    let add (d : Device) : Device :=
      d.onNeigh fun t => { t with entries := t.entries ++ [d.newNeighbour st score endTime] }
    if d.neigh.entries.length < 32 then (add d, [st])
    else match d.entryToFree with
      | none => (d.onNeighCounts fun c => { c with notEntered := bump c.notEntered }, [])
      | some n => (add (d.removeNeighbour n.station), if n.fresh then [n.station, st] else [st])

/-- A FRESH entry whose stale time has come becomes STALE (R64). -/
def goStale (d : Device) (st : Station) : Device × List Station :=
  match d.neighbour? st with
  | none => (d, [])
  | some n => if n.fresh then (d.onNeighbour st fun n => { n with fresh := false }, [st]) else (d, [])

/-- When the stale time and the removal time of an entry fall (R64). -/
def staleAt (d : Device) (n : Neigh) : Time := n.lastHeard + d.config.stale * 60000
def removalAt (n : Neigh) : Time := n.lastHeard + 21600000

/-- The removal time of a STALE entry: it goes at once, or when its last pin goes (R64). -/
def removeAtTime (d : Device) (st : Station) : Device :=
  if d.pinned st then d.onNeighbour st fun n => { n with removalWaits := true } else d.removeNeighbour st

/-- Removes the STALE entries whose removal waited for a pin that has gone (R64), at RESTART too (entry 64). -/
def removeUnpinned (d : Device) : Device :=
  d.onNeigh fun t => { t with entries := t.entries.filter fun n => !(n.removalWaits && !d.pinned n.station) }

/-- Charges an ACK timeout to a next hop (R65). -/
def charge (d : Device) (st : Station) : Device := d.onNeighbour st fun n => { n with q := 3 * n.q / 4 }

/-- Sets an avoid mark (R67). -/
def avoid (d : Device) (st : Station) : Device :=
  d.onNeighbour st fun n => { n with avoidUntil := some (d.now + 1800000) }

/-- An avoid mark that passes is removed and raises a route event (R67, R69). -/
def avoidPassed (d : Device) (st : Station) : Device × List Station :=
  (d.onNeighbour st fun n => { n with avoidUntil := none }, [st])

/-- Clears relay-willing after a NO-RELAY answer (R70). -/
def clearWilling (d : Device) (st : Station) : Device × List Station :=
  match d.neighbour? st with
  | none => (d, [])
  | some n =>
    match n.facts with
    | none => (d, [])
    | some f =>
      if f.willing then (d.onNeighbour st fun n => { n with facts := some { f with willing := false } }, [st])
      else (d, [])

/-- The kind that a BEACON sets on an entry without a configured kind (R61, R66). -/
def beaconKind (d : Device) (n : Neigh) (kind : Nat) : StationKind :=
  match d.configuredKind n.station with
  | .unknown => if kind = 0 then .vessel else .port
  | k => k

/-- A BEACON record's facts (R66). -/
def beaconFacts (d : Device) (b : Burst) : Device × List Station :=
  match d.neighbour? b.source with
  | none => (d, [])
  | some n =>
    match (if b.pass then readBeaconBody b.body else none) with
    | none => (d.onNeighCounts fun c => { c with factsRejected := bump c.factsRejected }, [])
    | some (kind, f) =>
      (d.onNeighbour b.source fun n => { n with facts := some f, kind := d.beaconKind n kind },
       if n.facts = some f then [] else [b.source])

/-- An entry whose avoid-until lies in the future is avoided (R67). -/
def avoided (d : Device) (n : Neigh) : Bool :=
  match n.avoidUntil with
  | none => false
  | some t => decide (d.now < t)

/-- Whether an entry may be named in a route at all: FRESH and not avoided. -/
def usable (d : Device) (n : Neigh) : Bool := n.fresh && !d.avoided n

/-- A candidate's score: the smaller of Q and P; none for an entry that is no candidate (R68). -/
def candidateScore (d : Device) (n : Neigh) : Option Nat :=
  match n.facts with
  | none => none
  | some f =>
    match f.port with
    | none => none
    | some (id, p) =>
      if d.usable n ∧ n.kind = .vessel ∧ f.willing ∧ id = d.config.port then some (min n.q p) else none

/-- The best candidate: the highest score, then the lower station number (R68). -/
def bestCandidate (d : Device) : Option (Station × Nat) :=
  let scored := (sortBy (fun n => n.station) d.neigh.entries).filterMap fun n =>
    (d.candidateScore n).map fun s => (n.station, s)
  minBy? (fun c => 255 - c.2) scored

/-- The route question for a port-bound message (R68): the next hop, or none for NO ROUTE. -/
def route (d : Device) : Option Station :=
  let port := match d.neighbour? d.config.port with
    | none => none
    | some n => if d.usable n then some n.q else none
  let relay := match d.bestCandidate with
    | none => none
    | some (st, s) => if d.config.tRelay ≤ s then some st else none
  match port, relay with
  | some q, r => if d.config.tDirect ≤ q then some d.config.port else r.orElse fun _ => some d.config.port
  | none, r => r

/-! ## Beacons (R71 to R73) -/

/-- The facts of the part's own beacon (R72). -/
def ownFacts (d : Device) : Facts :=
  { willing := d.config.message,
    pos := match d.console.fix with
      | none => none
      | some f => if d.config.position ∧ d.fixStale f = false then some (f.lat, f.lon) else none,
    port := match d.neighbour? d.config.port with
      | none => none
      | some n => some (d.config.port, n.q) }

def skipBeacon (d : Device) : Device := d.onNeighCounts fun c => { c with beaconsSkipped := bump c.beaconsSkipped }

def isBeacon (it : Item) : Bool := it.kind == .beacon

/-- Withdraws the BEACON item that waits or is contender, counted as skipped (R72, R73). -/
def dropBeacon (d : Device) : Device :=
  if d.hasItem .routine isBeacon then (d.withdraw .routine isBeacon).skipBeacon else d

/-- A beacon due time is reached (R71, R72). -/
def beaconFalls (d : Device) (due : Time) : Device :=
  let i := d.config.beacon
  let (k, d) := d.draw 0 (12 * i)
  let d := d.onNeigh fun t => { t with beaconDue := some (due + i * 54000 + k * 1000) }
  if d.holdInForce || d.inhibit then d.skipBeacon
  else
    let d := d.dropBeacon
    d.offer (d.newItem .beacon allStations 0 (beaconBody d.ownFacts) .beacon)

/-! ## Relay waits (R74, R75) -/

def wait? (d : Device) (k : WaitKind) (st num : Nat) : Option Wait :=
  d.waits.find? fun w => w.kind == k && w.station == st && w.number == num

def removeWait (d : Device) (k : WaitKind) (st num : Nat) : Device :=
  { d with waits := d.waits.filter fun w => !(w.kind == k && w.station == st && w.number == num) }

def refuseWait (d : Device) : Device := d.onNeighCounts fun c => { c with waitRefusals := bump c.waitRefusals }

/-- The WARNING wait a DISTRESS wait displaces: the latest expiry, the one taken later among equals (R74). -/
def waitToDisplace (d : Device) : Option Wait :=
  maxLastBy? (fun w => w.expiry) (d.waits.filter fun w => w.kind == .warning)

/-- A new wait with its drawn expiry (R74). -/
def addWait (d : Device) (k : WaitKind) (st num : Nat) : Device :=
  let (s, d) := match k with
    | .distress => d.draw 60 180
    | .warning => d.draw 20 90
  { d with waits := d.waits ++ [⟨k, st, num, d.now + s * 1000, false⟩] }

/-- An owner asks to start a wait (R74): whether it is taken, the wait displaced for it, and the device. -/
def startWait (d : Device) (k : WaitKind) (st num : Nat) : Bool × Option Wait × Device :=
  if (d.wait? k st num).isSome then (false, none, d)
  else if d.waits.length < 8 then (true, none, d.addWait k st num)
  else match k, d.waitToDisplace with
    | .distress, some w => (true, some w, ((d.removeWait .warning w.station w.number).refuseWait).addWait k st num)
    | _, _ => (false, none, d.refuseWait)

end Device
end Sys2Proof.Machine
end

