-- ==== Sys2Proof/Machine/Transfer.lean ====
section
/-! DEFINITION. The outbound transfer table of the Transfer Engine (06): slots, message numbers, routes and the
DATA item. Endings stand in Endings.lean. -/

namespace Sys2Proof.Machine
namespace Device

def slot (d : Device) (i : Nat) : Slot := d.xfer.slots.getD i Slot.free

def onSlot (d : Device) (i : Nat) (f : Slot → Slot) : Device :=
  d.onXfer fun t => { t with slots := modAt t.slots i f }

def onXferCounts (d : Device) (f : XferCounts → XferCounts) : Device :=
  d.onXfer fun t => { t with counts := f t.counts }

/-- The slot numbers, in order. -/
def slotOrder : List Nat := [0, 1, 2, 3, 4, 5, 6, 7]

/-- The slots that satisfy `p`, in slot order. -/
def slotsWhere (d : Device) (p : Slot → Bool) : List Nat := slotOrder.filter fun i => p (d.slot i)

/-- The lowest-numbered FREE slot (R80). -/
def freeSlot? (d : Device) : Option Nat := (d.slotsWhere fun s => s.st == .free).head?

/-- A request of CATCH origin would be taken (R80). -/
def catchAllowed (d : Device) : Bool :=
  d.freeSlot?.isSome && !(d.xfer.slots.any fun s => s.origin == .catchReport && s.st != .free)

/-- A RELAY slot is available (R80). -/
def relayAvailable (d : Device) : Bool :=
  d.freeSlot?.isSome && decide ((d.slotsWhere fun s => s.origin == .relay && s.st != .free).length < 2)

/-- A message number is held by a slot in a state other than FREE and OUTCOME OWED (R80). -/
def numberHeld (d : Device) (n : Nat) : Bool :=
  d.xfer.slots.any fun s => s.st != .free && s.st != .outcomeOwed && s.num == n

/-- The first message number from the counter on that no slot holds (R80). -/
def nextNumber (d : Device) : Nat :=
  (((List.range 64).map fun k => (d.xfer.nextNum + k) % 64).find? fun n => !d.numberHeld n).getD d.xfer.nextNum

/-- A slot leaves FREE: it takes a message number and a lifetime of 12 h (R80), and the fields given. -/
def takeSlot (d : Device) (i : Nat) (st : SlotState) (origin : Origin) (tag : Nat) (cls : MsgClass)
    (dest orig : Station) (grant : Option Nat) (len : Nat) : Device :=
  let n := d.nextNumber
  (d.onSlot i fun _ =>
    { Slot.free with
      st := st, origin := origin, tag := tag, num := n, cls := cls, dest := dest, orig := orig,
      grant := grant, len := len, cnt := (len + 110) / 111, lifetimeEnd := d.now + 43200000 }).onXfer fun t =>
    { t with nextNum := (n + 1) % 64 }

/-! ## Routes (R82, R83) -/

/-- A port-bound transfer, or one of RELAY origin, which counts as one (R82). -/
def portBound (d : Device) (s : Slot) : Bool := s.origin == .relay || s.dest == d.config.port

/-- The route answer for a slot: the table's, or for RELAY origin the final destination itself when its
entry is FRESH and not avoided (R82). -/
def routeFor (d : Device) (s : Slot) : Option Station :=
  match s.origin with
  | .relay =>
    match d.neighbour? s.dest with
    | none => none
    | some n => if d.usable n then some s.dest else none
  | _ => d.route

def isDataOf (i : Nat) (it : Item) : Bool := it.kind == .data && it.owner == .slot i

/-- Withdraws the slot's DATA item, if one waits or is contender (R35). -/
def withdrawData (d : Device) (i : Nat) : Device := d.withdraw .routine (isDataOf i)

/-- The slot goes to READY now, or to HELD with held-from state READY under the hold (R82). -/
def goReady (d : Device) (i : Nat) : Device :=
  if d.holdInForce then d.onSlot i fun s => { s with st := .held, heldFrom := .ready, refusalEnd := none }
  else d.onSlot i fun s => { s with st := .ready, readySince := d.now, onAir := false, refusalEnd := none }

/-- The transfer starts afresh at a hop (R82). -/
def afresh (s : Slot) (hop : Station) : Slot :=
  { s with hop := some hop, lastHop := hop, idx := 0, retries := 0, refusals := 0, restarts := 0, cw := 8 }

/-- Takes a route answer for a slot (R82). A slot with no next hop starts afresh at the hop named, be it the hop it
had before (entry 65). -/
def takeAnswer (d : Device) (i : Nat) (ans : Option Station) : Device :=
  let s := d.slot i
  match ans with
  | none =>
    (d.withdrawData i).onSlot i fun s =>
      { s with hop := none, st := .awaitingRoute, refusalEnd := none }
  | some h =>
    if s.hop = some h then d
    else ((d.withdrawData i).onSlot i fun s => afresh s h).goReady i

/-- A port-bound slot asks for its route (R83). -/
def askRoute (d : Device) (i : Nat) : Device := d.takeAnswer i (d.routeFor (d.slot i))

/-- Settles a starting transfer's first route (R82). -/
def startRoute (d : Device) (i : Nat) : Device :=
  let s := d.slot i
  let d := d.onSlot i fun s => { s with st := .awaitingRoute, hop := none }
  d.takeAnswer i (if d.portBound s then d.routeFor s else some s.dest)

/-- Whether a slot asks again at a route event that names `st` (R83). -/
def asksAt (d : Device) (st : Station) (s : Slot) : Bool :=
  d.portBound s &&
    (s.st == .awaitingRoute ||
      (((s.st == .ready && !s.onAir) || s.st == .refusalWait || s.st == .held) &&
        (s.hop == some st || s.idx == 0)))

/-- One route event (R69, R83): each slot that asks, in slot order. -/
def routeEvent (d : Device) (st : Station) : Device :=
  slotOrder.foldl (fun d i => if d.asksAt st (d.slot i) then d.askRoute i else d) d

/-- Several route events, one by one. -/
def routeEvents (d : Device) (sts : List Station) : Device := sts.foldl routeEvent d

/-! ## The DATA item (R84) -/

/-- How many text symbols the slot's current fragment carries (R81). -/
def fragmentLen (s : Slot) : Nat := min 111 (s.len - 111 * s.idx)

def fragmentBody (d : Device) (s : Slot) : List Nat :=
  let text := match s.grant with
    | none => []
    | some g => d.store.readSyms g (111 * s.idx) (fragmentLen s)
  dataBody ⟨s.idx, s.cnt, s.cls, s.dest, s.orig⟩ text

/-- The slot whose fragment is to be offered now, if any: the READY slot with the oldest ready since (R84). -/
def dataSlot? (d : Device) : Option Nat :=
  if d.holdInForce || d.onAirKind == some .data || (d.xfer.slots.any fun s => s.st == .awaitingAck || s.onAir)
  then none
  else minBy? (fun i => (d.slot i).readySince) (d.slotsWhere fun s => s.st == .ready)

/-- The slot of the DATA item that waits or is contender. -/
def dataOffered? (d : Device) : Option Nat :=
  match d.access.routine.items.find? fun it => it.kind == .data with
  | none => none
  | some it =>
    match it.owner with
    | .slot i => some i
    | _ => none

/-- Brings the DATA item into step with the slots (R84). -/
def refreshData (d : Device) : Device :=
  let want := d.dataSlot?
  if want = d.dataOffered? then d
  else
    let d := d.withdraw .routine fun it => it.kind == .data
    match want with
    | none => d
    | some i =>
      let s := d.slot i
      d.offer { d.newItem .data (s.hop.getD 0) s.num (d.fragmentBody s) (.slot i) with cw := s.cw }

end Device
end Sys2Proof.Machine
end

