-- ==== Sys2Proof/Machine/Catch.lean ====
section
/-! DEFINITION. The Catch Log's records and arithmetic (09): the grid, haul records, tally cells and quota
entries. -/

namespace Sys2Proof.Machine

/-! ## The grid (R150, R151) -/

/-- The rectangle of a position (R150). -/
def rectangleOf (p : Int × Int) : Nat :=
  let row := min ((p.1 + 540000) / 2000).toNat 539
  let col := ((p.2 + 1080000) / 4000).toNat
  row * 540 + col

/-- The midpoint of a haul (R151). -/
def midpoint (p q : Int × Int) : Int × Int :=
  let lat := (p.1 + q.1) / 2
  let l1 := if 1080000 < q.2 - p.2 then p.2 + 2160000 else p.2
  let l2 := if 1080000 < p.2 - q.2 then q.2 + 2160000 else q.2
  let lon := (l1 + l2) / 2
  (lat, if 1080000 ≤ lon then lon - 2160000 else lon)

/-! ## Species, lines and cells -/

/-- Rank of a species code in alphabetical order. -/
def speciesRank (s : Species) : Nat := (s.a * 26 + s.b) * 26 + s.c

/-- The order of the tally table (R161). -/
def cellKey (c : TallyCell) : Nat := c.rect * 17576 + speciesRank c.species

def validSpecies (s : Species) : Bool := decide (s.a < 26) && decide (s.b < 26) && decide (s.c < 26)

/-- The unreported amount (R162). -/
def Amount.unreported (a : Amount) : Nat := a.total - a.reported - a.inFlight

def Amount.zero : Amount := ⟨0, 0, 0⟩

/-- Adds to a total up to a limit: the amount, and whether the sum exceeded it (R158). -/
def Amount.add (a : Amount) (n limit : Nat) : Amount × Bool :=
  if limit < a.total + n then ({ a with total := limit }, true) else ({ a with total := a.total + n }, false)

/-- A total to which `n` is added ends cut: it stood at its limit already, or the sum is held at the limit (R158.3,
R159). -/
def Amount.cuts (a : Amount) (n limit : Nat) : Bool := a.total == limit || decide (limit < a.total + n)

def TallyCell.empty (rect : Nat) (sp : Species) : TallyCell :=
  { rect := rect, species := sp, retained := .zero, discarded := .zero, hauls := .zero, saturated := false,
    estimated := false, longTow := false }

def kgLimit : Nat := 9999999

/-- One catch line added to its cell (R158). -/
def TallyCell.addLine (c : TallyCell) (l : CatchLine) : TallyCell :=
  if l.retained then
    let (a, cut) := c.retained.add l.weight kgLimit
    { c with retained := a, saturated := c.saturated || cut }
  else
    let (a, cut) := c.discarded.add l.weight kgLimit
    { c with discarded := a, saturated := c.saturated || cut }

/-- The haul count and flags of a cell that received a line of a haul (R159). A haul total that the limit
holds at 65,535 sets the saturated flag. -/
def TallyCell.addHaul (c : TallyCell) (h : Haul) : TallyCell :=
  let (a, cut) := c.hauls.add 1 65535
  { c with hauls := a, saturated := c.saturated || cut, estimated := c.estimated || h.estimated,
           longTow := c.longTow || h.longTow }

namespace Device

def onLogCounts (d : Device) (f : LogCounts → LogCounts) : Device := d.onLog fun l => { l with counts := f l.counts }

/-- The place of the record that holds a haul number in OPEN or WEIGHING. -/
def haulAt? (d : Device) (n : Nat) : Option Nat :=
  if n = 0 then none else d.log.hauls.findIdx? fun h => h.st != .free && h.num == n

def haul (d : Device) (i : Nat) : Haul := d.log.hauls.getD i Haul.free

def onHaul (d : Device) (i : Nat) (f : Haul → Haul) : Device :=
  d.onLog fun l => { l with hauls := modAt l.hauls i f }

/-- The next haul number after the counter that no OPEN or WEIGHING record holds (R149). -/
def nextHaulNumber (d : Device) : Nat :=
  let candidates := (List.range 5).map fun k => (d.log.counter + k) % 4095 + 1
  (candidates.find? fun n => !(d.log.hauls.any fun h => h.st != .free && h.num == n)).getD 1

def cell? (d : Device) (rect : Nat) (sp : Species) : Option TallyCell :=
  d.log.cells.find? fun c => c.rect == rect && c.species == sp

/-- The species of a haul's lines, each once, in line order. -/
def speciesOf (lines : List CatchLine) : List Species := (lines.map fun l => l.species).eraseDups

/-- The new keys a commit needs (R157). -/
def newKeys (d : Device) (rect : Nat) (lines : List CatchLine) : List Species :=
  (speciesOf lines).filter fun sp => (d.cell? rect sp).isNone

/-- Changes the cell of a key, made first when it does not exist (R158). -/
def onCell (d : Device) (rect : Nat) (sp : Species) (f : TallyCell → TallyCell) : Device :=
  match d.cell? rect sp with
  | none => d.onLog fun l => { l with cells := insertBy cellKey (f (.empty rect sp)) l.cells }
  | some _ => d.onLog fun l =>
      { l with cells := mapIf (fun c => c.rect == rect && c.species == sp) f l.cells }

/-! ## Quota entries (R163 to R168) -/

def quota? (d : Device) (sp : Species) : Option QuotaEntry := d.log.quotas.find? fun q => q.species == sp

def onQuota (d : Device) (sp : Species) (f : QuotaEntry → QuotaEntry) : Device :=
  d.onLog fun l => { l with quotas := mapIf (fun q => q.species == sp) f l.quotas }

/-- The consumed of a species (R164). -/
def consumedOf (d : Device) (sp : Species) : Nat :=
  min ((d.log.cells.filter fun c => c.species == sp).map fun c => c.retained.total).sum kgLimit

/-- The state that an evaluation gives (R165). -/
def quotaState (consumed quota : Nat) : QuotaState :=
  if quota ≤ consumed then .reached else if 9 * quota ≤ 10 * consumed then .alert else .normal

/-- Causes of QUOTA STATE: COMMIT 0, NOTICE 1, OWED 2 (R166). -/
def quotaData (sp : Species) (quota consumed prev new cause : Nat) : List Datum :=
  speciesData sp ++ [.num 3 quota, .num 3 consumed, .num 1 prev, .num 1 new, .num 1 cause]

/-- States in QUOTA STATE: NONE 0, NORMAL 1, ALERT 2, REACHED 3, REMOVED 4 (R166). -/
def quotaStateCode : Option QuotaState → Nat
  | none => 0
  | some .normal => 1
  | some .alert => 2
  | some .reached => 3

/-- Reports an entry's change of state from `prev`, or leaves the owed mark with it (R166, R168). -/
def reportQuota (d : Device) (sp : Species) (prev : Option QuotaState) (cause : Nat) : Device :=
  match d.quota? sp with
  | none => d
  | some q =>
    let had := d.marked .general (.quota sp)
    let d := d.report .quotaState (.quota sp)
      (quotaData sp q.quota q.consumed (quotaStateCode prev) (quotaStateCode (some q.st)) cause)
    if had = false ∧ d.marked .general (.quota sp) then d.onQuota sp fun q => { q with owedFrom := some prev }
    else d

/-- Evaluates an entry with its new consumed (R164, R165): whether it changed into REACHED. -/
def evaluateQuota (d : Device) (sp : Species) (cause : Nat) : Bool × Device :=
  match d.quota? sp with
  | none => (false, d)
  | some q =>
    let st := quotaState q.consumed q.quota
    if st = q.st then (false, d)
    else (st == .reached, (d.onQuota sp fun q => { q with st := st }).reportQuota sp (some q.st) cause)

end Device
end Sys2Proof.Machine
end

