-- ==== Sys2Proof/Machine/Reports.lean ====
section
/-! DEFINITION. The Report Builder (10): triggers, builds, the body of R208, and the endings of a report. -/

namespace Sys2Proof.Machine

/-- Events of CATCH REPORT STATE, numbered as R185 lists them. -/
inductive RepEvent | built | delivered | accepted | rejected | lost | noLines | waiting | owed
deriving DecidableEq, Repr

def RepEvent.code : RepEvent → Nat
  | .built => 0 | .delivered => 1 | .accepted => 2 | .rejected => 3 | .lost => 4 | .noLines => 5
  | .waiting => 6 | .owed => 7

/-- The merge order: ORDERED, SCHEDULED, QUOTA (R175). -/
def ReportReason.order : ReportReason → Nat
  | .ordered => 0 | .scheduled => 1 | .quota => 2

/-- The kind symbol of the body (R208). -/
def ReportReason.symbol : ReportReason → Nat
  | .scheduled => 0 | .ordered => 1 | .quota => 2

/-- One line of the body (R208), from the cell's unreported amounts. -/
def bodyLine (c : TallyCell) : List Nat :=
  toSyms 4 c.rect ++ [c.species.a, c.species.b, c.species.c] ++ toSyms 4 c.retained.unreported
    ++ toSyms 4 c.discarded.unreported ++ toSyms 3 c.hauls.unreported
    ++ [flag c.saturated + 2 * flag c.estimated + 4 * flag c.longTow]

/-- Build month, day, hour and minute (R208). -/
def buildTimeSyms : Option Nat → List Nat
  | none => [63, 63, 63, 63]
  | some u =>
    let n := u + epochShift
    let date := dateOf (n / 86400)
    [date.2.1, date.2.2, n / 3600 % 24, n / 60 % 60]

/-- The catch-report body (R208). -/
def reportBody (num : Nat) (kind : ReportReason) (utc : Option Nat) (lines : List TallyCell) : List Nat :=
  toSyms 2 num ++ [kind.symbol] ++ buildTimeSyms utc ++ [lines.length] ++ lines.flatMap bodyLine

/-- A cell makes a line when some unreported amount is above 0 (R176). -/
def makesLine (c : TallyCell) : Bool :=
  decide (0 < c.retained.unreported) || decide (0 < c.discarded.unreported) || decide (0 < c.hauls.unreported)

/-- Moves the unreported amount into in flight (R176). -/
def Amount.send (a : Amount) : Amount := { a with inFlight := a.inFlight + a.unreported }

/-- Settles the in-flight amount (R179). -/
def Amount.settle (a : Amount) (accepted : Bool) : Amount :=
  { a with reported := if accepted then a.reported + a.inFlight else a.reported, inFlight := 0 }

def TallyCell.onAmounts (c : TallyCell) (f : Amount → Amount) : TallyCell :=
  { c with retained := f c.retained, discarded := f c.discarded, hauls := f c.hauls }

namespace Device

def onRepCounts (d : Device) (f : RepCounts → RepCounts) : Device := d.onRep fun r => { r with counts := f r.counts }

/-- The fields of CATCH REPORT STATE in the order of R185. -/
def catchStateData (d : Device) (e : RepEvent) (num : Option Nat) (kind : Option ReportReason) (lines : Nat)
    (utc : Option Nat) (cause : Option LostCause) (minutes : Option Nat) : List Datum :=
  [.num 1 e.code, optNum 2 num, optNum 1 (kind.map ReportReason.code), count16 lines,
   utcData (utc.map Int.ofNat), optNum 1 (cause.map LostCause.code), optNum 2 minutes,
   optNum 1 (d.rep.pending.map ReportReason.code)]

/-- Reports an event of the record as it stands. -/
def reportCatchState (d : Device) (e : RepEvent) (minutes : Option Nat) : Device :=
  d.report .catchReportState .report
    (d.catchStateData e d.rep.num d.rep.kind d.rep.lineCount d.rep.buildUtc none minutes)

/-- Reports an event that has a kind and no report: NO LINES and WAITING FOR SLOT (R177, R178). The line count goes as
0 (DESIGN CHOICE, entry 80). -/
def reportCatchKind (d : Device) (e : RepEvent) (kind : ReportReason) : Device :=
  d.report .catchReportState .report (d.catchStateData e none (some kind) 0 none none none)

/-- Enters a trigger in the pending request (R175). -/
def enterPending (d : Device) (kind : ReportReason) : Device :=
  match d.rep.pending with
  | none => d.onRep fun r => { r with pending := some kind }
  | some k =>
    (d.onRep fun r => { r with pending := some (if kind.order < k.order then kind else k) }).onRepCounts fun c =>
      { c with merged := bump c.merged }

/-- The cells that make a line now, in the order of R161. -/
def linesToSend (d : Device) : List TallyCell := d.log.cells.filter makesLine

/-- A build in slot `i` (R176). -/
def build (d : Device) (kind : ReportReason) (i : Nat) : Device :=
  let num := d.rep.counter % 4095 + 1
  let utc := d.utcNow
  let lines := d.linesToSend
  let len := 8 + 19 * lines.length
  let d := d.onLog fun l => { l with cells := mapIf makesLine (fun c => c.onAmounts .send) l.cells }
  let (r, d) := d.reserve .report len
  let grant := match r with
    | .granted id => some id
    | _ => none
  let d := match grant with
    | none => d
    | some id => d.writeText id 0 (reportBody num kind utc lines)
  let d := d.onRep fun r =>
    { r with st := .inTransfer, num := some num, kind := some kind, buildUtc := utc,
             lineCount := lines.length, grant := grant, early := none, counter := num }
  let d := (d.takeSlot i .awaitingRoute .catchReport 0 .catchReport d.config.port d.config.own grant len).startRoute i
  let d := d.onRepCounts fun c =>
    { c with built := bump c.built, nil := if lines.isEmpty then bump c.nil else c.nil }
  d.reportCatchState .built none

/-- A build with the record NONE: a QUOTA build without lines asks for no slot and ends with NO LINES (R177); any
other is refused for want of a slot (R178) or made (R176). A refused one goes to the pending request and is
reported. -/
def tryBuild (d : Device) (kind : ReportReason) : Device :=
  if kind = .quota ∧ d.linesToSend = [] then d.reportCatchKind .noLines .quota
  else match (if d.catchAllowed then d.freeSlot? else none) with
  | none =>
    ((d.enterPending kind).onRepCounts fun c => { c with slotWaits := bump c.slotWaits }).reportCatchKind
      .waiting kind
  | some i => d.build kind i

/-- A trigger (R174). -/
def trigger (d : Device) (kind : ReportReason) : Device :=
  if d.rep.st = .none then d.tryBuild kind else d.enterPending kind

/-- The pending request is built, when there is one (R175): building it clears it. -/
def buildPending (d : Device) : Device :=
  match d.rep.pending with
  | none => d
  | some k => (d.onRep fun r => { r with pending := none }).tryBuild k

/-- A slot of the outbound table has returned to FREE (R178): the pending build is tried, and when it finds
no slot it waits on, unreported. -/
def slotFreed (d : Device) : Device :=
  if d.rep.st = .none ∧ d.catchAllowed then d.buildPending else d

/-- Steps 1 and 2 of R179: the cells, and the record. A record in NONE holds the line count 0, where R173 gives no value
for that state (DESIGN CHOICE, entry 80). -/
def closeReport (d : Device) (e : Ending) : Device :=
  let d := d.onLog fun l => { l with cells := l.cells.map fun c => c.onAmounts fun a => a.settle (e == .accepted) }
  let d := match d.rep.grant with
    | none => d
    | some id => d.onStore fun s => s.release id
  d.onRep fun r =>
    { r with st := .none, lastEnding := r.num.map fun n => (n, e), num := none, kind := none, buildUtc := none,
             lineCount := 0, grant := none, deadline := none, early := none }

def endingEvent : Ending → RepEvent
  | .accepted => .accepted
  | .rejected => .rejected
  | .lost => .lost

def countEnding (d : Device) (e : Ending) : Device :=
  d.onRepCounts fun c =>
    match e with
    | .accepted => { c with accepted := bump c.accepted }
    | .rejected => { c with rejected := bump c.rejected }
    | .lost => { c with lost := bump c.lost }

/-- A report ends (R179). -/
def endReport (d : Device) (e : Ending) (cause : Option LostCause) : Device :=
  let r := d.rep
  let d := d.closeReport e
  let d := d.report .catchReportState .report
    (d.catchStateData (endingEvent e) r.num r.kind r.lineCount r.buildUtc cause none)
  (d.countEnding e).buildPending

/-- The outcome of the CATCH transfer (R180). -/
def catchOutcome (d : Device) (o : Outcome) : Device :=
  if d.rep.st = .inTransfer then
    match d.rep.early, o with
    | some e, _ => d.endReport e none
    | none, .delivered =>
      let left := d.config.receipt * 60000
      let d := d.onRep fun r =>
        { r with st := .awaitingReceipt,
                 deadline := some (if d.holdInForce then .paused left else .running (d.now + left)) }
      d.reportCatchState .delivered (some d.config.receipt)
    | none, .expired => d.endReport .lost (some .expired)
    | none, .flushed => d.endReport .lost (some .flushed)
    | none, _ => d
  else d

end Device
end Sys2Proof.Machine
end

