-- ==== Sys2Proof/Machine/Endings.lean ====
section
/-! DEFINITION. Endings of transfers and what follows them (06): page releases with their hand-over retries
(R54, R98), outcomes (R92), answers and timeouts (R86 to R90), withdrawals (R91), and the hold (R101, R102). -/

namespace Sys2Proof.Machine
namespace Device

/-! ## Releases and hand-overs -/

def removeReasm (d : Device) (src num : Nat) : Device :=
  d.onXfer fun t => { t with reasms := t.reasms.filter fun e => !(e.source == src && e.num == num) }

def onReasm (d : Device) (src num : Nat) (f : Reasm → Reasm) : Device :=
  d.onXfer fun t => { t with reasms := mapIf (fun e => e.source == src && e.num == num) f t.reasms }

/-- The RESERVED relay slot takes a completed message and starts (R98, R81). -/
def startRelay (d : Device) (i : Nat) (e : Reasm) : Device :=
  (d.onSlot i fun s =>
    { s with cls := e.cls, dest := e.dest, orig := e.orig, grant := some e.grant, len := e.len,
             cnt := (e.len + 110) / 111, idx := 0, retries := 0, refusals := 0, restarts := 0,
             cw := 8 }).startRoute i

/-- The hand-over of a completed message to its relay slot (R98, R55): taken, or HAND-OVER WAIT. -/
def handOverRelay (d : Device) (e : Reasm) : Device :=
  match e.relaySlot with
  | none => d
  | some i =>
    let (taken, s) := d.store.handOver e.grant .outbound
    let d := { d with store := s }
    if taken then (d.startRelay i e).removeReasm e.source e.num
    else d.onReasm e.source e.num fun e => { e with waiting := true }

/-- Tries the hand-over again for each waiting entry, oldest completion first (R98). -/
def retryHandOvers (d : Device) : Device :=
  (sortBy (fun e => e.doneAt) (d.xfer.reasms.filter fun e => e.waiting)).foldl handOverRelay d

/-- Releases an OUTBOUND grant (R54). -/
def releaseOutbound (d : Device) (id : Nat) : Device := (d.onStore fun s => s.release id).retryHandOvers

/-- Releases any other grant (R54). -/
def releaseGrant (d : Device) (id : Nat) : Device := d.onStore fun s => s.release id

/-- A slot returns to FREE, and the Report Builder is told (R178). -/
def freeSlot (d : Device) (i : Nat) : Device := (d.onSlot i fun _ => Slot.free).slotFreed

/-- A reassembly entry is discarded: its grant released, its relay slot freed (R96, R100, R104). -/
def discardReasm (d : Device) (e : Reasm) : Device :=
  let d := (d.removeReasm e.source e.num).releaseGrant e.grant
  match e.relaySlot with
  | none => d
  | some i => d.freeSlot i

/-! ## Outcomes (R92) -/

/-- The fields of TRANSFER OUTCOME (R92). -/
def outcomeData (tag : Nat) (o : Outcome) (num : Nat) (dest lastHop : Station) (accepted : Nat) : List Datum :=
  [.num 1 tag, .num 1 o.code, .num 1 num, .num 3 dest, .num 3 lastHop, count16 accepted]

def slotOutcomeData (s : Slot) (o : Outcome) : List Datum :=
  outcomeData s.tag o s.num s.dest s.lastHop (if o = .delivered then s.cnt else s.idx)

def countOutcome (d : Device) (o : Outcome) : Device :=
  d.onXferCounts fun c =>
    match o with
    | .delivered => { c with delivered := bump c.delivered }
    | .failed => { c with failed := bump c.failed }
    | .expired => { c with expired := bump c.expired }
    | .withdrawn => { c with withdrawn := bump c.withdrawn }
    | .flushed => { c with flushed := bump c.flushed }
    | .void => c

/-- What a slot in OUTCOME OWED keeps: the facts of its report, and no pages or hop (R79). -/
def owedSlot (s : Slot) (o : Outcome) : Slot :=
  { s with st := .outcomeOwed, grant := none, hop := none, onAir := false, ackDue := none, ackWaiting := false,
           refusalEnd := none, pendingEnd := none, outcome := some o }

/-- A transfer ends (R92). -/
def endTransfer (d : Device) (i : Nat) (o : Outcome) : Device :=
  let s := d.slot i
  let d := (d.withdrawData i).countOutcome o
  let d := match s.origin, s.grant with
    | .catchReport, _ => d
    | _, none => d
    | _, some g => (d.onSlot i fun s => { s with grant := none }).releaseOutbound g
  match s.origin with
  | .console =>
    if d.laneRoom .general then
      (d.queueEntry .general ⟨.transferOutcome, 0, .report (slotOutcomeData s o), 0⟩).freeSlot i
    else (d.onSlot i fun _ => owedSlot s o).addMark .general (.slot i)
  | .catchReport => (d.freeSlot i).catchOutcome o
  | .relay => d.freeSlot i

/-- A CONSOLE transfer starts when its text is complete (R81). -/
def startConsole (d : Device) (i : Nat) : Device :=
  if (d.slot i).dest = d.config.own then d.endTransfer i .failed else d.startRoute i

/-! ## Answers and timeouts -/

/-- A pending ending decides instead of `k`, when there is one (R91). -/
def orPending (d : Device) (i : Nat) (k : Device → Device) : Device :=
  match (d.slot i).pendingEnd with
  | some o => d.endTransfer i o
  | none => k d

/-- A hop has failed (R90). -/
def hopFails (d : Device) (i : Nat) : Device :=
  let s := d.slot i
  if d.portBound s then
    let d := match s.hop with
      | none => d
      | some h => d.avoid h
    (d.goReady i).askRoute i
  else d.endTransfer i .failed

/-- The slot leaves AWAITING ACK: no timeout runs any more. -/
def leaveAck (d : Device) (i : Nat) : Device := d.onSlot i fun s => { s with ackDue := none, ackWaiting := false }

/-- The ACK timeout is taken (R87). -/
def takeTimeout (d : Device) (i : Nat) : Device :=
  let d := d.leaveAck i
  let d := match (d.slot i).hop with
    | none => d
    | some h => d.charge h
  let d := d.onSlot i fun s => { s with retries := s.retries + 1, cw := min 128 (2 * s.cw) }
  let d := d.onXferCounts fun c => { c with ackTimeouts := bump c.ackTimeouts }
  d.orPending i fun d =>
    let s := d.slot i
    if d.config.retry ≤ s.retries then d.hopFails i
    else
      let d := d.goReady i
      if d.portBound s ∧ s.idx = 0 then d.askRoute i else d

/-- A matching ACCEPTED (R86). -/
def takeAccepted (d : Device) (i : Nat) : Device :=
  let d := d.onXferCounts fun c => { c with gotAccepted := bump c.gotAccepted }
  let d := d.onSlot i fun s => { s with retries := 0, cw := 8, refusals := 0, restarts := 0 }
  let s := d.slot i
  if s.cnt ≤ s.idx + 1 then d.endTransfer i .delivered
  else (d.onSlot i fun s => { s with idx := s.idx + 1 }).orPending i fun d => d.goReady i

/-- A matching FULL (R88). -/
def takeFull (d : Device) (i : Nat) : Device :=
  let d := d.onXferCounts fun c => { c with gotFull := bump c.gotFull }
  (d.onSlot i fun s => { s with refusals := s.refusals + 1 }).orPending i fun d =>
    if 5 ≤ (d.slot i).refusals then d.hopFails i
    else d.onSlot i fun s => { s with st := .refusalWait, refusalEnd := some (d.now + 60000) }

/-- A matching NO-RELAY (R89): the next hop's relay-willing is cleared, the final destination's too (R70, entry
61). -/
def takeNoRelay (d : Device) (i : Nat) : Device :=
  let d := d.onXferCounts fun c => { c with gotNoRelay := bump c.gotNoRelay }
  let s := d.slot i
  match s.hop with
  | none => d
  | some h =>
    let (d, evs) := d.clearWilling h
    (d.routeEvents evs).orPending i fun d =>
      if h = s.dest then d.hopFails i else (d.goReady i).askRoute i

/-- A matching UNKNOWN (R89). -/
def takeUnknown (d : Device) (i : Nat) : Device :=
  let d := d.onXferCounts fun c => { c with gotUnknown := bump c.gotUnknown }
  (d.onSlot i fun s => { s with restarts := s.restarts + 1 }).orPending i fun d =>
    if 3 ≤ (d.slot i).restarts then d.hopFails i
    else (d.onSlot i fun s => { s with idx := 0 }).goReady i

/-- The slot an ACK burst matches, with its answer (R86). -/
def matchAck (d : Device) (b : Burst) : Option (Nat × AckAnswer) :=
  match d.slotsWhere (fun s => s.st == .awaitingAck), b.body with
  | i :: _, [idx, a] =>
    let s := d.slot i
    if s.hop = some b.source ∧ s.num = b.seq ∧ s.idx = idx then (AckAnswer.ofValue a).map fun a => (i, a)
    else none
  | _, _ => none

/-- An ACK burst handed to the Transfer Engine (R86, R101). -/
def receiveAck (d : Device) (b : Burst) : Device :=
  if d.holdInForce then d
  else match d.matchAck b with
    | none => d.onXferCounts fun c => { c with strayAcks := bump c.strayAcks }
    | some (i, a) =>
      let d := d.leaveAck i
      match a with
      | .accepted => d.takeAccepted i
      | .full => d.takeFull i
      | .noRelay => d.takeNoRelay i
      | .unknown => d.takeUnknown i

/-- A waiting ACK timeout is taken once no reception is in progress (R85). -/
def takeWaitingTimeout (d : Device) : Device :=
  if d.reception then d
  else match d.slotsWhere fun s => s.st == .awaitingAck && s.ackWaiting with
    | [] => d
    | i :: _ => d.takeTimeout i

/-! ## The slot's own burst (R85, R101) -/

/-- The slot's DATA burst is keyed (R85). -/
def dataKeyed (d : Device) (i : Nat) : Device := d.onSlot i fun s => { s with onAir := true }

/-- The slot goes to HELD, or ends by its pending ending (R101). -/
def goHeld (d : Device) (i : Nat) (from' : SlotState) : Device :=
  d.orPending i fun d => d.onSlot i fun s =>
    { s with st := .held, heldFrom := from', onAir := false, ackDue := none, ackWaiting := false,
             heldRefusal := match s.refusalEnd with | none => 0 | some t => t - d.now,
             refusalEnd := none }

/-- The end of the slot's DATA burst is reported (R85, R101). -/
def dataSent (d : Device) (i : Nat) : Device :=
  let d := d.onXferCounts fun c => { c with dataSent := bump c.dataSent }
  if (d.slot i).onAir then
    if d.holdInForce then d.goHeld i .awaitingAck
    else d.onSlot i fun s =>
      { s with st := .awaitingAck, onAir := false, ackDue := some (d.now + 3200), ackWaiting := false }
  else d

/-- The slot's DATA burst is aborted (R85, R101); for reason RESTART nothing is done. -/
def dataAborted (d : Device) (i : Nat) : Device :=
  if (d.slot i).onAir then
    if d.holdInForce then d.goHeld i .ready
    else (d.onSlot i fun s => { s with onAir := false }).orPending i fun d =>
      d.onSlot i fun s => { s with readySince := d.now }
  else d

/-! ## Lifetime and withdrawal (R91) -/

/-- The slot's state at which an ending waits for the burst's outcome (R91). -/
def endsPending (s : Slot) : Bool := (s.st == .ready && s.onAir) || s.st == .awaitingAck

/-- An ending asked for by the lifetime or by WITHDRAW (R91): the first that is taken as pending stands. -/
def askEnding (d : Device) (i : Nat) (o : Outcome) : Device :=
  let s := d.slot i
  if endsPending s then d.onSlot i fun s => { s with pendingEnd := s.pendingEnd.orElse fun _ => some o }
  else d.endTransfer i o

/-- The slots a WITHDRAW of a console tag applies to (R91). -/
def withdrawable (d : Device) (tag : Nat) : List Nat :=
  d.slotsWhere fun s =>
    s.origin == .console && s.tag == tag && s.st != .free && s.st != .reserved && s.st != .outcomeOwed

/-- Voids the open submit: grant released, slot returned to FREE (R201). -/
def voidSubmit (d : Device) : Device :=
  match d.console.submit with
  | none => d
  | some s =>
    let d := d.onConsole fun c => { c with submit := none }
    ((d.onSlot s.slot fun x => { x with grant := none }).releaseOutbound s.grant).freeSlot s.slot

/-! ## The hold (R101, R102, R104) -/

/-- The hold has come into force: slots and the paused times (R99, R100, R101). -/
def holdTransfers (d : Device) : Device :=
  let d := d.onXfer fun t =>
    { t with reasms := t.reasms.map fun e => { e with timer := e.timer.pause d.now },
             recents := t.recents.map fun r => { r with timer := r.timer.pause d.now } }
  slotOrder.foldl (fun d i =>
    let s := d.slot i
    if (s.st == .ready && !s.onAir) || s.st == .awaitingAck || s.st == .refusalWait then
      (d.withdrawData i).goHeld i s.st
    else d) d

/-- One HELD slot leaves HELD (R102). -/
def unhold (d : Device) (i : Nat) : Device :=
  let s := d.slot i
  if s.st = .held then
    if s.heldFrom = .refusalWait then
      d.onSlot i fun s => { s with st := .refusalWait, refusalEnd := some (d.now + s.heldRefusal) }
    else
      let d := d.goReady i
      if d.portBound s then d.askRoute i else d
  else d

/-- The hold has ended: slots in slot order, and the paused times (R102). -/
def unholdTransfers (d : Device) : Device :=
  let d := d.onXfer fun t =>
    { t with reasms := t.reasms.map fun e => { e with timer := e.timer.resume d.now },
             recents := t.recents.map fun r => { r with timer := r.timer.resume d.now } }
  slotOrder.foldl unhold d

/-- FLUSH in the Transfer Engine (R104). The entries go before the slots, so that no waiting entry is handed over to
its slot by a release that FLUSH itself makes (entry 39). The slots end in slot order (entry 56). They are listed
first, so that a catch report built meanwhile is not ended (entry 75). -/
def flushTransfers (d : Device) : Device :=
  let ends := d.slotsWhere fun s => s.st != .free && s.st != .reserved && s.st != .outcomeOwed
  let d := d.xfer.reasms.foldl (fun d e =>
    let d := if e.waiting then d.onXferCounts fun c => { c with relaysLost := bump c.relaysLost } else d
    d.discardReasm e) d
  ends.foldl (fun d i => d.endTransfer i .flushed) d

end Device
end Sys2Proof.Machine
end

