-- ==== Sys2Proof/Machine/Weather.lean ====
section
/-! DEFINITION. The Weather Store (08): headers, forecast and warning records, expiry, relays and reports. -/

namespace Sys2Proof.Machine

/-! ## Headers (R131) -/

/-- A FORECAST header (R6). -/
structure ForecastHeader where
  issuer : Station
  area : Nat
  issue : Nat
  idx : Nat
  cnt : Nat
  day : Nat
  hour : Nat
  minute : Nat
  validFor : Nat
deriving DecidableEq, Repr

/-- A WARNING header (R6), the severity as carried. -/
structure WarningHeader where
  issuer : Station
  issue : Nat
  severity : Nat
  day : Nat
  hour : Nat
  minute : Nat
  validFor : Nat
  areas : List Nat
deriving DecidableEq, Repr

def forecastHeader (b : List Nat) : ForecastHeader :=
  ⟨symsAt b 0 3, symAt b 3, symsAt b 4 2, symAt b 6, symAt b 7, symAt b 8, symAt b 9, symAt b 10, symAt b 11⟩

def warningHeader (b : List Nat) : WarningHeader :=
  ⟨symsAt b 0 3, symsAt b 3 2, symAt b 5, symAt b 6, symAt b 7, symAt b 8, symAt b 9,
   (b.drop 11).take (symAt b 10)⟩

/-- An issue time of day that exists in some month, and a valid-for of at least an hour. -/
def validTime (day hour minute validFor : Nat) : Bool :=
  decide (1 ≤ day) && decide (day ≤ 31) && decide (hour ≤ 23) && decide (minute ≤ 59) && decide (1 ≤ validFor)

/-- Test 4 of R131 for a FORECAST; a body beyond R6's 114 symbols fails it too (entry 21). -/
def forecastInRange (h : ForecastHeader) (len : Nat) : Bool :=
  decide (1 ≤ h.area) && decide (1 ≤ h.cnt) && decide (h.cnt ≤ 8) && decide (h.idx < h.cnt)
    && validTime h.day h.hour h.minute h.validFor && decide (len ≤ 114)

/-- Test 4 of R131 for a WARNING. -/
def warningInRange (h : WarningHeader) (count : Nat) : Bool :=
  decide (1 ≤ count) && decide (count ≤ 6) && (Severity.ofValue h.severity).isSome
    && validTime h.day h.hour h.minute h.validFor && h.areas.all fun a => decide (1 ≤ a)

/-- Test 2 of R131: an erased header symbol. -/
def headerErased (b : Burst) (headerLen : Nat) : Bool :=
  decide (0 < b.erasures) && (b.body.take headerLen).any fun s => s == 63

/-- The score of a copy (R132). -/
def copyScore (b : Burst) : Nat := b.erasures + (if b.pass then 0 else 200)

/-- Issued UTC and valid-until (R139); absent while UTC is UNSET. -/
def issueTimes (utc : Option Nat) (day hour minute validFor : Nat) : Option Int × Option Int :=
  match utc with
  | none => (none, none)
  | some u =>
    match issuedUtc u day hour minute with
    | none => (none, none)
    | some t => (some t, some (t + (validFor : Int) * 3600))

/-- The marred flag (R137). -/
def Forecast.marred (f : Forecast) : Bool :=
  f.parts.any fun p => match p with
    | none => false
    | some p => decide (0 < p.erasures) || !p.pass

def Forecast.textLen (f : Forecast) : Nat :=
  (f.parts.map fun p => match p with | none => 0 | some p => p.len).sum

/-- FORECAST READY and UPDATED (R146): event NEW 0, OWED 1; UPDATED adds the part index. -/
def forecastData (f : Forecast) (event : Nat) (part : Option Nat) : List Datum :=
  [.num 1 f.area, .num 3 f.issuer, .num 2 f.issue, count16 f.cnt, .num 1 (flag f.marred), .num 1 f.day,
   .num 1 f.hour, .num 1 f.minute, .num 1 f.validFor, utcData f.validUntil, count16 f.textLen, .num 1 event]
    ++ (match part with | none => [] | some i => [.num 1 i])

/-- FORECAST EXPIRED (R146). -/
def forecastExpiredData (area issuer issue : Nat) : List Datum := [.num 1 area, .num 3 issuer, .num 2 issue]

/-- WARNING (R146): event NEW 0, IMPROVED 1, NOT STORED 2, OWED 3. -/
def warningData (w : Warning) (event : Nat) (text : Option (List Nat)) : List Datum :=
  [.num 3 w.issuer, .num 2 w.issue, .num 1 w.severity.code, .num 1 w.day, .num 1 w.hour, .num 1 w.minute,
   .num 1 w.validFor, utcData w.validUntil] ++ tableData (w.areas.map fun a => [.num 1 a])
    ++ [.num 1 (flag w.wanted), count16 w.score, .num 1 event]
    ++ (match text with | none => [] | some t => [.text t])

namespace Device

def onWeatherCounts (d : Device) (f : WeatherCounts → WeatherCounts) : Device :=
  d.onWeather fun w => { w with counts := f w.counts }

/-! ## Forecast records -/

def forecast? (d : Device) (area : Nat) (complete : Bool) : Option Forecast :=
  d.weather.forecasts.find? fun f => f.area == area && f.complete == complete

def onForecast (d : Device) (area : Nat) (complete : Bool) (f : Forecast → Forecast) : Device :=
  d.onWeather fun w =>
    { w with forecasts := mapIf (fun x => x.area == area && x.complete == complete) f w.forecasts }

/-- Frees a record and its grant (R54); the last COMPLETE one freed in an area is remembered (R146). -/
def freeForecast (d : Device) (f : Forecast) : Device :=
  (d.onWeather fun w =>
    { w with
      forecasts := w.forecasts.filter fun x => !(x.area == f.area && x.complete == f.complete),
      lastFreed := if f.complete
        then w.lastFreed.filter (fun x => x.area != f.area) ++ [⟨f.area, f.issuer, f.issue⟩]
        else w.lastFreed }).releaseGrant f.grant

/-- The COLLECTING record of another area that R135 discards: the oldest last-part time, the lower area. -/
def forecastToEvict (d : Device) (area : Nat) : Option Forecast :=
  minBy? (fun f => f.lastPart) (sortBy (fun f => f.area)
    (d.weather.forecasts.filter fun f => !f.complete && f.area != area))

/-- Looks for a record and a grant, evicting as R135 says. Each round evicts one record, so 17 rounds do. -/
def forecastRoom (d : Device) (area size : Nat) : Nat → Option Nat × Device
  | 0 => (none, d)
  | fuel + 1 =>
    let (r, d) := if d.weather.forecasts.length < 16 then d.reserve .forecast size else (.refusedPool, d)
    match r with
    | .granted id => (some id, d)
    | _ =>
      match d.forecastToEvict area with
      | none => (none, d)
      | some f =>
        ((d.freeForecast f).onWeatherCounts fun c => { c with evicted := bump c.evicted }).forecastRoom area size fuel

/-- The facts a stored part leaves in the record when it becomes the header part (R136, R139). -/
def withHeader (d : Device) (f : Forecast) (h : ForecastHeader) : Forecast :=
  let times := issueTimes d.utcNow h.day h.hour h.minute h.validFor
  { f with headerPart := h.idx, day := h.day, hour := h.hour, minute := h.minute, validFor := h.validFor,
           issued := times.1, validUntil := times.2 }

/-- The score of the header part; none before the first part is stored. -/
def headerScore (f : Forecast) : Option Nat :=
  match f.parts.getD f.headerPart none with
  | none => none
  | some p => some p.score

/-- Stores a part in a record (R136). -/
def storePart (d : Device) (f : Forecast) (h : ForecastHeader) (b : Burst) : Device :=
  let text := b.body.drop 12
  let p : PartInfo := ⟨copyScore b, b.erasures, b.pass, text.length⟩
  let leads := match headerScore f with
    | none => true
    | some s => decide (p.score < s)
  let d := d.writeText f.grant (102 * h.idx) text
  d.onForecast f.area f.complete fun f =>
    let f := { f with parts := f.parts.set h.idx (some p) }
    if leads then d.withHeader f h else f

/-- A record with every part present completes (R137). -/
def completeForecast (d : Device) (area : Nat) : Device :=
  match d.forecast? area false with
  | none => d
  | some k =>
    if k.parts.all Option.isSome then
      let d := match d.forecast? area true with
        | none => d
        | some c => d.freeForecast c
      let d := d.onForecast area false fun f => { f with complete := true }
      let d := d.onWeatherCounts fun c => { c with completed := bump c.completed }
      match d.forecast? area true with
      | none => d
      | some f => d.report .forecastReady (.forecast area) (forecastData f 0 none)
    else d

/-- A part stored only when its place is empty or it improves (R132, R136). -/
def improvesPart (f : Forecast) (h : ForecastHeader) (b : Burst) : Bool :=
  match f.parts.getD h.idx none with
  | none => true
  | some p => decide (copyScore b < p.score)

def countNotBetter (d : Device) : Device := d.onWeatherCounts fun c => { c with notBetter := bump c.notBetter }

/-- A part for the COLLECTING record (R136). -/
def partToCollecting (d : Device) (f : Forecast) (h : ForecastHeader) (b : Burst) : Device :=
  let d := d.onForecast f.area false fun f => { f with lastPart := b.endTime }
  if improvesPart f h b then (d.storePart f h b).completeForecast f.area else d.countNotBetter

/-- A part for the COMPLETE record (R138). Its last-part time moves with a stored part alone (entry 67). -/
def partToComplete (d : Device) (f : Forecast) (h : ForecastHeader) (b : Burst) : Device :=
  if improvesPart f h b then
    let d := (d.storePart f h b).onForecast f.area true fun f => { f with lastPart := b.endTime }
    match d.forecast? f.area true with
    | none => d
    | some f => d.report .forecastUpdated (.forecast f.area) (forecastData f 0 (some h.idx))
  else d.countNotBetter

/-- A part that differs in part count from its record is inconsistent (R134). -/
def partTo (d : Device) (f : Forecast) (h : ForecastHeader) (b : Burst) : Device :=
  if f.cnt ≠ h.cnt then d.onWeatherCounts fun c => { c with inconsistent := bump c.inconsistent }
  else if f.complete then d.partToComplete f h b
  else d.partToCollecting f h b

def countStale (d : Device) : Device := d.onWeatherCounts fun c => { c with stale := bump c.stale }

/-- Opens a new collection with its first part (R134, R135); `old` is the collection it supersedes. -/
def openCollection (d : Device) (h : ForecastHeader) (b : Burst) (old : Option Forecast) : Device :=
  if d.utcReached (issueTimes d.utcNow h.day h.hour h.minute h.validFor).2 then d.countStale
  else
    let d := match old with
      | none => d
      | some k => (d.freeForecast k).onWeatherCounts fun c => { c with superseded := bump c.superseded }
    match d.forecastRoom h.area (h.cnt * 102) 17 with
    | (none, d) => d.onWeatherCounts fun c => { c with droppedForRoom := bump c.droppedForRoom }
    | (some id, d) =>
      let f : Forecast :=
        { issuer := h.issuer, area := h.area, issue := h.issue, cnt := h.cnt,
          parts := List.replicate h.cnt none, headerPart := 0, day := h.day, hour := h.hour,
          minute := h.minute, validFor := h.validFor, issued := none, validUntil := none, grant := id,
          lastPart := b.endTime, complete := false }
      (d.onWeather fun w => { w with forecasts := w.forecasts ++ [f] }).partToCollecting f h b

/-- A FORECAST part placed by its issue number (R134). -/
def placePart (d : Device) (h : ForecastHeader) (b : Burst) : Device :=
  let k := d.forecast? h.area false
  let c := d.forecast? h.area true
  let newerThan (x : Option Forecast) : Bool := match x with
    | none => true
    | some f => newer h.issue f.issue
  let isIssue (x : Option Forecast) : Bool := match x with
    | none => false
    | some f => f.issue == h.issue
  match k, c with
  | some kf, _ =>
    if isIssue k then d.partTo kf h b
    else match c with
      | some cf =>
        if isIssue c then d.partTo cf h b
        else if newerThan k && newerThan c then d.openCollection h b k
        else d.onWeatherCounts fun n => { n with oldIssue := bump n.oldIssue }
      | none =>
        if newerThan k then d.openCollection h b k
        else d.onWeatherCounts fun n => { n with oldIssue := bump n.oldIssue }
  | none, some cf =>
    if isIssue c then d.partTo cf h b
    else if newerThan c then d.openCollection h b none
    else d.onWeatherCounts fun n => { n with oldIssue := bump n.oldIssue }
  | none, none => d.openCollection h b none

def countMalformed (d : Device) : Device := d.onWeatherCounts fun c => { c with malformed := bump c.malformed }
def countHeaderErasure (d : Device) : Device :=
  d.onWeatherCounts fun c => { c with headerErasures := bump c.headerErasures }
def countForeign (d : Device) : Device := d.onWeatherCounts fun c => { c with foreignIssuer := bump c.foreignIssuer }

/-- A FORECAST burst (R131, R133). -/
def receiveForecast (d : Device) (b : Burst) : Device :=
  let h := forecastHeader b.body
  if b.body.length < 12 then d.countMalformed
  else if headerErased b 12 then d.countHeaderErasure
  else if !d.config.sources.contains h.issuer then d.countForeign
  else if !forecastInRange h b.body.length then d.countMalformed
  else if !d.config.areas.contains h.area then
    d.onWeatherCounts fun c => { c with unwantedArea := bump c.unwantedArea }
  else if d.weather.forecasts.any fun f => f.area == h.area && f.issuer != h.issuer then
    d.onWeatherCounts fun c => { c with otherIssuer := bump c.otherIssuer }
  else d.placePart h b

/-- A COMPLETE record's validity ends (R140). -/
def expireForecast (d : Device) (f : Forecast) : Device :=
  let d := (d.freeForecast f).onWeatherCounts fun c => { c with expired := bump c.expired }
  d.report .forecastExpired (.forecast f.area) (forecastExpiredData f.area f.issuer f.issue)

/-- A COLLECTING record is discarded (R140). -/
def discardForecast (d : Device) (f : Forecast) : Device :=
  (d.freeForecast f).onWeatherCounts fun c => { c with discarded := bump c.discarded }

/-! ## Warning records -/

def warning? (d : Device) (issuer issue : Nat) : Option Warning :=
  d.weather.warnings.find? fun w => w.issuer == issuer && w.issue == issue

def onWarning (d : Device) (issuer issue : Nat) (f : Warning → Warning) : Device :=
  d.onWeather fun s =>
    { s with warnings := mapIf (fun w => w.issuer == issuer && w.issue == issue) f s.warnings }

def isWarningItem (issuer issue : Nat) (it : Item) : Bool := it.owner == .warning issuer issue

def lostWeatherReport (d : Device) : Device :=
  d.onWeatherCounts fun c => { c with lostReports := bump c.lostReports }

/-- Frees a warning record: its wait dropped, its item withdrawn unless on air, its owed report lost
(R142, R143, R146). -/
def freeWarning (d : Device) (w : Warning) : Device :=
  let d := (d.removeWait .warning w.issuer w.issue).withdraw .priority (isWarningItem w.issuer w.issue)
  let d := if d.marked .general (.warning w.issuer w.issue)
    then (d.dropMark .general (.warning w.issuer w.issue)).lostWeatherReport else d
  (d.onWeather fun s =>
    { s with warnings := s.warnings.filter fun x => !(x.issuer == w.issuer && x.issue == w.issue) }).releaseGrant
      w.grant

/-- The record R142 replaces: of the lowest severity held, the oldest first stored, then the lower issuer
and issue. -/
def warningToReplace (d : Device) : Option Warning :=
  let ordered := sortBy (fun w => w.firstStored) (sortBy (fun w => w.issuer)
    (sortBy (fun w => w.issue) d.weather.warnings))
  minBy? (fun w => w.severity.value) ordered

def warningText (d : Device) (w : Warning) : List Nat := d.store.readSyms w.grant 0 w.len

/-- A WARNING report with text, or the owed mark (R146). -/
def reportWarning (d : Device) (w : Warning) (event : Nat) : Device :=
  d.report .warning (.warning w.issuer w.issue) (warningData w event (some (d.warningText w)))

/-- The facts of a copy as a record would hold them. -/
def warningFrom (d : Device) (h : WarningHeader) (sev : Severity) (b : Burst) (grant : Nat) : Warning :=
  let times := issueTimes d.utcNow h.day h.hour h.minute h.validFor
  { issuer := h.issuer, issue := h.issue, severity := sev, day := h.day, hour := h.hour, minute := h.minute,
    validFor := h.validFor, areas := h.areas, wanted := h.areas.any fun a => d.config.areas.contains a,
    issued := times.1, validUntil := times.2, grant := grant,
    len := b.body.length - (11 + h.areas.length), score := copyScore b, erasures := b.erasures,
    pass := b.pass, firstStored := b.endTime, relay := .none }

def copyText (h : WarningHeader) (b : Burst) : List Nat := b.body.drop (11 + h.areas.length)

/-- A copy that is not stored (R142). -/
def warningNotStored (d : Device) (w : Warning) : Device :=
  let d := d.onWeatherCounts fun c => { c with notStored := bump c.notStored }
  match d.reportOrLose .warning 0 (warningData w 2 none) with
  | (true, d) => d
  | (false, d) => d.lostWeatherReport

/-- Stores a new warning in a free record (R141). -/
def storeWarning (d : Device) (h : WarningHeader) (sev : Severity) (b : Burst) : Device :=
  let text := copyText h b
  match d.reserve .warning text.length with
  | (.granted id, d) =>
    let w := d.warningFrom h sev b id
    let d := (d.writeText id 0 text).onWeather fun s => { s with warnings := s.warnings ++ [w] }
    (d.onWeatherCounts fun c => { c with stored := bump c.stored }).reportWarning w 0
  | (_, d) => d.warningNotStored (d.warningFrom h sev b 0)

/-- A repeat that improves replaces the copy held whole (R141). -/
def improveWarning (d : Device) (old : Warning) (h : WarningHeader) (sev : Severity) (b : Burst) : Device :=
  let text := copyText h b
  let (grant, d) :=
    if text.length = old.len then (old.grant, d)
    else match (d.releaseGrant old.grant).reserve .warning text.length with
      | (.granted id, d) => (id, d)
      | (_, d) => (old.grant, d)
  let w := { d.warningFrom h sev b grant with firstStored := old.firstStored, relay := old.relay }
  ((d.writeText grant 0 text).onWarning old.issuer old.issue fun _ => w).reportWarning w 1

/-- A new warning: in a free record, in the record R142 frees, or not stored. -/
def newWarning (d : Device) (h : WarningHeader) (sev : Severity) (b : Burst) : Device :=
  if d.weather.warnings.length < 6 then d.storeWarning h sev b
  else match d.warningToReplace with
    | none => d
    | some r =>
      if r.severity.value ≤ sev.value then (d.freeWarning r).storeWarning h sev b
      else d.warningNotStored (d.warningFrom h sev b 0)

/-- The conditions of R144 for a copy heard. -/
def wantsRelay (d : Device) (b : Burst) (w : Warning) : Bool :=
  b.source == w.issuer && b.pass && b.erasures == 0 && w.wanted && w.relay == .none && d.config.warning

/-- Asks a relay wait for a record (R144). -/
def examineWarning (d : Device) (issuer issue : Nat) (b : Burst) : Device :=
  match d.warning? issuer issue with
  | none => d
  | some w =>
    if d.wantsRelay b w then
      match d.startWait .warning issuer issue with
      | (true, _, d) => d.onWarning issuer issue fun w => { w with relay := .waiting }
      | (false, _, d) => d
    else d

/-- A copy from another station than the issuer suppresses the part's relay (R144). -/
def suppressWarning (d : Device) (issuer issue : Nat) : Device :=
  match d.warning? issuer issue with
  | none => d
  | some w =>
    match w.relay with
    | .relayed | .suppressed => d
    | _ => (d.withdraw .priority (isWarningItem issuer issue)).onWarning issuer issue fun w =>
        { w with relay := .suppressed }

/-- A relay heard for a WARNING wait (R75, R144): the wait ends, and its record is SUPPRESSED. -/
def warningRelayHeard (d : Device) (issuer issue : Nat) : Device :=
  match d.wait? .warning issuer issue with
  | none => d
  | some _ => (d.removeWait .warning issuer issue).onWarning issuer issue fun w => { w with relay := .suppressed }

/-- The record held of the issuer and issue has reached its valid-until, and its removal has not been taken (R143). -/
def warningExpiring (d : Device) (issuer issue : Nat) : Bool :=
  match d.warning? issuer issue with
  | none => false
  | some w => d.utcReached w.validUntil

/-- A WARNING copy that passed R131 is applied (R141): a stale one is ignored, but a copy taken at the instant of its
record's removal, before the removal, is judged as a repeat (R143; how that instant is seen: entry 71). -/
def applyWarning (d : Device) (h : WarningHeader) (sev : Severity) (b : Burst) : Device :=
  if !d.warningExpiring h.issuer h.issue
      && d.utcReached (issueTimes d.utcNow h.day h.hour h.minute h.validFor).2 then d.countStale
  else
    let d := match d.warning? h.issuer h.issue with
      | some w => if copyScore b < w.score then d.improveWarning w h sev b else d.countNotBetter
      | none => d.newWarning h sev b
    d.examineWarning h.issuer h.issue b

/-- A WARNING burst (R131). A copy from another station suppresses the record held before it is applied, so that a
relayed copy that makes the record itself does not suppress it (entry 59). -/
def receiveWarning (d : Device) (b : Burst) : Device :=
  let count := symAt b.body 10
  let h := warningHeader b.body
  if b.body.length < 12 ∨ b.body.length < 11 + count then d.countMalformed
  else if headerErased b (11 + count) then d.countHeaderErasure
  else
    let d := if b.source = h.issuer then d else d.warningRelayHeard h.issuer h.issue
    if !d.config.sources.contains h.issuer then d.countForeign
    else match (if warningInRange h count then Severity.ofValue h.severity else none) with
      | none => d.countMalformed
      | some sev =>
        let d := if b.source = h.issuer then d else d.suppressWarning h.issuer h.issue
        d.applyWarning h sev b

/-- The body of a relayed WARNING (R145). -/
def warningBody (d : Device) (w : Warning) : List Nat :=
  toSyms 3 w.issuer ++ toSyms 2 w.issue ++ [w.severity.value, w.day, w.hour, w.minute, w.validFor,
    w.areas.length] ++ w.areas ++ d.warningText w

/-- A WARNING wait has run out: the relay is offered (R76, R144). -/
def offerWarning (d : Device) (issuer issue : Nat) : Device :=
  match d.warning? issuer issue with
  | none => d
  | some w =>
    (d.onWarning issuer issue fun w => { w with relay := .offered }).offer
      (d.newItem .warning allStations 0 (d.warningBody w) (.warning issuer issue))

/-- The end of a relayed WARNING is reported (R145). -/
def warningSent (d : Device) (issuer issue : Nat) : Device :=
  (d.onWarning issuer issue fun w =>
    if w.relay = .offered then { w with relay := .relayed } else w).onWeatherCounts fun c =>
      { c with relaysSent := bump c.relaysSent }

/-- A relayed WARNING is aborted by a trip, the key-time limit or preemption (R32, R43): offered again with
its original ready time, and with its body as it was (entry 60), while its record stands. -/
def warningAborted (d : Device) (it : Item) (issuer issue : Nat) : Device :=
  match d.warning? issuer issue with
  | none => d
  | some w => if w.relay = .offered then d.offer it else d

/-! ## Ship's time and the records (R139, R140, R143) -/

/-- Issued UTC and valid-until of every record, when the first TIME frame sets UTC (R139). -/
def computeTimes (d : Device) : Device :=
  d.onWeather fun s =>
    { s with
      forecasts := s.forecasts.map fun f =>
        let t := issueTimes d.utcNow f.day f.hour f.minute f.validFor
        { f with issued := t.1, validUntil := t.2 },
      warnings := s.warnings.map fun w =>
        let t := issueTimes d.utcNow w.day w.hour w.minute w.validFor
        { w with issued := t.1, validUntil := t.2 } }

/-- Every valid-until that UTC has reached (R140, R143, R198): of the forecasts in the order of the table, then of the
warnings (entry 68). -/
def reachValidity (d : Device) : Device :=
  let d := d.weather.forecasts.foldl (fun d f =>
    if d.utcReached f.validUntil then (if f.complete then d.expireForecast f else d.discardForecast f) else d) d
  d.weather.warnings.foldl (fun d w => if d.utcReached w.validUntil then d.freeWarning w else d) d

end Device
end Sys2Proof.Machine
end

