-- ==== Sys2Proof/Machine/Protection.lean ====
section
/-! DEFINITION. The Transmitter Protection Monitor and the loop test (03), and the drop of the key (R28, R30). -/

namespace Sys2Proof.Machine
namespace Device

/-! ## Monitors -/

def monitor (d : Device) : MonitorId → Monitor
  | .tune => d.prot.tune
  | .reflect => d.prot.reflect
  | .supply => d.prot.supply
  | .keytime => d.prot.keytime

def onMonitor (d : Device) (m : MonitorId) (f : Monitor → Monitor) : Device :=
  d.onProt fun p =>
    match m with
    | .tune => { p with tune := f p.tune }
    | .reflect => { p with reflect := f p.reflect }
    | .supply => { p with supply := f p.supply }
    | .keytime => { p with keytime := f p.keytime }

/-- The order of R39, KEYTIME last (entries 63 and 73). -/
def monitorOrder : List MonitorId := [.tune, .reflect, .supply, .keytime]

/-- The trip delay D of a monitor. -/
def tripDelay (d : Device) : MonitorId → Nat
  | .tune => d.config.dTune
  | .reflect => d.config.dReflect
  | .supply => d.config.dSupply
  | .keytime => d.config.dKeytime

/-- The fields of PROTECTION (R47). -/
def protectionData (m : MonitorId) (prev new : MonState) (cause : ProtCause) (trips keyTime : Nat) : List Datum :=
  [.num 1 (monitorCode m), .num 1 prev.code, .num 1 new.code, .num 1 cause.code, count16 trips, count16 keyTime]

/-- Reports a change of a monitor's state, or leaves the owed mark with the state before it (R47). -/
def reportMonitor (d : Device) (m : MonitorId) (prev : MonState) (cause : ProtCause) (keyTime : Nat) : Device :=
  let had := d.marked .general (.monitor m)
  let d := d.report .protection (.monitor m)
    (protectionData m prev (d.monitor m).st cause d.prot.trips keyTime)
  if had = false ∧ d.marked .general (.monitor m) then d.onMonitor m fun x => { x with owedFrom := some prev }
  else d

/-- The key-time count a report carries: 0 when the key is down (R47). -/
def reportKeyTime (d : Device) : Nat := if d.keyLine then d.keyTime else 0

/-- A monitor changes state with run `run` and is reported. -/
def moveMonitor (d : Device) (m : MonitorId) (st : MonState) (run : Nat) (cause : ProtCause)
    (keyTime : Nat) : Device :=
  let prev := (d.monitor m).st
  (d.onMonitor m fun x => { x with st := st, run := run }).reportMonitor m prev cause keyTime

/-- The count has reached the latch limit, when there is one (R45). -/
def latches (d : Device) (trips : Nat) : Bool := d.config.latch != 0 && decide (d.config.latch ≤ trips)

/-- A trip of TUNE, REFLECT or SUPPLY (R40, R44, R45). -/
def tripMonitor (d : Device) (m : MonitorId) : Device :=
  let trips := min 255 (d.prot.trips + 1)
  let d := d.onProt fun p => { p with trips := trips, quietEnd := none }
  if d.latches trips then d.moveMonitor m .latched 0 .latchLimit d.reportKeyTime
  else
    let d := d.onMonitor m fun x =>
      { x with recoverAt := if d.config.recovery = 0 then none else some (d.now + d.config.recovery * 1000) }
    d.moveMonitor m .tripped 0 .runComplete d.reportKeyTime

/-- One monitor with an input at a check (R40): whether it tripped or latched. A monitor that its recovery timer
returned to NORMAL during this keying is not sampled (R44). -/
def sampleMonitor (d : Device) (m : MonitorId) (active : Bool) : Bool × Device :=
  let x := d.monitor m
  if x.resting then (false, d)
  else match x.st, active with
  | .normal, false => (false, d.onMonitor m fun x => { x with run := 0 })
  | .normal, true =>
    if d.tripDelay m ≤ 1 then (true, d.tripMonitor m)
    else (false, d.moveMonitor m .alert 1 .activeSample d.reportKeyTime)
  | .alert, false => (false, d.moveMonitor m .normal 0 .inactiveSample d.reportKeyTime)
  | .alert, true =>
    if d.tripDelay m ≤ x.run + 1 then (true, d.tripMonitor m)
    else (false, d.onMonitor m fun x => { x with run := min 255 (x.run + 1) })
  | _, _ => (false, d)

/-- The warning point of KEYTIME (R41). -/
def warningPoint (d : Device) : Nat := 25000 - d.config.dKeytime * 100

/-- KEYTIME at a check (R41). It counts no active run: its run stays 0 in ALERT too (entry 52). -/
def sampleKeytime (d : Device) : Device :=
  if d.prot.keytime.st = .normal ∧ d.warningPoint ≤ d.keyTime then
    d.moveMonitor .keytime .alert 0 .activeSample d.reportKeyTime
  else d

/-- The BEACON item goes when the inhibit begins (R73). -/
def afterInhibit (before : Bool) (d : Device) : Device := if !before && d.inhibit then d.dropBeacon else d

/-- KEYTIME trips at the key-time limit (R41): straight to LATCHED; the quiet timer stops (R45). -/
def tripKeytime (d : Device) (keyTime : Nat) : Device :=
  let before := d.inhibit
  let d := d.onProt fun p => { p with quietEnd := none }
  let d := if d.prot.keytime.st = .normal ∨ d.prot.keytime.st = .alert
    then d.moveMonitor .keytime .latched 0 .keyTimeLimit keyTime else d
  afterInhibit before d

/-- A monitor recovers (R44): its timer runs out, and the quiet timer starts (R45). With the key up it is sampled
again from the first check of the next keying. -/
def recoverMonitor (d : Device) (m : MonitorId) : Device :=
  let up := d.keyLine
  let d := d.onMonitor m fun x => { x with recoverAt := none, resting := up }
  let d := d.onProt fun p => { p with quietEnd := some (d.now + 300000) }
  d.moveMonitor m .normal 0 .recoveryTime d.reportKeyTime

/-- RECOVER (R46). The reports of several monitors are queued in the order TUNE, REFLECT, SUPPLY, KEYTIME
(entry 63). -/
def recoverAll (d : Device) : Device :=
  let d := d.onProt fun p => { p with trips := 0, quietEnd := none }
  monitorOrder.foldl (fun d m =>
    if inhibits (d.monitor m) then
      (d.onMonitor m fun x => { x with recoverAt := none }).moveMonitor m .normal 0 .recover d.reportKeyTime
    else d) d

/-! ## The key drops (R28, R30) -/

/-- Each monitor in ALERT returns to NORMAL at key dropped (R40); at the key-time limit KEYTIME trips
instead (R41). The reports of several monitors are queued in the order TUNE, REFLECT, SUPPLY, KEYTIME (entry 63). -/
def endAlerts (d : Device) (keyTime : Nat) (limit : Bool) : Device :=
  monitorOrder.foldl (fun d m =>
    if (d.monitor m).st = .alert ∧ ¬(limit = true ∧ m = .keytime)
    then d.moveMonitor m .normal 0 .keyDropped keyTime else d) d

/-- The monitors that rested are sampled again from the first check of the next keying (R44). -/
def endRests (d : Device) : Device :=
  d.onProt fun p =>
    { p with tune := { p.tune with resting := false }, reflect := { p.reflect with resting := false },
             supply := { p.supply with resting := false }, keytime := { p.keytime with resting := false } }

/-- The key drops: the count stops, the channel is CLEAR and a clear spell starts, the debounce filter starts
afresh, the transmit record is empty and the receive record hunts (R8, R11, R19, R20, R28, R30). CHANNEL CLEARED is
queued before the PROTECTION reports of the same key drop (entry 49). -/
def dropKey (d : Device) (limit : Bool) : Device :=
  let kt := d.keyTime
  let d := { d with tx := none, rx := Rx.blank .hunting }
  let d := (d.onAccess fun a => { a with onAir := none, keyTime := kt, filterFrom := d.now }).enterClear
  d.endRests.endAlerts kt limit

/-! ## The loop test (R18, R49, R50) -/

/-- The fields of LOOP RESULT (R50). -/
def loopData (k : LoopKept) : List Datum :=
  [.num 1 k.outcome.code, count16 k.mutilated, .num 1 (checkCode k.check)]

/-- LOOP RESULT is queued, or the record keeps its result and takes an owed mark (R50). -/
def reportLoop (d : Device) (k : LoopKept) : Device :=
  let d := d.reportTagged .loopResult k.tag .loop (loopData k)
  d.onLoop fun l => { l with kept := if d.marked .general .loop then some k else l.kept }

/-- The loop path is released: the receive record hunts again (R11, R18). -/
def leaveLoop (d : Device) : Device :=
  let d := if d.loop.st = .looping then { d with rx := Rx.blank .hunting } else d
  d.onLoop fun l => { l with st := .idle }

/-- The tag that LOOP RESULT takes: a test that is WAITING or LOOPING has one (R49). -/
def loopTag (d : Device) : Nat := d.loop.tag.getD 0

/-- The test is abandoned (R49, R50). -/
def abandonLoop (d : Device) : Device :=
  if d.loop.st = .idle then d
  else d.leaveLoop.reportLoop ⟨.abandoned, 0, false, d.loopTag⟩

/-- The test starts at the first moment at which the channel is not OWN and no reception is in progress
(R49). -/
def canStartLoop (d : Device) : Bool :=
  d.loop.st == .waiting && d.access.chan != .own && !d.reception

def startLoop (d : Device) : Device :=
  ({ d with rx := Rx.blank .closed }).onLoop fun l => { l with st := .looping, endAt := d.now + 3840 }

/-- Whether the received character is mutilated for its position of the TEST burst (R1, R18). -/
def loopMutilated (i : Nat) (p : Pattern) : Bool :=
  if i = 0 then !isControl p syncARank
  else if i = 1 then !isControl p syncBRank
  else if i = 47 then !isControl p endRank
  else (symbolOf p).isNone

/-- The result the Burst Engine hands over for the received patterns (R18). -/
def loopVerdict (d : Device) (received : List Pattern) : LoopKept :=
  let sent := loopRanks d.config.own
  let bad := (List.range 48).filter fun i => loopMutilated i (received.getD i 0#8)
  let syms := received.map fun p => (symbolOf p).getD 63
  let carried := symsAt syms 44 3
  let compared := checkOf ((syms.drop 2).take 42) == carried
  let check := compared && !(bad.any fun i => decide (2 ≤ i) && decide (i ≤ 46))
  let equal := received == sent.map patternOf
  ⟨if bad.isEmpty && check && equal then .pass else .fail, bad.length, check, d.loopTag⟩

end Device
end Sys2Proof.Machine
end

