-- ==== Sys2Proof/Machine/Distress.lean ====
section
/-! DEFINITION. The Distress Unit (07): the channel hold, the own alert, cases, the settled-alert list, and
what the offering blocks do when a burst of theirs is aborted (R32, R43) or its end is reported (R28). -/

namespace Sys2Proof.Machine

/-- Causes of HOLD STARTED as R127 lists them. -/
inductive HoldCause | ownAlert | distressHeard | ackHeard | relayHeard | cancelHeard
deriving DecidableEq, Repr

def HoldCause.code : HoldCause → Nat
  | .ownAlert => 0 | .distressHeard => 1 | .ackHeard => 2 | .relayHeard => 3 | .cancelHeard => 4

/-- Events of OWN ALERT STATE as R129 lists them. -/
inductive OwnEvent
  | started | updated | raisedAgain | sent | acknowledged | ackHeard | oldAck | relayed | cancelling
  | cancelSent | idle | owed
deriving DecidableEq, Repr

def OwnEvent.code : OwnEvent → Nat
  | .started => 0 | .updated => 1 | .raisedAgain => 2 | .sent => 3 | .acknowledged => 4 | .ackHeard => 5
  | .oldAck => 6 | .relayed => 7 | .cancelling => 8 | .cancelSent => 9 | .idle => 10 | .owed => 11

/-- Events of CASE UPDATE as R129 lists them. -/
inductive CaseEvent | created | newAlert | facts | reopened | acked | relayed | owed
deriving DecidableEq, Repr

def CaseEvent.code : CaseEvent → Nat
  | .created => 0 | .newAlert => 1 | .facts => 2 | .reopened => 3 | .acked => 4 | .relayed => 5 | .owed => 6

namespace Device

def onDistressCounts (d : Device) (f : DistressCounts → DistressCounts) : Device :=
  d.onDistress fun u => { u with counts := f u.counts }

def onOwn (d : Device) (f : OwnAlert → OwnAlert) : Device := d.onDistress fun u => { u with own := f u.own }

/-! ## The hold (R125 to R127) -/

/-- The hold timer's remaining time in whole seconds; 0 when it is stopped. -/
def holdSeconds (d : Device) : Nat :=
  match d.distress.holdTimer with
  | none => 0
  | some t => (t - d.now) / 1000

/-- HOLD STARTED with its cause's number (R127). -/
def holdStartedData (d : Device) (cause : Nat) (st : Station) : List Datum :=
  [.num 1 cause, .num 3 st, .num 2 (sat16 d.holdSeconds)]

/-- What the dependent blocks do when the hold comes into force (R127), and HOLD STARTED. -/
def startHold (d : Device) (cause : Nat) (st : Station) : Device :=
  let d := d.onDistress fun u => { u with holdSince := some d.now, holdCause := cause, holdStation := st }
  let d := d.holdTransfers
  let d := d.dropBeacon
  let d := if d.loop.st = .waiting then d.abandonLoop else d
  let d := d.onRep fun r => { r with deadline := r.deadline.map fun c => c.pause d.now }
  d.report .holdStarted .hold (d.holdStartedData cause st)

/-- Restarts the hold timer at the hold length (R125). -/
def restartHold (d : Device) (cause : Nat) (st : Station) : Device :=
  let before := d.holdInForce
  let d := d.onDistress fun u => { u with holdTimer := some (d.now + d.config.hold * 60000) }
  if before then d else d.startHold cause st

/-- The timer's remaining time becomes at most 60 s (R126). -/
def cutHold (d : Device) : Device :=
  d.onDistress fun u => { u with holdTimer := u.holdTimer.map fun t => min t (d.now + 60000) }

/-- The HELD waits run out: oldest expiry first, then the one taken first (R76). -/
def releaseHeldWaits (d : Device) : Device :=
  (sortBy (fun w => w.expiry) (d.waits.filter fun w => w.held)).foldl (fun d w =>
    (d.removeWait w.kind w.station w.number).offerWarning w.station w.number) d

/-- The receipt deadline resumes; one with nothing left runs out at once (R181). -/
def resumeDeadline (d : Device) : Device :=
  match d.rep.deadline with
  | none => d
  | some c =>
    let d := d.onRep fun r => { r with deadline := some (c.resume d.now) }
    if d.rep.st = .awaitingReceipt ∧ c.left d.now = 0 then d.endReport .lost (some .deadline) else d

/-- The length of the hold so far in whole seconds. -/
def holdLength (d : Device) : Nat :=
  match d.distress.holdSince with
  | none => 0
  | some t => (d.now - t) / 1000

/-- HOLD ENDED with the hold's length in whole seconds (R127). -/
def holdEndedData (seconds : Nat) : List Datum := [count16 seconds]

/-- The hold has ended: what the dependent blocks do, and HOLD ENDED (R127). -/
def endHold (d : Device) : Device :=
  let n := d.holdLength
  let d := d.onDistress fun u => { u with holdSince := none, lastHold := n }
  let d := d.unholdTransfers.releaseHeldWaits.resumeDeadline
  d.report .holdEnded .hold (holdEndedData n)

/-! ## Aborts (R32, R43, R85) -/

/-- An own item's body (R110, R113): a DISTRESS body built from the record and the fix, or empty. -/
def ownBody (d : Device) : List Nat :=
  if d.distress.own.st = .cancelling then []
  else distressBody
    { nature := d.distress.own.nature,
      pos := d.console.fix.map fun f => (f.lat, f.lon),
      posTime := d.console.fix.map fun f => (f.hour, f.minute),
      persons := d.distress.own.persons }

def ownKind (d : Device) : BurstKind := if d.distress.own.st = .cancelling then .cancel else .distress

/-- Offers the own item that the record's state asks for: a CANCEL in CANCELLING, else a DISTRESS. -/
def placeOwn (d : Device) : Device :=
  d.offer (d.newItem d.ownKind allStations d.distress.own.num d.ownBody .own)

def isOwnItem (it : Item) : Bool := it.owner == .own
def isAckItem (st alert : Nat) (it : Item) : Bool := it.owner == .caseAck st alert
def isRelayItem (st alert : Nat) (it : Item) : Bool := it.owner == .caseRelay st alert

def case? (d : Device) (st : Station) : Option Case := d.distress.cases.find? fun c => c.station == st

def onCase (d : Device) (st : Station) (f : Case → Case) : Device :=
  d.onDistress fun u => { u with cases := mapIf (fun c => c.station == st) f u.cases }

/-- A case holds the given alert. -/
def holdsAlert (d : Device) (st alert : Nat) : Bool :=
  match d.case? st with
  | none => false
  | some c => c.alert == alert

/-- The offering block's accounting of its aborted burst (R43, R73, R85, R145, R202). A DISTRESS-ACK is offered again
whatever has become of its case (entry 24). -/
def accountAbort (d : Device) (it : Item) (r : AbortReason) : Device :=
  match r, it.owner with
  | .restart, _ => d
  | _, .slot i => d.dataAborted i
  | _, .answer => d
  | _, .beacon => d.skipBeacon
  | _, .warning issuer issue => d.warningAborted it issuer issue
  | _, .caseAck _ _ => d.offer it
  | _, .caseRelay _ _ => d
  | _, .own => (d.onOwn fun o => { o with repeatAsked := false }).placeOwn

/-- An abort of the burst on air (R30). -/
def abortBurst (d : Device) (r : AbortReason) : Device :=
  match d.access.onAir with
  | none => d
  | some a =>
    let d := d.dropKey (r == .keytime)
    let d := d.onAccess fun x =>
      { x with counts := { x.counts with
          aborts := bump x.counts.aborts,
          preemptions := if r = .preempted then bump x.counts.preemptions else x.counts.preemptions } }
    d.accountAbort a.item r

/-! ## The own alert (R107 to R113) -/

/-- Position flags: PRESENT 0, STALE 1, ABSENT 2 (R129). -/
def positionFlag (d : Device) : Nat :=
  match d.console.fix with
  | none => 2
  | some f => if d.fixStale f then 1 else 0

/-- The fields of OWN ALERT STATE (R129). -/
def ownAlertData (d : Device) (e : OwnEvent) (num : Nat) (st : Station) : List Datum :=
  let o := d.distress.own
  [.num 1 o.st.code, .num 1 num, .num 1 o.nature, optNum 1 o.persons, .num 1 e.code, .num 3 st,
   .num 1 d.positionFlag, count16 o.cancelCount]

/-- OWN ALERT STATE about the record's own alert number; the station is the acknowledging one it holds. -/
def reportOwn (d : Device) (e : OwnEvent) : Device :=
  d.report .ownAlertState .ownAlert (d.ownAlertData e d.distress.own.num (d.distress.own.ackedBy.getD 0))

/-- OWN ALERT STATE about something heard from a station. -/
def reportOwnHeard (d : Device) (e : OwnEvent) (num : Nat) (st : Station) : Device :=
  d.report .ownAlertState .ownAlert (d.ownAlertData e num st)

/-- An own distress request (R32, R107): a loop test is abandoned, a ROUTINE or PRIORITY burst on air is
preempted, and the own item is offered. The abandonment comes first (entry 50). -/
def offerOwn (d : Device) : Device :=
  let d := d.abandonLoop
  let d := match d.onAirKind with
    | some k => if k.cls = AccessClass.routine ∨ k.cls = AccessClass.priority then d.abortBurst .preempted else d
    | none => d
  d.placeOwn

/-- Whether an own DISTRESS or CANCEL item waits or is contender, and whether one is on air. -/
def ownWaits (d : Device) : Bool := d.hasItem .distress isOwnItem
def ownOnAir (d : Device) : Bool :=
  match d.access.onAir with
  | none => false
  | some a => a.item.owner == .own

/-- Some case is not CLOSED, or the own alert stands: no cut (R126). -/
def cutIfQuiet (d : Device) : Device :=
  if d.distress.own.st = .idle ∧ d.caseOpen = false then d.cutHold else d

/-- The end of an own DISTRESS burst (R110). -/
def ownDistressSent (d : Device) : Device :=
  let again := d.distress.own.repeatAsked
  let d := d.onOwn fun o => { o with repeatAsked := false }
  let d := (d.restartHold HoldCause.ownAlert.code d.config.own).reportOwn .sent
  match d.distress.own.st with
  | .alerting =>
    if again then d.offerOwn
    else
      let (k, d) := d.draw 0 30
      d.onOwn fun o => { o with repeatDue := some (d.now + 240000 + k * 1000) }
  | .cancelling => d.offerOwn
  | _ => d

/-- The end of an own CANCEL burst (R113). -/
def ownCancelSent (d : Device) : Device :=
  let d := d.restartHold HoldCause.ownAlert.code d.config.own
  let d := d.onOwn fun o => { o with cancelCount := o.cancelCount + 1 }
  if d.distress.own.cancelCount < 2 then
    (d.onOwn fun o => { o with cancelDue := some (d.now + 60000) }).reportOwn .cancelSent
  else ((d.onOwn fun o => { o with st := .idle, cancelDue := none }).reportOwn .idle).cutIfQuiet

/-- An own acknowledgement, readable (R112). -/
def ownAcknowledged (d : Device) (b : Burst) : Device :=
  let o := d.distress.own
  if b.seq ≠ o.num ∨ o.st = .idle then d.reportOwnHeard .oldAck b.seq b.source
  else match o.st with
    | .alerting =>
      let d := d.onOwn fun o => { o with st := .acknowledged, ackedBy := some b.source, repeatDue := none }
      (d.withdraw .distress isOwnItem).reportOwn .acknowledged
    | _ => d.reportOwnHeard .ackHeard o.num b.source

/-! ## Cases (R114 to R122) -/

/-- The fields of CASE UPDATE, packed as R207 gives them. -/
def caseData (d : Device) (c : Case) (e : CaseEvent) : List Datum :=
  let acked := match c.ackedBy with
    | none => 0
    | some .own => 96
    | some (.station _) => 32
  [.num 3 c.station, .num 1 (c.alert * 4 + c.st.code), .num 1 (e.code * 16 + c.nature),
   .num 1 (flag c.readable + 2 * flag c.pos.isSome + 4 * flag c.posTime.isSome + 8 * flag c.persons.isSome
     + 16 * flag c.via.isNone + acked)]
    ++ positionData c.pos ++ hourMinuteData c.posTime
    ++ [optNum 1 c.persons, .num 3 (c.via.getD 0),
        .num 3 (match c.ackedBy with | none => 0 | some .own => d.config.own | some (.station s) => s)]

def reportCase (d : Device) (st : Station) (e : CaseEvent) : Device :=
  match d.case? st with
  | none => d
  | some c => d.report .caseUpdate (.caseOf st) (d.caseData c e)

/-- CASE CLOSED (R129). -/
def caseClosedData (st alert : Nat) (r : CloseReason) : List Datum := [.num 3 st, .num 1 alert, .num 1 r.code]

/-- Drops the relay wait of a case's alert and withdraws its items; an own acknowledgement whose item was
withdrawn returns to NONE (R119 to R122). -/
def dropCaseTraffic (d : Device) (st alert : Nat) : Device :=
  let acking := d.hasItem .distress (isAckItem st alert)
  let d := d.removeWait .distress st alert
  let d := d.withdraw .distress fun it => isAckItem st alert it || isRelayItem st alert it
  if acking then d.onCase st fun c => { c with ownAck := .none } else d

/-- A case closes (R119, R120, R122), with the cut of R126. -/
def closeCase (d : Device) (c : Case) (r : CloseReason) : Device :=
  let d := d.dropCaseTraffic c.station c.alert
  let d := d.onCase c.station fun c => { c with st := .closed, closeReason := some r }
  (d.report .caseClosed (.caseOf c.station) (caseClosedData c.station c.alert r)).cutIfQuiet

/-- The case R117 frees: the CLOSED one heard of longest ago, else the ACKED one; ties by station. -/
def caseToFree (d : Device) : Option Case :=
  let ordered := sortBy (fun c => c.station) d.distress.cases
  match minBy? (fun c => c.lastHeard) (ordered.filter fun c => c.st == .closed) with
  | some c => some c
  | none => minBy? (fun c => c.lastHeard) (ordered.filter fun c => c.st == .acked)

/-- Frees a case for another station's, which takes its owed mark (R117, R129). -/
def freeCase (d : Device) (c : Case) (new : Station) : Device :=
  let d := d.dropCaseTraffic c.station c.alert
  let d := if c.st = .acked
    then d.report .caseClosed (.caseOf c.station) (caseClosedData c.station c.alert .replaced) else d
  (d.onDistress fun u => { u with cases := u.cases.filter fun x => x.station != c.station }).passMark .distress
    (.caseOf c.station) (.caseOf new)

/-- The facts a heard alert gives a new case (R116). -/
def freshCase (d : Device) (st alert : Nat) (facts : Option DistressFacts) (via : Option Station) : Case :=
  { station := st, alert := alert, nature := match facts with | none => 0 | some f => f.nature,
    pos := facts.bind fun f => f.pos, posTime := facts.bind fun f => f.posTime,
    persons := facts.bind fun f => f.persons, firstHeard := d.now, lastHeard := d.now, via := via,
    readable := facts.isSome, st := .unacked, ackedBy := none, closeReason := none,
    relay := if d.distress.settled.contains (st, alert) then .suppressed else .none, ownAck := .none }

/-- The case with the facts of a further burst about the same alert (R116). -/
def withFacts (c : Case) (facts : Option DistressFacts) (via : Option Station) : Case :=
  let c := match facts with
    | none => c
    | some f => { c with nature := f.nature, pos := f.pos, posTime := f.posTime, persons := f.persons,
                         readable := true }
  { c with via := match via with
      | none => none
      | some s => if c.via = none then none else some s }

/-- A heard alert that finds no place (R117). -/
def distressHeard (d : Device) (st alert : Nat) (facts : Option DistressFacts) (via : Option Station) : Device :=
  let d := d.onDistressCounts fun c => { c with notRecorded := bump c.notRecorded }
  (d.reportOrLose .distressHeard 0
    [.num 3 st, .num 1 alert, .num 1 (match facts with | none => 0 | some f => f.nature),
     .num 1 (flag facts.isSome), .num 3 (via.getD 0)]).2

/-- A DISTRESS or an attributable DISTRESS-RELAY is applied to its station's case (R116). -/
def applyAlert (d : Device) (st alert : Nat) (facts : Option DistressFacts) (via : Option Station) : Device :=
  let add (d : Device) : Device :=
    (d.onDistress fun u => { u with cases := u.cases ++ [d.freshCase st alert facts via] }).reportCase st .created
  match d.case? st with
  | none =>
    if d.distress.cases.length < 6 then add d
    else match d.caseToFree with
      | none => d.distressHeard st alert facts via
      | some c => add (d.freeCase c st)
  | some c =>
    if c.alert ≠ alert then
      let d := d.dropCaseTraffic st c.alert
      (d.onCase st fun _ => d.freshCase st alert facts via).reportCase st .newAlert
    else
      let c' := { withFacts c facts via with lastHeard := d.now }
      match c.st, c.closeReason with
      | .closed, some .cancelled => d.onCase st fun c => { c with lastHeard := d.now }
      | .closed, _ =>
        (d.onCase st fun _ =>
          { c' with st := .unacked, closeReason := none, ackedBy := none, ownAck := .none }).reportCase st .reopened
      | _, _ =>
        let d := d.onCase st fun _ => c'
        if c' = { c with lastHeard := d.now } then d else d.reportCase st .facts

/-- The relay conditions after a DISTRESS heard DIRECT (R123). -/
def examineCase (d : Device) (st : Station) : Device :=
  match d.case? st with
  | none => d
  | some c =>
    if d.config.distress ∧ c.st = .unacked ∧ c.readable ∧ c.relay = .none ∧ d.distress.settled.length < 64 then
      match d.startWait .distress st c.alert with
      | (taken, displaced, d) =>
        let d := match displaced with
          | none => d
          | some w => d.onWarning w.station w.number fun x => { x with relay := .none }
        if taken then d.onCase st fun c => { c with relay := .waiting } else d
    else d

/-- The settled-alert list is full (R124). -/
def settledFull (d : Device) : Device :=
  let d := { d with waits := d.waits.filter fun w => w.kind != WaitKind.distress }
  let d := d.withdraw .distress fun it => it.kind == BurstKind.distressRelay
  d.onDistress fun u =>
    let wanted (c : Case) : Bool := c.relay == RelayState.waiting || c.relay == RelayState.offered
    { u with cases := mapIf wanted (fun c => { c with relay := .suppressed }) u.cases }

/-- A pair enters the settled-alert list (R124). -/
def enterSettled (d : Device) (st alert : Nat) : Device :=
  if d.distress.settled.contains (st, alert) ∨ 64 ≤ d.distress.settled.length then d
  else
    let d := d.onDistress fun u => { u with settled := u.settled ++ [(st, alert)] }
    if d.distress.settled.length = 64 then d.settledFull else d

/-- The part's relay of a case is suppressed, unless it was RELAYED (R118, R121). -/
def suppressRelay (d : Device) (st alert : Nat) : Device :=
  let d := d.withdraw .distress (isRelayItem st alert)
  d.onCase st fun c => if c.alert = alert ∧ c.relay ≠ .relayed then { c with relay := .suppressed } else c

/-- A DISTRESS-RELAY heard is reported to the Relay Wait List, and withdraws an OFFERED relay (R75, R124). An OFFERED
relay state that a CLOSED case has kept (entry 25) becomes SUPPRESSED too, also when R116 sets the last heard of that
case alone (DESIGN CHOICE, entry 79). -/
def distressRelayHeard (d : Device) (st alert : Nat) : Device :=
  let waited := (d.wait? .distress st alert).isSome
  let offered := match d.case? st with
    | none => false
    | some c => c.alert == alert && c.relay == .offered
  let d := d.removeWait .distress st alert
  if waited || offered then d.suppressRelay st alert else d

/-- An attributable DISTRESS-ACK naming another station (R118). -/
def distressAckHeard (d : Device) (st : Station) (b : Burst) : Device :=
  let d := (d.removeWait .distress st b.seq).enterSettled st b.seq
  let d := d.onCase st fun c => { c with lastHeard := d.now }
  if d.holdsAlert st b.seq then
    let d := d.suppressRelay st b.seq
    match d.case? st with
    | none => d
    | some c =>
      if c.st = .unacked ∧ b.pass then
        (d.onCase st fun c => { c with st := .acked, ackedBy := some (.station b.source) }).reportCase st .acked
      else d
  else d

/-- A CANCEL heard (R119). -/
def cancelHeard (d : Device) (b : Burst) (readable : Bool) : Device :=
  match d.case? b.source with
  | none => d
  | some c =>
    let d := d.onCase b.source fun c => { c with lastHeard := d.now }
    if readable ∧ c.alert = b.seq ∧ c.st ≠ .closed then d.closeCase c .cancelled else d

/-- ACK CASE taken for a case that is not CLOSED (R121). -/
def acknowledgeCase (d : Device) (c : Case) : Device :=
  if c.ownAck = .offered then d
  else
    let d := d.offer (d.newItem .distressAck allStations c.alert (toSyms 3 c.station) (.caseAck c.station c.alert))
    let d := (d.removeWait .distress c.station c.alert).suppressRelay c.station c.alert
    (d.onCase c.station fun x =>
      if x.st = .acked then { x with ownAck := .offered }
      else { x with st := .acked, ackedBy := some .own, ownAck := .offered }).reportCase c.station .acked

/-- The end of the part's DISTRESS-ACK (R121). -/
def caseAckSent (d : Device) (st alert : Nat) : Device :=
  let d := d.onDistressCounts fun c => { c with acksSent := bump c.acksSent }
  let d := d.restartHold (Config.ownBurstHoldCause d.now % 5) st
  let d := d.onCase st fun c => if c.alert = alert then { c with ownAck := .sent } else c
  d.enterSettled st alert

/-- The part's DISTRESS-RELAY is keyed (R124). -/
def caseRelayKeyed (d : Device) (st alert : Nat) : Device :=
  let d := d.onCase st fun c => if c.alert = alert then { c with relay := .relayed } else c
  (d.enterSettled st alert).onDistressCounts fun c => { c with relaysSent := bump c.relaysSent }

/-- The end of the part's DISTRESS-RELAY (R124). -/
def caseRelaySent (d : Device) (st alert : Nat) : Device :=
  let d := d.restartHold (Config.ownBurstHoldCause d.now % 5) st
  if d.holdsAlert st alert then d.reportCase st .relayed else d

/-- A DISTRESS wait has run out: the relay is offered (R76, R123). -/
def offerRelay (d : Device) (st alert : Nat) : Device :=
  match d.case? st with
  | none => d
  | some c =>
    if c.alert = alert then
      let body := toSyms 3 st ++ distressBody ⟨c.nature, c.pos, c.posTime, c.persons⟩
      (d.onCase st fun c => { c with relay := .offered }).offer
        (d.newItem .distressRelay allStations alert body (.caseRelay st alert))
    else d

/-! ## Bursts received by the Distress Unit (R115) -/

/-- The station concerned, when the burst is attributable (R115). A symbol 63 of the distressed-station field
counts as an erasure when the burst has erasures (entry 13). -/
def concerned (b : Burst) : Option Station :=
  let named := symsAt b.body 0 3
  let erased := decide (0 < b.erasures) && (b.body.take 3).any fun s => s == 63
  match b.kind with
  | .distressRelay => if 3 ≤ b.body.length ∧ erased = false ∧ 1 ≤ named ∧ named < allStations then some named else none
  | .distressAck => if b.body.length = 3 ∧ erased = false ∧ 1 ≤ named ∧ named < allStations then some named else none
  | _ => some b.source

/-- The facts of a readable DISTRESS or DISTRESS-RELAY (R115). -/
def burstFacts (b : Burst) : Option DistressFacts :=
  if b.pass then
    match b.kind with
    | .distress => readDistressBody b.body
    | .distressRelay => readDistressBody (b.body.drop 3)
    | _ => none
  else none

/-- Whether an attributable burst is readable (R115). -/
def readableBurst (b : Burst) : Bool :=
  match b.kind with
  | .distress | .distressRelay => (burstFacts b).isSome
  | .distressAck => b.pass
  | _ => b.pass && b.body.isEmpty

/-- The hold's cause for a received burst (R127). -/
def causeOf : BurstKind → HoldCause
  | .distressAck => .ackHeard
  | .distressRelay => .relayHeard
  | .cancel => .cancelHeard
  | _ => .distressHeard

/-- A burst that names the part's own station (R112). -/
def ownNamed (d : Device) (b : Burst) : Device :=
  match b.kind with
  | .distressAck =>
    let d := (d.removeWait .distress d.config.own b.seq).enterSettled d.config.own b.seq
    if b.pass then d.ownAcknowledged b else d
  | .distressRelay =>
    if d.distress.own.st ≠ .idle ∧ d.distress.own.num = b.seq then
      d.reportOwnHeard .relayed b.seq b.source
    else d
  | _ => d

/-- A distress-class burst handed to the Distress Unit (R115 to R120). -/
def receiveDistress (d : Device) (b : Burst) : Device :=
  let d := d.onDistressCounts fun c => { c with heard := bump c.heard }
  match concerned b with
  | none =>
    (d.restartHold (causeOf b.kind).code 0).onDistressCounts fun c => { c with unattributed := bump c.unattributed }
  | some st =>
    let d := d.restartHold (causeOf b.kind).code st
    let d := if readableBurst b then d else d.onDistressCounts fun c => { c with unreadable := bump c.unreadable }
    if st = d.config.own then d.ownNamed b
    else match b.kind with
      | .distressRelay => (d.distressRelayHeard st b.seq).applyAlert st b.seq (burstFacts b) (some b.source)
      | .distressAck => d.distressAckHeard st b
      | .cancel => d.cancelHeard b (readableBurst b)
      | _ => (d.applyAlert st b.seq (burstFacts b) none).examineCase st

/-! ## Ends of bursts on air (R28) -/

/-- The owner is told that its burst was sent. -/
def burstSent (d : Device) (it : Item) : Device :=
  match it.owner with
  | .slot i => d.dataSent i
  | .answer => d
  | .beacon => d.onNeighCounts fun c => { c with beaconsSent := bump c.beaconsSent }
  | .warning issuer issue => d.warningSent issuer issue
  | .caseAck st alert => d.caseAckSent st alert
  | .caseRelay st alert => d.caseRelaySent st alert
  | .own => if it.kind = .cancel then d.ownCancelSent else d.ownDistressSent

/-- The owner is told that its item is on air (R27). -/
def burstKeyed (d : Device) (it : Item) : Device :=
  match it.owner with
  | .slot i => d.dataKeyed i
  | .caseRelay st alert => d.caseRelayKeyed st alert
  | _ => d

end Device
end Sys2Proof.Machine
end

