-- ==== Sys2Proof/Machine/Notices.lean ====
section
/-! DEFINITION. What the port sends the Report Builder (10): receipts (R182) and quota notices (R183, R184). -/

namespace Sys2Proof.Machine

/-- A message handed on at its completion (R97): its facts and its INBOUND grant. -/
structure Message where
  source : Station
  orig : Station
  cls : MsgClass
  num : Nat
  len : Nat
  grant : Nat
deriving DecidableEq, Repr

/-- One entry of a quota notice: the species, and the quota or none for removal (R183). -/
structure NoticeEntry where
  species : Species
  quota : Option Nat
deriving DecidableEq, Repr

/-- What the entries of a notice came to (R184). -/
structure NoticeTally where
  updated : Nat
  made : Nat
  removed : Nat
  ignored : Nat
  reached : Bool
deriving DecidableEq, Repr

/-- The entries of a notice of `n` entries; none when one is out of its range (R183). -/
def noticeEntries : Nat → List Nat → Option (List NoticeEntry)
  | 0, _ => some []
  | n + 1, t =>
    let sp : Species := ⟨symAt t 0, symAt t 1, symAt t 2⟩
    let q := symsAt t 3 4
    match noticeEntries n (t.drop 7) with
    | none => none
    | some r =>
      if validSpecies sp = false ∨ 10000000 < q ∨ r.any (fun e => e.species == sp) then none
      else some (⟨sp, if q = 10000000 then none else some q⟩ :: r)

/-- A well-formed notice's number and entries (R183). -/
def readNotice (t : List Nat) : Option (Nat × List NoticeEntry) :=
  let n := symAt t 2
  if t.length < 3 ∨ 16 < n ∨ t.length ≠ 3 + 7 * n then none
  else (noticeEntries n (t.drop 3)).map fun es => (symsAt t 0 2, es)

namespace Device

def lostRepReport (d : Device) : Device := d.onRepCounts fun c => { c with lostReports := bump c.lostReports }

/-- A report of the Report Builder with no record to mark: lost to a full lane (R185). -/
def reportNotice (d : Device) (k : ReportKind) (data : List Datum) : Device :=
  match d.reportOrLose k 0 data with
  | (true, d) => d
  | (false, d) => d.lostRepReport

/-- NOTICE REJECTED (R185): class RECEIPT 0 or QUOTA 1; reason NOT FROM PORT 0 or MALFORMED 1. -/
def rejectNotice (d : Device) (cls : Nat) (orig : Station) (reason : Nat) : Device :=
  (d.onRepCounts fun c => { c with rejectedNotices := bump c.rejectedNotices }).reportNotice .noticeRejected
    [.num 1 cls, .num 3 orig, .num 1 reason]

/-- LATE RECEIPT (R182, R185). -/
def lateReceipt (d : Device) (num result : Nat) : Device :=
  (d.onRepCounts fun c => { c with lateReceipts := bump c.lateReceipts }).reportNotice .lateReceipt
    [.num 2 num, .num 1 result, .num 1 d.rep.st.code, optNum 2 d.rep.num]

/-- A receipt's number and result judged on the record (R182). -/
def judgeReceipt (d : Device) (num result : Nat) : Device :=
  let e := if result = 0 then Ending.accepted else Ending.rejected
  if d.rep.num = some num then
    match d.rep.st, d.rep.early with
    | .awaitingReceipt, _ => d.endReport e none
    | .inTransfer, none => d.onRep fun r => { r with early := some e }
    | _, _ => d.lateReceipt num result
  else d.lateReceipt num result

/-- A message of class RECEIPT (R182). -/
def receipt (d : Device) (m : Message) : Device :=
  let text := d.store.readSyms m.grant 0 m.len
  let num := symsAt text 0 2
  let result := symAt text 2
  let d := d.releaseGrant m.grant
  if m.orig ≠ d.config.port then d.rejectNotice 0 m.orig 0
  else if m.len ≠ 3 ∨ num = 0 ∨ 1 < result then d.rejectNotice 0 m.orig 1
  else d.judgeReceipt num result

/-- Removes a quota entry and reports it REMOVED (R166, R168, R184). -/
def removeQuota (d : Device) (q : QuotaEntry) : Device :=
  let d := d.dropMark .general (.quota q.species)
  let d := d.onLog fun l => { l with quotas := l.quotas.filter fun x => x.species != q.species }
  match d.reportOrLose .quotaState 0
      (quotaData q.species q.quota q.consumed (quotaStateCode (some q.st)) 4 1) with
  | (true, d) => d
  | (false, d) => d.onLogCounts fun c => { c with lostReports := bump c.lostReports }

/-- One entry of a notice (R184). -/
def applyEntry (x : Device × NoticeTally) (e : NoticeEntry) : Device × NoticeTally :=
  let (d, t) := x
  match e.quota, d.quota? e.species with
  | none, some q => (d.removeQuota q, { t with removed := t.removed + 1 })
  | none, none => (d, { t with removed := t.removed + 1 })
  | some n, some _ =>
    let (r, d) := (d.onQuota e.species fun q => { q with quota := n }).evaluateQuota e.species 1
    (d, { t with updated := t.updated + 1, reached := t.reached || r })
  | some n, none =>
    if d.log.quotas.length < 16 then
      let consumed := d.consumedOf e.species
      let q : QuotaEntry := ⟨e.species, n, consumed, quotaState consumed n, none⟩
      let d := d.onLog fun l => { l with quotas := insertBy (fun x => speciesRank x.species) q l.quotas }
      (d.reportQuota e.species none 1,
       { t with made := t.made + 1, reached := t.reached || q.st == .reached })
    else (d, { t with ignored := t.ignored + 1 })

/-- A notice that has passed R183 is applied (R184). -/
def applyNotice (d : Device) (num : Nat) (es : List NoticeEntry) : Device :=
  let (d, t) := es.foldl applyEntry (d, ⟨0, 0, 0, 0, false⟩)
  let d := d.onRep fun r => { r with lastNotice := some num }
  let data := [.num 2 num, count16 t.updated, count16 t.made, count16 t.removed, count16 t.ignored]
  let d := if t.ignored = 0
    then (d.onRepCounts fun c => { c with applied := bump c.applied }).reportNotice .noticeApplied data
    else (d.onRepCounts fun c => { c with partly := bump c.partly }).reportNotice .noticePartial data
  if t.reached then d.trigger .quota else d

/-- A message of class QUOTA (R183). -/
def quotaNotice (d : Device) (m : Message) : Device :=
  let text := d.store.readSyms m.grant 0 m.len
  let d := d.releaseGrant m.grant
  if m.orig ≠ d.config.port then d.rejectNotice 1 m.orig 0
  else match readNotice text with
    | none => d.rejectNotice 1 m.orig 1
    | some (num, es) =>
      match d.rep.lastNotice with
      | none => d.applyNotice num es
      | some last =>
        if newer num last then d.applyNotice num es
        else (d.onRepCounts fun c => { c with stale := bump c.stale }).reportNotice .noticeStale
          [.num 2 num, .num 2 last]

end Device
end Sys2Proof.Machine
end

