-- ==== Sys2Proof/Machine/Receive.lean ====
section
/-! DEFINITION. Reception (01) and what the Transfer Engine does with DATA (06): assembly of characters into
bursts, the hand-on of a taken burst (R16), reassembly (R94 to R100) and deliveries (R194). -/

namespace Sys2Proof.Machine
namespace Device

/-! ## Deliveries and completion (R97, R194) -/

/-- A completed TEXT or CATCH message becomes a delivery record (R194). -/
def deliver (d : Device) (m : Message) : Device :=
  let id := d.console.nextDelivery
  let d := d.onConsole fun c =>
    { c with deliveries := c.deliveries ++ [⟨id, m.source, m.orig, m.cls, m.num, m.len, m.grant⟩],
             nextDelivery := id + 1 }
  if d.laneRoom .general then d.queueEntry .general ⟨.delivery, 0, .delivery id, 0⟩
  else d.addMark .general (.delivery id)

def reasm? (d : Device) (src num : Nat) : Option Reasm :=
  d.xfer.reasms.find? fun e => e.source == src && e.num == num

/-- The pair's reassembly entry is in HAND-OVER WAIT. -/
def handOverWaits (d : Device) (r : Recent) : Bool :=
  match d.reasm? r.source r.num with
  | none => false
  | some e => e.waiting

def isPair (src num : Nat) (r : Recent) : Bool := r.source == src && r.num == num

/-- A pair enters the recent-completion list (R99). -/
def enterRecent (d : Device) (src num : Nat) : Device :=
  let d := if d.xfer.recents.length < 8 then d
    else match minBy? (fun r => r.timer.left d.now) (d.xfer.recents.filter fun r => !d.handOverWaits r) with
      | none => d
      | some r => d.onXfer fun t => { t with recents := t.recents.filter fun x => !isPair r.source r.num x }
  d.onXfer fun t => { t with recents := t.recents ++ [⟨src, num, .running (d.now + 600000)⟩] }

/-- A message is complete (R97). -/
def completeMessage (d : Device) (src num : Nat) : Device :=
  let d := (d.enterRecent src num).onReasm src num fun e => { e with doneAt := d.now }
  match d.reasm? src num with
  | none => d
  | some e =>
    let m : Message := ⟨e.source, e.orig, e.cls, e.num, e.len, e.grant⟩
    if e.dest = d.config.own then
      let d := d.removeReasm src num
      match e.cls with
      | .text | .catchReport => d.deliver m
      | .receipt => d.receipt m
      | .quota => d.quotaNotice m
    else d.handOverRelay e

/-! ## DATA bursts (R94 to R96) -/

/-- The one ACK that answers a DATA burst (R96). -/
def answerData (d : Device) (b : Burst) (idx : Nat) (a : AckAnswer) : Device :=
  let d := d.onXferCounts fun c =>
    match a with
    | .accepted => { c with gaveAccepted := bump c.gaveAccepted }
    | .full => { c with gaveFull := bump c.gaveFull }
    | .noRelay => { c with gaveNoRelay := bump c.gaveNoRelay }
    | .unknown => { c with gaveUnknown := bump c.gaveUnknown }
  d.offerAck b.source b.seq idx a.value b.endTime

/-- The conditions under which a message is taken for forwarding (R95). -/
def mayForward (d : Device) (dest : Station) : Bool :=
  d.config.message && d.relayAvailable &&
    match d.neighbour? dest with
    | none => false
    | some n => n.fresh && n.kind == .port

/-- Rule 2 (R95): fragment 0 with no entry. With all four entries in use no grant is asked for (entry 54). The
RESERVED relay slot holds length and fragment count 0 until its hand-over (entry 53). -/
def openReasm (d : Device) (b : Burst) (h : DataHeader) (text : List Nat) : Device :=
  let forward := decide (h.dest ≠ d.config.own)
  if forward && !d.mayForward h.dest then d.answerData b h.idx .noRelay
  else if 4 ≤ d.xfer.reasms.length then d.answerData b h.idx .full
  else match d.reserve .inbound (h.cnt * 111) with
    | (.granted id, d) =>
      let slot := if forward then d.freeSlot? else none
      let d := match slot with
        | none => d
        | some i => d.takeSlot i .reserved .relay 0 h.cls h.dest h.orig none 0
      let e : Reasm :=
        { source := b.source, num := b.seq, cls := h.cls, dest := h.dest, orig := h.orig, cnt := h.cnt,
          next := 1, grant := id, len := text.length, lastActivity := b.endTime,
          timer := .running (b.endTime + 120000), relaySlot := slot, waiting := false, doneAt := 0 }
      let d := (d.writeText id 0 text).onXfer fun t => { t with reasms := t.reasms ++ [e] }
      let d := d.answerData b h.idx .accepted
      if h.cnt = 1 then d.completeMessage b.source b.seq else d
    | (_, d) => d.answerData b h.idx .full

/-- The fragment header agrees with the entry (R96). -/
def agrees (e : Reasm) (h : DataHeader) : Bool :=
  e.cnt == h.cnt && e.cls == h.cls && e.dest == h.dest && e.orig == h.orig

/-- Activity of an entry (R96). -/
def touch (d : Device) (b : Burst) : Device :=
  d.onReasm b.source b.seq fun e =>
    { e with lastActivity := b.endTime, timer := .running (b.endTime + 120000) }

/-- Rules 3 to 6 (R96): a fragment whose entry exists. Rule 3 frees the entry's RELAY slot, and a catch report that
waits for a slot is tried, before rule 2 asks for a slot (entry 74). -/
def nextFragment (d : Device) (b : Burst) (h : DataHeader) (text : List Nat) (e : Reasm) : Device :=
  if h.idx = 0 then (d.discardReasm e).openReasm b h text
  else if h.idx = e.next then
    let d := d.touch b
    if agrees e h then
      let d := (d.writeText e.grant (111 * h.idx) text).onReasm b.source b.seq fun e =>
        { e with len := e.len + text.length, next := e.next + 1 }
      let d := d.answerData b h.idx .accepted
      if h.idx + 1 = h.cnt then d.completeMessage b.source b.seq else d
    else d.answerData b h.idx .unknown
  else if h.idx + 1 = e.next then (d.touch b).answerData b h.idx .accepted
  else d.answerData b h.idx .unknown

/-- A DATA burst to the part (R94 to R96). -/
def receiveData (d : Device) (b : Burst) : Device :=
  if d.holdInForce then d.onXferCounts fun c => { c with heldData := bump c.heldData }
  else match readDataBody b.body with
    | none => d.onXferCounts fun c => { c with malformed := bump c.malformed }
    | some (h, text) =>
      if d.xfer.recents.any (isPair b.source b.seq) then d.answerData b h.idx .accepted
      else match d.reasm? b.source b.seq with
        | some e => d.nextFragment b h text e
        | none => if h.idx = 0 then d.openReasm b h text else d.answerData b h.idx .unknown

/-- An entry's inactivity timer runs out (R98, R100). -/
def reasmExpires (d : Device) (e : Reasm) : Device :=
  let d := d.onXferCounts fun c =>
    { c with inactivity := bump c.inactivity,
             relaysLost := if e.waiting then bump c.relaysLost else c.relaysLost }
  d.discardReasm e

/-! ## A taken burst (R15, R16) -/

/-- Hands a taken burst on: header facts first, then the whole record to its owner (R16). -/
def handOn (d : Device) (b : Burst) : Device :=
  let (d, evs) := d.headerFacts b.source b.score b.endTime
  let d := d.routeEvents evs
  match b.kind with
  | .data => if b.dest = d.config.own then d.receiveData b else d
  | .ack => if b.dest = d.config.own then d.receiveAck b else d
  | .beacon =>
    let (d, evs) := d.beaconFacts b
    d.routeEvents evs
  | .forecast => d.receiveForecast b
  | .warning => d.receiveWarning b
  | .distress | .distressAck | .distressRelay | .cancel => d.receiveDistress b
  | .test => d

/-- The score of a taken burst of `n` positions (R15). -/
def scoreOf (qsum n : Nat) (pass : Bool) : Nat := (if pass then 17 else 8) * (qsum / n)

/-- The burst is taken (R12, R14): counted, the record SKIPPING, and handed on. -/
def takeBurst (d : Device) (r : Rx) (linked pass : Bool) : Device :=
  let len := symsAt r.syms 8 2
  let b : Burst :=
    { kind := (BurstKind.ofValue (symAt r.syms 0)).getD .test, linked := linked, source := symsAt r.syms 1 3,
      dest := symsAt r.syms 4 3, seq := symAt r.syms 7, len := len, body := (r.syms.drop 10).take len,
      erasures := r.erasures, pass := pass, score := scoreOf r.qsum (16 + len) pass, endTime := d.now }
  let d := { d with rx := Rx.blank .skipping }
  (d.onRxCounts fun c => { c with taken := bump c.taken }).handOn b

def headerDiscard (d : Device) : Device :=
  ({ d with rx := Rx.blank .skipping }).onRxCounts fun c => { c with headerDiscards := bump c.headerDiscards }

def damagedDiscard (d : Device) : Device :=
  ({ d with rx := Rx.blank .skipping }).onRxCounts fun c => { c with damaged := bump c.damaged }

/-- A reception is abandoned and the record goes to `st` (R11, R14). -/
def abandonReception (d : Device) (st : RxState) : Device :=
  ({ d with rx := Rx.blank st }).onRxCounts fun c => { c with abandoned := bump c.abandoned }

/-- Whether the header position just taken is a header fault (R4, R5). -/
def headerFault (d : Device) (linked : Bool) (pos : Nat) (syms : List Nat) : Bool :=
  if pos = 2 then kindFault linked (symAt syms 0)
  else if pos = 5 then sourceFault d.config.own (symsAt syms 1 3)
  else if pos = 8 then destFault linked (symsAt syms 4 3)
  else if pos = 11 then lengthFault (symsAt syms 8 2)
  else false

/-- The check over the symbols taken agrees with the carried one (R7). -/
def checkAgrees (syms : List Nat) : Bool :=
  let len := symsAt syms 8 2
  checkOf (syms.take (10 + len)) == symsAt syms (10 + len) 3

/-! ## Characters (R11 to R14) -/

/-- A character in SYNCING (R11). -/
def syncingChar (d : Device) (p : Pattern) (q : Nat) : Device :=
  if isControl p syncBRank then
    if d.rx.third then d.onRx fun r => { r with st := .broadcast, count := 3, qsum := r.qsum + q }
    else d.onRx fun r => { r with st := .linked, count := 2, qsum := r.qsum + q }
  else if isControl p idleRank && !d.rx.third then d.onRx fun r => { r with third := true }
  else { d with rx := Rx.blank .hunting }

/-- A character in RECEIVING LINKED (R12). -/
def linkedChar (d : Device) (p : Pattern) (q : Nat) : Device :=
  let pos := d.rx.count
  let len := symsAt d.rx.syms 8 2
  if 11 < pos ∧ pos = 15 + len then
    if isControl p endRank then d.takeBurst { d.rx with qsum := d.rx.qsum + q } true true
    else d.damagedDiscard
  else match symbolOf p with
    | none => d.damagedDiscard
    | some s =>
      let syms := d.rx.syms ++ [s]
      if d.headerFault true pos syms then d.headerDiscard
      else if 11 < pos ∧ pos = 14 + len ∧ checkAgrees syms = false then d.damagedDiscard
      else d.onRx fun r => { r with syms := syms, qsum := r.qsum + q, count := pos + 1 }

/-- The taken character of two copies (R13): the first copy or the repeat, with its quality. -/
def combine (valid : Pattern → Bool) (x y : Pattern × Nat) : Option (Pattern × Nat) :=
  match valid x.1, valid y.1 with
  | true, true => if x.1 = y.1 then some x else if x.2 < y.2 then some y else some x
  | true, false => some x
  | false, true => some y
  | false, false => none

/-- A broadcast position combined (R13, R14). -/
def broadcastPosition (d : Device) (pos : Nat) (x y : Pattern × Nat) : Device :=
  let len := symsAt d.rx.syms 8 2
  let isEnd := decide (11 < pos) && pos == 15 + len
  let isBody := decide (11 < pos) && decide (pos < 12 + len)
  let valid (p : Pattern) : Bool := if isEnd then isControl p endRank else (symbolOf p).isSome
  let got := combine valid x y
  let sym := match got with
    | none => 63
    | some c => (symbolOf c.1).getD 63
  let erased := got.isNone
  let r := d.rx
  let r := { r with
    syms := if isEnd then r.syms else r.syms ++ [sym],
    qsum := r.qsum + (match got with | none => 0 | some c => c.2),
    run := if erased then r.run + 1 else 0,
    erasures := if erased && isBody then r.erasures + 1 else r.erasures,
    bad := r.bad || (erased && decide (11 < pos) && !isBody) }
  if erased ∧ pos ≤ 11 then d.headerDiscard
  else if d.headerFault false pos r.syms then d.headerDiscard
  else if 8 ≤ r.run then d.abandonReception .skipping
  else if isEnd then d.takeBurst r false (r.erasures == 0 && !r.bad && checkAgrees r.syms)
  else { d with rx := r }

/-- A character in RECEIVING BROADCAST (R13): first copies are kept, repeats combine with them. The IDLE
copies and the repeats of the sync positions are not examined. -/
def broadcastChar (d : Device) (p : Pattern) (q : Nat) : Device :=
  let k := d.rx.count / 2
  let first := d.rx.count % 2 == 0
  let d := d.onRx fun r => { r with count := r.count + 1 }
  if first then d.onRx fun r => { r with firsts := r.firsts ++ [(p, q)] }
  else if k < 8 then d
  else match d.rx.firsts with
    | [] => d
    | x :: rest => (d.onRx fun r => { r with firsts := rest }).broadcastPosition (k - 6) x (p, q)

/-- One character from the Modem in its locked mode (R2, R11). -/
def takeCharacter (d : Device) (p : Pattern) (q : Nat) : Device :=
  let at' := d.rx.nextChar
  let d := (d.reach at').onRx fun r => { r with nextChar := at' + 80 }
  match d.rx.st with
  | .syncing => d.syncingChar p q
  | .linked => d.linkedChar p q
  | .broadcast => d.broadcastChar p q
  | _ => d

/-- SYNC-A found while HUNTING with the debounced carrier up (R11): the character phase is fixed. -/
def findSync (d : Device) (quality : Nat) : Device :=
  if d.rx.st = .hunting ∧ d.access.debounced then
    { d with rx := { Rx.blank .syncing with qsum := quality, nextChar := d.now + 80 } }
  else d

/-- The debounced carrier falls: what the receive record does (R11, R14). -/
def carrierFalls (d : Device) : Device :=
  match d.rx.st with
  | .syncing | .skipping => { d with rx := Rx.blank .hunting }
  | .linked | .broadcast => d.abandonReception .hunting
  | _ => d

end Device
end Sys2Proof.Machine
end

