-- ==== Sys2Proof/Machine/Keying.lean ====
section
/-! DEFINITION. The arbiter over the transmitter (02, R26 to R34) and `Device.settle`, which every command that
may change what the Controller sees ends with. -/

namespace Sys2Proof.Machine
namespace Device

/-- The transmit record of an item keyed now (R8, R27). -/
def txFor (d : Device) (it : Item) : Tx :=
  { chars := charSequence it.kind d.config.own it.dest it.seq it.body, startAt := d.now + d.config.settleMs,
    duration := burstDuration it.kind it.body.length, passing := false }

/-- The receive record closes at key raised; a reception of a burst is abandoned (R11, R17). -/
def closeRx (d : Device) : Device :=
  match d.rx.st with
  | .linked | .broadcast => d.abandonReception .closed
  | _ => { d with rx := Rx.blank .closed }

/-- Keys a contender (R27, R34). -/
def keyItem (d : Device) (c : AccessClass) (it : Item) (blind : Bool) : Device :=
  let d := d.closeRx.leaveClear .own
  let d := d.onAccess fun a =>
    { a.onQueue c (fun q => { q with contender := none }) with
      onAir := some { item := it, keyedAt := d.now, checks := 0 }, debounced := false, keyTime := 0,
      counts := { a.counts with
        keyings := bump a.counts.keyings,
        blindSends := if blind then bump a.counts.blindSends else a.counts.blindSends } }
  ({ d with tx := some (d.txFor it) }).burstKeyed it

/-- Keys the contender of a class. -/
def raiseKey (d : Device) (c : AccessClass) (blind : Bool) : Device :=
  match (d.access.queue c).contender with
  | none => d
  | some k => d.keyItem c k.item blind

/-- The arbiter (R26): a blind send on a BUSY channel (R34), or the due contender of the highest class. -/
def arbitrate (d : Device) : Device :=
  if d.isBlindDue then d.raiseKey .distress true
  else match classOrder.find? d.isDue with
    | none => d
    | some c => d.raiseKey c false

/-- The arbiter's instant (R26): when some class is due, the contenders that the same instant makes due are counted
first, so that the due contender of the highest class is keyed (entry 40). -/
def arbiterInstant (d : Device) : Device := if classOrder.any d.isDue then d.countSlots else d

/-- Brings the blocks into step after an event: a waiting ACK timeout (R85), the DATA item (R84), the channel
state (R19), contenders and their eligibility (R23, R25), the keying of what is due (R26, R34), and removals
whose pins have gone (R64). CHANNEL CLEARED is therefore queued after the event's own reports (entry 72). -/
def settle (d : Device) : Device :=
  let d := d.takeWaitingTimeout.refreshData.settleChannel.selectAll.refreshEligible
  d.arbiterInstant.arbitrate.selectAll.removeUnpinned

/-! ## The modulator (R3) -/

/-- The units of characters in the order they are sent: each character's pattern as eight units, first unit (the most
significant digit of R1) first. `true` is mark. -/
def unitsOf (ranks : List Nat) : List Bool :=
  ranks.flatMap fun rank => (List.range 8).map fun k => (patternOf rank).getLsbD (7 - k)

/-- The characters given to the Modem and the moment of the first: those of the burst on air once its settle time has
passed (R8), or the TEST burst's 48 in LOOPING (R18, R50). -/
def sending (d : Device) : Option (Time × List Nat) :=
  match d.tx with
  | some t => if t.passing then some (t.startAt, t.chars) else none
  | none => if d.loop.st = .looping then some (d.loop.endAt - 3840, loopRanks d.config.own) else none

/-- What the modulator sends now (R2, R3): nothing from key raised until the characters pass to the Modem, then one
unit of 10 ms after another, and nothing once the burst or the loop test has ended or was stopped. -/
def modulator (d : Device) : Option Bool :=
  match d.sending with
  | none => none
  | some (start, ranks) => if start ≤ d.now then (unitsOf ranks)[(d.now - start) / 10]? else none

/-! ## Timed events of the radio side -/

/-- When the gap of a class's contender ends, in the current clear spell. -/
def gapEndAt (d : Device) (c : AccessClass) : Option Time := d.access.clearSince.map fun t => t + gapOf c

/-- The gap of a class has ended (R22). -/
def gapEnds (d : Device) (c : AccessClass) : Device :=
  match (d.access.queue c).contender, d.gapEndAt c with
  | some k, some t => if k.eligible && k.slotBase.isNone then (d.reach t).countSlots else d
  | _, _ => d

/-- When the slot in progress of a class's contender completes. -/
def slotEndAt (d : Device) (c : AccessClass) : Option Time :=
  match (d.access.queue c).contender with
  | none => none
  | some k =>
    if k.eligible && decide (0 < k.counter) then k.slotBase.map fun b => b + 250 else none

/-- A backoff slot completes (R22). -/
def slotEnds (d : Device) (c : AccessClass) : Device :=
  match d.slotEndAt c with
  | none => d
  | some t => (d.reach t).countSlots

/-- The settle time ends: the characters pass to the Modem (R8, R27). -/
def settleEnds (d : Device) : Device :=
  match d.tx with
  | none => d
  | some t => if t.passing then d else { d.reach t.startAt with tx := some { t with passing := true } }

/-- The Burst Engine reports the end of the burst on air (R8, R28). -/
def burstEnds (d : Device) : Device :=
  match d.access.onAir, d.tx with
  | some a, some t => ((d.reach (t.startAt + t.duration)).dropKey false).burstSent a.item
  | _, _ => d

/-- The key-time count reaches 25,000 ms (R29, R41). -/
def keyLimit (d : Device) : Device :=
  match d.access.onAir with
  | none => d
  | some a => ((d.reach (a.keyedAt + 25000)).abortBurst .keytime).tripKeytime 25000

/-- When the pending ACK's limit falls (R31). -/
def ackLimitAt (d : Device) : Option Time :=
  (d.access.answer.items.head?).map fun it => it.ackEnd + 1000

/-- The pending ACK is dropped at its limit (R31). -/
def ackLimit (d : Device) : Device :=
  match d.ackLimitAt with
  | none => d
  | some t => ((d.reach t).withdraw .answer fun _ => true).bumpAcksDropped

/-- When the blind timer of the own item that waits reaches 30 s (R34). -/
def blindAt (d : Device) : Option Time :=
  (d.access.distress.items.find? fun it => isOwnItem it && !it.overdue).map fun it => it.blindFrom + 30000

/-- The blind timer reaches 30 s (R34). -/
def blindReached (d : Device) : Device :=
  match d.blindAt with
  | none => d
  | some t => (d.reach t).onAccess fun a =>
      a.onQueue .distress fun q => q.rewrite isOwnItem fun it => { it with overdue := true }

/-- A spell of the channel not being CLEAR reaches 120 s (R33). -/
def channelBlocks (d : Device) : Device :=
  match d.access.notClearSince with
  | none => d
  | some t =>
    if d.access.blocked then d
    else ((d.reach (t + 120000)).onAccess fun a => { a with blocked := true }).report .channelBlocked .blocked []

/-- When the debounce filter has seen one value for 60 ms (R20); none while it agrees or the key is up. -/
def debounceAt (d : Device) : Option Time :=
  if d.keyLine || d.access.raw == d.access.debounced then none else some (d.access.filterFrom + 60)

/-- The debounced carrier takes the raw value (R20). -/
def debounce (d : Device) : Device :=
  match d.debounceAt with
  | none => d
  | some t =>
    let d := (d.reach t).onAccess fun a => { a with debounced := a.raw }
    if d.access.debounced then d else d.carrierFalls

/-- The raw carrier indication changes (R2, R20); an UNCONFIGURED part's Modem is idle and reports none. -/
def rawChange (d : Device) (up : Bool) : Device :=
  if d.ready && d.access.raw != up then d.onAccess fun a => { a with raw := up, filterFrom := d.now } else d

/-- When the next protection check of the keying falls (R39). -/
def checkAt (d : Device) : Option Time := d.access.onAir.map fun a => a.keyedAt + 100 * (a.checks + 1)

/-- A protection check with the levels sampled (R39 to R42). R39 orders TUNE, REFLECT and SUPPLY; KEYTIME is sampled
after them (entry 73). -/
def protectionCheck (d : Device) (tuneF refl supLo : Bool) : Device :=
  match d.access.onAir, d.checkAt with
  | some a, some t =>
    let before := d.inhibit
    let d := { d.reach t with pins := ⟨tuneF, refl, supLo⟩ }
    let d := d.onAccess fun x => { x with onAir := some { a with checks := a.checks + 1 } }
    let (t1, d) := d.sampleMonitor .tune tuneF
    let (t2, d) := d.sampleMonitor .reflect refl
    let (t3, d) := d.sampleMonitor .supply supLo
    let d := afterInhibit before d.sampleKeytime
    if (t1 || t2 || t3) && !a.item.kind.isOwn then d.abortBurst .trip else d
  | _, _ => d

end Device
end Sys2Proof.Machine
end

