-- ==== Sys2Proof/Machine/Answers.lean ====
section
/-! DEFINITION. What the part sends of its own state: the answers to READ (R195 and the rules it names) and
CONFIGURED (R197). The order of fields is R207's. -/

namespace Sys2Proof.Machine

/-- Whole seconds since a moment, saturating at 65,535. -/
def ago (now t : Time) : Datum := count16 ((now - t) / 1000)

/-- Whole seconds to a moment, or absent. -/
def secondsTo (now : Time) : Option Time → Datum
  | none => absentOf 2
  | some t => count16 ((t - now) / 1000)

def flagData (b : Bool) : Datum := .num 1 (flag b)

/-- How many elements satisfy `p`. -/
def countWhere {α : Type} (p : α → Bool) (l : List α) : Datum := count16 (l.filter p).length

def setupCode : SetupState → Nat
  | .idle => 0
  | .collecting _ => 1
  | .done => 2

namespace Device

/-- CONFIGURED: the clamped parameters, by their places in R197's clamp table (entry 14). -/
def configuredData (d : Device) : List Datum := tableData (d.console.marks.map fun i => [.num 1 i])

/-! ## STATUS -/

/-- The Console Link's own state: R193, R195, R199, R204. -/
def statusConsole (d : Device) : List Datum :=
  let c := d.console
  [count16 c.distress.owed.length, count16 c.general.owed.length, .num 1 (setupCode c.setup)]
    ++ positionData (c.fix.map fun f => (f.lat, f.lon)) ++ hourMinuteData (c.fix.map fun f => (f.hour, f.minute))
    ++ [match c.fix with | none => absentOf 2 | some f => ago d.now f.takenAt]
    ++ [count16 c.counts.complete, count16 c.counts.void, count16 c.counts.refused, count16 c.counts.lostReports,
        utcData (d.utcNow.map Int.ofNat), count16 c.distress.entries.length, count16 c.general.entries.length,
        flagData c.submit.isSome, optNum 1 (c.submit.map fun s => s.tag), optNum 2 (c.submit.map fun s => s.len),
        optNum 2 (c.submit.map fun s => s.received)]

/-- R17, R19, R27, R38. -/
def statusRadio (d : Device) : List Datum :=
  let r := d.rxCounts
  let a := d.access
  [count16 r.taken, count16 r.headerDiscards, count16 r.damaged, count16 r.abandoned, .num 1 a.chan.code,
   (match a.clearSince with | none => absentOf 4 | some t => timeData t), flagData a.blocked, count16 d.keyTime,
   count16 a.counts.keyings, count16 a.counts.aborts, count16 a.counts.preemptions,
   count16 a.counts.acksDropped, count16 a.counts.blindSends]

/-- R45, R47. -/
def statusProtection (d : Device) : List Datum :=
  let ms := monitorOrder.map d.monitor
  [count16 d.prot.trips] ++ ms.map (fun m => .num 1 m.st.code)
    ++ [flagData (ms.any fun m => m.st == .alert), flagData (ms.any inhibits), .num 1 d.loop.st.code]

/-- R57. -/
def statusStore (d : Device) : List Datum :=
  let s := d.store
  let r := s.refusals
  [count16 (s.freePages Holder.forecast.pool).length, count16 (s.freePages Holder.warning.pool).length,
   count16 (s.freePages Holder.report.pool).length, count16 (s.held .forecast), count16 (s.held .inbound),
   count16 (s.held .outbound), count16 (s.held .warning), count16 (s.held .report), count16 r.forecast,
   count16 r.inbound, count16 r.outbound, count16 r.warning, count16 r.report]

/-- R77. -/
def statusNeighbours (d : Device) : List Datum :=
  let t := d.neigh
  [count16 t.entries.length, countWhere (fun n => n.fresh) t.entries, secondsTo d.now t.beaconDue,
   count16 t.counts.notEntered, count16 t.counts.factsRejected, count16 t.counts.beaconsSent,
   count16 t.counts.beaconsSkipped, count16 t.counts.waitRefusals,
   countWhere (fun w => w.kind == .distress) d.waits,
   countWhere (fun w => w.kind == .warning && !w.held) d.waits,
   countWhere (fun w => w.kind == .warning && w.held) d.waits]

/-- R106. -/
def statusTransfers (d : Device) : List Datum :=
  let c := d.xfer.counts
  let states : List SlotState :=
    [.free, .reserved, .awaitingRoute, .ready, .awaitingAck, .refusalWait, .held, .outcomeOwed]
  [count16 c.dataSent, count16 c.ackTimeouts, count16 c.gotAccepted, count16 c.gotFull, count16 c.gotNoRelay,
   count16 c.gotUnknown, count16 c.strayAcks, count16 c.gaveAccepted, count16 c.gaveFull, count16 c.gaveNoRelay,
   count16 c.gaveUnknown, count16 c.heldData, count16 c.malformed, count16 c.inactivity, count16 c.relaysLost,
   count16 c.delivered, count16 c.failed, count16 c.expired, count16 c.withdrawn, count16 c.flushed]
    ++ states.map (fun st => countWhere (fun s => s.st == st) d.xfer.slots)
    ++ [count16 d.xfer.reasms.length]

/-- R124, R127, R130. -/
def statusDistress (d : Device) : List Datum :=
  let u := d.distress
  let states : List CaseState := [.unacked, .acked, .closed]
  [count16 u.settled.length, flagData d.holdInForce, count16 d.holdSeconds, count16 u.counts.heard,
   count16 u.counts.unattributed, count16 u.counts.unreadable, count16 u.counts.notRecorded,
   count16 u.counts.relaysSent, count16 u.counts.acksSent, .num 1 u.own.st.code, .num 1 u.own.num]
    ++ states.map (fun st => countWhere (fun c => c.st == st) u.cases)

/-- R147. -/
def statusWeather (d : Device) : List Datum :=
  let w := d.weather
  let c := w.counts
  [countWhere (fun f => !f.complete) w.forecasts, countWhere (fun f => f.complete) w.forecasts,
   count16 w.warnings.length, count16 c.malformed, count16 c.headerErasures, count16 c.foreignIssuer,
   count16 c.unwantedArea, count16 c.otherIssuer, count16 c.oldIssue, count16 c.inconsistent,
   count16 c.notBetter, count16 c.superseded, count16 c.evicted, count16 c.discarded, count16 c.droppedForRoom,
   count16 c.stale, count16 c.completed, count16 c.expired, count16 c.stored, count16 c.notStored,
   count16 c.relaysSent, count16 c.lostReports]

/-- R170. -/
def statusLog (d : Device) : List Datum :=
  let l := d.log
  let states : List HaulState := [.free, .open', .weighing]
  let quotaStates : List QuotaState := [.normal, .alert, .reached]
  states.map (fun st => countWhere (fun h => h.st == st) l.hauls)
    ++ [.num 2 (match l.hauls.find? fun h => h.st == .open' with | none => 0 | some h => h.num),
        count16 l.cells.length, countWhere (fun c => c.saturated) l.cells]
    ++ quotaStates.map (fun st => countWhere (fun q => q.st == st) l.quotas)
    ++ [count16 l.counts.commits, count16 l.counts.tallyFull, count16 l.counts.linesReplaced,
        count16 l.counts.discarded, count16 l.counts.lostReports]

/-- R185. -/
def statusReports (d : Device) : List Datum :=
  let r := d.rep
  let c := r.counts
  let paused : Bool := match r.deadline with | some (.paused _) => true | _ => false
  [.num 1 r.st.code, optNum 2 r.num, optNum 1 (r.kind.map ReportReason.code), count16 r.lineCount,
   optNum 1 (r.early.map Ending.code), optNum 2 (r.deadline.map fun x => x.left d.now / 60000), flagData paused,
   optNum 1 (r.pending.map ReportReason.code), optNum 2 (r.lastEnding.map fun x => x.1),
   optNum 1 (r.lastEnding.map fun x => x.2.code), .num 2 r.counter, optNum 2 r.lastNotice, count16 c.built,
   count16 c.nil, count16 c.accepted, count16 c.rejected, count16 c.lost, count16 c.slotWaits, count16 c.merged,
   count16 c.lateReceipts, count16 c.applied, count16 c.partly, count16 c.stale, count16 c.rejectedNotices,
   count16 c.lostReports]

/-- The STATUS answer: the Console Link first, then the blocks in the order of the chapters (R207). -/
def statusData (d : Device) : List Datum :=
  d.statusConsole ++ d.statusRadio ++ d.statusProtection ++ d.statusStore ++ d.statusNeighbours
    ++ d.statusTransfers ++ d.statusDistress ++ d.statusWeather ++ d.statusLog ++ d.statusReports

/-! ## The other answers -/

/-- One entry of NEIGHBOURS (R77). The avoid time left goes up in whole seconds (entry 77). -/
def neighbourRow (d : Device) (n : Neigh) : List Datum :=
  [.num 3 n.station, .num 1 n.kind.code, .num 1 n.q, count16 n.heard, .num 1 (if n.fresh then 0 else 1),
   ago d.now n.lastHeard, optNum 1 (n.facts.map fun f => flag f.willing)]
    ++ positionData (n.facts.bind fun f => f.pos)
    ++ [.num 3 (((n.facts.bind fun f => f.port).map fun p => p.1).getD 0),
        optNum 1 ((n.facts.bind fun f => f.port).map fun p => p.2), secondsTo d.now n.avoidUntil]

def neighboursData (d : Device) : List Datum :=
  tableData ((sortBy (fun n => n.station) d.neigh.entries).map d.neighbourRow)

/-- One case of CASES (R130): the fields of R114 in their order. -/
def caseRow (d : Device) (c : Case) : List Datum :=
  [.num 3 c.station, .num 1 c.alert, .num 1 c.nature] ++ positionData c.pos ++ hourMinuteData c.posTime
    ++ [optNum 1 c.persons, ago d.now c.firstHeard, ago d.now c.lastHeard, .num 3 (c.via.getD 0),
        flagData c.readable, .num 1 c.st.code,
        .num 3 (match c.ackedBy with | none => 0 | some .own => d.config.own | some (.station s) => s),
        optNum 1 (c.closeReason.map CloseReason.code), .num 1 c.relay.code, .num 1 c.ownAck.code]

def casesData (d : Device) : List Datum :=
  tableData ((sortBy (fun c => c.station) d.distress.cases).map d.caseRow)

/-- The issue time of a COMPLETE record (R147): the issued UTC once it is computed, the carried day, hour and minute
until then, one or the other (entry 62). -/
def issueTimeData (f : Forecast) : List Datum :=
  match f.issued with
  | some t => [utcData (some t)]
  | none => [.num 1 f.day, .num 1 f.hour, .num 1 f.minute]

/-- The COMPLETE record of the FORECAST answer (R147): the scores as a list with its count byte, the texts one after
another without one (entry 69). -/
def forecastRow (d : Device) (f : Forecast) : List Datum :=
  let parts := f.parts.map fun p => p.getD ⟨0, 0, true, 0⟩
  [.num 3 f.issuer, .num 2 f.issue, count16 f.cnt] ++ tableData (parts.map fun p => [count16 p.score])
    ++ flagData f.marred :: issueTimeData f ++ [utcData f.validUntil]
    ++ (List.range parts.length).map fun i =>
      .text (d.store.readSyms f.grant (102 * i) (parts.getD i ⟨0, 0, true, 0⟩).len)

/-- The indices of the parts present. -/
def partsPresent (f : Forecast) : List Nat :=
  (List.range f.parts.length).filter fun i => (f.parts.getD i none).isSome

def forecastAnswer (d : Device) (area : Nat) : List Datum :=
  tableData ((d.forecast? area true).toList.map d.forecastRow)
    ++ tableData ((d.forecast? area false).toList.map fun f =>
      .num 2 f.issue :: tableData ((partsPresent f).map fun i => [.num 1 i]))

/-- One record of WARNINGS (R147): the fields of R141 in their order. -/
def warningRow (d : Device) (w : Warning) : List Datum :=
  [.num 3 w.issuer, .num 2 w.issue, .num 1 w.severity.code, .num 1 w.day, .num 1 w.hour, .num 1 w.minute,
   .num 1 w.validFor] ++ tableData (w.areas.map fun a => [.num 1 a])
    ++ [flagData w.wanted, utcData w.issued, utcData w.validUntil, .text (d.warningText w), count16 w.len,
        count16 w.score, count16 w.erasures, .num 1 (checkCode w.pass), timeData w.firstStored,
        .num 1 w.relay.code]

def warningsData (d : Device) : List Datum :=
  tableData ((sortBy (fun w => w.firstStored) d.weather.warnings).map d.warningRow)

def amountData (w : Nat) (a : Amount) : List Datum := [.num w a.total, .num w a.reported, .num w a.inFlight]

/-- One cell of TALLY (R169). -/
def cellRow (c : TallyCell) : List Datum :=
  .num 3 c.rect :: speciesData c.species ++ amountData 3 c.retained ++ amountData 3 c.discarded
    ++ amountData 2 c.hauls ++ [flagData c.saturated, flagData c.estimated, flagData c.longTow]

def tallyData (d : Device) : List Datum := tableData (d.log.cells.map cellRow)

/-- One entry of QUOTA (R169). -/
def quotaRow (q : QuotaEntry) : List Datum :=
  speciesData q.species ++ [.num 3 q.quota, .num 3 q.consumed, .num 1 q.st.code, .num 3 (q.quota - q.consumed)]

def quotasData (d : Device) : List Datum := tableData (d.log.quotas.map quotaRow)

/-- One haul of HAUL (R169): every field of its record. -/
def haulRow (h : Haul) : List Datum :=
  [.num 1 h.st.code, .num 2 h.num, utcData (some (h.startUtc : Int))] ++ positionData (some h.startPos)
    ++ [utcData (h.endUtc.map Int.ofNat)] ++ positionData h.endPos
    ++ [flagData h.estimated, flagData h.longTow, .num 3 h.startRect, optNum 3 h.endRect]
    ++ tableData (h.lines.map fun l => speciesData l.species ++ [.num 1 (if l.retained then 0 else 1), .num 3 l.weight])

/-- HAUL with number 0: number and state of every record in use. -/
def haulsData (d : Device) : List Datum :=
  tableData ((d.log.hauls.filter fun h => h.st != .free).map fun h => [.num 2 h.num, .num 1 h.st.code])

/-- One slot of TRANSFERS (R106). A slot in OUTCOME OWED sends the message number kept for its report (entry 55), a
RESERVED relay slot fragment count 0 (entry 53). -/
def slotRow (d : Device) (i : Nat) : List Datum :=
  let s := d.slot i
  [.num 1 i, .num 1 s.origin.code, optNum 1 (if s.origin = .console then some s.tag else none), .num 1 s.num,
   .num 1 s.cls.code, .num 3 s.dest, .num 3 (s.hop.getD 0), .num 1 s.st.code,
   optNum 1 (if s.st = .held then some s.heldFrom.code else none), .num 1 s.idx, count16 s.cnt, count16 s.retries,
   count16 s.cw, count16 s.refusals, count16 s.restarts, count16 ((s.lifetimeEnd - d.now) / 60000)]

/-- One reassembly entry of TRANSFERS (R106). -/
def reasmRow (d : Device) (e : Reasm) : List Datum :=
  [.num 3 e.source, .num 1 e.num, .num 1 e.cls.code, .num 3 e.dest, count16 e.next, count16 e.cnt,
   flagData e.waiting, count16 (e.timer.left d.now / 1000)]

/-- The TRANSFERS answer (R106): the slots in slot order, the reassembly entries in the order they were opened
(entry 66). -/
def transfersData (d : Device) : List Datum :=
  tableData ((d.slotsWhere fun s => s.st != .free).map d.slotRow) ++ tableData (d.xfer.reasms.map d.reasmRow)

end Device
end Sys2Proof.Machine
end

