-- ==== Sys2Proof/Machine/Exchange.lean ====
section
/-! DEFINITION. The console link's exchanges (11): the owed rule (R193), the drain (R192), the judging of a
down frame (R189) and its echo (R188). -/

namespace Sys2Proof.Machine
namespace Device

/-! ## Owed marks (R193) -/

/-- The report a record is owed, built as the record then stands; its mark has been removed and the lane has
a place. A record that no longer stands leaves the place to the next mark. A monitor's report carries the key-time
at its queueing, 0 with the key down (entry 51); that of the catch report its state, its deadline and the last ending
(R185, entry 23). -/
def serveMark (d : Device) : OwedRef → Device
  | .setup => d.report .configured .setup d.configuredData
  | .blocked =>
    if d.access.blocked then d.report .channelBlocked .blocked []
    else d.report .channelCleared .blocked (clearedData d.access.lastBlocked)
  | .monitor m =>
    let x := d.monitor m
    (d.onMonitor m fun x => { x with owedFrom := none }).report .protection (.monitor m)
      (protectionData m (x.owedFrom.getD x.st) x.st .owed d.prot.trips d.reportKeyTime)
  | .loop =>
    match d.loop.kept with
    | none => d
    | some k => (d.onLoop fun l => { l with kept := none }).reportTagged .loopResult k.tag .loop (loopData k)
  | .slot i =>
    let s := d.slot i
    match s.outcome with
    | none => d
    | some o => (d.queueEntry .general ⟨.transferOutcome, 0, .report (slotOutcomeData s o), 0⟩).freeSlot i
  | .delivery id => d.queueEntry .general ⟨.delivery, 0, .delivery id, 0⟩
  | .ownAlert => d.reportOwn .owed
  | .caseOf st =>
    match d.case? st with
    | none => d
    | some c =>
      match c.st, c.closeReason with
      | .closed, some r => d.report .caseClosed (.caseOf st) (caseClosedData st c.alert r)
      | _, _ => d.reportCase st .owed
  | .hold =>
    if d.holdInForce then
      d.report .holdStarted .hold (d.holdStartedData d.distress.holdCause d.distress.holdStation)
    else d.report .holdEnded .hold (holdEndedData d.distress.lastHold)
  | .forecast area =>
    match d.forecast? area true, d.weather.lastFreed.find? fun x => x.area == area with
    | some f, _ => d.report .forecastReady (.forecast area) (forecastData f 1 none)
    | none, some x => d.report .forecastExpired (.forecast area) (forecastExpiredData area x.issuer x.issue)
    | none, none => d
  | .warning issuer issue =>
    match d.warning? issuer issue with
    | none => d
    | some w => d.reportWarning w 3
  | .quota sp =>
    match d.quota? sp with
    | none => d
    | some q =>
      (d.onQuota sp fun q => { q with owedFrom := none }).report .quotaState (.quota sp)
        (quotaData sp q.quota q.consumed (quotaStateCode (q.owedFrom.getD (some q.st)))
          (quotaStateCode (some q.st)) 2)
  | .report =>
    let r := d.rep
    d.report .catchReportState .report
      (d.catchStateData .owed r.num r.kind r.lineCount r.buildUtc none (r.deadline.map fun c => c.left d.now / 60000)
        ++ [.num 1 r.st.code, optNum 2 (r.lastEnding.map fun x => x.1), optNum 1 (r.lastEnding.map fun x => x.2.code)])

/-- Serves the oldest marks while the lane has a place. Each round takes one mark off the list. -/
def serveOwed (d : Device) (n : LaneName) : Nat → Device
  | 0 => d
  | fuel + 1 =>
    match (d.lane n).owed with
    | [] => d
    | r :: rest =>
      if d.laneRoom n then ((d.onLane n fun l => { l with owed := rest }).serveMark r).serveOwed n fuel else d

/-! ## The drain (R192, R194) -/

/-- A delivery record is freed with its grant (R194). -/
def freeDelivery (d : Device) (id : Nat) : Device :=
  match d.console.deliveries.find? fun r => r.id == id with
  | none => d
  | some r => (d.onConsole fun c => { c with deliveries := c.deliveries.filter fun r => r.id != id }).releaseGrant r.grant

/-- A frame of the lane's first entry has gone up; the last one frees the entry's place (R192). -/
def drainLane (d : Device) (n : LaneName) : Device :=
  match (d.lane n).entries with
  | [] => d
  | e :: rest =>
    if e.sent + 1 < (d.entryContents e).length then
      d.onLane n fun l => { l with entries := { e with sent := e.sent + 1 } :: rest }
    else
      let d := d.onLane n fun l => { l with entries := rest }
      let d := match e.body with
        | .delivery id => d.freeDelivery id
        | .report _ => d
      d.serveOwed n ((d.lane n).owed.length + 32)

def onConsoleCounts (d : Device) (f : ConsoleCounts → ConsoleCounts) : Device :=
  d.onConsole fun c => { c with counts := f c.counts }

/-! ## Exchanges (R187, R188) -/

/-- CSEL is asserted: the up frame is settled, or a void exchange's is offered again (R187, R188). -/
def assertCsel (d : Device) : Device :=
  let up := d.console.reoffer.getD d.settledUpFrame
  d.onConsole fun c => { c with exchange := .running up, reoffer := none }

/-- CSEL is released: before the twelfth byte the exchange is void (R187). -/
def releaseCsel (d : Device) : Device :=
  match d.console.exchange with
  | .idle => d
  | .finished => d.onConsole fun c => { c with exchange := .idle }
  | .running up =>
    (d.onConsole fun c => { c with exchange := .idle, reoffer := some up }).onConsoleCounts fun c =>
      { c with void := bump c.void }

/-- The up frame of the exchange that a frame completes, and the device with that exchange running: CSEL is
asserted for it when no exchange is in progress (entry 7). -/
def running (d : Device) : UpFrame × Device :=
  match d.console.exchange with
  | .running up => (up, d)
  | _ =>
    let d := d.assertCsel
    match d.console.exchange with
    | .running up => (up, d)
    | _ => (⟨[], none⟩, d)

/-- The twelfth byte has moved: the exchange is complete, its report frame has gone up, and the places it
freed are served (R187, R192, R193). -/
def completeExchange (d : Device) : Device :=
  let (up, d) := d.running
  let d := (d.onConsole fun c => { c with exchange := .finished }).onConsoleCounts fun c =>
    { c with complete := bump c.complete }
  match up.lane with
  | none => d
  | some n => d.drainLane n

/-- A frame other than SETUP and its parts voids a setup sequence in progress (R196). -/
def leaveSetup (d : Device) : Device :=
  match d.console.setup with
  | .collecting _ => d.onConsole fun c => { c with setup := .idle, held := .zero }
  | _ => d

/-- The disposition goes into the echo; a refusal is counted (R188, R189). -/
def echo (d : Device) (tag : Nat) (r : Disposition) : Device :=
  let d := d.onConsole fun c => { c with echoTag := tag, echoDisp := r }
  if r = .taken then d else d.onConsoleCounts fun c => { c with refused := bump c.refused }

/-- A down frame of a complete exchange (R189). `isSetup`: SETUP or a part of it; `early`: judged while
UNCONFIGURED too; `judge`: the owning block's own tests and effect. -/
def frame (d : Device) (tag : Nat) (isSetup early : Bool) (judge : Device → Disposition × Device) : Device :=
  let d := d.completeExchange
  let d := if isSetup then d else d.leaveSetup
  let (r, d) := if d.ready || early then judge d else (.notSet, d)
  (d.echo tag r).settle

end Device

/-- A command's outcome: its effect on the part, none while RESETN is low. The waiting commands stay. -/
def State.act (s : State) (f : Device → Device) : Host.Outcome State Fault Refusal :=
  .next { s with dev := if s.dev.resetLow then s.dev else f s.dev }

/-- A down frame's outcome. -/
def State.frame (s : State) (tag : Nat) (isSetup early : Bool) (judge : Device → Disposition × Device) :
    Host.Outcome State Fault Refusal :=
  s.act fun d => d.frame tag isSetup early judge

/-- An event's outcome: its own effect, after which the blocks are in step again. -/
def State.event (s : State) (f : Device → Device) : Host.Outcome State Fault Refusal :=
  s.act fun d => (f d).settle

end Sys2Proof.Machine
end

