-- ==== Sys2Proof/Machine/CatchCommands.lean ====
section
/-! DEFINITION. The host's orders to the Catch Log (R152 to R159) and REPORT NOW (R174). -/

namespace Sys2Proof.Machine
namespace Device

/-- HAUL OPENED (R152). -/
def haulOpenedData (h : Haul) : List Datum :=
  [.num 2 h.num, utcData (some (h.startUtc : Int))] ++ positionData (some h.startPos) ++ [flagData h.estimated]

/-- The record HAUL OPEN fills (R152). -/
def openedHaul (d : Device) (utc : Nat) (f : Fix) : Haul :=
  { Haul.free with
    st := .open', num := d.nextHaulNumber, startUtc := utc, startPos := (f.lat, f.lon),
    startRect := rectangleOf (f.lat, f.lon), estimated := d.fixStale f }

/-- HAUL OPEN (R152). -/
def openHaul (tag : Nat) (d : Device) : Disposition × Device :=
  match d.utcNow with
  | none => (.timeUnset, d)
  | some utc =>
    match d.console.fix with
    | none => (.noFix, d)
    | some f =>
      if d.log.hauls.any fun h => h.st == .open' then (.oneOpen, d)
      else match d.log.hauls.findIdx? fun h => h.st == .free with
        | none => (.haulFull, d)
        | some i =>
          if d.laneRoom .general then
            let h := d.openedHaul utc f
            let d := d.onLog fun l => { l with hauls := l.hauls.set i h, counter := h.num }
            (.taken, d.queueEntry .general ⟨.haulOpened, tag, .report (haulOpenedData h), 0⟩)
          else (.queueFull, d)

/-- The record at HAUL CLOSE (R153). UTC and the fix are held at every HAUL CLOSE. -/
def closedHaul (d : Device) (h : Haul) : Haul :=
  let pos := match d.console.fix with
    | none => h.startPos
    | some f => (f.lat, f.lon)
  let stale : Bool := match d.console.fix with
    | none => false
    | some f => d.fixStale f
  { h with st := .weighing, endUtc := d.utcNow, endPos := some pos, endRect := some (rectangleOf pos),
           estimated := h.estimated || stale, longTow := h.startRect != rectangleOf pos }

/-- HAUL CLOSE (R153). -/
def closeHaul (number : Nat) (d : Device) : Disposition × Device :=
  match d.haulAt? number with
  | none => (.badParam, d)
  | some i =>
    let h := d.haul i
    if h.st = .weighing then (.state, d) else (.taken, d.onHaul i fun _ => d.closedHaul h)

/-- A line of the same species and disposition. -/
def sameLine (l x : CatchLine) : Bool := x.species == l.species && x.retained == l.retained

/-- CATCH LINE (R154). -/
def catchLine (number : Nat) (sp : Species) (disp weight : Nat) (d : Device) : Disposition × Device :=
  match d.haulAt? number with
  | none => (.badParam, d)
  | some i =>
    let h := d.haul i
    let l : CatchLine := ⟨sp, disp == 0, weight⟩
    if h.st = .open' then (.state, d)
    else if validSpecies sp = false ∨ 1 < disp ∨ weight = 0 ∨ 99999 < weight then (.range, d)
    else if h.lines.any (sameLine l) then
      (.taken, (d.onHaul i fun h => { h with lines := mapIf (sameLine l) (fun _ => l) h.lines }).onLogCounts
        fun c => { c with linesReplaced := bump c.linesReplaced })
    else if 12 ≤ h.lines.length then (.linesFull, d)
    else (.taken, d.onHaul i fun h => { h with lines := h.lines ++ [l] })

/-- HAUL DISCARD (R155). -/
def discardHaul (number : Nat) (d : Device) : Disposition × Device :=
  match d.haulAt? number with
  | none => (.badParam, d)
  | some i =>
    (.taken, (d.onHaul i fun _ => Haul.free).onLogCounts fun c => { c with discarded := bump c.discarded })

/-! ## Commit (R157 to R159) -/

/-- The rectangle of a haul's midpoint (R150, R151). -/
def haulRectangle (h : Haul) : Nat := rectangleOf (midpoint h.startPos (h.endPos.getD h.startPos))

/-- The cell of a key as the commit finds it: a new one is empty (R158). -/
def cellOrEmpty (d : Device) (rect : Nat) (sp : Species) : TallyCell :=
  (d.cell? rect sp).getD (.empty rect sp)

/-- One line of a commit (R158), with the saturated mark of R159. -/
def commitLine (rect : Nat) (x : Device × Bool) (l : CatchLine) : Device × Bool :=
  let c := x.1.cellOrEmpty rect l.species
  let a := if l.retained then c.retained else c.discarded
  (x.1.onCell rect l.species fun c => c.addLine l, x.2 || a.cuts l.weight kgLimit)

/-- A cell that received a line counts the haul and takes its flags (R159), with the saturated mark. -/
def commitCell (rect : Nat) (h : Haul) (x : Device × Bool) (sp : Species) : Device × Bool :=
  (x.1.onCell rect sp fun c => c.addHaul h, x.2 || (x.1.cellOrEmpty rect sp).hauls.cuts 1 65535)

/-- The species of a commit that have a quota entry, in alphabetical order (R166). -/
def quotaSpecies (d : Device) (lines : List CatchLine) : List Species :=
  sortBy speciesRank ((speciesOf lines).filter fun sp => (d.quota? sp).isSome)

/-- Consumed and states of a commit's species (R164, R165), and the request made at most once (R167). -/
def commitQuotas (d : Device) (lines : List CatchLine) : Device :=
  let sps := d.quotaSpecies lines
  let d := sps.foldl (fun d sp =>
    let n := d.consumedOf sp
    d.onQuota sp fun q => { q with consumed := n }) d
  let (reached, d) := sps.foldl (fun x sp =>
    let (r, d) := x.2.evaluateQuota sp 0
    (x.1 || r, d)) (false, d)
  if reached then d.trigger .quota else d

/-- A commit that has passed the tests of R157 (R158, R159). -/
def commitHaul (tag i : Nat) (d : Device) : Device :=
  let h := d.haul i
  let rect := haulRectangle h
  let touched := speciesOf h.lines
  let made := d.newKeys rect h.lines
  let (d, mark) := h.lines.foldl (commitLine rect) (d, false)
  let (d, mark) := touched.foldl (commitCell rect h) (d, mark)
  let d := d.onHaul i fun _ => Haul.free
  let d := d.queueEntry .general ⟨.haulCommitted, tag, .report
    [.num 2 h.num, .num 3 rect, count16 touched.length, count16 made.length, flagData h.estimated,
     flagData h.longTow, flagData mark], 0⟩
  let d := d.onLogCounts fun c => { c with commits := bump c.commits }
  d.commitQuotas h.lines

/-- HAUL COMMIT (R157). -/
def orderCommit (tag number : Nat) (d : Device) : Disposition × Device :=
  match d.haulAt? number with
  | none => (.badParam, d)
  | some i =>
    let h := d.haul i
    if h.st ≠ .weighing then (.state, d)
    else if h.lines.isEmpty then (.noLines, d)
    else if 60 - d.log.cells.length < (d.newKeys (haulRectangle h) h.lines).length then
      (.tallyFull, d.onLogCounts fun c => { c with tallyFull := bump c.tallyFull })
    else if d.laneRoom .general then (.taken, d.commitHaul tag i)
    else (.queueFull, d)

end Device

/-- REPORT_NOW (R174). -/
def execReportNow (tag : Nat) (s : State) : Host.Outcome State Fault Refusal :=
  s.frame tag false false fun d => (.taken, d.trigger .ordered)

/-- HAUL_OPEN (R152). -/
def execHaulOpen (tag : Nat) (s : State) : Host.Outcome State Fault Refusal :=
  s.frame tag false false (Device.openHaul tag)

/-- HAUL_CLOSE (R153). -/
def execHaulClose (tag number : Nat) (s : State) : Host.Outcome State Fault Refusal :=
  s.frame tag false false (Device.closeHaul number)

/-- CATCH_LINE (R154). -/
def execCatchLine (tag number l1 l2 l3 disp weight : Nat) (s : State) : Host.Outcome State Fault Refusal :=
  s.frame tag false false (Device.catchLine number ⟨l1, l2, l3⟩ disp weight)

/-- HAUL_DISCARD (R155). -/
def execHaulDiscard (tag number : Nat) (s : State) : Host.Outcome State Fault Refusal :=
  s.frame tag false false (Device.discardHaul number)

/-- HAUL_COMMIT (R157 to R159). -/
def execHaulCommit (tag number : Nat) (s : State) : Host.Outcome State Fault Refusal :=
  s.frame tag false false (Device.orderCommit tag number)

/-- The report hour is reached by counting on (R174): a SCHEDULED trigger, and the next day's hour. -/
def Device.hourReached (d : Device) : Device :=
  match d.rep.hourDue with
  | none => d
  | some t => ((d.reach t).onRep fun r => { r with hourDue := some (t + 86400000) }).trigger .scheduled

/-- REPORT_HOUR (R174). -/
def execReportHour (s : State) : Host.Outcome State Fault Refusal := s.event Device.hourReached

/-- The receipt deadline reaches 0 (R181). -/
def Device.deadlineReached (d : Device) : Device :=
  match d.rep.st, d.rep.deadline with
  | .awaitingReceipt, some (.running t) => (d.reach t).endReport .lost (some .deadline)
  | _, _ => d

/-- RECEIPT_DEADLINE (R181). -/
def execReceiptDeadline (s : State) : Host.Outcome State Fault Refusal := s.event Device.deadlineReached

end Sys2Proof.Machine
end

