-- ==== Sys2Proof/Machine/DistressCommands.lean ====
section
/-! DEFINITION. The host's orders to the Distress Unit (R108 to R128) and to the Transmitter Protection Monitor
(R46, R49). -/

namespace Sys2Proof.Machine
namespace Device

/-- A new alert from IDLE (R108): the hold comes into force and an own DISTRESS item is offered. -/
def startAlert (nature : Nat) (persons : Option Nat) (d : Device) : Device :=
  let before := d.holdInForce
  let d := d.onOwn fun o =>
    { o with st := .alerting, num := (o.num + 1) % 64, nature := nature, persons := persons,
             cancelCount := 0, ackedBy := none, repeatAsked := false }
  let d := d.reportOwn .started
  let d := if before then d else d.startHold HoldCause.ownAlert.code d.config.own
  d.offerOwn

/-- The immediate repeat of R109, by how the own item stands. A waiting item is rebuilt whole, with the fix held now
(entry 58). -/
def repeatNow (d : Device) : Device :=
  if d.ownOnAir then d.onOwn fun o => { o with repeatAsked := true }
  else if d.ownWaits then
    let body := d.ownBody
    d.onAccess fun a => a.onQueue .distress fun q => q.rewrite isOwnItem fun it => { it with body := body }
  else (d.onOwn fun o => { o with repeatDue := none }).offerOwn

/-- A DISTRESS command in ALERTING or ACKNOWLEDGED (R109). -/
def raiseAgain (nature : Nat) (persons : Option Nat) (d : Device) : Device :=
  let e := if d.distress.own.st = .alerting then OwnEvent.updated else OwnEvent.raisedAgain
  let d := d.onOwn fun o => { o with st := .alerting, nature := nature, persons := persons, ackedBy := none }
  (d.reportOwn e).repeatNow

/-- DISTRESS (R108); persons 255 means omitted (R205). -/
def orderDistress (nature persons : Nat) (d : Device) : Disposition × Device :=
  let p := if persons = 255 then none else some persons
  if 9 < nature ∨ (persons ≠ 255 ∧ 62 < persons) then (.range, d)
  else match d.distress.own.st with
    | .idle => (.taken, d.startAlert nature p)
    | .alerting | .acknowledged => (.taken, d.raiseAgain nature p)
    | .cancelling => (.state, d)

/-- CANCEL (R113). -/
def orderCancel (d : Device) : Disposition × Device :=
  match d.distress.own.st with
  | .alerting | .acknowledged =>
    let d := d.onOwn fun o =>
      { o with st := .cancelling, cancelCount := 0, repeatDue := none, repeatAsked := false }
    let d := d.reportOwn .cancelling
    (.taken, if d.ownOnAir then d else (d.withdraw .distress isOwnItem).offerOwn)
  | _ => (.state, d)

/-- ACK CASE (R121). -/
def orderAck (st : Nat) (d : Device) : Disposition × Device :=
  if st = 0 ∨ allStations ≤ st then (.badParam, d)
  else match d.case? st with
    | none => (.noCase, d)
    | some c => if c.st = .closed then (.noCase, d) else (.taken, d.acknowledgeCase c)

/-- CLOSE CASE (R122). -/
def orderClose (st : Nat) (d : Device) : Disposition × Device :=
  if st = 0 ∨ allStations ≤ st then (.badParam, d)
  else match d.case? st with
    | none => (.noCase, d)
    | some c => if c.st = .closed then (.state, d) else (.taken, d.closeCase c .host)

/-- FLUSH (R104, R128). -/
def orderFlush (d : Device) : Disposition × Device :=
  if d.holdInForce then
    let d := d.withdraw .answer fun _ => true
    let d := d.withdraw .routine fun it => it.kind == .data
    (.taken, d.flushTransfers)
  else (.noHold, d)

/-- LOOP TEST (R49). -/
def orderLoop (tag : Nat) (d : Device) : Disposition × Device :=
  if d.loop.st ≠ .idle then (.busy, d)
  else if d.distress.own.st ≠ .idle ∨ d.caseOpen ∨ d.holdInForce then (.state, d)
  else (.taken, d.onLoop fun l => { l with st := .waiting, tag := some tag })

end Device

/-- DISTRESS (R108, R109). -/
def execDistress (tag nature persons : Nat) (s : State) : Host.Outcome State Fault Refusal :=
  s.frame tag false false (Device.orderDistress nature persons)

/-- CANCEL (R113). -/
def execCancel (tag : Nat) (s : State) : Host.Outcome State Fault Refusal :=
  s.frame tag false false Device.orderCancel

/-- ACK_CASE (R121). -/
def execAckCase (tag station : Nat) (s : State) : Host.Outcome State Fault Refusal :=
  s.frame tag false false (Device.orderAck station)

/-- CLOSE_CASE (R122). -/
def execCloseCase (tag station : Nat) (s : State) : Host.Outcome State Fault Refusal :=
  s.frame tag false false (Device.orderClose station)

/-- FLUSH (R128). -/
def execFlush (tag : Nat) (s : State) : Host.Outcome State Fault Refusal :=
  s.frame tag false false Device.orderFlush

/-- RECOVER (R46). -/
def execRecover (tag : Nat) (s : State) : Host.Outcome State Fault Refusal :=
  s.frame tag false false fun d => (.taken, d.recoverAll)

/-- LOOP_TEST (R49). -/
def execLoopTest (tag : Nat) (s : State) : Host.Outcome State Fault Refusal :=
  s.frame tag false false (Device.orderLoop tag)

end Sys2Proof.Machine
end

