-- ==== Sys2Proof/Machine/LinkCommands.lean ====
section
/-! DEFINITION. The console link's own commands (11): resets, exchanges, setup, ship's time, the fix, text
submission and RESTART. -/

namespace Sys2Proof.Machine

/-! ## Setup values (R197) -/

/-- A station number the host may not give: outside 1 to 262,142 (R197, R205). -/
def badStation (n : Nat) : Bool := n == 0 || decide (allStations ≤ n)

/-- The nearest of 0, 2, 4 and 8; a value midway between two goes to the lower (R197). -/
def clampLatch (n : Nat) : Nat :=
  if n ≤ 1 then 0 else if n ≤ 3 then 2 else if n ≤ 6 then 4 else 8

/-- A value brought into a range. -/
def clamp (lo hi n : Nat) : Nat := max lo (min hi n)

/-- A switch: 0 is off, any other value on (R197). -/
def switch (n : Nat) : Bool := n != 0

namespace SetupRaw

def sourceUse (r : SetupRaw) : Nat := min r.sourceCount 4
def areaUse (r : SetupRaw) : Nat := min r.areaCount 12

/-- The configuration that completed setup puts in force (R197). -/
def config (r : SetupRaw) : Setup :=
  { own := r.own, port := r.port, sources := r.sources.take r.sourceUse, areas := r.areas.take r.areaUse,
    settleMs := 10 * min r.settle 50, dTune := r.dTune, dReflect := r.dReflect, dSupply := r.dSupply,
    dKeytime := r.dKeytime, recovery := r.recovery, latch := clampLatch r.latch,
    stale := clamp 10 120 r.stale, tDirect := r.tDirect, tRelay := r.tRelay, beacon := clamp 5 60 r.beacon,
    position := switch r.position, retry := clamp 1 15 r.retry, message := switch r.message,
    distress := switch r.distress, warning := switch r.warning, hold := clamp 5 30 r.hold,
    reportHour := if r.hour < 24 then some r.hour else none, receipt := clamp 30 720 r.receipt }

/-- The clamped parameters, by their places in R197's clamp table: source count 0, area count 1, settle 2,
stale 3, retry 4, beacon 5, hold 6, latch 7, receipt 8. The table's rows for the report hour (24 to 255 means none) and
the switches (any nonzero means on) give no mark (DESIGN CHOICE, entry 14). -/
def clamped (r : SetupRaw) : List Nat :=
  let c := r.config
  (List.range 9).filter fun i =>
    [r.sourceUse != r.sourceCount, r.areaUse != r.areaCount, c.settleMs != 10 * r.settle, c.stale != r.stale,
     c.retry != r.retry, c.beacon != r.beacon, c.hold != r.hold, c.latch != r.latch,
     c.receipt != r.receipt].getD i false

end SetupRaw

namespace Device

/-! ## Setup (R196) -/

/-- A setup frame with a bad value voids the sequence (R196). -/
def voidSetup (d : Device) : Device := d.onConsole fun c => { c with setup := .idle, held := .zero }

/-- SETUP head (R196, R197). -/
def setupHead (own port settle : Nat) (d : Device) : Disposition × Device :=
  if d.ready then (.alreadySet, d)
  else if badStation own || badStation port || own == port then (.badParam, d.voidSetup)
  else
    (.taken, d.onConsole fun c =>
      { c with setup := .collecting 1, held := { SetupRaw.zero with own := own, port := port, settle := settle } })

/-- SETUP PART `k` with the values held so far: its own values, or none when one is bad (R196). -/
def setupPart (k : Nat) (take : SetupRaw → Option SetupRaw) (finish : Device → Device) (d : Device) :
    Disposition × Device :=
  match d.console.setup with
  | .done => (.alreadySet, d)
  | .idle => (.state, d)
  | .collecting n =>
    if n = k then
      match take d.console.held with
      | none => (.badParam, d.voidSetup)
      | some r => (.taken, finish (d.onConsole fun c => { c with held := r, setup := .collecting (k + 1) }))
    else (.state, d.voidSetup)

/-- The forecast sources from place `i` that lie within the count are good (R197). -/
def goodSources (r : SetupRaw) (i : Nat) (l : List Nat) : Bool :=
  (l.take (r.sourceUse - i)).all fun s => !badStation s && s != r.own

/-- The wanted areas from place `i` that lie within the count are good (R197). -/
def goodAreas (r : SetupRaw) (i : Nat) (l : List Nat) : Bool :=
  (l.take (r.areaUse - i)).all fun a => decide (1 ≤ a) && decide (a ≤ 63)

/-- Setup completes (R197): the values take effect, reception hunts (R11), a clear spell starts (R19), the
first beacon due time is drawn (R71), and CONFIGURED is queued. -/
def completeSetup (d : Device) : Device :=
  let r := d.console.held
  let d := { d with config := r.config, rx := Rx.blank .hunting }
  let d := d.onConsole fun c => { c with setup := .done, marks := r.clamped, held := .zero }
  let d := d.enterClear
  let (k, d) := d.draw 0 60
  let d := d.onNeigh fun t => { t with beaconDue := some (d.now + k * 1000) }
  d.report .configured .setup d.configuredData

/-! ## Ship's time and the fix (R198, R199) -/

/-- When the configured report hour is next reached by counting on (R174). -/
def nextHour (d : Device) (value : Nat) : Option Time :=
  d.config.reportHour.map fun h => d.now + ((h * 3600 + 86399 - value % 86400) % 86400 + 1) * 1000

/-- A TIME frame's fields are in range (R198). -/
def timeInRange (year month day hour minute second : Nat) : Bool :=
  decide (2000 ≤ year) && decide (year ≤ 2099) && decide (1 ≤ month) && decide (month ≤ 12)
    && decide (1 ≤ day) && decide (day ≤ monthDays year month) && decide (hour ≤ 23) && decide (minute ≤ 59)
    && decide (second ≤ 59)

/-- TIME (R198): the count is set, the first one gives the records their times (R139), and every valid-until
it reaches is reached at once (R140, R143). -/
def setTime (year month day hour minute second : Nat) (d : Device) : Disposition × Device :=
  if timeInRange year month day hour minute second then
    let v := secondsOf year month day hour minute second - epochShift
    let first := d.console.utc.isNone
    let d := d.onConsole fun c => { c with utc := some ⟨d.now, v⟩ }
    let d := if first then d.computeTimes else d
    (.taken, d.reachValidity.onRep fun r => { r with hourDue := d.nextHour v })
  else (.range, d)

/-- POSITION (R199). -/
def setFix (lat lon : Int) (hour minute : Nat) (d : Device) : Disposition × Device :=
  if lat < -540000 ∨ 540000 < lat ∨ lon < -1080000 ∨ 1080000 < lon ∨ 23 < hour ∨ 59 < minute then (.range, d)
  else
    let lon := if lon = 1080000 then -1080000 else lon
    (.taken, d.onConsole fun c => { c with fix := some ⟨lat, lon, hour, minute, d.now⟩ })

/-! ## Text submission (R200, R201) -/

/-- SUBMIT (R200). -/
def openSubmit (tag dest len : Nat) (d : Device) : Disposition × Device :=
  if d.console.submit.isSome then (.busy, d)
  else if dest = 0 ∨ allStations ≤ dest then (.badParam, d)
  else if len = 0 ∨ 1776 < len then (.range, d)
  else match d.freeSlot? with
    | none => (.tableFull, d)
    | some i =>
      match d.reserve .outbound len with
      | (.granted id, d) =>
        let d := d.takeSlot i .reserved .console tag .text dest d.config.own (some id) len
        (.taken, d.onConsole fun c => { c with submit := some ⟨tag, dest, len, 0, id, i, d.now + 30000⟩ })
      | (_, d) => (.poolFull, d)

/-- TEXT (R201). -/
def takeText (tag : Nat) (symbols : List Nat) (d : Device) : Disposition × Device :=
  match d.console.submit with
  | none => (.state, d)
  | some s =>
    let wanted := symbols.take (s.len - s.received)
    if s.tag ≠ tag then (.badParam, d)
    else if wanted.any fun x => decide (63 ≤ x) then (.range, d.voidSubmit)
    else
      let d := d.writeText s.grant s.received wanted
      let n := s.received + wanted.length
      if n = s.len then (.taken, (d.onConsole fun c => { c with submit := none }).startConsole s.slot)
      else (.taken, d.onConsole fun c => { c with submit := some { s with received := n, voidAt := d.now + 30000 } })

/-- WITHDRAW (R91, R201): the open submit with the tag is voided, and the slots with the tag end, in slot order
(entry 57). -/
def withdrawTag (consoleTag : Nat) (d : Device) : Disposition × Device :=
  let slots := d.withdrawable consoleTag
  let opened : Bool := match d.console.submit with
    | none => false
    | some s => s.tag == consoleTag
  if slots.isEmpty && !opened then (.badParam, d)
  else
    let d := if opened then d.voidSubmit else d
    (.taken, slots.foldl (fun d i => d.askEnding i .withdrawn) d)

/-- The void timer runs out (R201): TRANSFER OUTCOME with outcome VOID, lost to a full lane. The slot is freed first,
and a catch report that waits for one is tried then (entry 76). -/
def submitTimesOut (d : Device) : Device :=
  match d.console.submit with
  | none => d
  | some s =>
    let d := d.reach s.voidAt
    let num := (d.slot s.slot).num
    match d.voidSubmit.reportOrLose .transferOutcome 0 (outcomeData s.tag .void num s.dest 0 0) with
    | (true, d) => d
    | (false, d) => d.onConsoleCounts fun c => { c with lostReports := bump c.lostReports }

/-! ## RESTART (R202) -/

/-- The Controller at RESTART (R36): a burst on air that is not distress class is aborted, and every item and
contender is removed. -/
def restartAccess (d : Device) : Device :=
  let d := match d.onAirKind with
    | none => d
    | some k => if k.cls = AccessClass.distress then d else d.abortBurst .restart
  d.onAccess fun a => a.onQueues fun _ => .empty

/-- Every own DISTRESS or CANCEL, DISTRESS-ACK and DISTRESS-RELAY that was waiting is offered again, with its
body unchanged, in the order of the offers (R36, R111, R124). -/
def offerAgain (d : Device) (items : List Item) : Device :=
  (sortBy (fun it => it.order) items).foldl (fun d it =>
    d.offer { it with ready := d.now, blindFrom := d.now, overdue := false }) d

/-- Every record that RESTART clears in the Transfer Engine, the Page Store, the Report Builder, the Weather
Store, the Protection Monitor and the Catch Log (R47, R59, R105, R148, R172, R186). -/
def restartRecords (d : Device) : Device :=
  let d := if d.rep.st = .none then d else (d.closeReport .lost).countEnding .lost
  let d := d.onRep fun r => { r with pending := none }
  let d := d.onXfer fun t => { t with slots := List.replicate 8 Slot.free, reasms := [], recents := [] }
  let d := d.onStore fun s =>
    { s with grants := s.grants.filter fun g => g.holder == .forecast || g.holder == .warning }
  let d := d.onWeather fun w =>
    { w with warnings := mapIf (fun x => x.relay == .offered) (fun x => { x with relay := .suppressed }) w.warnings }
  let d := monitorOrder.foldl (fun d m => d.onMonitor m fun x => { x with owedFrom := none }) d
  let d := d.onLog fun l => { l with quotas := l.quotas.map fun q => { q with owedFrom := none } }
  d.leaveLoop.onLoop fun l => { l with kept := none }

/-- The Console Link at RESTART (R202). -/
def restartConsole (d : Device) : Device :=
  d.onConsole fun c =>
    { c with distress := ⟨[], []⟩, general := ⟨[startedEntry 1 1], []⟩, deliveries := [], submit := none }

/-- RESTART (R202). -/
def restart (d : Device) : Disposition × Device :=
  let items := d.access.distress.items
  (.taken, (d.restartAccess.restartRecords.offerAgain items).restartConsole)

end Device

/-! ## Meanings -/

/-- HARD_RESET (R203). CSEL is taken as released. -/
def execHardReset (s : State) : Host.Outcome State Fault Refusal :=
  .next { s with dev := Device.afterReset s.dev.draws }

/-- RESETN_ASSERTED (R187, R203): the part is held at its hard-reset values. -/
def execResetnAsserted (s : State) : Host.Outcome State Fault Refusal :=
  .next { s with dev := Device.inReset s.dev.draws }

/-- CSEL_ASSERT (R188); CSEL already asserted changes nothing. -/
def execCselAssert (s : State) : Host.Outcome State Fault Refusal :=
  s.act fun d => if d.console.exchange = .idle then d.assertCsel else d

/-- CSEL_RELEASE (R187). -/
def execCselRelease (s : State) : Host.Outcome State Fault Refusal := s.act Device.releaseCsel

/-- NONE (R189). -/
def execNoneFrame (tag : Nat) (s : State) : Host.Outcome State Fault Refusal :=
  s.frame tag false true fun d => (.taken, d)

/-- UNKNOWN_KIND (R189). -/
def execUnknownKind (tag _kind : Nat) (s : State) : Host.Outcome State Fault Refusal :=
  s.frame tag false true fun d => (.unknownKind, d)

/-- READ_BAD_SELECTOR (R195). -/
def execReadBadSelector (tag _selector : Nat) (s : State) : Host.Outcome State Fault Refusal :=
  s.frame tag false false fun d => (.badParam, d)

/-- SETUP (R196). -/
def execSetup (tag own port settle : Nat) (s : State) : Host.Outcome State Fault Refusal :=
  s.frame tag true true (Device.setupHead own port settle)

/-- SETUP_PART_1 (R196, R197). -/
def execSetupPart1 (tag count s1 s2 s3 : Nat) (s : State) : Host.Outcome State Fault Refusal :=
  s.frame tag true true (Device.setupPart 1 (fun r =>
    let r := { r with sourceCount := count, sources := [s1, s2, s3] }
    if Device.goodSources r 0 [s1, s2, s3] then some r else none) id)

/-- SETUP_PART_2 (R196, R197). -/
def execSetupPart2 (tag s4 count a1 a2 a3 a4 a5 a6 : Nat) (s : State) : Host.Outcome State Fault Refusal :=
  s.frame tag true true (Device.setupPart 2 (fun r =>
    let r := { r with sources := r.sources ++ [s4], areaCount := count, areas := [a1, a2, a3, a4, a5, a6] }
    if Device.goodSources r 3 [s4] && Device.goodAreas r 0 [a1, a2, a3, a4, a5, a6] then some r else none) id)

/-- SETUP_PART_3 (R196, R197). -/
def execSetupPart3 (tag a7 a8 a9 a10 a11 a12 stale tDirect tRelay hour : Nat) (s : State) :
    Host.Outcome State Fault Refusal :=
  s.frame tag true true (Device.setupPart 3 (fun r =>
    let r := { r with areas := r.areas ++ [a7, a8, a9, a10, a11, a12], stale := stale, tDirect := tDirect,
                      tRelay := tRelay, hour := hour }
    if Device.goodAreas r 6 [a7, a8, a9, a10, a11, a12] then some r else none) id)

/-- SETUP_PART_4 (R196, R197). -/
def execSetupPart4 (tag dTune dReflect dSupply dKeytime recovery latch retry beacon hold : Nat) (s : State) :
    Host.Outcome State Fault Refusal :=
  s.frame tag true true (Device.setupPart 4 (fun r =>
    some { r with dTune := dTune, dReflect := dReflect, dSupply := dSupply, dKeytime := dKeytime,
                  recovery := recovery, latch := latch, retry := retry, beacon := beacon, hold := hold }) id)

/-- SETUP_PART_5 (R196, R197): when taken, setup completes. -/
def execSetupPart5 (tag receipt position message distress warning : Nat) (s : State) :
    Host.Outcome State Fault Refusal :=
  s.frame tag true true (Device.setupPart 5 (fun r =>
    some { r with receipt := receipt, position := position, message := message, distress := distress,
                  warning := warning }) Device.completeSetup)

/-- TIME (R198). -/
def execTime (tag year month day hour minute second : Nat) (s : State) : Host.Outcome State Fault Refusal :=
  s.frame tag false false (Device.setTime year month day hour minute second)

/-- POSITION (R199). -/
def execPosition (tag : Nat) (lat lon : Int) (hour minute : Nat) (s : State) : Host.Outcome State Fault Refusal :=
  s.frame tag false false (Device.setFix lat lon hour minute)

/-- SUBMIT (R200). -/
def execSubmit (tag dest len : Nat) (s : State) : Host.Outcome State Fault Refusal :=
  s.frame tag false false (Device.openSubmit tag dest len)

/-- TEXT (R201). -/
def execText (tag : Nat) (symbols : List Nat) (s : State) : Host.Outcome State Fault Refusal :=
  s.frame tag false false (Device.takeText tag symbols)

/-- WITHDRAW (R91, R201). -/
def execWithdraw (tag consoleTag : Nat) (s : State) : Host.Outcome State Fault Refusal :=
  s.frame tag false false (Device.withdrawTag consoleTag)

/-- RESTART (R202). -/
def execRestart (tag : Nat) (s : State) : Host.Outcome State Fault Refusal :=
  s.frame tag false false Device.restart

/-- SUBMIT_VOID_TIMER (R201). -/
def execSubmitVoidTimer (s : State) : Host.Outcome State Fault Refusal := s.event Device.submitTimesOut

end Sys2Proof.Machine
end

