-- ==== Sys2Proof/Machine/RadioEvents.lean ====
section
/-! DEFINITION. The radio side's events: characters, carrier, gaps and slots, keying, protection and the loop
test (01, 02, 03). -/

namespace Sys2Proof.Machine

/-- RAW_CARRIER_CHANGE (R2, R20). -/
def execRawCarrierChange (up : Bool) (s : State) : Host.Outcome State Fault Refusal :=
  s.event fun d => d.rawChange up

/-- CARRIER_DEBOUNCE (R20). -/
def execCarrierDebounce (s : State) : Host.Outcome State Fault Refusal := s.event Device.debounce

/-- SYNC_A_FOUND (R11). -/
def execSyncAFound (quality : Nat) (s : State) : Host.Outcome State Fault Refusal :=
  s.event fun d => d.findSync quality

/-- CHARACTER_RECEIVED (R2, R11 to R16): the Modem delivers it only while the record is in a reception. -/
def execCharacterReceived (pattern : Pattern) (quality : Nat) (s : State) : Host.Outcome State Fault Refusal :=
  s.event fun d => if d.reception then d.takeCharacter pattern quality else d

/-- GAP_END (R22, R26). -/
def execGapEnd (cls : AccessClass) (s : State) : Host.Outcome State Fault Refusal :=
  s.event fun d => d.gapEnds cls

/-- BACKOFF_SLOT (R22, R26). -/
def execBackoffSlot (cls : AccessClass) (s : State) : Host.Outcome State Fault Refusal :=
  s.event fun d => d.slotEnds cls

/-- SETTLE_END (R8, R27). -/
def execSettleEnd (s : State) : Host.Outcome State Fault Refusal := s.event Device.settleEnds

/-- BURST_END (R8, R28). -/
def execBurstEnd (s : State) : Host.Outcome State Fault Refusal := s.event Device.burstEnds

/-- KEYTIME_LIMIT (R29, R41). -/
def execKeytimeLimit (s : State) : Host.Outcome State Fault Refusal := s.event Device.keyLimit

/-- ACK_LIMIT (R31). -/
def execAckLimit (s : State) : Host.Outcome State Fault Refusal := s.event Device.ackLimit

/-- BLIND_TIMER (R34). -/
def execBlindTimer (s : State) : Host.Outcome State Fault Refusal := s.event Device.blindReached

/-- CHANNEL_BLOCKED (R33). -/
def execChannelBlocked (s : State) : Host.Outcome State Fault Refusal := s.event Device.channelBlocks

/-- PROTECTION_CHECK (R39 to R42). -/
def execProtectionCheck (tuneF refl supLo : Bool) (s : State) : Host.Outcome State Fault Refusal :=
  s.event fun d => d.protectionCheck tuneF refl supLo

/-- A TRIPPED monitor's recovery timer runs out (R44). -/
def Device.recoveryTime (m : MonitorId) (d : Device) : Device :=
  match (d.monitor m).st, (d.monitor m).recoverAt with
  | .tripped, some t => (d.reach t).recoverMonitor m
  | _, _ => d

/-- RECOVERY_TIME (R44). -/
def execRecoveryTime (m : MonitorId) (s : State) : Host.Outcome State Fault Refusal :=
  s.event (Device.recoveryTime m)

/-- The quiet timer runs out (R45). -/
def Device.quietTime (d : Device) : Device :=
  match d.prot.quietEnd with
  | none => d
  | some t => (d.reach t).onProt fun p => { p with trips := 0, quietEnd := none }

/-- QUIET_TIMER (R45). -/
def execQuietTimer (s : State) : Host.Outcome State Fault Refusal := s.event Device.quietTime

/-- LOOP_START (R18, R49). -/
def execLoopStart (s : State) : Host.Outcome State Fault Refusal :=
  s.event fun d => if d.canStartLoop then d.startLoop else d

/-- The looped Modem has handed over the 48 characters (R18, R50). LOOP RESULT is queued here, and CHANNEL CLEARED of
a channel that leaves BUSY for the loop only as the blocks come into step (entry 72). -/
def Device.loopDone (received : List Pattern) (d : Device) : Device :=
  if d.loop.st = .looping then
    let d := d.reach d.loop.endAt
    d.leaveLoop.reportLoop (d.loopVerdict received)
  else d

/-- LOOP_RESULT (R18, R50). -/
def execLoopResult (received : List Pattern) (s : State) : Host.Outcome State Fault Refusal :=
  s.event (Device.loopDone received)

end Sys2Proof.Machine
end

