-- ==== Sys2Proof/Machine/Reads.lean ====
section
/-! DEFINITION. The nine READ commands (R195). -/

namespace Sys2Proof.Machine

/-- The last test of a READ and its answer (R195): QUEUE FULL, or the answer is queued with the READ's tag. -/
def Device.answer (tag selector : Nat) (data : List Datum) (d : Device) : Disposition × Device :=
  if d.laneRoom .general then (.taken, d.queueEntry .general ⟨.answer selector, tag, .report data, 0⟩)
  else (.queueFull, d)

/-- READ STATUS (R195, R207), judged while UNCONFIGURED too. -/
def execReadStatus (tag : Nat) (s : State) : Host.Outcome State Fault Refusal :=
  s.frame tag false true fun d => d.answer tag 1 d.statusData

/-- READ NEIGHBOURS (R77). -/
def execReadNeighbours (tag : Nat) (s : State) : Host.Outcome State Fault Refusal :=
  s.frame tag false false fun d => d.answer tag 2 d.neighboursData

/-- READ CASES (R130). -/
def execReadCases (tag : Nat) (s : State) : Host.Outcome State Fault Refusal :=
  s.frame tag false false fun d => d.answer tag 3 d.casesData

/-- READ FORECAST (R147). -/
def execReadForecast (tag area : Nat) (s : State) : Host.Outcome State Fault Refusal :=
  s.frame tag false false fun d =>
    if d.config.areas.contains area then d.answer tag 4 (d.forecastAnswer area) else (.badParam, d)

/-- READ WARNINGS (R147). -/
def execReadWarnings (tag : Nat) (s : State) : Host.Outcome State Fault Refusal :=
  s.frame tag false false fun d => d.answer tag 5 d.warningsData

/-- READ TALLY (R169). -/
def execReadTally (tag : Nat) (s : State) : Host.Outcome State Fault Refusal :=
  s.frame tag false false fun d => d.answer tag 6 d.tallyData

/-- READ QUOTA (R169). -/
def execReadQuota (tag : Nat) (s : State) : Host.Outcome State Fault Refusal :=
  s.frame tag false false fun d => d.answer tag 7 d.quotasData

/-- READ HAUL (R169). -/
def execReadHaul (tag number : Nat) (s : State) : Host.Outcome State Fault Refusal :=
  s.frame tag false false fun d =>
    if number = 0 then d.answer tag 8 d.haulsData
    else match d.haulAt? number with
      | none => (.badParam, d)
      | some i => d.answer tag 8 (Device.haulRow (d.haul i))

/-- READ TRANSFERS (R106). -/
def execReadTransfers (tag : Nat) (s : State) : Host.Outcome State Fault Refusal :=
  s.frame tag false false fun d => d.answer tag 9 d.transfersData

end Sys2Proof.Machine
end

