-- ==== Sys2Proof/Machine/RecordTimers.lean ====
section
/-! DEFINITION. The timers of the records (05 to 08). A timer that its record does not run changes nothing;
one that runs takes place at its own moment (entry 1). -/

namespace Sys2Proof.Machine
namespace Device

/-- The stale time of a FRESH entry (R64). -/
def staleTime (st : Station) (d : Device) : Device :=
  match d.neighbour? st with
  | none => d
  | some n =>
    if n.fresh then
      let (d, evs) := (d.reach (d.staleAt n)).goStale st
      d.routeEvents evs
    else d

/-- The removal time of a STALE entry (R64). -/
def removalTime (st : Station) (d : Device) : Device :=
  match d.neighbour? st with
  | none => d
  | some n => if n.fresh || n.removalWaits then d else (d.reach (removalAt n)).removeAtTime st

/-- An avoid mark passes (R67). -/
def avoidTime (st : Station) (d : Device) : Device :=
  match (d.neighbour? st).bind fun n => n.avoidUntil with
  | none => d
  | some t =>
    let (d, evs) := (d.reach t).avoidPassed st
    d.routeEvents evs

/-- The beacon due time is reached (R71, R72). -/
def beaconTime (d : Device) : Device :=
  match d.neigh.beaconDue with
  | none => d
  | some t => (d.reach t).beaconFalls t

/-- A RUNNING wait's expiry is reached (R76). -/
def waitTime (k : WaitKind) (st num : Nat) (d : Device) : Device :=
  match d.wait? k st num with
  | none => d
  | some w =>
    if w.held then d
    else
      let d := d.reach w.expiry
      match k with
      | .distress => (d.removeWait k st num).offerRelay st num
      | .warning =>
        if d.holdInForce then
          let same (x : Wait) : Bool := x.kind == k && x.station == st && x.number == num
          { d with waits := mapIf same (fun x => { x with held := true }) d.waits }
        else (d.removeWait k st num).offerWarning st num

/-- The slot whose ACK timeout runs (R85). -/
def ackSlot? (d : Device) : Option Nat :=
  (d.slotsWhere fun s => s.st == .awaitingAck && s.ackDue.isSome && !s.ackWaiting).head?

/-- The ACK timeout falls (R85): taken, or waiting for the end of the reception in progress. -/
def ackTime (d : Device) : Device :=
  match d.ackSlot? with
  | none => d
  | some i =>
    let d := d.reach ((d.slot i).ackDue.getD 0)
    if d.reception then d.onSlot i fun s => { s with ackWaiting := true } else d.takeTimeout i

/-- A refusal wait's 60 s run out (R88). -/
def refusalTime (i : Nat) (d : Device) : Device :=
  match (d.slot i).st, (d.slot i).refusalEnd with
  | .refusalWait, some t => (d.reach t).goReady i
  | _, _ => d

/-- The slot's lifetime can end it now (R91). -/
def lifetimeRuns (s : Slot) : Bool :=
  s.st != .free && s.st != .reserved && s.st != .outcomeOwed && s.pendingEnd.isNone

/-- A slot's lifetime end is reached (R91). -/
def lifeTime (i : Nat) (d : Device) : Device :=
  let s := d.slot i
  if lifetimeRuns s then (d.reach s.lifetimeEnd).askEnding i .expired else d

/-- An entry's inactivity timer runs out (R100). -/
def inactivityTime (src num : Nat) (d : Device) : Device :=
  match d.reasm? src num with
  | none => d
  | some e =>
    match e.timer with
    | .running t => (d.reach t).reasmExpires e
    | .paused _ => d

/-- A pair's remaining time runs out (R99). -/
def recentTime (src num : Nat) (d : Device) : Device :=
  match d.xfer.recents.find? (isPair src num) with
  | none => d
  | some r =>
    match r.timer with
    | .running t => (d.reach t).onXfer fun x => { x with recents := x.recents.filter fun r => !isPair src num r }
    | .paused _ => d

/-- The own alert's repeat due time is reached (R110). -/
def repeatTime (d : Device) : Device :=
  match d.distress.own.repeatDue with
  | none => d
  | some t => ((d.reach t).onOwn fun o => { o with repeatDue := none }).offerOwn

/-- The own alert's cancel due time is reached (R113). -/
def cancelTime (d : Device) : Device :=
  match d.distress.own.cancelDue with
  | none => d
  | some t => ((d.reach t).onOwn fun o => { o with cancelDue := none }).offerOwn

/-- When a case expires (R120). -/
def caseEndAt (c : Case) : Time := c.lastHeard + 7200000

/-- 2 hours have passed since a case was last heard (R120). -/
def caseTime (st : Station) (d : Device) : Device :=
  match d.case? st with
  | none => d
  | some c => if c.st = .closed then d else (d.reach (caseEndAt c)).closeCase c .expired

/-- The hold timer runs out (R125, R126). -/
def holdTime (d : Device) : Device :=
  match d.distress.holdTimer with
  | none => d
  | some t =>
    let d := (d.reach t).onDistress fun u => { u with holdTimer := none }
    if d.distress.own.st = .idle then d.endHold else d

/-- When a COLLECTING record has gone 6 h without a part (R140). -/
def collectionEndAt (f : Forecast) : Time := f.lastPart + 21600000

/-- The 6 h limit of a COLLECTING record (R140). -/
def collectionTime (area : Nat) (d : Device) : Device :=
  match d.forecast? area false with
  | none => d
  | some f => (d.reach (collectionEndAt f)).discardForecast f

/-- When UTC counts to a valid-until; none while either is absent. -/
def validityAt (d : Device) (v : Option Int) : Option Time :=
  match d.console.utc, v with
  | some u, some v => some (whenUtc u v)
  | _, _ => none

/-- A forecast record's valid-until is reached (R140). -/
def forecastTime (area : Nat) (complete : Bool) (d : Device) : Device :=
  match d.forecast? area complete with
  | none => d
  | some f =>
    match d.validityAt f.validUntil with
    | none => d
    | some t => if complete then (d.reach t).expireForecast f else (d.reach t).discardForecast f

/-- A warning record's valid-until is reached (R143). -/
def warningTime (issuer issue : Nat) (d : Device) : Device :=
  match d.warning? issuer issue with
  | none => d
  | some w =>
    match d.validityAt w.validUntil with
    | none => d
    | some t => (d.reach t).freeWarning w

end Device

/-- STALE_TIME (R64). -/
def execStaleTime (st : Station) (s : State) : Host.Outcome State Fault Refusal := s.event (Device.staleTime st)

/-- NEIGHBOUR_REMOVAL (R64). -/
def execNeighbourRemoval (st : Station) (s : State) : Host.Outcome State Fault Refusal :=
  s.event (Device.removalTime st)

/-- AVOID_MARK_EXPIRY (R67). -/
def execAvoidMarkExpiry (st : Station) (s : State) : Host.Outcome State Fault Refusal :=
  s.event (Device.avoidTime st)

/-- BEACON_DUE (R71, R72). -/
def execBeaconDue (s : State) : Host.Outcome State Fault Refusal := s.event Device.beaconTime

/-- RELAY_WAIT_EXPIRY (R76). -/
def execRelayWaitExpiry (k : WaitKind) (st num : Nat) (s : State) : Host.Outcome State Fault Refusal :=
  s.event (Device.waitTime k st num)

/-- ACK_TIMEOUT (R85, R87). -/
def execAckTimeout (s : State) : Host.Outcome State Fault Refusal := s.event Device.ackTime

/-- REFUSAL_WAIT_END (R88). -/
def execRefusalWaitEnd (i : Nat) (s : State) : Host.Outcome State Fault Refusal := s.event (Device.refusalTime i)

/-- LIFETIME_END (R91). -/
def execLifetimeEnd (i : Nat) (s : State) : Host.Outcome State Fault Refusal := s.event (Device.lifeTime i)

/-- INACTIVITY_EXPIRY (R100). -/
def execInactivityExpiry (src num : Nat) (s : State) : Host.Outcome State Fault Refusal :=
  s.event (Device.inactivityTime src num)

/-- RECENT_PAIR_EXPIRY (R99). -/
def execRecentPairExpiry (src num : Nat) (s : State) : Host.Outcome State Fault Refusal :=
  s.event (Device.recentTime src num)

/-- REPEAT_DUE (R110). -/
def execRepeatDue (s : State) : Host.Outcome State Fault Refusal := s.event Device.repeatTime

/-- CANCEL_DUE (R113). -/
def execCancelDue (s : State) : Host.Outcome State Fault Refusal := s.event Device.cancelTime

/-- CASE_EXPIRY (R120). -/
def execCaseExpiry (st : Station) (s : State) : Host.Outcome State Fault Refusal := s.event (Device.caseTime st)

/-- HOLD_TIMER_EXPIRY (R125). -/
def execHoldTimerExpiry (s : State) : Host.Outcome State Fault Refusal := s.event Device.holdTime

/-- COLLECTION_DISCARD (R140). -/
def execCollectionDiscard (area : Nat) (s : State) : Host.Outcome State Fault Refusal :=
  s.event (Device.collectionTime area)

/-- FORECAST_EXPIRY (R140). -/
def execForecastExpiry (area : Nat) (complete : Bool) (s : State) : Host.Outcome State Fault Refusal :=
  s.event (Device.forecastTime area complete)

/-- WARNING_EXPIRY (R143). -/
def execWarningExpiry (issuer issue : Nat) (s : State) : Host.Outcome State Fault Refusal :=
  s.event (Device.warningTime issuer issue)

end Sys2Proof.Machine
end

