-- ==== Sys2Proof/Machine/Dispatch.lean ====
section
/-! DEFINITION. One arm per command, each one direct call of its meaning. -/

namespace Sys2Proof.Machine

def exec (i : Instr) (s : State) : Host.Outcome State Fault Refusal :=
  match i with
  | .hardReset => Sys2Proof.Machine.execHardReset s
  | .resetnAsserted => Sys2Proof.Machine.execResetnAsserted s
  | .cselAssert => Sys2Proof.Machine.execCselAssert s
  | .cselRelease => Sys2Proof.Machine.execCselRelease s
  | .noneFrame tag => Sys2Proof.Machine.execNoneFrame tag s
  | .unknownKind tag kind => Sys2Proof.Machine.execUnknownKind tag kind s
  | .readBadSelector tag selector => Sys2Proof.Machine.execReadBadSelector tag selector s
  | .setup tag own port settle => Sys2Proof.Machine.execSetup tag own port settle s
  | .setupPart1 tag count source1 source2 source3 => Sys2Proof.Machine.execSetupPart1 tag count source1 source2 source3 s
  | .setupPart2 tag source4 count area1 area2 area3 area4 area5 area6 => Sys2Proof.Machine.execSetupPart2 tag source4 count area1 area2 area3 area4 area5 area6 s
  | .setupPart3 tag area7 area8 area9 area10 area11 area12 stale tDirect tRelay hour => Sys2Proof.Machine.execSetupPart3 tag area7 area8 area9 area10 area11 area12 stale tDirect tRelay hour s
  | .setupPart4 tag dTune dReflect dSupply dKeytime recovery latch retry beacon hold => Sys2Proof.Machine.execSetupPart4 tag dTune dReflect dSupply dKeytime recovery latch retry beacon hold s
  | .setupPart5 tag receipt position message distress warning => Sys2Proof.Machine.execSetupPart5 tag receipt position message distress warning s
  | .time tag year month day hour minute second => Sys2Proof.Machine.execTime tag year month day hour minute second s
  | .position tag latitude longitude hour minute => Sys2Proof.Machine.execPosition tag latitude longitude hour minute s
  | .submit tag destination length => Sys2Proof.Machine.execSubmit tag destination length s
  | .text tag symbols => Sys2Proof.Machine.execText tag symbols s
  | .withdraw tag consoleTag => Sys2Proof.Machine.execWithdraw tag consoleTag s
  | .readStatus tag => Sys2Proof.Machine.execReadStatus tag s
  | .readNeighbours tag => Sys2Proof.Machine.execReadNeighbours tag s
  | .readCases tag => Sys2Proof.Machine.execReadCases tag s
  | .readForecast tag area => Sys2Proof.Machine.execReadForecast tag area s
  | .readWarnings tag => Sys2Proof.Machine.execReadWarnings tag s
  | .readTally tag => Sys2Proof.Machine.execReadTally tag s
  | .readQuota tag => Sys2Proof.Machine.execReadQuota tag s
  | .readHaul tag number => Sys2Proof.Machine.execReadHaul tag number s
  | .readTransfers tag => Sys2Proof.Machine.execReadTransfers tag s
  | .distress tag nature persons => Sys2Proof.Machine.execDistress tag nature persons s
  | .cancel tag => Sys2Proof.Machine.execCancel tag s
  | .ackCase tag station => Sys2Proof.Machine.execAckCase tag station s
  | .closeCase tag station => Sys2Proof.Machine.execCloseCase tag station s
  | .flush tag => Sys2Proof.Machine.execFlush tag s
  | .recover tag => Sys2Proof.Machine.execRecover tag s
  | .loopTest tag => Sys2Proof.Machine.execLoopTest tag s
  | .reportNow tag => Sys2Proof.Machine.execReportNow tag s
  | .haulOpen tag => Sys2Proof.Machine.execHaulOpen tag s
  | .haulClose tag number => Sys2Proof.Machine.execHaulClose tag number s
  | .catchLine tag number letter1 letter2 letter3 disposition weight => Sys2Proof.Machine.execCatchLine tag number letter1 letter2 letter3 disposition weight s
  | .haulDiscard tag number => Sys2Proof.Machine.execHaulDiscard tag number s
  | .haulCommit tag number => Sys2Proof.Machine.execHaulCommit tag number s
  | .restart tag => Sys2Proof.Machine.execRestart tag s
  | .rawCarrierChange up => Sys2Proof.Machine.execRawCarrierChange up s
  | .carrierDebounce => Sys2Proof.Machine.execCarrierDebounce s
  | .syncAFound quality => Sys2Proof.Machine.execSyncAFound quality s
  | .characterReceived pattern quality => Sys2Proof.Machine.execCharacterReceived pattern quality s
  | .gapEnd cls => Sys2Proof.Machine.execGapEnd cls s
  | .backoffSlot cls => Sys2Proof.Machine.execBackoffSlot cls s
  | .settleEnd => Sys2Proof.Machine.execSettleEnd s
  | .burstEnd => Sys2Proof.Machine.execBurstEnd s
  | .keytimeLimit => Sys2Proof.Machine.execKeytimeLimit s
  | .ackLimit => Sys2Proof.Machine.execAckLimit s
  | .blindTimer => Sys2Proof.Machine.execBlindTimer s
  | .channelBlocked => Sys2Proof.Machine.execChannelBlocked s
  | .protectionCheck tuneF refl supLo => Sys2Proof.Machine.execProtectionCheck tuneF refl supLo s
  | .recoveryTime monitor => Sys2Proof.Machine.execRecoveryTime monitor s
  | .quietTimer => Sys2Proof.Machine.execQuietTimer s
  | .loopStart => Sys2Proof.Machine.execLoopStart s
  | .loopResult received => Sys2Proof.Machine.execLoopResult received s
  | .staleTime station => Sys2Proof.Machine.execStaleTime station s
  | .neighbourRemoval station => Sys2Proof.Machine.execNeighbourRemoval station s
  | .avoidMarkExpiry station => Sys2Proof.Machine.execAvoidMarkExpiry station s
  | .beaconDue => Sys2Proof.Machine.execBeaconDue s
  | .relayWaitExpiry kind station number => Sys2Proof.Machine.execRelayWaitExpiry kind station number s
  | .ackTimeout => Sys2Proof.Machine.execAckTimeout s
  | .refusalWaitEnd slot => Sys2Proof.Machine.execRefusalWaitEnd slot s
  | .lifetimeEnd slot => Sys2Proof.Machine.execLifetimeEnd slot s
  | .inactivityExpiry source number => Sys2Proof.Machine.execInactivityExpiry source number s
  | .recentPairExpiry source number => Sys2Proof.Machine.execRecentPairExpiry source number s
  | .repeatDue => Sys2Proof.Machine.execRepeatDue s
  | .cancelDue => Sys2Proof.Machine.execCancelDue s
  | .caseExpiry station => Sys2Proof.Machine.execCaseExpiry station s
  | .holdTimerExpiry => Sys2Proof.Machine.execHoldTimerExpiry s
  | .collectionDiscard area => Sys2Proof.Machine.execCollectionDiscard area s
  | .forecastExpiry area complete => Sys2Proof.Machine.execForecastExpiry area complete s
  | .warningExpiry issuer issue => Sys2Proof.Machine.execWarningExpiry issuer issue s
  | .reportHour => Sys2Proof.Machine.execReportHour s
  | .receiptDeadline => Sys2Proof.Machine.execReceiptDeadline s
  | .submitVoidTimer => Sys2Proof.Machine.execSubmitVoidTimer s

end Sys2Proof.Machine
end

