-- ==== Sys2Proof/Machine/Due.lean ====
section
/-! DEFINITION. What the part does when no command waits (entry 2): the timed rows whose moment the timebase has
reached, one at a time, and else the passing of one millisecond. -/

namespace Sys2Proof.Machine
namespace Device

/-- A timed row with the moment it falls, when it runs. -/
def timed (t : Option Time) (i : Instr) : List (Time × Instr) :=
  match t with
  | none => []
  | some t => [(t, i)]

/-- Timed rows of the Channel Access Controller and the Burst Engine (R8, R20 to R34). -/
def radioTimers (d : Device) : List (Time × Instr) :=
  timed d.debounceAt .carrierDebounce
    ++ classOrder.flatMap (fun c =>
      (match (d.access.queue c).contender with
        | none => []
        | some k => if k.eligible && k.slotBase.isNone then timed (d.gapEndAt c) (.gapEnd c) else [])
      ++ timed (d.slotEndAt c) (.backoffSlot c))
    ++ (match d.tx with
      | none => []
      | some t =>
        if t.passing then (if d.access.onAir.isSome then [(t.startAt + t.duration, .burstEnd)] else [])
        else [(t.startAt, .settleEnd)])
    ++ timed (d.access.onAir.map fun a => a.keyedAt + 25000) .keytimeLimit
    ++ timed d.ackLimitAt .ackLimit
    ++ timed d.blindAt .blindTimer
    ++ (if d.access.blocked then [] else timed (d.access.notClearSince.map fun t => t + 120000) .channelBlocked)

/-- Timed rows of the Transmitter Protection Monitor and the loop test (R39 to R50). -/
def protectionTimers (d : Device) : List (Time × Instr) :=
  timed d.checkAt (.protectionCheck d.pins.tuneF d.pins.refl d.pins.supLo)
    ++ monitorOrder.flatMap (fun m =>
      if (d.monitor m).st = .tripped then timed (d.monitor m).recoverAt (.recoveryTime m) else [])
    ++ timed d.prot.quietEnd .quietTimer
    ++ (if d.canStartLoop then [(d.now, .loopStart)] else [])

/-- Timed rows of the Neighbour Table and the Relay Wait List (R64 to R76). -/
def neighbourTimers (d : Device) : List (Time × Instr) :=
  d.neigh.entries.flatMap (fun n =>
    (if n.fresh then [(d.staleAt n, .staleTime n.station)]
     else if n.removalWaits then [] else [(removalAt n, .neighbourRemoval n.station)])
    ++ timed n.avoidUntil (.avoidMarkExpiry n.station))
    ++ timed d.neigh.beaconDue .beaconDue
    ++ (d.waits.filter fun w => !w.held).map fun w => (w.expiry, .relayWaitExpiry w.kind w.station w.number)

/-- A countdown's moment while it runs. -/
def runsOut : Countdown → Option Time
  | .running t => some t
  | .paused _ => none

/-- Timed rows of the Transfer Engine (R85 to R100). -/
def transferTimers (d : Device) : List (Time × Instr) :=
  timed (d.ackSlot?.bind fun i => (d.slot i).ackDue) .ackTimeout
    ++ slotOrder.flatMap (fun i =>
      (if (d.slot i).st = .refusalWait then timed (d.slot i).refusalEnd (.refusalWaitEnd i) else [])
      ++ (if lifetimeRuns (d.slot i) then [((d.slot i).lifetimeEnd, .lifetimeEnd i)] else []))
    ++ d.xfer.reasms.flatMap (fun e => timed (runsOut e.timer) (.inactivityExpiry e.source e.num))
    ++ d.xfer.recents.flatMap fun r => timed (runsOut r.timer) (.recentPairExpiry r.source r.num)

/-- Timed rows of the Distress Unit (R110 to R125). -/
def distressTimers (d : Device) : List (Time × Instr) :=
  timed d.distress.own.repeatDue .repeatDue
    ++ timed d.distress.own.cancelDue .cancelDue
    ++ (d.distress.cases.filter fun c => c.st != .closed).map (fun c => (caseEndAt c, .caseExpiry c.station))
    ++ timed d.distress.holdTimer .holdTimerExpiry

/-- Timed rows of the Weather Store (R140, R143). -/
def weatherTimers (d : Device) : List (Time × Instr) :=
  d.weather.forecasts.flatMap (fun f =>
    (if f.complete then [] else [(collectionEndAt f, .collectionDiscard f.area)])
    ++ timed (d.validityAt f.validUntil) (.forecastExpiry f.area f.complete))
    ++ d.weather.warnings.flatMap fun w => timed (d.validityAt w.validUntil) (.warningExpiry w.issuer w.issue)

/-- Timed rows of the Report Builder and the Console Link (R174, R181, R201). -/
def linkTimers (d : Device) : List (Time × Instr) :=
  timed d.rep.hourDue .reportHour
    ++ (if d.rep.st = .awaitingReceipt then timed (d.rep.deadline.bind runsOut) .receiptDeadline else [])
    ++ timed (d.console.submit.map fun s => s.voidAt) .submitVoidTimer

/-- Every timed row that runs, with its moment. -/
def timers (d : Device) : List (Time × Instr) :=
  d.radioTimers ++ d.protectionTimers ++ d.neighbourTimers ++ d.transferTimers ++ d.distressTimers
    ++ d.weatherTimers ++ d.linkTimers

/-- The timed rows whose moment the timebase has reached. -/
def dueEvents (d : Device) : List Instr := (d.timers.filter fun e => decide (e.1 ≤ d.now)).map fun e => e.2

/-- One millisecond passes. -/
def tick (d : Device) : Device := { d with now := d.now + 1 }

/-- What the part takes when no command waits: nothing while RESETN is low; a timed row that is due, a free
choice among several (entry 2); or the passing of a millisecond. -/
def takeDue (d : Device) : Option Instr × Device :=
  if d.resetLow then (none, d)
  else match d.dueEvents with
    | [] => (none, d.tick)
    | [e] => (some e, d)
    | e :: r =>
      (some ((e :: r).getD (Config.pick d.draws % (r.length + 1)) e), { d with draws := d.draws + 1 })

end Device
end Sys2Proof.Machine
end

