-- ==== Sys2Proof/Safety.lean ====
section
/-! DEFINITION. What holds of the part between commands, in the terms the statements use: the store's canonical form,
the facts that setup alone changes, and the facts that bringing the blocks into step leaves as they are. -/

namespace Sys2Proof.Machine

/-- The part carries commands out: RESETN is high and setup is complete (R189, R196). -/
def Device.live (d : Device) : Bool := !d.resetLow && d.ready

/-- The page contents are in canonical form. -/
def StoreOk (s : State) : Prop := Store.wf s.dev.store.cells = true

/-- The lanes within their capacities (R191), eight outbound slots (R79), four haul records (R149). -/
def Bounded.ok (distressLane generalLane slots hauls : Nat) : Bool :=
  decide (distressLane ≤ 8) && decide (generalLane ≤ 24) && slots == 8 && hauls == 4

def Device.roomOk (d : Device) : Bool :=
  Bounded.ok d.console.distress.entries.length d.console.general.entries.length d.xfer.slots.length
    d.log.hauls.length

/-- One amount of a tally cell (R161, R162): reported plus in flight never above the total, the total within its limit. -/
def Amount.ok (a : Amount) (limit : Nat) : Prop := a.reported + a.inFlight ≤ a.total ∧ a.total ≤ limit

/-- The three amounts of a cell within their bounds (R162). -/
def TallyCell.ok (c : TallyCell) : Prop := c.retained.ok kgLimit ∧ c.discarded.ok kgLimit ∧ c.hauls.ok 65535

/-- No amount of a cell is in flight. -/
def TallyCell.settled (c : TallyCell) : Prop :=
  c.retained.inFlight = 0 ∧ c.discarded.inFlight = 0 ∧ c.hauls.inFlight = 0

/-- The retained totals of a species, over every rectangle (R164). -/
def retainedOf (cells : List TallyCell) (sp : Species) : Nat :=
  ((cells.filter fun c => c.species == sp).map fun c => c.retained.total).sum

/-- A quota entry in step with the cells (R164): consumed is the saturating sum, the state the one R165 gives. -/
def QuotaEntry.ok (cells : List TallyCell) (q : QuotaEntry) : Prop :=
  q.consumed = min (retainedOf cells q.species) kgLimit ∧ q.st = Device.quotaState q.consumed q.quota

/-- The tally table (R161, R162, R173): at most 60 cells, in ascending order and each of its own key, each within its
bounds, and with nothing in flight while the report record is NONE. -/
def tallyOk (cells : List TallyCell) (st : ReportState) : Prop :=
  cells.length ≤ 60 ∧ cells.Pairwise (fun a b => cellKey a ≤ cellKey b ∧ ¬(a.rect = b.rect ∧ a.species = b.species)) ∧
  (∀ c ∈ cells, c.ok) ∧ (st = .none → ∀ c ∈ cells, c.settled)

/-- The quota table (R163, R164): at most 16 entries, in alphabetical order and each of its own species, each in step
with the cells. -/
def quotasOk (cells : List TallyCell) (quotas : List QuotaEntry) : Prop :=
  quotas.length ≤ 16 ∧
  quotas.Pairwise (fun a b => speciesRank a.species ≤ speciesRank b.species ∧ a.species ≠ b.species) ∧
  ∀ q ∈ quotas, q.ok cells

/-- The tables within their sizes: cases (R114), settled alerts (R124), forecast and warning records (R133, R141),
with the tally and quota tables. -/
def Tables.ok (cases settled forecasts warnings : Nat) (cells : List TallyCell) (quotas : List QuotaEntry)
    (st : ReportState) : Prop :=
  cases ≤ 6 ∧ settled ≤ 64 ∧ forecasts ≤ 16 ∧ warnings ≤ 6 ∧ tallyOk cells st ∧ quotasOk cells quotas

def Device.tablesOk (d : Device) : Prop :=
  Tables.ok d.distress.cases.length d.distress.settled.length d.weather.forecasts.length d.weather.warnings.length
    d.log.cells d.log.quotas d.rep.st

/-- What only setup and the resets change (R197): the level of RESETN, READY, the configuration and the marks of
its clamped parameters. -/
structure Fixed where
  resetLow : Bool
  ready : Bool
  config : Setup
  marks : List Nat
deriving DecidableEq, Repr

def Device.fixed (d : Device) : Fixed :=
  { resetLow := d.resetLow, ready := d.ready, config := d.config, marks := d.console.marks }

/-- What `Device.settle` leaves as it is. The rest of the part (the Channel Access Controller, the Burst Engine,
the transfers with their pages, the neighbour entries, the catch report and the tally cells it settles, the
cases, the waits and the general lane) it brings into step with an event. -/
structure Steady where
  now : Time
  resetLow : Bool
  pins : Pins
  config : Setup
  prot : Protection
  loop : LoopTest
  neighCounts : NeighCounts
  beaconDue : Option Time
  own : OwnAlert
  holdTimer : Option Time
  holdSince : Option Time
  holdCause : Nat
  holdStation : Station
  lastHold : Nat
  weather : WeatherStore
  hauls : List Haul
  haulCounter : Nat
  quotas : List QuotaEntry
  logCounts : LogCounts
  setup : SetupState
  held : SetupRaw
  marks : List Nat
  exchange : Exchange
  reoffer : Option UpFrame
  echoTag : Nat
  echoDisp : Disposition
  distressLane : Lane
  deliveries : List Delivery
  nextDelivery : Nat
  utc : Option Utc
  fix : Option Fix
  submit : Option Submit
  linkCounts : ConsoleCounts
deriving DecidableEq, Repr

def Device.steady (d : Device) : Steady :=
  { now := d.now, resetLow := d.resetLow, pins := d.pins, config := d.config, prot := d.prot, loop := d.loop,
    neighCounts := d.neigh.counts, beaconDue := d.neigh.beaconDue, own := d.distress.own,
    holdTimer := d.distress.holdTimer, holdSince := d.distress.holdSince, holdCause := d.distress.holdCause,
    holdStation := d.distress.holdStation, lastHold := d.distress.lastHold, weather := d.weather,
    hauls := d.log.hauls, haulCounter := d.log.counter, quotas := d.log.quotas, logCounts := d.log.counts,
    setup := d.console.setup, held := d.console.held, marks := d.console.marks, exchange := d.console.exchange,
    reoffer := d.console.reoffer, echoTag := d.console.echoTag, echoDisp := d.console.echoDisp,
    distressLane := d.console.distress, deliveries := d.console.deliveries,
    nextDelivery := d.console.nextDelivery, utc := d.console.utc, fix := d.console.fix,
    submit := d.console.submit, linkCounts := d.console.counts }

end Sys2Proof.Machine
end

