-- ==== Sys2Proof/WellFormed.lean ====
section
/-! DEFINITION. Well-formed commands: every operand within what its bytes (R205), the Modem (R1, R2) or its
table (R74, R79) can carry. -/

namespace Sys2Proof

/-- A number one byte can carry. -/
def isByte (n : Nat) : Bool := decide (n < 256)

/-- A number two bytes can carry. -/
def isWord2 (n : Nat) : Bool := decide (n < 65536)

/-- A number three bytes can carry; station numbers are carried so (R205). -/
def isWord3 (n : Nat) : Bool := decide (n < 16777216)

/-- A four-byte two's-complement number (R205). -/
def isSigned4 (v : Int) : Bool := decide (-2147483648 ≤ v) && decide (v < 2147483648)

/-- A station an on-air record can name, 1 to 262,142. -/
def isStation (n : Nat) : Bool := decide (1 ≤ n) && decide (n < allStations)

/-- A six-bit number. -/
def isSym (n : Nat) : Bool := decide (n < 64)

def Instr.wellFormed : Instr → Bool
  | .hardReset | .resetnAsserted | .cselAssert | .cselRelease => true
  | .noneFrame t => isByte t
  | .unknownKind t k => isByte t && decide (27 ≤ k) && isByte k
  | .readBadSelector t sel => isByte t && isByte sel && (sel == 0 || decide (10 ≤ sel))
  | .setup t own port settle => isByte t && isWord3 own && isWord3 port && isByte settle
  | .setupPart1 t c s1 s2 s3 => isByte t && isByte c && isWord3 s1 && isWord3 s2 && isWord3 s3
  | .setupPart2 t s4 c a1 a2 a3 a4 a5 a6 =>
    isByte t && isWord3 s4 && isByte c && [a1, a2, a3, a4, a5, a6].all isByte
  | .setupPart3 t a7 a8 a9 a10 a11 a12 stale td tr hour =>
    isByte t && [a7, a8, a9, a10, a11, a12, stale, td, tr, hour].all isByte
  | .setupPart4 t d1 d2 d3 d4 rec latch retry beacon hold =>
    isByte t && [d1, d2, d3, d4, rec, latch, retry, beacon, hold].all isByte
  | .setupPart5 t receipt p m d w => isByte t && isWord2 receipt && [p, m, d, w].all isByte
  | .time t y mo d h mi s => isByte t && isWord2 y && [mo, d, h, mi, s].all isByte
  | .position t lat lon h mi => isByte t && isSigned4 lat && isSigned4 lon && isByte h && isByte mi
  | .submit t dest len => isByte t && isWord3 dest && isWord2 len
  | .text t syms => isByte t && syms.length == 8 && syms.all isByte
  | .withdraw t ct => isByte t && isByte ct
  | .readStatus t | .readNeighbours t | .readCases t | .readWarnings t | .readTally t | .readQuota t
  | .readTransfers t => isByte t
  | .readForecast t area => isByte t && isWord2 area
  | .readHaul t n => isByte t && isWord2 n
  | .distress t nature persons => isByte t && isByte nature && isByte persons
  | .cancel t | .flush t | .recover t | .loopTest t | .reportNow t | .haulOpen t | .restart t => isByte t
  | .ackCase t st | .closeCase t st => isByte t && isWord3 st
  | .haulClose t n | .haulDiscard t n | .haulCommit t n => isByte t && isWord2 n
  | .catchLine t n l1 l2 l3 disp weight =>
    isByte t && isWord2 n && [l1, l2, l3, disp].all isByte && isWord3 weight
  | .rawCarrierChange _ | .carrierDebounce => true
  | .syncAFound q => decide (q < 16)
  | .characterReceived _ q => decide (q < 16)
  | .gapEnd _ | .backoffSlot _ | .settleEnd | .burstEnd | .keytimeLimit | .ackLimit | .blindTimer
  | .channelBlocked | .protectionCheck _ _ _ | .recoveryTime _ | .quietTimer | .loopStart => true
  | .loopResult received => received.length == 48
  | .staleTime st | .neighbourRemoval st | .avoidMarkExpiry st | .caseExpiry st => isStation st
  | .beaconDue | .ackTimeout | .repeatDue | .cancelDue | .holdTimerExpiry | .reportHour
  | .receiptDeadline | .submitVoidTimer => true
  | .relayWaitExpiry .distress st n => isStation st && isSym n
  | .relayWaitExpiry .warning st n => isStation st && decide (n < 4096)
  | .refusalWaitEnd i | .lifetimeEnd i => decide (i < 8)
  | .inactivityExpiry src n | .recentPairExpiry src n => isStation src && isSym n
  | .collectionDiscard area | .forecastExpiry area _ => decide (1 ≤ area) && isSym area
  | .warningExpiry issuer issue => isStation issuer && decide (issue < 4096)

end Sys2Proof
end

