-- ==== Sys2Proof/Certificates/Slice0/Obligations.lean ====
section
/-! DEFINITION. The statements for the provers. A command's own effect is written out as a device, or as facts about
one; `Device.settle` then brings the blocks into step, and `Obligations.SettleLeavesSteady` says what that leaves as it
is. A frame's effect starts from `Device.completeExchange`: the exchange complete and its report frame gone up. -/

open Sys2Proof Sys2Proof.Machine

/-! ## The machine -/

/-- A step runs the command at the front of the queue with the queue's rest. -/
def Obligations.StepRunsFrontCommand : Prop :=
  ∀ (c : Instr) (rest : List Instr) (d : Device), step ⟨c :: rest, d⟩ = exec c ⟨rest, d⟩

/-- What a step does on an empty queue (the model's choice, log entry 2): nothing while RESETN is low; else the one
timed row that is due, some one of several due, or the passing of a millisecond. -/
def Obligations.EmptyQueueStep : Prop :=
  ∀ d : Device,
    (d.resetLow = true → step ⟨[], d⟩ = .next ⟨[], d⟩) ∧
    (d.resetLow = false → d.dueEvents = [] → step ⟨[], d⟩ = .next ⟨[], { d with now := d.now + 1 }⟩) ∧
    (∀ c, d.resetLow = false → d.dueEvents = [c] → step ⟨[], d⟩ = exec c ⟨[], d⟩) ∧
    (∀ c₁ c₂ r, d.resetLow = false → d.dueEvents = c₁ :: c₂ :: r →
      ∃ c ∈ d.dueEvents, step ⟨[], d⟩ = exec c ⟨[], { d with draws := d.draws + 1 }⟩)

/-- Every command completes in every state, and leaves the waiting commands as they are (the model's reading, log
entry 45: no command stops); while RESETN is low, none but the two of the reset line changes anything (the model's
reading, log entry 36). -/
def Obligations.EveryCommandCompletes : Prop :=
  (∀ (i : Instr) (s : State), ∃ t, exec i s = .next t ∧ t.pending = s.pending) ∧
  (∀ (i : Instr) (s : State), s.dev.resetLow = true → i ≠ .hardReset → i ≠ .resetnAsserted → exec i s = .next s)

/-- Bringing the blocks into step, with which every event and every frame ends: what it leaves as it is, everything that
`Steady` lists, the parts it is made of in their order, and what each part does.
A waiting ACK timeout is taken once no reception is in progress (R85). The DATA item is that of the READY slot with
the oldest ready since, offered afresh when it becomes another slot's and withdrawn when none may be offered: under
the hold, with a DATA burst on air, or with a slot AWAITING ACK (R84).
A CLEAR channel becomes BUSY with a BUSY condition, and the slots in progress are lost (R19, R22); a BUSY one
without becomes CLEAR, a clear spell starts, and CHANNEL CLEARED of a blocked channel is queued, or owed in a full
lane (R33). It comes after the reports of the event itself, LOOP RESULT among them (the model's choice, log entry
72). An entry whose removal waited goes when its pins have gone (R63, R64; log entry 64). What the choice of
contenders, their eligibility, the count of slots and the arbiter do stands in `ArbiterKeys`. -/
def Obligations.SettleLeavesSteady : Prop :=
  (∀ d : Device, d.settle.steady = d.steady) ∧
  (∀ d : Device, d.settle =
    (let e := d.takeWaitingTimeout.refreshData.settleChannel.selectAll.refreshEligible
     e.arbiterInstant.arbitrate.selectAll.removeUnpinned)) ∧
  (∀ d : Device,
    let waits : Nat → Prop := fun i => i < 8 ∧ (d.slot i).st = .awaitingAck ∧ (d.slot i).ackWaiting = true
    (d.reception = true ↔ d.rx.st = .syncing ∨ d.rx.st = .linked ∨ d.rx.st = .broadcast) ∧
    (d.reception = true ∨ (∀ i, ¬waits i) → d.takeWaitingTimeout = d) ∧
    ∀ i, d.reception = false → waits i → (∀ j, j < i → ¬waits j) → d.takeWaitingTimeout = d.takeTimeout i) ∧
  (∀ d : Device,
    let offered := d.access.routine.items.find? fun it => it.kind == .data
    let barred : Prop := d.holdInForce = true ∨ (∃ a, d.access.onAir = some a ∧ a.item.kind = .data) ∨
      ∃ s ∈ d.xfer.slots, s.st = .awaitingAck ∨ s.onAir = true
    let first : Nat → Prop := fun i => i < 8 ∧ (d.slot i).st = .ready ∧
      ∀ j, j < 8 → (d.slot j).st = .ready →
        (d.slot i).readySince < (d.slot j).readySince ∨ (d.slot i).readySince = (d.slot j).readySince ∧ i ≤ j
    let withdrawn : Device := { d with access := { d.access with
      routine := d.access.routine.withdraw fun it => it.kind == .data } }
    let item := fun i : Nat =>
      let s := d.slot i
      let text := match s.grant with
        | none => []
        | some g => d.store.readSyms g (111 * s.idx) (min 111 (s.len - 111 * s.idx))
      { kind := .data, dest := s.hop.getD 0, seq := s.num, body := dataBody ⟨s.idx, s.cnt, s.cls, s.dest, s.orig⟩ text,
        owner := .slot i, ready := d.now, cw := s.cw, ackEnd := 0, order := d.access.nextOffer, blindFrom := d.now,
        overdue := false : Item }
    (barred ∨ (∀ i, i < 8 → (d.slot i).st ≠ .ready) →
      (offered = none → d.refreshData = d) ∧
      (∀ it j, offered = some it → it.owner = .slot j → d.refreshData = withdrawn)) ∧
    (¬barred → ∀ i, first i →
      (∀ it, offered = some it → it.owner = .slot i → d.refreshData = d) ∧
      (offered = none ∨ (∃ it, offered = some it ∧ it.owner ≠ .slot i) →
        d.refreshData = { withdrawn with access := { withdrawn.access with
          routine := { withdrawn.access.routine with waiting := withdrawn.access.routine.waiting ++ [item i] },
          nextOffer := d.access.nextOffer + 1 } }))) ∧
  (∀ d : Device,
    let busy : Prop := d.access.debounced = true ∨ d.reception = true ∨ d.loop.st = .looping
    let frozen := fun q : ClassQueue => { q with contender := q.contender.map fun k => { k with slotBase := none } }
    let spell := match d.access.notClearSince with | none => 0 | some t => min ((d.now - t) / 1000) 65535
    let clear := fun c : Console => { d with
      console := c,
      access := { d.access with
        chan := .clear, clearSince := some d.now, notClearSince := none, blocked := false,
        lastBlocked := if d.access.blocked then spell else d.access.lastBlocked } }
    (d.access.chan = .own ∨ d.access.chan = .clear ∧ ¬busy ∨ d.access.chan = .busy ∧ busy → d.settleChannel = d) ∧
    (d.access.chan = .clear → busy → d.settleChannel = { d with access := { d.access with
      chan := .busy, clearSince := none, notClearSince := some d.now,
      answer := frozen d.access.answer, distress := frozen d.access.distress, priority := frozen d.access.priority,
      routine := frozen d.access.routine } }) ∧
    (d.access.chan = .busy → ¬busy → d.settleChannel = d.enterClear) ∧
    (d.access.blocked = false → d.enterClear = clear d.console) ∧
    (d.access.blocked = true → OwedRef.blocked ∈ d.console.general.owed → d.enterClear = clear d.console) ∧
    (d.access.blocked = true → OwedRef.blocked ∉ d.console.general.owed →
      (d.console.general.entries.length < 24 → d.enterClear = clear { d.console with
        general := { d.console.general with
          entries := d.console.general.entries ++ [⟨.channelCleared, 0, .report [.num 2 spell], 0⟩] } }) ∧
      (24 ≤ d.console.general.entries.length → d.enterClear = clear { d.console with
        general := { d.console.general with owed := d.console.general.owed ++ [.blocked] } }))) ∧
  (∀ d : Device,
    (∀ st, d.pinned st = true ↔ (∃ s ∈ d.xfer.slots, (s.st = .ready ∨ s.st = .awaitingAck) ∧ s.hop = some st) ∨
      ∃ e ∈ d.xfer.reasms, e.source = st) ∧
    d.removeUnpinned = { d with neigh := { d.neigh with
      entries := d.neigh.entries.filter fun n => !(n.removalWaits && !d.pinned n.station) } })

/-! ## Resets -/

/-- HARD_RESET leaves the Console Link as R203 lists it, with STARTED queued and ATTN up. RESTART queues STARTED too,
and the general lane holds it alone (R202, read with log entry 38). -/
def Obligations.HardResetConsole : Prop :=
  ∀ s : State, ∃ d : Device, exec .hardReset s = .next { s with dev := d } ∧
    d.resetLow = false ∧ d.console.setup = .idle ∧ d.ready = false ∧ d.console.utc = none ∧ d.console.fix = none ∧
    d.console.submit = none ∧ d.console.distress = ⟨[], []⟩ ∧
    d.console.general = ⟨[⟨.started, 0, .report [.num 1 0, .num 1 0], 0⟩], []⟩ ∧ d.console.deliveries = [] ∧
    d.console.echoTag = 0 ∧ d.console.echoDisp = .taken ∧ d.console.counts = ⟨0, 0, 0, 0⟩ ∧ d.attn = true ∧
    ∀ e : Device, (e.restart).2.console.general = ⟨[⟨.started, 0, .report [.num 1 1, .num 1 1], 0⟩], []⟩

/-- After a hard reset the Catch Log is empty, and no haul is opened without both UTC and a fix. -/
def Obligations.HardResetCatchLog : Prop :=
  (∀ s : State, ∃ d : Device, exec .hardReset s = .next { s with dev := d } ∧
    d.log.hauls.length = 4 ∧ (∀ h ∈ d.log.hauls, h.st = .free) ∧ d.log.counter = 0 ∧ d.log.cells = [] ∧
    d.log.quotas = [] ∧ d.log.counts = ⟨0, 0, 0, 0, 0⟩ ∧ d.console.utc = none ∧ d.console.fix = none) ∧
  ∀ (tag : Nat) (d : Device),
    (d.console.utc = none → d.openHaul tag = (.timeUnset, d)) ∧
    (d.console.utc ≠ none → d.console.fix = none → d.openHaul tag = (.noFix, d))

/-- After a hard reset: the Channel Access Controller (R37), the Protection Monitor (R48), the Page Store (R58), the
transfer tables, the Distress Unit, the Weather Store (R148) and the Report Builder.
RESETN_ASSERTED holds the part at its hard-reset values with an empty lane, the key down and ATTN released (the model's
reading, log entry 36); the count of draws is not set back (the model's choice, log entry 3). -/
def Obligations.ResetLine : Prop :=
  (∀ s : State, ∃ d : Device, exec .hardReset s = .next { s with dev := d } ∧
    d.keyLine = false ∧ d.access.chan = .clear ∧ d.access.clearSince = none ∧ d.access.debounced = false ∧
    (∀ c, d.access.queue c = ⟨[], none⟩) ∧ d.keyTime = 0 ∧ d.access.blocked = false ∧
    d.access.counts = ⟨0, 0, 0, 0, 0⟩ ∧
    (∀ m, d.monitor m = ⟨.normal, 0, none, none, false⟩) ∧ d.prot.trips = 0 ∧ d.prot.quietEnd = none ∧
    d.inhibit = false ∧ d.loop.st = .idle ∧ d.loop.kept = none ∧
    d.store.grants = [] ∧ (∀ h, d.store.held h = 0) ∧ d.store.refusals = ⟨0, 0, 0, 0, 0⟩ ∧
    (∀ i, (d.slot i).st = .free) ∧ d.xfer.reasms = [] ∧ d.xfer.recents = [] ∧
    d.distress.own.st = .idle ∧ d.distress.cases = [] ∧ d.holdInForce = false ∧
    d.weather.forecasts = [] ∧ d.weather.warnings = [] ∧ d.weather.lastFreed = [] ∧
    d.rep.st = .none ∧ d.rep.counter = 0 ∧ d.rep.pending = none ∧ d.rep.lastEnding = none ∧
    d.neigh.entries = [] ∧ d.waits = []) ∧
  (∀ s : State, exec .resetnAsserted s = .next { s with dev := Device.inReset s.dev.draws } ∧
    (Device.inReset s.dev.draws).resetLow = true ∧ (Device.inReset s.dev.draws).attn = false ∧
    (Device.inReset s.dev.draws).keyLine = false ∧ (Device.inReset s.dev.draws).console.general.entries = [] ∧
    { Device.inReset s.dev.draws with
      resetLow := false,
      console := { (Device.inReset s.dev.draws).console with
        general := ⟨[⟨.started, 0, .report [.num 1 0, .num 1 0], 0⟩], []⟩ } }
      = Device.afterReset s.dev.draws)

/-! ## Invariants -/

/-- Every step keeps the page contents in canonical form. -/
def Obligations.StoreOkKept : Prop := ∀ s t : State, StoreOk s → step s = .next t → StoreOk t

/-- The reset state has the three invariants. -/
def Obligations.InvariantsAtReset : Prop :=
  StoreOk State.reset ∧ State.reset.dev.roomOk = true ∧ State.reset.dev.tablesOk

/-- Every step keeps the lanes within their capacities, eight outbound slots and four haul records.
Every step keeps the tables of cases, settled alerts, forecasts, warnings, tally cells and quota entries within
their sizes (R114, R124, R133, R141, R161, R163); the tally in its order with one cell for each rectangle and
species, the reported and in-flight parts of every amount together at most its total (R162), and nothing in flight
while the report record is NONE (R173); the quota entries in alphabetical order, one for each species, each with the
retained total of its species as consumed and the state that R165 gives (R163, R164). -/
def Obligations.CapacitiesKept : Prop :=
  (∀ s t : State, s.dev.roomOk = true → step s = .next t → t.dev.roomOk = true) ∧
  ∀ s t : State, s.dev.tablesOk → step s = .next t → t.dev.tablesOk

/-- On a READY part no command but the two of the reset line changes the configuration, READY, the marks of the
clamped parameters or the level of RESETN. -/
def Obligations.ConfigurationKept : Prop :=
  ∀ (i : Instr) (s t : State), i ≠ .hardReset → i ≠ .resetnAsserted → s.dev.ready = true →
    exec i s = .next t → t.dev.fixed = s.dev.fixed

/-! ## Frames of the console link -/

/-- Whatever frame a well-formed command has, its twelve bytes spell that command again. -/
def Obligations.FrameRoundTrip : Prop :=
  ∀ (i : Instr) (bs : List Nat), i.wellFormed = true → encodeFrame i = some bs →
    bs.length = 12 ∧ bs.all isByte = true ∧ decodeFrame bs = some i

/-- A few down frames written out from R205's payload table: TIME, POSITION, CATCH LINE, READ HAUL, an unknown kind,
and eleven bytes, which are no frame. -/
def Obligations.FrameWords : Prop :=
  decodeFrame [7, 3, 7, 232, 2, 29, 23, 59, 58, 0, 0, 0] = some (.time 3 2024 2 29 23 59 58) ∧
  decodeFrame [8, 9, 255, 255, 255, 255, 0, 16, 122, 192, 12, 30] = some (.position 9 (-1) 1080000 12 30) ∧
  decodeFrame [23, 1, 0, 5, 2, 14, 3, 1, 1, 134, 159, 0] = some (.catchLine 1 5 2 14 3 1 99999) ∧
  decodeFrame [12, 4, 8, 1, 0, 0, 0, 0, 0, 0, 0, 0] = some (.readHaul 4 256) ∧
  decodeFrame [27, 200, 0, 0, 0, 0, 0, 0, 0, 0, 0, 0] = some (.unknownKind 200 27) ∧
  decodeFrame [0, 0, 0, 0, 0, 0, 0, 0, 0, 0, 0] = none

/-! ## Signalling on the working channel -/

/-- The 70 four-mark patterns in ascending order take the ranks 0 to 69, and no other pattern has a rank. -/
def Obligations.PatternRanks : Prop :=
  (∀ p : Pattern, (rankOf p).isSome = true ↔ marks p.toNat = 4) ∧
  (∀ (p : Pattern) (r : Nat), rankOf p = some r → r < 70 ∧ patternOf r = p) ∧
  (∀ (p q : Pattern) (r s : Nat), rankOf p = some r → rankOf q = some s → (p.toNat < q.toNat ↔ r < s)) ∧
  rankOf 0xD8#8 = some 64 ∧ rankOf 0xE1#8 = some 65 ∧ rankOf 0xE2#8 = some 66 ∧ rankOf 0xE4#8 = some 67 ∧
  rankOf 0x0F#8 = some 0

/-- Every burst lasts (16 + L) × 80 ms in linked and (22 + L) × 160 ms in broadcast framing: so many characters of
80 ms, and so long the transmit record keeps the burst on air. -/
def Obligations.BurstDurations : Prop :=
  ∀ (kind : BurstKind) (source dest : Station) (seq : Nat) (body : List Nat),
    (charSequence kind source dest seq body).length * 80
        = (if kind.isLinked then (16 + body.length) * 80 else (22 + body.length) * 160) ∧
    ∀ (d : Device) (it : Item), it.kind = kind → it.body = body →
      (d.txFor it).duration = (if kind.isLinked then (16 + body.length) * 80 else (22 + body.length) * 160)

/-- One changed symbol always changes the check. -/
def Obligations.CheckSeesOneChangedSymbol : Prop :=
  ∀ (l r : List Nat) (x y : Nat), x < 64 → y < 64 → x ≠ y → (∀ s ∈ r, s < 64) →
    checkOf (l ++ x :: r) ≠ checkOf (l ++ y :: r)

/-- A DISTRESS body, a DATA body and a BEACON body are read as the facts, or the header and text, they were built from. -/
def Obligations.BodyRoundTrips : Prop :=
  (∀ f : DistressFacts, f.nature ≤ 9 →
    (∀ p, f.pos = some p → -540000 ≤ p.1 ∧ p.1 ≤ 540000 ∧ -1080000 ≤ p.2 ∧ p.2 < 1080000) →
    (∀ t, f.posTime = some t → t.1 ≤ 23 ∧ t.2 ≤ 59) → (∀ n, f.persons = some n → n ≤ 62) →
    readDistressBody (distressBody f) = some f) ∧
  (∀ (h : DataHeader) (text : List Nat), h.cnt ≤ 16 → h.idx < h.cnt → 1 ≤ h.dest → h.dest < allStations →
    1 ≤ h.orig → h.orig < allStations → text ≠ [] → (h.idx + 1 ≠ h.cnt → text.length = 111) →
    readDataBody (dataBody h text) = some (h, text)) ∧
  (∀ f : Facts,
    (∀ p, f.pos = some p → -540000 ≤ p.1 ∧ p.1 ≤ 540000 ∧ -1080000 ≤ p.2 ∧ p.2 < 1080000) →
    (∀ p, f.port = some p → 1 ≤ p.1 ∧ p.1 < allStations ∧ p.2 ≤ 255) →
    readBeaconBody (beaconBody f) = some (0, f))

/-- SYNC_A_FOUND: in HUNTING with the debounced carrier up the record goes to SYNCING with the first character 80 ms on;
in any other case it stays as it is (R11).
CHARACTER_RECEIVED, each character at its own moment (the model's choice, log entries 1 and 4): SYNCING chooses
linked or broadcast framing by SYNC B, or hunts again; in RECEIVING LINKED a data symbol is taken at its position, a
mutilated character, a failed check and a missing END discard the burst as damaged, and a header fault discards it
(R4, R5, R12); in RECEIVING BROADCAST the first copies are kept, each position takes the better of its two copies or
is erased, and a run of eight erased positions abandons the reception (R13, R14), also when the END position
completes it (the model's reading, log entry 33). At the END position the burst is taken with its facts and score
(R15), and what is handed to which block depends on its kind and destination (R16). -/
def Obligations.ReceptionSteps : Prop :=
  (∀ (q : Nat) (s : State), s.dev.resetLow = false →
    (s.dev.rx.st = .hunting → s.dev.access.debounced = true →
      exec (.syncAFound q) s = .next { s with dev := Device.settle { s.dev with
        rx := { st := .syncing, third := false, nextChar := s.dev.now + 80, count := 0, firsts := [], syms := [],
                qsum := q, run := 0, erasures := 0, bad := false } } }) ∧
    (s.dev.rx.st ≠ .hunting ∨ s.dev.access.debounced = false →
      exec (.syncAFound q) s = .next { s with dev := s.dev.settle })) ∧
  (∀ (p : Pattern) (q : Nat) (s : State), s.dev.resetLow = false → s.dev.rx.st = .linked →
    (s.dev.rx.count ≤ 11 ∨ s.dev.rx.count < 15 + symsAt s.dev.rx.syms 8 2) →
    (symbolOf p = none →
      exec (.characterReceived p q) s = .next { s with dev := Device.settle { s.dev with
        now := max s.dev.now s.dev.rx.nextChar, rx := Rx.blank .skipping,
        rxCounts := { s.dev.rxCounts with damaged := bump s.dev.rxCounts.damaged } } }) ∧
    ∀ v, symbolOf p = some v →
      s.dev.headerFault true s.dev.rx.count (s.dev.rx.syms ++ [v]) = false →
      (s.dev.rx.count ≤ 11 ∨ s.dev.rx.count ≠ 14 + symsAt s.dev.rx.syms 8 2 ∨
        Device.checkAgrees (s.dev.rx.syms ++ [v]) = true) →
      exec (.characterReceived p q) s = .next { s with dev := Device.settle { s.dev with
        now := max s.dev.now s.dev.rx.nextChar,
        rx := { s.dev.rx with
          nextChar := s.dev.rx.nextChar + 80, syms := s.dev.rx.syms ++ [v], qsum := s.dev.rx.qsum + q,
          count := s.dev.rx.count + 1 } } }) ∧
  (∀ (p : Pattern) (q : Nat) (s : State), s.dev.resetLow = false →
    let r := s.dev.rx
    let now := max s.dev.now r.nextChar
    let goes : Rx → Host.Outcome State Fault Refusal := fun x => .next
      { s with dev := Device.settle { s.dev with now := now, rx := x } }
    let discards : RxCounts → Host.Outcome State Fault Refusal := fun n => .next
      { s with dev := Device.settle { s.dev with now := now, rx := Rx.blank .skipping, rxCounts := n } }
    let taken : Rx → Bool → Bool → Host.Outcome State Fault Refusal := fun x linked pass =>
      let len := symsAt x.syms 8 2
      .next { s with dev := Device.settle (Device.handOn
        { s.dev with
          now := now, rx := Rx.blank .skipping,
          rxCounts := { s.dev.rxCounts with taken := bump s.dev.rxCounts.taken } }
        { kind := (BurstKind.ofValue (symAt x.syms 0)).getD .test, linked := linked, source := symsAt x.syms 1 3,
          dest := symsAt x.syms 4 3, seq := symAt x.syms 7, len := len, body := (x.syms.drop 10).take len,
          erasures := x.erasures, pass := pass,
          score := (if pass then 17 else 8) * (x.qsum / (16 + len)), endTime := now }) }
    (r.st = .syncing →
      (p = 0xE1 → r.third = false → exec (.characterReceived p q) s
        = goes { r with nextChar := r.nextChar + 80, st := .linked, count := 2, qsum := r.qsum + q }) ∧
      (p = 0xE1 → r.third = true → exec (.characterReceived p q) s
        = goes { r with nextChar := r.nextChar + 80, st := .broadcast, count := 3, qsum := r.qsum + q }) ∧
      (p = 0xE2 → r.third = false →
        exec (.characterReceived p q) s = goes { r with nextChar := r.nextChar + 80, third := true }) ∧
      (p ≠ 0xE1 → p ≠ 0xE2 ∨ r.third = true → exec (.characterReceived p q) s = goes (Rx.blank .hunting))) ∧
    (r.st = .linked →
      (∀ v, symbolOf p = some v → r.count ≤ 11 →
        let syms := r.syms ++ [v]
        (r.count = 2 ∧ symAt syms 0 ≠ 1 ∧ symAt syms 0 ≠ 2) ∨
          (r.count = 5 ∧ (symsAt syms 1 3 = 0 ∨ symsAt syms 1 3 = 262143 ∨ symsAt syms 1 3 = s.dev.config.own)) ∨
          (r.count = 8 ∧ (symsAt syms 4 3 = 0 ∨ symsAt syms 4 3 = 262143)) ∨
          (r.count = 11 ∧ 120 < symsAt syms 8 2) →
        exec (.characterReceived p q) s
          = discards { s.dev.rxCounts with headerDiscards := bump s.dev.rxCounts.headerDiscards }) ∧
      (∀ v, symbolOf p = some v → 11 < r.count → r.count = 14 + symsAt r.syms 8 2 →
        checkOf ((r.syms ++ [v]).take (10 + symsAt (r.syms ++ [v]) 8 2))
          ≠ symsAt (r.syms ++ [v]) (10 + symsAt (r.syms ++ [v]) 8 2) 3 →
        exec (.characterReceived p q) s
          = discards { s.dev.rxCounts with damaged := bump s.dev.rxCounts.damaged }) ∧
      (11 < r.count → r.count = 15 + symsAt r.syms 8 2 →
        (p = 0xE4 → exec (.characterReceived p q) s = taken { r with qsum := r.qsum + q } true true) ∧
        (p ≠ 0xE4 → exec (.characterReceived p q) s
          = discards { s.dev.rxCounts with damaged := bump s.dev.rxCounts.damaged }))) ∧
    (r.st = .broadcast →
      (r.count % 2 = 0 → exec (.characterReceived p q) s
        = goes { r with nextChar := r.nextChar + 80, count := r.count + 1, firsts := r.firsts ++ [(p, q)] }) ∧
      (r.count % 2 = 1 → r.count / 2 < 8 →
        exec (.characterReceived p q) s = goes { r with nextChar := r.nextChar + 80, count := r.count + 1 }) ∧
      ∀ x rest, r.count % 2 = 1 → 8 ≤ r.count / 2 → r.firsts = x :: rest →
        let pos := r.count / 2 - 6
        let len := symsAt r.syms 8 2
        let atEnd := 11 < pos ∧ pos = 15 + len
        let good := fun y : Pattern => if atEnd then y = 0xE4 else symbolOf y ≠ none
        let chosen := if good x.1 ∧ (good p → x.1 = p ∨ q ≤ x.2) then some x
          else if good p then some (p, q) else none
        let next := { r with nextChar := r.nextChar + 80, count := r.count + 1, firsts := rest }
        (∀ y k v, chosen = some (y, k) → symbolOf y = some v → ¬atEnd →
          let syms := r.syms ++ [v]
          let fault := (pos = 2 ∧ (symAt syms 0 < 3 ∨ 9 < symAt syms 0)) ∨
            (pos = 5 ∧ (symsAt syms 1 3 = 0 ∨ symsAt syms 1 3 = 262143 ∨ symsAt syms 1 3 = s.dev.config.own)) ∨
            (pos = 11 ∧ 120 < symsAt syms 8 2)
          (fault → exec (.characterReceived p q) s
            = discards { s.dev.rxCounts with headerDiscards := bump s.dev.rxCounts.headerDiscards }) ∧
          (¬fault → exec (.characterReceived p q) s
            = goes { next with syms := syms, qsum := r.qsum + k, run := 0 })) ∧
        (chosen = none → pos ≤ 11 → exec (.characterReceived p q) s
          = discards { s.dev.rxCounts with headerDiscards := bump s.dev.rxCounts.headerDiscards }) ∧
        (chosen = none → 11 < pos → 7 ≤ r.run → exec (.characterReceived p q) s
          = discards { s.dev.rxCounts with abandoned := bump s.dev.rxCounts.abandoned }) ∧
        (chosen = none → 11 < pos → r.run < 7 → ¬atEnd → exec (.characterReceived p q) s
          = goes { next with
            syms := r.syms ++ [63], run := r.run + 1,
            erasures := if pos < 12 + len then r.erasures + 1 else r.erasures,
            bad := r.bad || decide (12 + len ≤ pos) }) ∧
        (∀ y k, chosen = some (y, k) → atEnd → exec (.characterReceived p q) s
          = taken { r with qsum := r.qsum + k } false
            (decide (r.erasures = 0 ∧ r.bad = false ∧
              checkOf (r.syms.take (10 + len)) = symsAt r.syms (10 + len) 3))) ∧
        (chosen = none → atEnd → r.run < 7 → exec (.characterReceived p q) s = taken r false false))) ∧
  (∀ (d : Device) (b : Burst),
    let h := d.headerFacts b.source b.score b.endTime
    let e := h.1.routeEvents h.2
    (b.kind = .data → d.handOn b = if b.dest = e.config.own then e.receiveData b else e) ∧
    (b.kind = .ack → d.handOn b = if b.dest = e.config.own then e.receiveAck b else e) ∧
    (b.kind = .beacon → d.handOn b = (e.beaconFacts b).1.routeEvents (e.beaconFacts b).2) ∧
    (b.kind = .forecast → d.handOn b = e.receiveForecast b) ∧
    (b.kind = .warning → d.handOn b = e.receiveWarning b) ∧
    (b.kind = .distress ∨ b.kind = .distressAck ∨ b.kind = .distressRelay ∨ b.kind = .cancel →
      d.handOn b = e.receiveDistress b))

/-! ## Channel access and keying -/

/-- The gap of each class, and the counter that an item gets when it becomes contender: 0 for an ACK, and else the next
free draw brought into the range of its kind (R21, R23; the draw is a free value, log entry 3), one draw used. -/
def Obligations.GapsAndBackoff : Prop :=
  gapOf .answer = 200 ∧ gapOf .distress = 400 ∧ gapOf .priority = 600 ∧ gapOf .routine = 1000 ∧
  ∀ (d : Device) (c : AccessClass) (it : Item), ∃ k : Contender,
    ((d.makeContender c it).access.queue c).contender = some k ∧ k.item = it ∧
    (it.kind = .ack → k.counter = 0 ∧ (d.makeContender c it).draws = d.draws) ∧
    (it.kind = .distress ∨ it.kind = .cancel ∨ it.kind = .distressAck ∨ it.kind = .distressRelay →
      k.counter = Config.draw d.draws % 4 ∧ (d.makeContender c it).draws = d.draws + 1) ∧
    (it.kind = .warning → k.counter = Config.draw d.draws % 8 ∧ (d.makeContender c it).draws = d.draws + 1) ∧
    (it.kind = .data → 1 ≤ it.cw → k.counter = Config.draw d.draws % it.cw) ∧
    (it.kind = .data → 2 ≤ it.cw → (d.makeContender c it).draws = d.draws + 1) ∧
    (it.kind = .beacon → k.counter = Config.draw d.draws % 16 ∧ (d.makeContender c it).draws = d.draws + 1)

/-- RAW_CARRIER_CHANGE starts the 60 ms of the debounce filter; CARRIER_DEBOUNCE, at its own moment (the model's
choice, log entry 1), takes the raw value, and when the carrier falls the receive record hunts again: a reception of a
burst is counted as abandoned (R17), a SYNCING is not (the model's reading, log entry 37). -/
def Obligations.CarrierFilter : Prop :=
  ∀ s : State, s.dev.live = true →
    (∀ up, s.dev.access.raw ≠ up →
      exec (.rawCarrierChange up) s = .next { s with dev := Device.settle { s.dev with
        access := { s.dev.access with raw := up, filterFrom := s.dev.now } } }) ∧
    (∀ up, s.dev.access.raw = up → exec (.rawCarrierChange up) s = .next { s with dev := s.dev.settle }) ∧
    (s.dev.keyLine = false → s.dev.access.raw = true → s.dev.access.debounced = false →
      exec .carrierDebounce s = .next { s with dev := Device.settle { s.dev with
        now := max s.dev.now (s.dev.access.filterFrom + 60),
        access := { s.dev.access with debounced := true } } }) ∧
    (s.dev.keyLine = false → s.dev.access.raw = false → s.dev.access.debounced = true →
      (s.dev.rx.st = .syncing ∨ s.dev.rx.st = .skipping →
        exec .carrierDebounce s = .next { s with dev := Device.settle { s.dev with
          now := max s.dev.now (s.dev.access.filterFrom + 60), rx := Rx.blank .hunting,
          access := { s.dev.access with debounced := false } } }) ∧
      (s.dev.rx.st = .linked ∨ s.dev.rx.st = .broadcast →
        exec .carrierDebounce s = .next { s with dev := Device.settle { s.dev with
          now := max s.dev.now (s.dev.access.filterFrom + 60), rx := Rx.blank .hunting,
          rxCounts := { s.dev.rxCounts with abandoned := bump s.dev.rxCounts.abandoned },
          access := { s.dev.access with debounced := false } } }) ∧
      (s.dev.rx.st = .hunting ∨ s.dev.rx.st = .closed →
        exec .carrierDebounce s = .next { s with dev := Device.settle { s.dev with
          now := max s.dev.now (s.dev.access.filterFrom + 60),
          access := { s.dev.access with debounced := false } } }))

/-- GAP_END and BACKOFF_SLOT at their own moment (the model's choice, log entry 1; that gaps and slots are counted in
these rows is log entry 40): the gap's end starts the first slot of a contender that stood before it, and a slot's end
counts its counter down by one; a contender at 0 on a CLEAR channel is due. -/
def Obligations.GapAndSlot : Prop :=
  ∀ (c : AccessClass) (k : Contender) (t : Time) (s : State), s.dev.resetLow = false →
    (s.dev.access.queue c).contender = some k → k.eligible = true → s.dev.access.clearSince = some t →
    (k.slotBase = none → s.dev.now ≤ t + gapOf c →
      ∃ d : Device, exec (.gapEnd c) s = .next { s with dev := d.settle } ∧ d.now = t + gapOf c ∧
        (d.access.queue c).contender = some { k with slotBase := some (max (t + gapOf c) k.since) } ∧
        (s.dev.access.chan = .clear → k.counter = 0 → d.isDue c = true)) ∧
    (∀ b, k.slotBase = some b → 0 < k.counter → s.dev.now ≤ b + 250 →
      ∃ d : Device, exec (.backoffSlot c) s = .next { s with dev := d.settle } ∧ d.now = b + 250 ∧
        (d.access.queue c).contender = some { k with counter := k.counter - 1, slotBase := some (b + 250) } ∧
        (s.dev.access.chan = .clear → k.counter = 1 → d.isDue c = true))

/-- The arbiter keys an overdue own item on a BUSY channel (R34), and else the due contender of the highest class,
ANSWER, DISTRESS, PRIORITY, ROUTINE (R26). When some class is due, what the same instant completes of the others'
gaps and slots is counted first (the model's reading, log entry 40).
The waiting item chosen as contender: own items first, then the older ready time, the lower kind value, the earlier
offer; an own DISTRESS or CANCEL takes the place of another contender, which waits again (R23). A contender's
counter is drawn in its kind's range (R21; a free draw, log entry 3). An item is eligible by the hold and the
inhibit (R25); a contender that becomes ineligible loses its slot in progress, one that becomes eligible starts
afresh, and slots of 250 ms are counted from the end of the class's gap in the clear spell (R22).
Keying an item: the key is up, the channel OWN, the key-time count starts at 0, the transmit record holds the burst
behind the settle time, the receive record is CLOSED, a reception in progress is abandoned and counted (R17), the
item has left its class, and keyings and blind sends are counted (R38). Its owner is told (R27): a slot takes its
on-air mark (R85), and a case its relay RELAYED, with its pair settled and the relay counted (R124). -/
def Obligations.ArbiterKeys : Prop :=
  ((∀ d : Device, d.isBlindDue = false →
    (d.isDue .answer = true → d.arbitrate = d.raiseKey .answer false) ∧
    (d.isDue .answer = false → d.isDue .distress = true → d.arbitrate = d.raiseKey .distress false) ∧
    (d.isDue .answer = false → d.isDue .distress = false → d.isDue .priority = true →
      d.arbitrate = d.raiseKey .priority false) ∧
    (d.isDue .answer = false → d.isDue .distress = false → d.isDue .priority = false → d.isDue .routine = true →
      d.arbitrate = d.raiseKey .routine false) ∧
    ((∀ c, d.isDue c = false) → d.arbitrate = d)) ∧
  (∀ (d : Device) (c : AccessClass) (k : Contender) (blind : Bool), (d.access.queue c).contender = some k →
    (d.raiseKey c blind).keyLine = true ∧ (d.raiseKey c blind).access.chan = .own ∧
    (d.raiseKey c blind).keyTime = 0 ∧ (d.raiseKey c blind).rx.st = .closed ∧
    (d.raiseKey c blind).access.debounced = false ∧
    (d.raiseKey c blind).tx = some
      { chars := charSequence k.item.kind d.config.own k.item.dest k.item.seq k.item.body,
        startAt := d.now + d.config.settleMs, duration := burstDuration k.item.kind k.item.body.length,
        passing := false } ∧
    (d.raiseKey c blind).access.onAir = some ⟨k.item, d.now, 0⟩ ∧
    ((d.raiseKey c blind).access.queue c).contender = none ∧
    (d.raiseKey c blind).access.counts.keyings = bump d.access.counts.keyings)) ∧
  (∀ d : Device, d.isBlindDue = true → d.arbitrate = d.raiseKey .distress true) ∧
  (∀ d : Device,
    (d.isBlindDue = true ↔ ∃ k, d.access.distress.contender = some k ∧ d.access.chan = .busy ∧
      (k.item.kind = .distress ∨ k.item.kind = .cancel) ∧ k.item.overdue = true) ∧
    (∀ c, d.isDue c = true ↔ ∃ k, (d.access.queue c).contender = some k ∧ d.access.chan = .clear ∧
      k.eligible = true ∧ k.slotBase ≠ none ∧ k.counter = 0) ∧
    d.selectAll = (((d.selectContender .answer).selectContender .distress).selectContender .priority).selectContender
      .routine ∧
    ((∃ c, d.isDue c = true) → d.arbiterInstant = d.countSlots) ∧
    ((∀ c, d.isDue c = false) → d.arbiterInstant = d)) ∧
  (∀ (d : Device) (c : AccessClass) (it : Item),
    let own := fun x : Item => x.kind = .distress ∨ x.kind = .cancel
    let precedes := fun x y : Item =>
      own x ∧ ¬own y ∨ (own x ↔ own y) ∧ (x.ready < y.ready ∨ x.ready = y.ready ∧
        (x.kind.value < y.kind.value ∨ x.kind.value = y.kind.value ∧ x.order < y.order))
    let waiting := (d.access.queue c).waiting
    let chosen : Prop := it ∈ waiting ∧ ∀ y ∈ waiting, y = it ∨ precedes it y
    (waiting = [] → d.selectContender c = d) ∧
    (chosen → (d.access.queue c).contender = none → d.selectContender c = d.makeContender c it) ∧
    ∀ k, chosen → (d.access.queue c).contender = some k →
      (own it → ¬own k.item → d.selectContender c =
        Device.makeContender { d with access := d.access.onQueue c fun q =>
          { waiting := q.waiting ++ [k.item], contender := none } } c it) ∧
      (¬own it ∨ own k.item → d.selectContender c = d)) ∧
  (∀ (d : Device) (it : Item), d.eligibleItem it = true ↔
    (d.holdInForce = false ∨ it.kind.cls = .distress) ∧
    (d.inhibit = false ∨ it.kind = .distress ∨ it.kind = .cancel)) ∧
  (∀ (d : Device) (c : AccessClass) (it : Item),
    let gap := match c with | .answer => 200 | .distress => 400 | .priority => 600 | .routine => 1000
    let start := match d.access.clearSince with
      | none => none
      | some t => if t + gap ≤ d.now then some d.now else none
    let top := match it.kind with
      | .ack => 0
      | .distress | .cancel | .distressAck | .distressRelay => 3
      | .warning => 7
      | .data => it.cw - 1
      | .beacon | .forecast | .test => 15
    let e := d.makeContender c it
    let placed := fun (n draws : Nat) => { d with
      draws := draws,
      access := d.access.onQueue c fun q => {
        waiting := q.waiting.filter fun x => x.order != it.order,
        contender := some {
          item := it, counter := n, since := d.now, eligible := d.eligibleItem it,
          slotBase := if d.eligibleItem it then start else none } } }
    (top = 0 → e = placed 0 d.draws) ∧
    (0 < top → e = placed (Config.draw d.draws % (top + 1)) (d.draws + 1)) ∧
    (∀ k, (d.access.queue c).contender = some k →
      (d.refreshEligible.access.queue c).contender = some (
        if d.eligibleItem k.item = k.eligible then k
        else if d.eligibleItem k.item then { k with eligible := true, since := d.now, slotBase := start }
        else { k with eligible := false, slotBase := none }) ∧
      (k.eligible = false ∨ d.access.clearSince = none →
        (d.countSlots.access.queue c).contender = some k) ∧
      ∀ t, k.eligible = true → d.access.clearSince = some t →
        (k.slotBase = none → d.now < t + gap → (d.countSlots.access.queue c).contender = some k) ∧
        ∀ b, k.slotBase = some b ∨ k.slotBase = none ∧ t + gap ≤ d.now ∧ b = max (t + gap) k.since →
          let n := min k.counter ((d.now - b) / 250)
          (d.countSlots.access.queue c).contender = some { k with
            counter := k.counter - n, slotBase := some (b + 250 * n) }) ∧
    ∀ f : Device, f = d.refreshEligible ∨ f = d.countSlots →
      f = { d with access := { d.access with
        answer := f.access.answer, distress := f.access.distress, priority := f.access.priority,
        routine := f.access.routine } } ∧
      (f.access.queue c).waiting = (d.access.queue c).waiting ∧
      ((d.access.queue c).contender = none → (f.access.queue c).contender = none)) ∧
  ∀ (d : Device) (c : AccessClass) (k : Contender) (blind : Bool), (d.access.queue c).contender = some k →
    let e := d.raiseKey c blind
    let frozen := fun q : ClassQueue => { q with contender := q.contender.map fun k => { k with slotBase := none } }
    let keyed : Device := { d with
      rx := Rx.blank .closed,
      rxCounts := if d.rx.st = .linked ∨ d.rx.st = .broadcast
        then { d.rxCounts with abandoned := bump d.rxCounts.abandoned } else d.rxCounts,
      tx := some {
        chars := charSequence k.item.kind d.config.own k.item.dest k.item.seq k.item.body,
        startAt := d.now + d.config.settleMs, duration := burstDuration k.item.kind k.item.body.length,
        passing := false },
      access := Access.onQueue { d.access with
        onAir := some ⟨k.item, d.now, 0⟩, chan := .own, clearSince := none, debounced := false, keyTime := 0,
        notClearSince := if d.access.chan = .clear then some d.now else d.access.notClearSince,
        answer := frozen d.access.answer, distress := frozen d.access.distress,
        priority := frozen d.access.priority, routine := frozen d.access.routine,
        counts := { d.access.counts with
          keyings := bump d.access.counts.keyings,
          blindSends := if blind then bump d.access.counts.blindSends else d.access.counts.blindSends } }
        c fun q => { q with contender := none } }
    (∀ i, k.item.owner = .slot i → i < d.xfer.slots.length →
      e = { keyed with xfer := { d.xfer with slots := d.xfer.slots.set i { d.slot i with onAir := true } } }) ∧
    (∀ st alert, k.item.owner = .caseRelay st alert →
      let told := Device.enterSettled { keyed with distress := { d.distress with
        cases := d.distress.cases.map fun x =>
          if x.station = st then (if x.alert = alert then { x with relay := .relayed } else x) else x } } st alert
      e = { told with distress := { told.distress with
        counts := { told.distress.counts with relaysSent := bump told.distress.counts.relaysSent } } }) ∧
    ((∀ i, k.item.owner ≠ .slot i) → (∀ st alert, k.item.owner ≠ .caseRelay st alert) → e = keyed)

/-- SETTLE_END: the characters pass to the Modem; nothing else is this command's own effect.
BURST_END: the key drops, the channel is CLEAR with a clear spell from that moment, the receive record hunts, the
key-time count stops; then the owner is told that its burst was sent. Both take place at their own moment (the model's
choice, log entry 1).
What each owner does at the end of its burst: an ACK's and a beacon's is only counted; a DATA fragment awaits its ACK
for 3,200 ms, or goes to HELD or ends under the hold (R85, R101); a relayed WARNING is RELAYED (R145); every own
distress-class burst restarts the hold timer (R125); an own DISTRESS sets its next repeat due between 240 s and 270 s on
(R110), the first CANCEL the second 60 s on, and the second CANCEL ends the alert (R113); the part's own DISTRESS-ACK is
SENT and enters the settled list (R121, R124). -/
def Obligations.BurstOnAir : Prop :=
  (∀ (x : Tx) (s : State), s.dev.resetLow = false → s.dev.tx = some x → x.passing = false →
    exec .settleEnd s = .next { s with dev := Device.settle { s.dev with
      now := max s.dev.now x.startAt, tx := some { x with passing := true } } }) ∧
  (∀ (a : OnAir) (x : Tx) (s : State), s.dev.resetLow = false → s.dev.access.onAir = some a → s.dev.tx = some x →
    ∃ d : Device, exec .burstEnd s = .next { s with dev := Device.settle (d.burstSent a.item) } ∧
      d.now = max s.dev.now (x.startAt + x.duration) ∧ d.keyLine = false ∧ d.tx = none ∧
      d.rx = Rx.blank .hunting ∧ d.access.chan = .clear ∧ d.access.clearSince = some d.now ∧
      d.keyTime = d.now - a.keyedAt ∧ (∀ m, (d.monitor m).resting = false) ∧ d.access.counts = s.dev.access.counts ∧
      (∀ c, d.access.queue c = s.dev.access.queue c) ∧ d.store = s.dev.store ∧ d.xfer = s.dev.xfer ∧
      d.distress = s.dev.distress ∧ d.log = s.dev.log ∧
      (a.item.owner = .beacon → (d.burstSent a.item).neigh.counts.beaconsSent = bump s.dev.neigh.counts.beaconsSent)) ∧
  (∀ (d : Device) (it : Item),
    let e := d.burstSent it
    let timed : DistressUnit := { d.distress with holdTimer := some (d.now + d.config.hold * 60000) }
    let counted : Transfers := { d.xfer with counts := { d.xfer.counts with dataSent := bump d.xfer.counts.dataSent } }
    let told : OwnAlert → OwnEvent → Prop := fun o event =>
      OwedRef.ownAlert ∉ d.console.distress.owed → d.console.distress.entries.length < 8 →
        e.console.distress.entries = d.console.distress.entries ++ [⟨.ownAlertState, 0, .report
          (Device.ownAlertData { d with distress := { d.distress with own := o } } event o.num (o.ackedBy.getD 0)), 0⟩]
    (it.owner = .answer → e = d) ∧
    (∀ i, it.owner = .slot i → i < d.xfer.slots.length →
      ((d.slot i).onAir = false → e = { d with xfer := counted }) ∧
      ((d.slot i).onAir = true → d.holdInForce = false → e = { d with xfer := { counted with
        slots := modAt d.xfer.slots i fun x =>
          { x with st := .awaitingAck, onAir := false, ackDue := some (d.now + 3200), ackWaiting := false } } }) ∧
      ((d.slot i).onAir = true → d.holdInForce = true → (d.slot i).pendingEnd = none →
        e.slot i = { d.slot i with
          st := .held, heldFrom := .awaitingAck, onAir := false, ackDue := none, ackWaiting := false,
          heldRefusal := (match (d.slot i).refusalEnd with | none => 0 | some t => t - d.now), refusalEnd := none } ∧
        (∀ j, j ≠ i → e.slot j = d.slot j) ∧ e.access = d.access ∧ e.store = d.store) ∧
      (∀ o, (d.slot i).onAir = true → d.holdInForce = true → (d.slot i).pendingEnd = some o →
        e = Device.endTransfer { d with xfer := counted } i o)) ∧
    (∀ issuer issue, it.owner = .warning issuer issue → e = d.warningSent issuer issue ∧
      e.weather.counts = { d.weather.counts with relaysSent := bump d.weather.counts.relaysSent } ∧
      ∀ w, d.warning? issuer issue = some w → w.relay = .offered →
        e.warning? issuer issue = some { w with relay := .relayed }) ∧
    (it.owner = .own → it.kind = .distress → d.distress.own.st ≠ .idle →
      e.distress.holdTimer = timed.holdTimer ∧ e.distress.own.st = d.distress.own.st ∧
      e.distress.own.num = d.distress.own.num ∧
      (d.distress.own.st = .alerting → d.distress.own.repeatAsked = false →
        (∃ k, k ≤ 30 ∧ e.distress.own.repeatDue = some (d.now + 240000 + k * 1000)) ∧ e.access = d.access ∧
          told d.distress.own .sent) ∧
      (d.distress.own.st = .alerting → d.distress.own.repeatAsked = true →
        ∃ x ∈ e.access.distress.waiting, x.kind = .distress ∧ x.owner = .own ∧ x.seq = d.distress.own.num ∧
          x.ready = d.now ∧ x.body = d.ownBody) ∧
      (d.distress.own.st = .acknowledged → e.distress.own.repeatDue = d.distress.own.repeatDue ∧ e.access = d.access ∧
        told d.distress.own .sent) ∧
      (d.distress.own.st = .cancelling →
        ∃ x ∈ e.access.distress.waiting, x.kind = .cancel ∧ x.owner = .own ∧ x.seq = d.distress.own.num ∧
          x.ready = d.now ∧ x.body = [])) ∧
    (it.owner = .own → it.kind = .cancel → d.distress.own.st = .cancelling →
      (d.distress.own.cancelCount = 0 →
        e.distress = { timed with own := { d.distress.own with cancelCount := 1, cancelDue := some (d.now + 60000) } } ∧
        e.access = d.access ∧
        told { d.distress.own with cancelCount := 1, cancelDue := some (d.now + 60000) } .cancelSent) ∧
      (d.distress.own.cancelCount = 1 →
        e.distress = { timed with
          own := { d.distress.own with cancelCount := 2, st := .idle, cancelDue := none },
          holdTimer := if d.caseOpen = true then timed.holdTimer
            else some (min (d.now + d.config.hold * 60000) (d.now + 60000)) } ∧
        e.access = d.access ∧
        told { d.distress.own with cancelCount := 2, st := .idle, cancelDue := none } .idle)) ∧
    (∀ st alert, it.owner = .caseAck st alert → d.holdInForce = true →
      e = Device.enterSettled { d with distress := { timed with
        counts := { d.distress.counts with acksSent := bump d.distress.counts.acksSent },
        cases := d.distress.cases.map fun c =>
          if c.station = st then (if c.alert = alert then { c with ownAck := .sent } else c) else c } } st alert) ∧
    (∀ st alert, it.owner = .caseRelay st alert → d.holdInForce = true →
      e = { d with distress := timed, console := e.console } ∧
      (∀ c, d.case? st = some c → c.alert = alert → OwedRef.caseOf st ∉ d.console.distress.owed →
        d.console.distress.entries.length < 8 →
        e.console.distress.entries = d.console.distress.entries ++
          [⟨.caseUpdate, 0, .report (d.caseData c .relayed), 0⟩]) ∧
      ((∀ c, d.case? st = some c → c.alert ≠ alert) → e.console = d.console)) ∧
    (∀ st alert, it.owner = .caseAck st alert ∨ it.owner = .caseRelay st alert → d.holdInForce = false →
      e.distress.holdTimer = timed.holdTimer ∧ e.distress.holdSince = some d.now))

/-- KEYTIME_LIMIT: the burst on air is cut at 25 s (R29; the row's own moment is log entry 1), and KEYTIME latches from
NORMAL or ALERT (that it does so at once is the model's reading, log entry 31) whatever the latch limit, so that the
inhibit stands (R42) and the quiet timer is stopped (R45).
A burst that is aborted ends its keying and is counted (R30), and its owner accounts for it (R43): an ACK and a
DISTRESS-RELAY are dropped, a BEACON is counted as skipped (R73), a transfer goes back to READY with a new ready
since, to HELD under the hold, or takes its pending ending (R85; log entry 34), a WARNING whose record is still held
with its relay OFFERED is offered again (R145), a DISTRESS-ACK is offered again whatever its case has become
meanwhile (R43, R121; the model's reading, log entry 24), and an own DISTRESS or CANCEL is offered again at once
(R111; its body from the present record, log entry 27). At RESTART no owner accounts for it (R202). -/
def Obligations.KeyTimeLimit : Prop :=
  (∀ (a : OnAir) (s : State), s.dev.resetLow = false → s.dev.access.onAir = some a →
    s.dev.prot.keytime.st = .normal ∨ s.dev.prot.keytime.st = .alert →
    ∃ d : Device, exec .keytimeLimit s = .next { s with dev := d.settle } ∧
      d.now = max s.dev.now (a.keyedAt + 25000) ∧ d.keyLine = false ∧ d.tx = none ∧
      d.prot.keytime.st = .latched ∧ d.inhibit = true ∧ d.prot.quietEnd = none ∧ d.prot.trips = s.dev.prot.trips ∧
      d.access.counts.aborts = bump s.dev.access.counts.aborts) ∧
  (∀ (a : OnAir) (s : State), s.dev.resetLow = false → s.dev.access.onAir = some a →
    exec .keytimeLimit s = .next { s with dev := Device.settle (Device.tripKeytime
      (Device.abortBurst { s.dev with now := max s.dev.now (a.keyedAt + 25000) } .keytime) 25000) }) ∧
  (∀ (d : Device) (a : OnAir) (r : AbortReason), d.access.onAir = some a →
    ∃ e : Device, d.abortBurst r = e.accountAbort a.item r ∧ e.prot.trips = d.prot.trips ∧
      e.prot.quietEnd = d.prot.quietEnd ∧
      e = { d with
        tx := none, rx := Rx.blank .hunting, prot := e.prot, console := e.console,
        access := { d.access with
          onAir := none, keyTime := d.keyTime, filterFrom := d.now, chan := .clear, clearSince := some d.now,
          notClearSince := none, blocked := false, lastBlocked := e.access.lastBlocked,
          counts := { d.access.counts with
            aborts := bump d.access.counts.aborts,
            preemptions := if r = .preempted then bump d.access.counts.preemptions
              else d.access.counts.preemptions } } }) ∧
  (∀ (d : Device) (it : Item) (r : AbortReason),
    let e := d.accountAbort it r
    let offered : Device → Item → Device := fun d it => { d with access :=
      { d.access.onQueue it.kind.cls (fun q => { q with waiting := q.waiting ++ [{ it with order := d.access.nextOffer }] })
        with nextOffer := d.access.nextOffer + 1 } }
    (r = .restart → e = d) ∧
    (r ≠ .restart →
      (it.owner = .answer → e = d) ∧
      (it.owner = .beacon → e = { d with neigh := { d.neigh with counts := { d.neigh.counts with
        beaconsSkipped := bump d.neigh.counts.beaconsSkipped } } }) ∧
      (∀ i, it.owner = .slot i → i < d.xfer.slots.length →
        ((d.slot i).onAir = false → e = d) ∧
        ((d.slot i).onAir = true → (d.slot i).pendingEnd = none → d.holdInForce = false →
          e = { d with xfer := { d.xfer with slots := modAt d.xfer.slots i fun x =>
            { x with onAir := false, readySince := d.now } } }) ∧
        ((d.slot i).onAir = true → (d.slot i).pendingEnd = none → d.holdInForce = true →
          e = { d with xfer := { d.xfer with slots := modAt d.xfer.slots i fun x =>
            { x with st := .held, heldFrom := .ready, onAir := false, ackDue := none, ackWaiting := false,
                     heldRefusal := (match x.refusalEnd with | none => 0 | some t => t - d.now),
                     refusalEnd := none } } }) ∧
        (∀ o, (d.slot i).onAir = true → (d.slot i).pendingEnd = some o → d.holdInForce = true →
          e = d.endTransfer i o) ∧
        (∀ o, (d.slot i).onAir = true → (d.slot i).pendingEnd = some o → d.holdInForce = false →
          e = Device.endTransfer { d with xfer := { d.xfer with slots := modAt d.xfer.slots i fun x =>
            { x with onAir := false } } } i o)) ∧
      (∀ issuer issue, it.owner = .warning issuer issue →
        ((∃ w, d.warning? issuer issue = some w ∧ w.relay = .offered) → e = offered d it) ∧
        ((∀ w, d.warning? issuer issue = some w → w.relay ≠ .offered) → e = d)) ∧
      (∀ st alert, it.owner = .caseAck st alert → e = offered d it) ∧
      (∀ st alert, it.owner = .caseRelay st alert → e = d) ∧
      (it.owner = .own → ∃ body,
        e = offered { d with distress := { d.distress with own := { d.distress.own with repeatAsked := false } } }
          { kind := if d.distress.own.st = .cancelling then .cancel else .distress, dest := allStations,
            seq := d.distress.own.num, body := body, owner := .own, ready := d.now, cw := 0, ackEnd := 0, order := 0,
            blindFrom := d.now, overdue := false } ∧
        body = if d.distress.own.st = .cancelling then [] else distressBody
          { nature := d.distress.own.nature, pos := d.console.fix.map fun f => (f.lat, f.lon),
            posTime := d.console.fix.map fun f => (f.hour, f.minute), persons := d.distress.own.persons })))

/-- ACK_LIMIT drops the pending ACK and counts it.
BLIND_TIMER makes the own items of the DISTRESS class overdue and changes nothing else; it is due 30 s after its
item's blind time began; an overdue DISTRESS or CANCEL contender on a BUSY channel is keyed blind.
CHANNEL_BLOCKED at 120 s marks the channel blocked and reports it once. Each row takes place at its own moment (the
model's choice, log entry 1). -/
def Obligations.AccessLimits : Prop :=
  (∀ (it : Item) (r : List Item) (s : State), s.dev.resetLow = false → s.dev.access.answer.items = it :: r →
    exec .ackLimit s = .next { s with dev := Device.settle { s.dev with
      now := max s.dev.now (it.ackEnd + 1000),
      access := { s.dev.access with
        answer := ⟨[], none⟩,
        counts := { s.dev.access.counts with acksDropped := bump s.dev.access.counts.acksDropped } } } }) ∧
  ((∀ (t : Time) (s : State), s.dev.resetLow = false → s.dev.blindAt = some t →
    let due := fun it : Item => if it.owner = .own then { it with overdue := true } else it
    exec .blindTimer s = .next { s with dev := Device.settle { s.dev with
      now := max s.dev.now t,
      access := { s.dev.access with distress :=
        { waiting := s.dev.access.distress.waiting.map due,
          contender := s.dev.access.distress.contender.map fun k => { k with item := due k.item } } } } }) ∧
  (∀ (d : Device) (it : Item), it ∈ d.access.distress.items → it.owner = .own →
    (∀ x ∈ d.access.distress.items, x.owner = .own → x = it) →
    d.blindAt = if it.overdue then none else some (it.blindFrom + 30000)) ∧
  (∀ d : Device, d.isBlindDue = true ↔ ∃ k, d.access.distress.contender = some k ∧ d.access.chan = .busy ∧
    (k.item.kind = .distress ∨ k.item.kind = .cancel) ∧ k.item.overdue = true) ∧
  ∀ d : Device, d.isBlindDue = true → d.arbitrate = d.raiseKey .distress true) ∧
  (∀ (t : Time) (s : State), s.dev.resetLow = false → s.dev.access.notClearSince = some t →
    s.dev.access.blocked = false → OwedRef.blocked ∉ s.dev.console.general.owed →
    s.dev.console.general.entries.length < 24 →
    exec .channelBlocked s = .next { s with dev := Device.settle { s.dev with
      now := max s.dev.now (t + 120000),
      access := { s.dev.access with blocked := true },
      console := { s.dev.console with general := { s.dev.console.general with
        entries := s.dev.console.general.entries ++ [⟨.channelBlocked, 0, .report [], 0⟩] } } } })

/-! ## Transmitter protection and the loop test -/

/-- What one sample does to a TUNE, REFLECT or SUPPLY monitor, by its state, the sample and the trip delay D; a monitor
that rests until the next keying is not sampled (R44).
A trip of TUNE, REFLECT or SUPPLY raises the shared count, stops the quiet timer and clears the run; it latches when
there is a latch limit and the count has reached it, and otherwise starts the recovery timer of a recovery time other
than 0.
Each change of state is reported as PROTECTION with the monitor, both states, the cause, the trip count after the
change and the key-time count, 0 with the key down (R47): queued, owed with the state before it in a full lane, and
not reported while the mark stands. Causes, monitors and states are numbered in the order the spec lists them. -/
def Obligations.MonitorTable : Prop :=
  ((∀ (d : Device) (m : MonitorId), m ≠ .keytime →
    ((d.monitor m).resting = true → ∀ x, d.sampleMonitor m x = (false, d)) ∧
    ((d.monitor m).resting = false →
      ((d.monitor m).st = .normal →
        (d.sampleMonitor m false).2.monitor m = { d.monitor m with run := 0 } ∧ (d.sampleMonitor m false).1 = false) ∧
      ((d.monitor m).st = .normal → d.tripDelay m ≤ 1 →
        d.sampleMonitor m true = (true, d.tripMonitor m)) ∧
      ((d.monitor m).st = .normal → 2 ≤ d.tripDelay m →
        ((d.sampleMonitor m true).2.monitor m).st = .alert ∧ ((d.sampleMonitor m true).2.monitor m).run = 1 ∧
        (d.sampleMonitor m true).1 = false) ∧
      ((d.monitor m).st = .alert →
        ((d.sampleMonitor m false).2.monitor m).st = .normal ∧ ((d.sampleMonitor m false).2.monitor m).run = 0) ∧
      ((d.monitor m).st = .alert → (d.monitor m).run + 1 < d.tripDelay m → (d.monitor m).run < 255 →
        d.sampleMonitor m true = (false, d.onMonitor m fun x => { x with run := (d.monitor m).run + 1 })) ∧
      ((d.monitor m).st = .alert → d.tripDelay m ≤ (d.monitor m).run + 1 →
        d.sampleMonitor m true = (true, d.tripMonitor m)) ∧
      (Device.inhibits (d.monitor m) = true → ∀ x, d.sampleMonitor m x = (false, d)))) ∧
  (∀ (d : Device) (m : MonitorId), m ≠ .keytime →
    (d.tripMonitor m).prot.trips = min 255 (d.prot.trips + 1) ∧ (d.tripMonitor m).prot.quietEnd = none ∧
    ((d.tripMonitor m).monitor m).run = 0 ∧ (d.tripMonitor m).inhibit = true ∧
    (d.config.latch ≠ 0 ∧ d.config.latch ≤ min 255 (d.prot.trips + 1) →
      ((d.tripMonitor m).monitor m).st = .latched ∧
      ((d.tripMonitor m).monitor m).recoverAt = (d.monitor m).recoverAt) ∧
    (d.config.latch = 0 ∨ min 255 (d.prot.trips + 1) < d.config.latch →
      ((d.tripMonitor m).monitor m).st = .tripped ∧
      ((d.tripMonitor m).monitor m).recoverAt
        = if d.config.recovery = 0 then none else some (d.now + d.config.recovery * 1000)))) ∧
  ([ProtCause.activeSample, .inactiveSample, .runComplete, .latchLimit, .keyTimeLimit, .keyDropped, .recoveryTime,
    .recover, .owed].map ProtCause.code = List.range 9) ∧
  ([MonitorId.tune, .reflect, .supply, .keytime].map monitorCode = List.range 4) ∧
  ([MonState.normal, .alert, .tripped, .latched].map MonState.code = List.range 4) ∧
  (∀ (d : Device) (m m' : MonitorId) (f : Monitor → Monitor),
    (d.onMonitor m f).monitor m' = (if m' = m then f (d.monitor m) else d.monitor m') ∧
    d.onMonitor m f = { d with prot := (d.onMonitor m f).prot } ∧
    (d.onMonitor m f).prot.trips = d.prot.trips ∧ (d.onMonitor m f).prot.quietEnd = d.prot.quietEnd) ∧
  (∀ (d : Device) (m : MonitorId) (st : MonState) (run : Nat) (cause : ProtCause) (keyTime : Nat),
    let e := d.moveMonitor m st run cause keyTime
    let moved := d.onMonitor m fun x => { x with st := st, run := run }
    let entry : Entry := ⟨.protection, 0, .report [.num 1 (monitorCode m), .num 1 (d.monitor m).st.code, .num 1 st.code,
      .num 1 cause.code, .num 2 (min d.prot.trips 65535), .num 2 (min keyTime 65535)], 0⟩
    (OwedRef.monitor m ∈ d.console.general.owed → e = moved) ∧
    (OwedRef.monitor m ∉ d.console.general.owed → d.console.general.entries.length < 24 →
      e = { moved with console := { d.console with
        general := { d.console.general with entries := d.console.general.entries ++ [entry] } } }) ∧
    (OwedRef.monitor m ∉ d.console.general.owed → 24 ≤ d.console.general.entries.length →
      e = Device.onMonitor { d with console := { d.console with
        general := { d.console.general with owed := d.console.general.owed ++ [.monitor m] } } } m
        fun x => { x with st := st, run := run, owedFrom := some (d.monitor m).st })) ∧
  (∀ (d : Device) (m : MonitorId), m ≠ .keytime →
    let keyTime := match d.access.onAir with | none => 0 | some a => d.now - a.keyedAt
    let trips := min 255 (d.prot.trips + 1)
    let counted := { d with prot := { d.prot with trips := trips, quietEnd := none } }
    ((d.monitor m).resting = false →
      ((d.monitor m).st = .normal → d.sampleMonitor m false = (false, d.onMonitor m fun x => { x with run := 0 })) ∧
      ((d.monitor m).st = .normal → 2 ≤ d.tripDelay m →
        d.sampleMonitor m true = (false, d.moveMonitor m .alert 1 .activeSample keyTime)) ∧
      ((d.monitor m).st = .alert →
        d.sampleMonitor m false = (false, d.moveMonitor m .normal 0 .inactiveSample keyTime)) ∧
      ((d.monitor m).st = .alert → (d.monitor m).run + 1 < d.tripDelay m →
        d.sampleMonitor m true = (false, d.onMonitor m fun x => { x with run := min 255 (x.run + 1) }))) ∧
    (d.config.latch ≠ 0 ∧ d.config.latch ≤ trips →
      d.tripMonitor m = counted.moveMonitor m .latched 0 .latchLimit keyTime) ∧
    (d.config.latch = 0 ∨ trips < d.config.latch →
      d.tripMonitor m = (counted.onMonitor m fun x => { x with
        recoverAt := if d.config.recovery = 0 then none else some (d.now + d.config.recovery * 1000) }).moveMonitor m
          .tripped 0 .runComplete keyTime))

/-- PROTECTION_CHECK with every input inactive, before the warning point: the check is counted at its moment and the
pins are held, and a NORMAL monitor's run is 0.
RECOVERY_TIME returns a TRIPPED monitor to NORMAL on trial with run 0, not sampled again in a keying that is on air
(R44), and starts the quiet timer of 300 s. QUIET_TIMER clears the trip count.
PROTECTION_CHECK with any inputs: a sample that trips no monitor moves each between NORMAL and ALERT with its run (R40),
and KEYTIME to ALERT from its warning point (R41); one that trips a monitor stops the quiet timer, raises the trip
count and the inhibit (R42, R45), and aborts the burst on air (R43), but not an own DISTRESS or CANCEL.
Each row takes place at its own moment (the model's choice, log entry 1).
One check samples TUNE, REFLECT, SUPPLY (R39) and then KEYTIME (the model's choice, log entry 73); the BEACON item
goes when the inhibit begins (R73), and the abort comes last. The key-time limit latches KEYTIME with cause KEY-TIME
LIMIT (R41), a recovery reports RECOVERY TIME, and the drop of the key ends each ALERT with cause KEY DROPPED (R28,
R30, R40), in the order TUNE, REFLECT, SUPPLY, KEYTIME (the model's choice, log entry 63) and after CHANNEL CLEARED
(log entry 49). What a change of state and its report do stands in `MonitorTable` (R47). -/
def Obligations.ProtectionEvents : Prop :=
  ((∀ (a : OnAir) (s : State), s.dev.resetLow = false → s.dev.access.onAir = some a →
    s.dev.prot.tune.st = .normal → s.dev.prot.reflect.st = .normal → s.dev.prot.supply.st = .normal →
    s.dev.prot.keytime.st = .normal → s.dev.prot.tune.resting = false → s.dev.prot.reflect.resting = false →
    s.dev.prot.supply.resting = false → s.dev.now ≤ a.keyedAt + 100 * (a.checks + 1) →
    100 * (a.checks + 1) < 25000 - s.dev.config.dKeytime * 100 →
    exec (.protectionCheck false false false) s = .next { s with dev := Device.settle { s.dev with
      now := a.keyedAt + 100 * (a.checks + 1), pins := ⟨false, false, false⟩,
      access := { s.dev.access with onAir := some { a with checks := a.checks + 1 } },
      prot := { s.dev.prot with
        tune := { s.dev.prot.tune with run := 0 }, reflect := { s.dev.prot.reflect with run := 0 },
        supply := { s.dev.prot.supply with run := 0 } } } }) ∧
  (∀ (m : MonitorId) (t : Time) (s : State), s.dev.resetLow = false → (s.dev.monitor m).st = .tripped →
    (s.dev.monitor m).recoverAt = some t →
    ∃ d : Device, exec (.recoveryTime m) s = .next { s with dev := d.settle } ∧ d.now = max s.dev.now t ∧
      (d.monitor m).st = .normal ∧ (d.monitor m).run = 0 ∧ (d.monitor m).recoverAt = none ∧
      (d.monitor m).resting = s.dev.keyLine ∧
      d.prot.quietEnd = some (d.now + 300000) ∧ d.prot.trips = s.dev.prot.trips ∧
      (∀ m', m' ≠ m → d.monitor m' = s.dev.monitor m') ∧ d.access = s.dev.access ∧ d.store = s.dev.store) ∧
  (∀ (t : Time) (s : State), s.dev.resetLow = false → s.dev.prot.quietEnd = some t →
    exec .quietTimer s = .next { s with dev := Device.settle { s.dev with
      now := max s.dev.now t, prot := { s.dev.prot with trips := 0, quietEnd := none } } }) ∧
  (∀ (a : OnAir) (tuneF refl supLo : Bool) (s : State), s.dev.resetLow = false → s.dev.access.onAir = some a →
    let sample : MonitorId → Bool := fun m =>
      match m with | .tune => tuneF | .reflect => refl | .supply => supLo | .keytime => false
    let trips : MonitorId → Prop := fun m => sample m = true ∧ (s.dev.monitor m).resting = false ∧
      ((s.dev.monitor m).st = .normal ∧ s.dev.tripDelay m ≤ 1 ∨
        (s.dev.monitor m).st = .alert ∧ s.dev.tripDelay m ≤ (s.dev.monitor m).run + 1)
    ∃ d : Device, exec (.protectionCheck tuneF refl supLo) s = .next { s with dev := d.settle } ∧
      d.now = max s.dev.now (a.keyedAt + 100 * (a.checks + 1)) ∧ d.pins = ⟨tuneF, refl, supLo⟩ ∧
      ((∀ m, ¬trips m) →
        d.access.onAir = some { a with checks := a.checks + 1 } ∧ d.tx = s.dev.tx ∧
        d.prot.trips = s.dev.prot.trips ∧ d.prot.quietEnd = s.dev.prot.quietEnd ∧
        (∀ m, m ≠ .keytime →
          ((s.dev.monitor m).st = .tripped ∨ (s.dev.monitor m).st = .latched →
            (d.monitor m).st = (s.dev.monitor m).st) ∧
          ((s.dev.monitor m).resting = false →
            ((s.dev.monitor m).st = .normal ∨ (s.dev.monitor m).st = .alert → sample m = false →
              (d.monitor m).st = .normal ∧ (d.monitor m).run = 0) ∧
            ((s.dev.monitor m).st = .normal → sample m = true →
              (d.monitor m).st = .alert ∧ (d.monitor m).run = 1) ∧
            ((s.dev.monitor m).st = .alert → sample m = true →
              (d.monitor m).st = .alert ∧ (d.monitor m).run = min 255 ((s.dev.monitor m).run + 1)))) ∧
        (s.dev.prot.keytime.st = .normal →
          d.prot.keytime.st
            = if 25000 - s.dev.config.dKeytime * 100 ≤ d.now - a.keyedAt then .alert else .normal)) ∧
      ∀ m, trips m →
        ((d.monitor m).st = .tripped ∨ (d.monitor m).st = .latched) ∧ d.inhibit = true ∧ d.prot.quietEnd = none ∧
        (s.dev.prot.trips < 255 → s.dev.prot.trips < d.prot.trips) ∧
        (a.item.kind = .distress ∨ a.item.kind = .cancel →
          d.access.onAir = some { a with checks := a.checks + 1 } ∧ d.tx = s.dev.tx) ∧
        (a.item.kind ≠ .distress → a.item.kind ≠ .cancel →
          d.keyLine = false ∧ d.tx = none ∧ d.rx = Rx.blank .hunting ∧ d.access.chan = .clear ∧
          d.access.clearSince = some d.now ∧ d.access.counts.aborts = bump s.dev.access.counts.aborts ∧
          ∀ m', (d.monitor m').st ≠ .alert ∧ (d.monitor m').resting = false))) ∧
  (∀ (m : MonitorId) (t : Time) (s : State), s.dev.resetLow = false → (s.dev.monitor m).st = .tripped →
    (s.dev.monitor m).recoverAt = some t →
    let now := max s.dev.now t
    let keyTime := match s.dev.access.onAir with | none => 0 | some a => now - a.keyedAt
    let timed := Device.onMonitor { s.dev with
      now := now, prot := { s.dev.prot with quietEnd := some (now + 300000) } } m
      fun x => { x with recoverAt := none, resting := s.dev.keyLine }
    exec (.recoveryTime m) s = .next { s with dev :=
      (timed.moveMonitor m .normal 0 .recoveryTime keyTime).settle }) ∧
  (∀ d : Device,
    let keyTime := match d.access.onAir with | none => d.access.keyTime | some a => d.now - a.keyedAt
    let dropped : Bool → Device → MonitorId → Device := fun limit e m =>
      if (e.monitor m).st = .alert ∧ ¬(limit = true ∧ m = .keytime)
      then e.moveMonitor m .normal 0 .keyDropped keyTime else e
    let ended : Device → Bool → Device := fun e limit =>
      dropped limit (dropped limit (dropped limit (dropped limit e .tune) .reflect) .supply) .keytime
    let sampled := fun m : Monitor => { m with resting := false }
    let beaconGone := fun (b : Bool) (e : Device) => if b = false ∧ e.inhibit = true then e.dropBeacon else e
    (∀ limit,
      let cleared := Device.enterClear { d with
        tx := none, rx := Rx.blank .hunting,
        access := { d.access with onAir := none, keyTime := keyTime, filterFrom := d.now } }
      d.dropKey limit = ended { cleared with prot := { cleared.prot with
        tune := sampled cleared.prot.tune, reflect := sampled cleared.prot.reflect,
        supply := sampled cleared.prot.supply, keytime := sampled cleared.prot.keytime } } limit) ∧
    (d.prot.keytime.st = .normal → 25000 - d.config.dKeytime * 100 ≤ keyTime →
      d.sampleKeytime = d.moveMonitor .keytime .alert 0 .activeSample
        (match d.access.onAir with | none => 0 | some a => d.now - a.keyedAt)) ∧
    (d.prot.keytime.st ≠ .normal ∨ keyTime < 25000 - d.config.dKeytime * 100 → d.sampleKeytime = d) ∧
    (∀ count,
      let quiet := { d with prot := { d.prot with quietEnd := none } }
      (d.prot.keytime.st = .normal ∨ d.prot.keytime.st = .alert →
        d.tripKeytime count = beaconGone d.inhibit (quiet.moveMonitor .keytime .latched 0 .keyTimeLimit count)) ∧
      (d.prot.keytime.st ≠ .normal → d.prot.keytime.st ≠ .alert →
        d.tripKeytime count = beaconGone d.inhibit quiet)) ∧
    (∀ (a : OnAir) (tuneF refl supLo : Bool) (s : State), s.dev.resetLow = false → s.dev.access.onAir = some a →
      let begun : Device := { s.dev with
        now := max s.dev.now (a.keyedAt + 100 * (a.checks + 1)), pins := ⟨tuneF, refl, supLo⟩,
        access := { s.dev.access with onAir := some { a with checks := a.checks + 1 } } }
      let one := begun.sampleMonitor .tune tuneF
      let two := one.2.sampleMonitor .reflect refl
      let three := two.2.sampleMonitor .supply supLo
      let after := beaconGone s.dev.inhibit three.2.sampleKeytime
      exec (.protectionCheck tuneF refl supLo) s = .next { s with dev := Device.settle (
        if (one.1 = true ∨ two.1 = true ∨ three.1 = true) ∧ a.item.kind ≠ .distress ∧ a.item.kind ≠ .cancel
        then after.abortBurst .trip else after) }) ∧
    ((∀ it ∈ d.access.routine.items, it.kind ≠ .beacon) → d.dropBeacon = d) ∧
    ((∃ it ∈ d.access.routine.items, it.kind = .beacon) → d.dropBeacon = { d with
      access := { d.access with routine := d.access.routine.withdraw fun it => it.kind == .beacon },
      neigh := { d.neigh with counts := { d.neigh.counts with
        beaconsSkipped := bump d.neigh.counts.beaconsSkipped } } }))

/-- RECOVER is TAKEN on a READY part: every TRIPPED or LATCHED monitor returns to NORMAL with run 0 and no timer, the
others keep their state and run, the trip count is 0 and the quiet timer stopped, so that the inhibit ends.
Each monitor that returns is reported with cause RECOVER (R47), in the order TUNE, REFLECT, SUPPLY, KEYTIME (the
model's choice, log entry 63). -/
def Obligations.Recover : Prop :=
  (∀ (tag : Nat) (s : State), s.dev.live = true →
    ∃ d : Device, exec (.recover tag) s = .next { s with dev := (d.echo tag .taken).settle } ∧
      (∀ m, Device.inhibits (s.dev.completeExchange.monitor m) = true →
        (d.monitor m).st = .normal ∧ (d.monitor m).run = 0 ∧ (d.monitor m).recoverAt = none) ∧
      (∀ m, Device.inhibits (s.dev.completeExchange.monitor m) = false →
        d.monitor m = s.dev.completeExchange.monitor m) ∧
      d.prot.trips = 0 ∧ d.prot.quietEnd = none ∧ d.inhibit = false ∧
      d.access = s.dev.completeExchange.access ∧ d.store = s.dev.completeExchange.store) ∧
  ∀ (tag : Nat) (s : State), s.dev.live = true →
    let begun := s.dev.completeExchange
    let keyTime := match begun.access.onAir with | none => 0 | some a => begun.now - a.keyedAt
    let recovered : Device → MonitorId → Device := fun e m =>
      if (e.monitor m).st = .tripped ∨ (e.monitor m).st = .latched
      then (e.onMonitor m fun x => { x with recoverAt := none }).moveMonitor m .normal 0 .recover keyTime else e
    exec (.recover tag) s = .next { s with dev := Device.settle (Device.echo (
      recovered (recovered (recovered (recovered
        { begun with prot := { begun.prot with trips := 0, quietEnd := none } } .tune) .reflect) .supply) .keytime)
      tag .taken) }

/-- LOOP_TEST: TAKEN when the record and the own alert are IDLE, no case is open and no hold is in force; BUSY when the
record is not IDLE; STATE otherwise.
LOOP_START at the first moment the channel is not OWN and no reception is in progress; LOOP_RESULT, at its own
moment (the model's choice, log entries 1 and 10), ends the loop with LOOP RESULT, and 48 characters received as
they were sent pass: the verdict of any other 48 is FAIL, with the count of mutilated characters and whether the
check passed (R18, R50).
CHANNEL CLEARED of a blocked channel that the loop's end makes CLEAR comes after LOOP RESULT (the model's choice,
log entry 72). -/
def Obligations.LoopTest : Prop :=
  ((∀ (tag : Nat) (s : State), s.dev.live = true →
    let d := s.dev.completeExchange
    (d.loop.st = .idle → d.distress.own.st = .idle → d.caseOpen = false → d.holdInForce = false →
      exec (.loopTest tag) s = .next { s with dev := Device.settle (Device.echo { d with
        loop := { d.loop with st := .waiting, tag := some tag } } tag .taken) }) ∧
    (d.loop.st ≠ .idle → exec (.loopTest tag) s = .next { s with dev := (d.echo tag .busy).settle }) ∧
    (d.loop.st = .idle → d.distress.own.st ≠ .idle ∨ d.caseOpen = true ∨ d.holdInForce = true →
      exec (.loopTest tag) s = .next { s with dev := (d.echo tag .state).settle })) ∧
  ((∀ s : State, s.dev.resetLow = false → s.dev.loop.st = .waiting → s.dev.access.chan ≠ .own →
    s.dev.reception = false →
    exec .loopStart s = .next { s with dev := Device.settle { s.dev with
      rx := Rx.blank .closed, loop := { s.dev.loop with st := .looping, endAt := s.dev.now + 3840 } } }) ∧
  (∀ (received : List Pattern) (s : State), s.dev.resetLow = false → s.dev.loop.st = .looping →
    OwedRef.loop ∉ s.dev.console.general.owed → s.dev.console.general.entries.length < 24 →
    exec (.loopResult received) s = .next { s with dev := Device.settle { s.dev with
      now := max s.dev.now s.dev.loop.endAt, rx := Rx.blank .hunting, loop := { s.dev.loop with st := .idle },
      console := { s.dev.console with general := { s.dev.console.general with
        entries := s.dev.console.general.entries ++
          [⟨.loopResult, s.dev.loop.tag.getD 0, .report (Device.loopData (s.dev.loopVerdict received)), 0⟩] } } } }) ∧
  ∀ d : Device, d.config.own < 262144 →
    d.loopVerdict ((loopRanks d.config.own).map patternOf) = ⟨.pass, 0, true, d.loop.tag.getD 0⟩)) ∧
  ∀ (d : Device) (received : List Pattern), received.length = 48 →
    let mutilated : Nat → Pattern → Bool := fun i p =>
      if i = 0 then !isControl p syncARank else if i = 1 then !isControl p syncBRank
      else if i = 47 then !isControl p endRank else (symbolOf p).isNone
    let bad := (List.range 48).filter fun i => mutilated i (received.getD i 0#8)
    let symbols := received.map fun p => (symbolOf p).getD 63
    let v := d.loopVerdict received
    v.mutilated = bad.length ∧ v.tag = d.loop.tag.getD 0 ∧
    (v.check = true ↔ (∀ i ∈ bad, i < 2 ∨ 46 < i) ∧
      checkOf ((symbols.drop 2).take 42) = symsAt symbols 44 3) ∧
    (v.outcome = .pass ↔ bad = [] ∧ v.check = true ∧ received = (loopRanks d.config.own).map patternOf) ∧
    (v.outcome ≠ .pass → v.outcome = .fail)

/-! ## The Page Store -/

/-- A granted reservation: the fewest pages of 60 symbols that hold the size, the lowest free ones of the holder's pool
in ascending order, all reading 63; the cap is tested first, then the pool, and a refusal changes its count alone. -/
def Obligations.Reservation : Prop :=
  ∀ (x : Store) (h : Holder) (size : Nat), (∀ g ∈ x.grants, g.id ≠ x.nextId) →
    (size = 0 ∨ x.held h + (size + 59) / 60 ≤ h.cap ∧ (size + 59) / 60 ≤ (x.freePages h.pool).length →
      ∃ y : Store, x.reserve h size = (.granted x.nextId, y) ∧
        y.grants = x.grants ++ [⟨x.nextId, h, (x.freePages h.pool).take ((size + 59) / 60)⟩] ∧
        y.held h = x.held h + (size + 59) / 60 ∧ y.refusals = x.refusals ∧
        ∀ i, i < size → y.readSym x.nextId i = 63) ∧
    (size ≠ 0 → h.cap < x.held h + (size + 59) / 60 →
      x.reserve h size = (.refusedCap, { x with refusals := x.refusals.bump h })) ∧
    (size ≠ 0 → x.held h + (size + 59) / 60 ≤ h.cap → (x.freePages h.pool).length < (size + 59) / 60 →
      x.reserve h size = (.refusedPool, { x with refusals := x.refusals.bump h }))

/-- A symbol written into a grant is read back; no other symbol of it changes, nor any symbol of a grant with other
pages; beyond the grant a write changes nothing and a read gives 63. -/
def Obligations.ReadAfterWrite : Prop :=
  ∀ (x : Store) (id i v : Nat) (g : Grant), Store.wf x.cells = true → x.grant? id = some g → g.pages.Nodup →
    v < 256 →
    (i < 60 * g.pages.length → (x.writeSym id i v).readSym id i = v) ∧
    (∀ j, j ≠ i → (x.writeSym id i v).readSym id j = x.readSym id j) ∧
    (∀ id' g', x.grant? id' = some g' → (∀ p ∈ g'.pages, p ∉ g.pages) →
      ∀ j, (x.writeSym id i v).readSym id' j = x.readSym id' j) ∧
    (60 * g.pages.length ≤ i → x.writeSym id i v = x ∧ x.readSym id i = 63)

/-- A release frees every page of the grant; a hand-over is taken from INBOUND to INBOUND, and from INBOUND to
OUTBOUND within OUTBOUND's cap, and moves no page; any other changes a refusal count alone. -/
def Obligations.ReleaseAndHandOver : Prop :=
  ∀ (x : Store) (id : Nat) (g : Grant), x.grant? id = some g →
    (x.release id).grant? id = none ∧ (x.release id).cells = x.cells ∧
    (∀ id', id' ≠ id → (x.release id).grant? id' = x.grant? id') ∧
    (∀ p ∈ g.pages, (∀ g' ∈ x.grants, g'.id ≠ id → p ∉ g'.pages) → p ∉ (x.release id).used) ∧
    (g.holder = .inbound → x.handOver id .inbound = (true, x)) ∧
    (g.holder = .inbound → x.held .outbound + g.pages.length ≤ 128 →
      ∃ y : Store, x.handOver id .outbound = (true, y) ∧ y.grant? id = some { g with holder := .outbound } ∧
        y.cells = x.cells ∧ y.used = x.used) ∧
    (g.holder = .inbound → 128 < x.held .outbound + g.pages.length →
      x.handOver id .outbound = (false, { x with refusals := x.refusals.bump .outbound })) ∧
    ∀ taker, g.holder ≠ .inbound ∨ taker ≠ .inbound ∧ taker ≠ .outbound →
      x.handOver id taker = (false, { x with refusals := x.refusals.bump taker })

/-! ## Neighbours, routes and relay waits -/

/-- A taken burst's header facts: a station with an entry has its Q blended with the score and becomes FRESH, and with a
free place a station without one takes a FRESH entry with Q the score and a heard count of 1 (R61).
With all 32 places in use (R62) a new station takes the place of the unpinned STALE entry heard longest ago, else of the
unpinned FRESH entry of the lowest Q, whose removal raises a route event; with every entry pinned it is not entered.
A further header blends Q as R61 says, and a new entry takes the score; a route event names the station when the
entry is new or was STALE (R69). A taken BEACON whose check passed and whose body reads replaces the entry's facts
and, unless the station is the configured port or a forecast source, sets VESSEL or PORT, with a route event only
when the facts changed; any other raises the facts-rejected count alone (R66, R69). A body reads exactly when it is
laid out as R6 gives a BEACON, with the kind VESSEL or PORT, the position in range and a port that is a station. -/
def Obligations.HeaderFacts : Prop :=
  ((∀ (d : Device) (st score : Nat) (t : Time),
      (∀ n, d.neighbour? st = some n →
        ∃ m, (d.headerFacts st score t).1.neighbour? st = some m ∧ m.q = (3 * n.q + score + 2) / 4 ∧ m.lastHeard = t ∧
          m.heard = bump n.heard ∧ m.fresh = true ∧ m.facts = n.facts ∧ m.kind = n.kind) ∧
      (d.neighbour? st = none → d.neigh.entries.length < 32 →
        ∃ m, (d.headerFacts st score t).1.neighbour? st = some m ∧ m.q = score ∧ m.lastHeard = t ∧ m.heard = 1 ∧
          m.fresh = true ∧ m.facts = none ∧ m.avoidUntil = none) ∧
      ∀ st', st' ≠ st → d.neigh.entries.length < 32 →
        (d.headerFacts st score t).1.neighbour? st' = d.neighbour? st') ∧
  (∀ (d : Device) (st score : Nat) (t : Time), d.neighbour? st = none → 32 ≤ d.neigh.entries.length →
      let gone := fun n : Neigh => { d with
        neigh := { d.neigh with
          entries := d.neigh.entries.filter (fun x => decide (x.station ≠ n.station)) ++
            [{ station := st,
               kind := if st = d.config.port then .port else if st ∈ d.config.sources then .source else .unknown,
               q := score, lastHeard := t, heard := 1, facts := none, avoidUntil := none, fresh := true,
               removalWaits := false }] } }
      let free := d.neigh.entries.filter fun n => !d.pinned n.station
      ((∃ n ∈ free, n.fresh = false) →
        ∃ n ∈ free, n.fresh = false ∧ d.headerFacts st score t = (gone n, [st]) ∧
          ∀ x ∈ free, x.fresh = false →
            n.lastHeard < x.lastHeard ∨ n.lastHeard = x.lastHeard ∧ n.station ≤ x.station) ∧
      (free ≠ [] → (∀ n ∈ free, n.fresh = true) →
        ∃ n ∈ free, d.headerFacts st score t = (gone n, [n.station, st]) ∧
          ∀ x ∈ free, n.q < x.q ∨ n.q = x.q ∧ (n.lastHeard < x.lastHeard ∨
            n.lastHeard = x.lastHeard ∧ n.station ≤ x.station)) ∧
      (free = [] →
        d.headerFacts st score t = ({ d with
          neigh := { d.neigh with
            counts := { d.neigh.counts with notEntered := bump d.neigh.counts.notEntered } } }, [])))) ∧
  (∀ (d : Device) (st score : Nat) (t : Time),
    (∀ n, d.neighbour? st = some n → d.headerFacts st score t = ({ d with
      neigh := { d.neigh with entries := d.neigh.entries.map fun x => if x.station = st then { x with
        q := (3 * x.q + score + 2) / 4, lastHeard := t, heard := bump x.heard, fresh := true, removalWaits := false }
        else x } }, if n.fresh = true then [] else [st])) ∧
    (d.neighbour? st = none → d.neigh.entries.length < 32 → d.headerFacts st score t = ({ d with
      neigh := { d.neigh with entries := d.neigh.entries ++ [{
        station := st, kind := if st = d.config.port then .port else if st ∈ d.config.sources then .source else .unknown,
        q := score, lastHeard := t, heard := 1, facts := none, avoidUntil := none, fresh := true,
        removalWaits := false }] } }, [st]))) ∧
  (∀ (d : Device) (b : Burst),
    (d.neighbour? b.source = none → d.beaconFacts b = (d, [])) ∧
    ∀ n, d.neighbour? b.source = some n →
      (b.pass = false ∨ readBeaconBody b.body = none → d.beaconFacts b = ({ d with neigh := { d.neigh with
        counts := { d.neigh.counts with factsRejected := bump d.neigh.counts.factsRejected } } }, [])) ∧
      ∀ kind f, b.pass = true → readBeaconBody b.body = some (kind, f) →
        let kindOf := if b.source = d.config.port then StationKind.port
          else if b.source ∈ d.config.sources then .source else if kind = 0 then .vessel else .port
        d.beaconFacts b = ({ d with neigh := { d.neigh with
          entries := d.neigh.entries.map fun x =>
            if x.station = b.source then { x with facts := some f, kind := kindOf } else x } },
          if n.facts = some f then [] else [b.source])) ∧
  (∀ (body : List Nat) (kind : Nat) (f : Facts), (∀ s ∈ body, s < 64) →
    (readBeaconBody body = some (kind, f) ↔ kind ≤ 1 ∧ body = kind :: (beaconBody f).tail ∧
      (∀ p, f.pos = some p → -540000 ≤ p.1 ∧ p.1 ≤ 540000 ∧ -1080000 ≤ p.2 ∧ p.2 < 1080000) ∧
      ∀ p, f.port = some p → 1 ≤ p.1 ∧ p.1 < 262143 ∧ p.2 ≤ 255))

/-- A route answer names a station with an entry that is FRESH and not avoided: the port itself, or a VESSEL that is
willing to relay, whose port report is about the configured port, and whose score reaches the relay threshold.
The answer itself (R68): a FRESH port that is not avoided with Q at or above T_direct; else the candidate of the best
score at or above T_relay, the lower station number among equals; else such a port of any Q; else NO ROUTE. -/
def Obligations.RouteNamesUsableStation : Prop :=
  (∀ (d : Device) (st : Station), d.route = some st →
      ∃ n ∈ d.neigh.entries, n.station = st ∧ n.fresh = true ∧ d.avoided n = false ∧
        (st = d.config.port ∨
          n.kind = .vessel ∧ ∃ f q, n.facts = some f ∧ f.willing = true ∧ f.port = some (d.config.port, q) ∧
            d.config.tRelay ≤ min n.q q)) ∧
  (∀ d : Device,
      let candidate := fun (n : Neigh) (score : Nat) => n ∈ d.neigh.entries ∧ n.fresh = true ∧ d.avoided n = false ∧
        n.kind = .vessel ∧ ∃ f p, n.facts = some f ∧ f.willing = true ∧ f.port = some (d.config.port, p) ∧
          score = min n.q p
      let port := fun n : Neigh => d.neighbour? d.config.port = some n ∧ n.fresh = true ∧ d.avoided n = false
      (∀ n sc, candidate n sc → sc ≤ 255) →
      (∀ n, port n → d.config.tDirect ≤ n.q → d.route = some d.config.port) ∧
      ((∀ n, port n → n.q < d.config.tDirect) →
        ((∃ n sc, candidate n sc ∧ d.config.tRelay ≤ sc) →
          ∃ n sc, candidate n sc ∧ d.route = some n.station ∧
            ∀ x y, candidate x y → y < sc ∨ y = sc ∧ n.station ≤ x.station) ∧
        ((∀ n sc, candidate n sc → sc < d.config.tRelay) →
          (∀ n, port n → d.route = some d.config.port) ∧ ((∀ n, ¬ port n) → d.route = none))))

/-- The timers of an entry: STALE_TIME makes a FRESH entry STALE and raises a route event; NEIGHBOUR_REMOVAL takes an
unpinned STALE entry out and lets a pinned one wait; AVOID_MARK_EXPIRY removes the mark and raises a route event.
BEACON_DUE sets the next due time within a tenth of the interval of I minutes on (a free draw, log entry 3); the beacon
is skipped and counted under the hold or the inhibit, and its item offered otherwise. Each row takes place at its own
moment (the model's choice, log entry 1).
The beacon's body is built as it is offered: VESSEL, relay-willing by the switch, the position of a fix under 10 min
old with position sharing on, and the port report of the configured port's entry; an earlier BEACON item that still
waits is withdrawn and counted as skipped (R72). -/
def Obligations.NeighbourEvents : Prop :=
  ((∀ (st : Station) (n : Neigh) (s : State), s.dev.resetLow = false → s.dev.neighbour? st = some n →
    (n.fresh = true →
      exec (.staleTime st) s = .next { s with dev := Device.settle (Device.routeEvent { s.dev with
        now := max s.dev.now (n.lastHeard + s.dev.config.stale * 60000),
        neigh := { s.dev.neigh with
          entries := s.dev.neigh.entries.map fun x => if x.station = st then { x with fresh := false } else x } } st) }) ∧
    (n.fresh = false → n.removalWaits = false → s.dev.pinned st = false →
      exec (.neighbourRemoval st) s = .next { s with dev := Device.settle { s.dev with
        now := max s.dev.now (n.lastHeard + 21600000),
        neigh := { s.dev.neigh with entries := s.dev.neigh.entries.filter fun x => decide (x.station ≠ st) } } }) ∧
    (n.fresh = false → n.removalWaits = false → s.dev.pinned st = true →
      exec (.neighbourRemoval st) s = .next { s with dev := Device.settle { s.dev with
        now := max s.dev.now (n.lastHeard + 21600000),
        neigh := { s.dev.neigh with
          entries := s.dev.neigh.entries.map fun x =>
            if x.station = st then { x with removalWaits := true } else x } } }) ∧
    ∀ t, n.avoidUntil = some t →
      exec (.avoidMarkExpiry st) s = .next { s with dev := Device.settle (Device.routeEvent { s.dev with
        now := max s.dev.now t,
        neigh := { s.dev.neigh with
          entries := s.dev.neigh.entries.map fun x => if x.station = st then { x with avoidUntil := none } else x } } st) }) ∧
  (∀ (t : Time) (s : State), s.dev.resetLow = false → s.dev.neigh.beaconDue = some t →
    ∃ d : Device, exec .beaconDue s = .next { s with dev := d.settle } ∧ d.now = max s.dev.now t ∧
      (∃ u, d.neigh.beaconDue = some u ∧ t + s.dev.config.beacon * 54000 ≤ u ∧ u ≤ t + s.dev.config.beacon * 66000) ∧
      (s.dev.holdInForce = true ∨ s.dev.inhibit = true →
        d.neigh.counts.beaconsSkipped = bump s.dev.neigh.counts.beaconsSkipped ∧ d.access = s.dev.access) ∧
      (s.dev.holdInForce = false → s.dev.inhibit = false →
        ∃ it ∈ d.access.routine.waiting, it.kind = .beacon ∧ it.dest = 262143 ∧ it.ready = d.now) ∧
      d.neigh.entries = s.dev.neigh.entries ∧ d.store = s.dev.store ∧ d.log = s.dev.log)) ∧
  ∀ (t : Time) (s : State), s.dev.resetLow = false → s.dev.neigh.beaconDue = some t →
    let m := max s.dev.now t
    let i := s.dev.config.beacon
    let due : Device := { s.dev with
      now := m, draws := s.dev.draws + 1,
      neigh := { s.dev.neigh with
        beaconDue := some (t + i * 54000 + Config.draw s.dev.draws % (12 * i + 1) * 1000) } }
    let skipped := { s.dev.neigh.counts with beaconsSkipped := bump s.dev.neigh.counts.beaconsSkipped }
    let position := match s.dev.console.fix with
      | none => [0]
      | some f => if s.dev.config.position = true ∧ m - f.takenAt < 600000
          then 1 :: toSyms 4 (f.lat + 540000).toNat ++ toSyms 4 (f.lon + 1080000).toNat else [0]
    let portReport := match s.dev.neighbour? s.dev.config.port with
      | none => [0]
      | some n => 1 :: toSyms 3 s.dev.config.port ++ toSyms 2 n.q
    let item := {
      kind := .beacon, dest := 262143, seq := 0, owner := .beacon, ready := m, cw := 0, ackEnd := 0,
      order := s.dev.access.nextOffer, blindFrom := m, overdue := false,
      body := [0, if s.dev.config.message then 1 else 0] ++ position ++ portReport : Item }
    let offered := fun (e : Device) (q : ClassQueue) => { e with access := { e.access with
      routine := { q with waiting := q.waiting ++ [item] }, nextOffer := e.access.nextOffer + 1 } }
    (s.dev.holdInForce = true ∨ s.dev.inhibit = true →
      exec .beaconDue s = .next { s with dev := Device.settle { due with
        neigh := { due.neigh with counts := skipped } } }) ∧
    (s.dev.holdInForce = false → s.dev.inhibit = false → (∀ it ∈ s.dev.access.routine.items, it.kind ≠ .beacon) →
      exec .beaconDue s = .next { s with dev := (offered due s.dev.access.routine).settle }) ∧
    (s.dev.holdInForce = false → s.dev.inhibit = false → (∃ it ∈ s.dev.access.routine.items, it.kind = .beacon) →
      exec .beaconDue s = .next { s with dev := Device.settle (
        offered { due with neigh := { due.neigh with counts := skipped } }
          (s.dev.access.routine.withdraw fun it => it.kind == .beacon)) })

/-- RELAY_WAIT_EXPIRY of a RUNNING wait, at its own moment (the model's choice, log entry 1): a WARNING wait becomes
HELD under the hold and keeps its place; otherwise the wait ends and its owner places the relay.
The DISTRESS-RELAY item goes to ALL with the alert as sequence symbol; its body is the distressed station and a
DISTRESS body rebuilt from the case (R123). The WARNING item's body is built from the record (R145). Case or record
then stands OFFERED. -/
def Obligations.RelayWaitExpiry : Prop :=
  (∀ (k : WaitKind) (st num : Nat) (w : Wait) (s : State), s.dev.resetLow = false → s.dev.wait? k st num = some w →
    w.held = false →
    (k = .warning → s.dev.holdInForce = true →
      exec (.relayWaitExpiry k st num) s = .next { s with dev := Device.settle { s.dev with
        now := max s.dev.now w.expiry,
        waits := s.dev.waits.map fun x =>
          if x.kind = k ∧ x.station = st ∧ x.number = num then { x with held := true } else x } }) ∧
    (k = .distress ∨ s.dev.holdInForce = false →
      ∃ d : Device, exec (.relayWaitExpiry k st num) s = .next { s with dev := d.settle } ∧
        d.now = max s.dev.now w.expiry ∧ d.wait? k st num = none ∧ d.neigh = s.dev.neigh ∧ d.store = s.dev.store ∧
        (k = .distress → ∀ c, s.dev.case? st = some c → c.alert = num →
          ∃ it ∈ d.access.distress.waiting, it.kind = .distressRelay ∧ it.owner = .caseRelay st num ∧ it.seq = num) ∧
        (k = .warning → (s.dev.warning? st num).isSome = true →
          ∃ it ∈ d.access.priority.waiting, it.kind = .warning ∧ it.owner = .warning st num))) ∧
  ∀ (k : WaitKind) (st num : Nat) (w : Wait) (s : State), s.dev.resetLow = false → s.dev.wait? k st num = some w →
    w.held = false →
    let m := max s.dev.now w.expiry
    let ended : Device := { s.dev with
      now := m,
      waits := s.dev.waits.filter fun x => !(x.kind == k && x.station == st && x.number == num) }
    let item := fun (kind : BurstKind) (seq : Nat) (body : List Nat) (owner : Owner) => {
      kind := kind, dest := 262143, seq := seq, body := body, owner := owner, ready := m, cw := 0, ackEnd := 0,
      order := s.dev.access.nextOffer, blindFrom := m, overdue := false : Item }
    let answers := fun e : Device => exec (.relayWaitExpiry k st num) s = .next { s with dev := e.settle }
    (k = .distress →
      ((∀ c, s.dev.case? st = some c → c.alert ≠ num) → answers ended) ∧
      ∀ c, s.dev.case? st = some c → c.alert = num →
        let position := match c.pos with
          | none => [0]
          | some (lat, lon) => 1 :: toSyms 4 (lat + 540000).toNat ++ toSyms 4 (lon + 1080000).toNat
        let posTime := match c.posTime with | none => [0] | some (h, m) => [1, h, m]
        let persons := match c.persons with | none => [0] | some p => [1, p]
        let body := toSyms 3 st ++ (c.nature :: position ++ posTime ++ persons)
        answers { ended with
          distress := { s.dev.distress with
            cases := s.dev.distress.cases.map fun x => if x.station = st then { x with relay := .offered } else x },
          access := { s.dev.access with
            distress := { s.dev.access.distress with
              waiting := s.dev.access.distress.waiting ++ [item .distressRelay num body (.caseRelay st num)] },
            nextOffer := s.dev.access.nextOffer + 1 } }) ∧
    (k = .warning → s.dev.holdInForce = false →
      (s.dev.warning? st num = none → answers ended) ∧
      ∀ r, s.dev.warning? st num = some r →
        let body := toSyms 3 r.issuer ++ toSyms 2 r.issue ++
          [r.severity.value, r.day, r.hour, r.minute, r.validFor, r.areas.length] ++ r.areas ++
          s.dev.store.readSyms r.grant 0 r.len
        answers { ended with
          weather := { s.dev.weather with
            warnings := s.dev.weather.warnings.map fun x =>
              if x.issuer = st ∧ x.issue = num then { x with relay := .offered } else x },
          access := { s.dev.access with
            priority := { s.dev.access.priority with
              waiting := s.dev.access.priority.waiting ++ [item .warning 0 body (.warning st num)] },
            nextOffer := s.dev.access.nextOffer + 1 } })

/-! ## Linked transfers -/

/-- ACK_TIMEOUT: during a reception it waits for the reception's end (R85); else it is taken, counted, and a retry is
consumed; under the hold the slot goes to HELD, and at the retry limit the hop has failed (R87). REFUSAL_WAIT_END:
the slot goes to READY with a new ready since, and keeps its hop and fragment. LIFETIME_END: a transfer whose burst
is on air, or whose ACK is awaited, takes the ending as pending; any other ends EXPIRED at once, and a console
transfer's TRANSFER OUTCOME goes up (R91). Each row takes place at its own moment (the model's choice, log entry 1).
What a route answer does to a slot, and how it is asked for (R82, R83; a slot without a hop starts afresh at any hop
named, log entry 65); a failed hop: the avoid mark and a new route for a port-bound transfer, FAILED for another
(R90); the end of a transfer by its origin (R92); and what a matching ACCEPTED, FULL, UNKNOWN and NO-RELAY do (R86,
R88, R89), a NO-RELAY clearing the next hop's relay-willing first, also where that hop is the final destination (the
model's reading of R70, log entry 61). A pending ending stands, and a timeout or an answer is first accounted for
(log entry 34); the outcome carries the fragments accepted (log entry 35), its message number in one byte (log entry
12).
A route event that names a station (R69) is taken by the port-bound and RELAY slots, in slot order (R83): one that
is AWAITING ROUTE, or that is READY off the air, REFUSAL WAIT or HELD and has the station as its hop or fragment
index 0, asks for a route. An answer of none makes it AWAITING ROUTE, the same hop changes nothing, and another hop
starts the attempt afresh, HELD under the hold; its DATA item goes unless the hop is the same. Every other slot
stays as it was. -/
def Obligations.SlotTimers : Prop :=
  ((∀ (i : Nat) (t : Time) (s : State), s.dev.resetLow = false → s.dev.ackSlot? = some i →
    (s.dev.slot i).ackDue = some t →
    (s.dev.reception = true →
      exec .ackTimeout s = .next { s with dev := Device.settle { s.dev with
        now := max s.dev.now t,
        xfer := { s.dev.xfer with slots := modAt s.dev.xfer.slots i fun x => { x with ackWaiting := true } } } }) ∧
    (∀ h, s.dev.reception = false → (s.dev.slot i).hop = some h → (s.dev.slot i).pendingEnd = none →
      (s.dev.slot i).retries + 1 < s.dev.config.retry → s.dev.holdInForce = false →
      s.dev.portBound (s.dev.slot i) = false ∨ (s.dev.slot i).idx ≠ 0 → i < s.dev.xfer.slots.length →
      exec .ackTimeout s = .next { s with dev := Device.settle { s.dev with
        now := max s.dev.now t,
        neigh := { s.dev.neigh with
          entries := s.dev.neigh.entries.map fun x => if x.station = h then { x with q := 3 * x.q / 4 } else x },
        xfer := { s.dev.xfer with
          slots := modAt s.dev.xfer.slots i fun x =>
            { x with ackDue := none, ackWaiting := false, retries := x.retries + 1, cw := min 128 (2 * x.cw),
                     st := .ready, readySince := max s.dev.now t, onAir := false, refusalEnd := none },
          counts := { s.dev.xfer.counts with ackTimeouts := bump s.dev.xfer.counts.ackTimeouts } } } })) ∧
  (∀ (i : Nat) (t : Time) (s : State), s.dev.resetLow = false → (s.dev.slot i).st = .refusalWait →
    (s.dev.slot i).refusalEnd = some t → s.dev.holdInForce = false →
    exec (.refusalWaitEnd i) s = .next { s with dev := Device.settle { s.dev with
      now := max s.dev.now t,
      xfer := { s.dev.xfer with slots := modAt s.dev.xfer.slots i fun x =>
        { x with st := .ready, readySince := max s.dev.now t, onAir := false, refusalEnd := none } } } }) ∧
  (∀ (i : Nat) (s : State), s.dev.resetLow = false → i < s.dev.xfer.slots.length →
    (s.dev.slot i).pendingEnd = none →
    ((s.dev.slot i).st = .ready ∧ (s.dev.slot i).onAir = true ∨ (s.dev.slot i).st = .awaitingAck →
      exec (.lifetimeEnd i) s = .next { s with dev := Device.settle { s.dev with
        now := max s.dev.now (s.dev.slot i).lifetimeEnd,
        xfer := { s.dev.xfer with slots := modAt s.dev.xfer.slots i fun x => { x with pendingEnd := some .expired } } } }) ∧
    ((s.dev.slot i).st = .awaitingRoute ∨ (s.dev.slot i).st = .held ∨ (s.dev.slot i).st = .refusalWait →
      (s.dev.slot i).origin = .console → s.dev.console.general.entries.length < 24 →
      s.dev.rep.pending = none → (∀ e ∈ s.dev.xfer.reasms, e.waiting = false) →
      ∃ d : Device, exec (.lifetimeEnd i) s = .next { s with dev := d.settle } ∧
        d.now = max s.dev.now (s.dev.slot i).lifetimeEnd ∧ d.slot i = Slot.free ∧
        (∀ g, (s.dev.slot i).grant = some g → d.store = s.dev.store.release g) ∧
        (∀ j, j ≠ i → d.slot j = s.dev.slot j) ∧
        d.xfer.counts.expired = bump s.dev.xfer.counts.expired ∧
        d.console.general.entries = s.dev.console.general.entries ++
          [⟨.transferOutcome, 0, .report (Device.slotOutcomeData (s.dev.slot i) .expired), 0⟩])) ∧
  (∀ (d : Device) (i : Nat) (ans : Option Station), i < d.xfer.slots.length →
    let s := d.slot i
    let withdrawn := (d.access.routine.withdraw fun it => it.kind == .data && it.owner == .slot i)
    let e := d.takeAnswer i ans
    (ans = none → e = { d with
      access := { d.access with routine := withdrawn },
      xfer := { d.xfer with
        slots := d.xfer.slots.set i { s with hop := none, st := .awaitingRoute, refusalEnd := none } } }) ∧
    (∀ h, ans = some h → s.hop = some h → e = d) ∧
    (∀ h, ans = some h → s.hop ≠ some h →
      let fresh := { s with
        hop := some h, lastHop := h, idx := 0, retries := 0, refusals := 0, restarts := 0, cw := 8, refusalEnd := none }
      let there := if d.holdInForce then { fresh with st := .held, heldFrom := .ready }
        else { fresh with st := .ready, readySince := d.now, onAir := false }
      e = { d with
        access := { d.access with routine := withdrawn },
        xfer := { d.xfer with slots := d.xfer.slots.set i there } }) ∧
    d.askRoute i = d.takeAnswer i
      (if s.origin = .relay then
        (if (d.neighbour? s.dest).any fun n => n.fresh && !d.avoided n then some s.dest else none)
      else d.route)) ∧
  (∀ (d : Device) (i : Nat), i < d.xfer.slots.length →
    let s := d.slot i
    let ready : Slot → Slot := fun x =>
      if d.holdInForce then { x with st := .held, heldFrom := .ready, refusalEnd := none }
      else { x with st := .ready, readySince := d.now, onAir := false, refusalEnd := none }
    (s.origin ≠ .relay → s.dest ≠ d.config.port → d.hopFails i = d.endTransfer i .failed) ∧
    (∀ h, s.origin = .relay ∨ s.dest = d.config.port → s.hop = some h → d.hopFails i = Device.askRoute { d with
      neigh := { d.neigh with entries := d.neigh.entries.map fun n =>
        if n.station = h then { n with avoidUntil := some (d.now + 1800000) } else n },
      xfer := { d.xfer with slots := d.xfer.slots.set i (ready s) } } i)) ∧
  (∀ (d : Device) (i g : Nat) (o : Outcome), i < d.xfer.slots.length → (d.slot i).grant = some g →
    d.rep.pending = none → (∀ e ∈ d.xfer.reasms, e.waiting = false) →
    let s := d.slot i
    let n := d.xfer.counts
    let counted := match o with
      | .delivered => { n with delivered := bump n.delivered } | .failed => { n with failed := bump n.failed }
      | .expired => { n with expired := bump n.expired } | .withdrawn => { n with withdrawn := bump n.withdrawn }
      | .flushed => { n with flushed := bump n.flushed } | .void => n
    let ended := { d with
      access := { d.access with
        routine := d.access.routine.withdraw fun it => it.kind == .data && it.owner == .slot i },
      store := d.store.release g,
      xfer := { d.xfer with counts := counted, slots := d.xfer.slots.set i Slot.free } }
    (s.origin = .relay → d.endTransfer i o = ended) ∧
    (s.origin = .console → d.console.general.entries.length < 24 →
      d.endTransfer i o = { ended with console := { d.console with general := { d.console.general with
        entries := d.console.general.entries ++ [⟨.transferOutcome, 0, .report
          [.num 1 s.tag, .num 1 o.code, .num 1 s.num, .num 3 s.dest, .num 3 s.lastHop,
           .num 2 (min (if o = .delivered then s.cnt else s.idx) 65535)], 0⟩] } } }) ∧
    (s.origin = .console → 24 ≤ d.console.general.entries.length →
      d.endTransfer i o = { ended with
        xfer := { d.xfer with counts := counted, slots := d.xfer.slots.set i { s with
                   st := .outcomeOwed, grant := none, hop := none, onAir := false, ackDue := none,
                   ackWaiting := false, refusalEnd := none, pendingEnd := none, outcome := some o } },
        console := { d.console with general := { d.console.general with
          owed := d.console.general.owed ++ [.slot i] } } }) ∧
    (s.origin = .catchReport → d.endTransfer i o = Device.catchOutcome { ended with store := d.store } o)) ∧
  (∀ (d : Device) (b : Burst),
    let stray := { d with xfer := { d.xfer with
      counts := { d.xfer.counts with strayAcks := bump d.xfer.counts.strayAcks } } }
    (d.holdInForce = true → d.receiveAck b = d) ∧
    (d.holdInForce = false → (∀ i, i < 8 → (d.slot i).st ≠ .awaitingAck) → d.receiveAck b = stray) ∧
    ∀ i, d.holdInForce = false → i < 8 → i < d.xfer.slots.length → (d.slot i).st = .awaitingAck →
      (∀ j, j < i → (d.slot j).st ≠ .awaitingAck) →
      let s := d.slot i
      let answered := fun a : Nat => b.body = [s.idx, a] ∧ s.hop = some b.source ∧ s.num = b.seq
      let moved := fun (f : Slot → Slot) (c : XferCounts) => { d with xfer := { d.xfer with
        counts := c, slots := d.xfer.slots.set i (f { s with ackDue := none, ackWaiting := false }) } }
      let taken := { d.xfer.counts with gotAccepted := bump d.xfer.counts.gotAccepted }
      let full := { d.xfer.counts with gotFull := bump d.xfer.counts.gotFull }
      let noRelay := { d.xfer.counts with gotNoRelay := bump d.xfer.counts.gotNoRelay }
      let unknown := { d.xfer.counts with gotUnknown := bump d.xfer.counts.gotUnknown }
      ((∀ a, a ≤ 3 → ¬answered a) → d.receiveAck b = stray) ∧
      (answered 0 → s.cnt ≤ s.idx + 1 → d.receiveAck b = Device.endTransfer
        (moved (fun x => { x with retries := 0, cw := 8, refusals := 0, restarts := 0 }) taken) i .delivered) ∧
      (answered 0 → s.idx + 1 < s.cnt → d.receiveAck b =
        let next := fun x : Slot => { x with retries := 0, cw := 8, refusals := 0, restarts := 0, idx := s.idx + 1 }
        match s.pendingEnd with
        | some o => Device.endTransfer (moved next taken) i o
        | none => moved (fun x => { next x with
            st := .ready, readySince := d.now, onAir := false, refusalEnd := none }) taken) ∧
      (answered 1 → d.receiveAck b =
        let more := fun x : Slot => { x with refusals := s.refusals + 1 }
        match s.pendingEnd with
        | some o => Device.endTransfer (moved more full) i o
        | none =>
          if 5 ≤ s.refusals + 1 then Device.hopFails (moved more full) i
          else moved (fun x => { more x with st := .refusalWait, refusalEnd := some (d.now + 60000) }) full) ∧
      (answered 3 → d.receiveAck b =
        let more := fun x : Slot => { x with restarts := s.restarts + 1 }
        match s.pendingEnd with
        | some o => Device.endTransfer (moved more unknown) i o
        | none =>
          if 3 ≤ s.restarts + 1 then Device.hopFails (moved more unknown) i
          else moved (fun x => { more x with
            idx := 0, st := .ready, readySince := d.now, onAir := false, refusalEnd := none }) unknown) ∧
      (answered 2 →
        let told := match (d.neighbour? b.source).bind fun n => n.facts with
          | none => moved id noRelay
          | some f =>
            let unwilling := d.neigh.entries.map fun n : Neigh =>
              if n.station = b.source then { n with facts := some { f with willing := false } } else n
            if f.willing then
              Device.routeEvent { moved id noRelay with neigh := { d.neigh with entries := unwilling } } b.source
            else moved id noRelay
        told.slot i = { s with ackDue := none, ackWaiting := false } ∧
        d.receiveAck b =
          match s.pendingEnd with
          | some o => told.endTransfer i o
          | none =>
            if b.source = s.dest then told.hopFails i
            else Device.askRoute { told with xfer := { told.xfer with
              slots := told.xfer.slots.set i { s with
                ackDue := none, ackWaiting := false, st := .ready, readySince := d.now, onAir := false,
                refusalEnd := none } } } i)) ∧
  (∀ (i : Nat) (t : Time) (h : Station) (s : State), s.dev.resetLow = false → s.dev.ackSlot? = some i →
    (s.dev.slot i).ackDue = some t → s.dev.reception = false → (s.dev.slot i).hop = some h →
    i < s.dev.xfer.slots.length →
    let x := s.dev.slot i
    let charged := { x with
      ackDue := none, ackWaiting := false, retries := x.retries + 1, cw := min 128 (2 * x.cw) }
    let late := fun y : Slot => { s.dev with
      now := max s.dev.now t,
      neigh := { s.dev.neigh with
        entries := s.dev.neigh.entries.map fun n => if n.station = h then { n with q := 3 * n.q / 4 } else n },
      xfer := { s.dev.xfer with
        slots := s.dev.xfer.slots.set i y,
        counts := { s.dev.xfer.counts with ackTimeouts := bump s.dev.xfer.counts.ackTimeouts } } }
    let again := late (if s.dev.holdInForce then { charged with st := .held, heldFrom := .ready, refusalEnd := none }
      else { charged with st := .ready, readySince := max s.dev.now t, onAir := false, refusalEnd := none })
    let goes : Device → Prop := fun e => exec .ackTimeout s = .next { s with dev := e.settle }
    (∀ o, x.pendingEnd = some o → goes (Device.endTransfer (late charged) i o)) ∧
    (x.pendingEnd = none → s.dev.config.retry ≤ x.retries + 1 → goes (Device.hopFails (late charged) i)) ∧
    (x.pendingEnd = none → x.retries + 1 < s.dev.config.retry →
      (x.origin = .relay ∨ x.dest = s.dev.config.port → x.idx = 0 → goes (again.askRoute i)) ∧
      ((x.origin ≠ .relay ∧ x.dest ≠ s.dev.config.port) ∨ x.idx ≠ 0 → goes again))) ∧
  (∀ (i : Nat) (s : State), s.dev.resetLow = false → (s.dev.slot i).pendingEnd = none →
    ((s.dev.slot i).st = .ready ∧ (s.dev.slot i).onAir = false ∨ (s.dev.slot i).st = .awaitingRoute ∨
      (s.dev.slot i).st = .held ∨ (s.dev.slot i).st = .refusalWait →
      exec (.lifetimeEnd i) s = .next { s with dev := Device.settle (Device.endTransfer { s.dev with
        now := max s.dev.now (s.dev.slot i).lifetimeEnd } i .expired) }) ∧
    ((s.dev.slot i).st = .free ∨ (s.dev.slot i).st = .reserved ∨ (s.dev.slot i).st = .outcomeOwed →
      exec (.lifetimeEnd i) s = .next { s with dev := s.dev.settle }))) ∧
  (∀ d : Device, d.routeEvents [] = d ∧ ∀ st r, d.routeEvents (st :: r) = (d.routeEvent st).routeEvents r) ∧
  (∀ (d : Device) (st : Station), d.xfer.slots.length = 8 →
    let asks : Slot → Prop := fun s => (s.origin = .relay ∨ s.dest = d.config.port) ∧
      (s.st = .awaitingRoute ∨
        (s.st = .ready ∧ s.onAir = false ∨ s.st = .refusalWait ∨ s.st = .held) ∧ (s.hop = some st ∨ s.idx = 0))
    let answer := fun s : Slot => if s.origin = .relay
      then (if (d.neighbour? s.dest).any fun n => n.fresh && !d.avoided n then some s.dest else none) else d.route
    let moved : Slot → Station → Slot := fun s h =>
      let fresh := { s with
        hop := some h, lastHop := h, idx := 0, retries := 0, refusals := 0, restarts := 0, cw := 8, refusalEnd := none }
      if d.holdInForce then { fresh with st := .held, heldFrom := .ready }
      else { fresh with st := .ready, readySince := d.now, onAir := false }
    let e := d.routeEvent st
    e = { d with access := { d.access with routine := e.access.routine }, xfer := { d.xfer with slots := e.xfer.slots } } ∧
    (∀ i, i < 8 →
      (¬asks (d.slot i) → e.slot i = d.slot i) ∧
      (asks (d.slot i) →
        (answer (d.slot i) = none →
          e.slot i = { d.slot i with hop := none, st := .awaitingRoute, refusalEnd := none }) ∧
        ∀ h, answer (d.slot i) = some h →
          ((d.slot i).hop = some h → e.slot i = d.slot i) ∧
          ((d.slot i).hop ≠ some h → e.slot i = moved (d.slot i) h))) ∧
    ∀ it, it ∈ e.access.routine.items ↔ it ∈ d.access.routine.items ∧
      ¬(it.kind = .data ∧ ∃ i, i < 8 ∧ it.owner = .slot i ∧ asks (d.slot i) ∧
        ¬∃ h, answer (d.slot i) = some h ∧ (d.slot i).hop = some h))

/-- INACTIVITY_EXPIRY discards the reassembly entry with its pages, frees its relay slot (a pending report build then
tries the slot, R178) and counts it, one in HAND-OVER WAIT as a relay lost too (R98, R100); RECENT_PAIR_EXPIRY
removes the pair. Both take place at their own moment (the model's choice, log entry 1).
What a DATA burst addressed to the part does by the reassembly rules (R94 to R98): counted and dropped under the
hold or when malformed; a recent pair answered ACCEPTED; a first fragment answered NO-RELAY, FULL (without a grant
being asked for when all four entries are in use: log entry 54) or taken into a new entry, with a RELAY slot
RESERVED when the message is to be forwarded (its length and fragment count 0 until the hand-over: log entry 53),
and completed at once when it is the only fragment; a later fragment stored, repeated or answered UNKNOWN (with
activity for a fragment whose header differs: log entry 20). A completed message becomes a recent pair, the one with
the least time left giving way (R99), and is delivered, handed to the Report Builder as a receipt or a quota notice,
or handed over to its RELAY slot.
When fragment 0 comes again, its entry's RELAY slot is freed, and a waiting catch report tried, before the message
asks for a slot (the model's choice, log entry 74).
An ACK offered while one is still pending in the ANSWER class takes its place: the earlier one is dropped and
counted (R31), and the answer given is counted as ever. -/
def Obligations.ReassemblyTimers : Prop :=
  ((∀ (src num : Nat) (e : Reasm) (t : Time) (s : State), s.dev.resetLow = false → s.dev.reasm? src num = some e →
    e.timer = .running t →
    let discarded : Device := { s.dev with
      now := max s.dev.now t, store := s.dev.store.release e.grant,
      xfer := { s.dev.xfer with
        reasms := s.dev.xfer.reasms.filter fun x => !(x.source == e.source && x.num == e.num),
        counts := { s.dev.xfer.counts with
          inactivity := bump s.dev.xfer.counts.inactivity,
          relaysLost := if e.waiting then bump s.dev.xfer.counts.relaysLost else s.dev.xfer.counts.relaysLost } } }
    (e.relaySlot = none → exec (.inactivityExpiry src num) s = .next { s with dev := discarded.settle }) ∧
    (∀ i, e.relaySlot = some i →
      let freed := Device.slotFreed { discarded with
        xfer := { discarded.xfer with slots := modAt discarded.xfer.slots i fun _ => Slot.free } }
      exec (.inactivityExpiry src num) s = .next { s with dev := freed.settle })) ∧
  (∀ d : Device, (d.rep.st ≠ .none ∨ d.catchAllowed = false ∨ d.rep.pending = none → d.slotFreed = d) ∧
    (∀ k, d.rep.st = .none → d.catchAllowed = true → d.rep.pending = some k →
      d.slotFreed = ({ d with rep := { d.rep with pending := none } }).tryBuild k)) ∧
  (∀ (src num : Nat) (r : Recent) (t : Time) (s : State), s.dev.resetLow = false →
    s.dev.xfer.recents.find? (Device.isPair src num) = some r → r.timer = .running t →
    exec (.recentPairExpiry src num) s = .next { s with dev := Device.settle { s.dev with
      now := max s.dev.now t,
      xfer := { s.dev.xfer with recents := s.dev.xfer.recents.filter fun x => !Device.isPair src num x } } }) ∧
  (∀ (d : Device) (b : Burst) (idx : Nat) (a : AckAnswer), d.access.answer = ⟨[], none⟩ →
    ∃ e : Device, d.answerData b idx a = e ∧
      e.access = { d.access with
        nextOffer := d.access.nextOffer + 1,
        answer := ⟨[{ kind := .ack, dest := b.source, seq := b.seq, body := [idx, a.value], owner := .answer,
                      ready := d.now, cw := 0, ackEnd := b.endTime, order := d.access.nextOffer, blindFrom := d.now,
                      overdue := false }], none⟩ } ∧
      e = { d with access := e.access, xfer := { d.xfer with counts := e.xfer.counts } } ∧
      (a = .accepted → e.xfer.counts = { d.xfer.counts with gaveAccepted := bump d.xfer.counts.gaveAccepted }) ∧
      (a = .full → e.xfer.counts = { d.xfer.counts with gaveFull := bump d.xfer.counts.gaveFull }) ∧
      (a = .noRelay → e.xfer.counts = { d.xfer.counts with gaveNoRelay := bump d.xfer.counts.gaveNoRelay }) ∧
      (a = .unknown → e.xfer.counts = { d.xfer.counts with gaveUnknown := bump d.xfer.counts.gaveUnknown })) ∧
  (∀ (d : Device) (b : Burst),
    (d.holdInForce = true → d.receiveData b = { d with xfer := { d.xfer with
      counts := { d.xfer.counts with heldData := bump d.xfer.counts.heldData } } }) ∧
    (d.holdInForce = false → readDataBody b.body = none → d.receiveData b = { d with xfer := { d.xfer with
      counts := { d.xfer.counts with malformed := bump d.xfer.counts.malformed } } }) ∧
    ∀ h text, d.holdInForce = false → readDataBody b.body = some (h, text) →
      ((∃ r ∈ d.xfer.recents, r.source = b.source ∧ r.num = b.seq) →
        d.receiveData b = d.answerData b h.idx .accepted) ∧
      ((∀ r ∈ d.xfer.recents, r.source ≠ b.source ∨ r.num ≠ b.seq) →
        let forwards := d.config.message = true ∧ d.relayAvailable = true ∧
          ∃ n, d.neighbour? h.dest = some n ∧ n.fresh = true ∧ n.kind = .port
        let entry := fun slot : Option Nat =>
          { source := b.source, num := b.seq, cls := h.cls, dest := h.dest, orig := h.orig, cnt := h.cnt, next := 1,
            grant := d.store.nextId, len := text.length, lastActivity := b.endTime,
            timer := .running (b.endTime + 120000), relaySlot := slot, waiting := false, doneAt := 0 : Reasm }
        let taken := fun d : Device =>
          let e := d.answerData b 0 .accepted
          if h.cnt = 1 then e.completeMessage b.source b.seq else e
        (d.reasm? b.source b.seq = none →
          (h.idx ≠ 0 → d.receiveData b = d.answerData b h.idx .unknown) ∧
          (h.idx = 0 → h.dest ≠ d.config.own → ¬forwards → d.receiveData b = d.answerData b 0 .noRelay) ∧
          (h.idx = 0 → h.dest = d.config.own ∨ forwards → 4 ≤ d.xfer.reasms.length →
            d.receiveData b = d.answerData b 0 .full) ∧
          (h.idx = 0 → h.dest = d.config.own ∨ forwards → d.xfer.reasms.length < 4 →
            ∀ r y, d.store.reserve .inbound (h.cnt * 111) = (r, y) →
            (r ≠ .granted d.store.nextId → d.receiveData b = Device.answerData { d with store := y } b 0 .full) ∧
            (r = .granted d.store.nextId →
              (h.dest = d.config.own → d.receiveData b = taken { d with
                store := y.writeSyms d.store.nextId 0 text,
                xfer := { d.xfer with reasms := d.xfer.reasms ++ [entry none] } }) ∧
              (∀ i, h.dest ≠ d.config.own → d.freeSlot? = some i → d.receiveData b = taken { d with
                store := y.writeSyms d.store.nextId 0 text,
                xfer := { d.xfer with
                  nextNum := (d.nextNumber + 1) % 64,
                  slots := modAt d.xfer.slots i fun _ => { Slot.free with
                    st := .reserved, origin := .relay, num := d.nextNumber, cls := h.cls, dest := h.dest,
                    orig := h.orig, lifetimeEnd := d.now + 43200000 },
                  reasms := d.xfer.reasms ++ [entry (some i)] } })))) ∧
        (∀ e, d.reasm? b.source b.seq = some e →
          let touched := fun x : Reasm => { x with lastActivity := b.endTime, timer := .running (b.endTime + 120000) }
          let onEntry := fun (f : Reasm → Reasm) (y : Store) => { d with
            store := y,
            xfer := { d.xfer with
              reasms := d.xfer.reasms.map fun x => if x.source = b.source ∧ x.num = b.seq then f x else x } }
          let same := e.cnt = h.cnt ∧ e.cls = h.cls ∧ e.dest = h.dest ∧ e.orig = h.orig
          let dropped := { d with
            store := d.store.release e.grant,
            xfer := { d.xfer with
              reasms := d.xfer.reasms.filter fun x => !(x.source == e.source && x.num == e.num) } }
          (h.idx = 0 → e.relaySlot = none → d.receiveData b = dropped.openReasm b h text) ∧
          (∀ i, h.idx = 0 → e.relaySlot = some i → d.receiveData b = Device.openReasm (Device.slotFreed { dropped with
            xfer := { dropped.xfer with slots := modAt dropped.xfer.slots i fun _ => Slot.free } }) b h text) ∧
          (h.idx ≠ 0 → h.idx = e.next → same →
            let stored := Device.answerData (onEntry (fun x => { touched x with
              len := x.len + text.length, next := x.next + 1 }) (d.store.writeSyms e.grant (111 * h.idx) text))
              b h.idx .accepted
            d.receiveData b = if h.idx + 1 = h.cnt then stored.completeMessage b.source b.seq else stored) ∧
          (h.idx ≠ 0 → h.idx = e.next → ¬same →
            d.receiveData b = Device.answerData (onEntry touched d.store) b h.idx .unknown) ∧
          (h.idx ≠ 0 → h.idx + 1 = e.next →
            d.receiveData b = Device.answerData (onEntry touched d.store) b h.idx .accepted) ∧
          (h.idx ≠ 0 → h.idx ≠ e.next → h.idx + 1 ≠ e.next →
            d.receiveData b = d.answerData b h.idx .unknown)))) ∧
  (∀ (d : Device) (src num : Nat),
    let pair : Recent := ⟨src, num, .running (d.now + 600000)⟩
    (d.xfer.recents.length < 8 → d.enterRecent src num = { d with xfer := { d.xfer with
      recents := d.xfer.recents ++ [pair] } }) ∧
    (8 ≤ d.xfer.recents.length → (∃ r ∈ d.xfer.recents, d.handOverWaits r = false) →
      ∃ r ∈ d.xfer.recents, d.handOverWaits r = false ∧
        (∀ x ∈ d.xfer.recents, d.handOverWaits x = false → r.timer.left d.now ≤ x.timer.left d.now) ∧
        d.enterRecent src num = { d with xfer := { d.xfer with
          recents := (d.xfer.recents.filter fun x => !(x.source == r.source && x.num == r.num)) ++ [pair] } })) ∧
  (∀ (d : Device) (src num : Nat) (e : Reasm), d.reasm? src num = some e →
    let m := d.enterRecent src num
    let freed := { m with xfer := { m.xfer with
      reasms := d.xfer.reasms.filter fun x => !(x.source == src && x.num == num) } }
    (e.dest = d.config.own →
      (e.cls = .text ∨ e.cls = .catchReport → d.console.general.entries.length < 24 →
        d.completeMessage src num = { freed with console := { d.console with
          deliveries := d.console.deliveries ++
            [⟨d.console.nextDelivery, e.source, e.orig, e.cls, e.num, e.len, e.grant⟩],
          nextDelivery := d.console.nextDelivery + 1,
          general := { d.console.general with entries := d.console.general.entries ++
            [⟨.delivery, 0, .delivery d.console.nextDelivery, 0⟩] } } }) ∧
      (e.cls = .receipt →
        d.completeMessage src num = freed.receipt ⟨e.source, e.orig, e.cls, e.num, e.len, e.grant⟩) ∧
      (e.cls = .quota →
        d.completeMessage src num = freed.quotaNotice ⟨e.source, e.orig, e.cls, e.num, e.len, e.grant⟩)) ∧
    ∀ i y, e.dest ≠ d.config.own → e.relaySlot = some i → i < d.xfer.slots.length → (d.slot i).origin = .relay →
      (d.store.handOver e.grant .outbound = (false, y) →
        d.completeMessage src num = { m with
          store := y,
          xfer := { m.xfer with reasms := d.xfer.reasms.map fun x =>
            if x.source = src ∧ x.num = num then { x with doneAt := d.now, waiting := true } else x } }) ∧
      (d.store.handOver e.grant .outbound = (true, y) →
        ∃ f : Device, d.completeMessage src num = f ∧ f.store = y ∧ f.reasm? src num = none ∧
          (f.slot i).grant = some e.grant ∧ (f.slot i).len = e.len ∧ (f.slot i).cnt = (e.len + 110) / 111 ∧
          (f.slot i).cls = e.cls ∧ (f.slot i).dest = e.dest ∧ (f.slot i).orig = e.orig ∧ (f.slot i).idx = 0 ∧
          (f.slot i).num = (d.slot i).num ∧ (f.slot i).lifetimeEnd = (d.slot i).lifetimeEnd ∧
          ((f.slot i).st = .awaitingRoute ∨ (f.slot i).hop = some e.dest ∧
            (f.slot i).st = (if d.holdInForce then .held else .ready))))) ∧
  ∀ (d : Device) (b : Burst) (idx : Nat) (a : AckAnswer), d.access.answer.items ≠ [] →
    ∃ e : Device, d.answerData b idx a = e ∧
      e.access = { d.access with
        nextOffer := d.access.nextOffer + 1,
        counts := { d.access.counts with acksDropped := bump d.access.counts.acksDropped },
        answer := ⟨[{ kind := .ack, dest := b.source, seq := b.seq, body := [idx, a.value], owner := .answer,
                      ready := d.now, cw := 0, ackEnd := b.endTime, order := d.access.nextOffer, blindFrom := d.now,
                      overdue := false }], none⟩ } ∧
      e = { d with access := e.access, xfer := { d.xfer with counts := e.xfer.counts } } ∧
      e.xfer.counts = (match a with
        | .accepted => { d.xfer.counts with gaveAccepted := bump d.xfer.counts.gaveAccepted }
        | .full => { d.xfer.counts with gaveFull := bump d.xfer.counts.gaveFull }
        | .noRelay => { d.xfer.counts with gaveNoRelay := bump d.xfer.counts.gaveNoRelay }
        | .unknown => { d.xfer.counts with gaveUnknown := bump d.xfer.counts.gaveUnknown })

/-! ## Distress -/

/-- DISTRESS with the own alert IDLE: TAKEN, ALERTING with the next alert number, the hold in force, OWN ALERT STATE
queued, a loop test abandoned, a PRIORITY or ROUTINE burst on air preempted (R32), and a DISTRESS item offered. With the
alert ALERTING or ACKNOWLEDGED: TAKEN, ALERTING with the same number and the new nature and persons; a waiting own item
keeps its place with the new body (its position too: the model's choice, log entry 58), an own burst on air is followed
by a repeat at once, and without an own item one is offered. A nature above 9 or persons of 63 to 254 is refused with
RANGE, and CANCELLING with STATE.
CANCEL in ALERTING or ACKNOWLEDGED is TAKEN: CANCELLING, cancel count 0, no repeat due, and with no own burst on
air a CANCEL item offered in place of every own item; in IDLE or CANCELLING it is refused with STATE.
An own request that abandons a loop test queues LOOP RESULT with the verdict ABANDONED (R50).
What the hold does when it begins (R101, R127): READY transfers off the air, those that await an ACK and those that wait
after a refusal go to HELD, the paused times stop, beacons leave the queue, and HOLD STARTED is queued. -/
def Obligations.OwnAlertOrders : Prop :=
  (∀ (tag nature persons : Nat) (s : State), s.dev.live = true →
    let c := s.dev.completeExchange
    let aboard := if persons = 255 then none else some persons
    let body := distressBody ⟨nature, c.console.fix.map fun f => (f.lat, f.lon),
      c.console.fix.map fun f => (f.hour, f.minute), aboard⟩
    (nature ≤ 9 → persons ≤ 62 ∨ persons = 255 → c.distress.own.st = .idle →
      ∃ d : Device, exec (.distress tag nature persons) s = .next { s with dev := (d.echo tag .taken).settle } ∧
        d.distress.own.st = .alerting ∧ d.distress.own.num = (c.distress.own.num + 1) % 64 ∧
        d.distress.own.nature = nature ∧ d.distress.own.persons = aboard ∧
        d.distress.own.cancelCount = 0 ∧ d.distress.own.ackedBy = none ∧ d.holdInForce = true ∧
        (c.holdInForce = false → d.distress.holdSince = some c.now) ∧
        (∃ it ∈ d.access.distress.waiting, it.kind = .distress ∧ it.owner = .own ∧ it.dest = 262143 ∧
          it.seq = d.distress.own.num ∧ it.body = body ∧ it.ready = c.now) ∧
        (c.console.distress.entries.length < 8 → OwedRef.ownAlert ∉ c.console.distress.owed →
          ⟨.ownAlertState, 0, .report (d.ownAlertData .started d.distress.own.num 0), 0⟩ ∈ d.console.distress.entries) ∧
        d.loop.st = .idle ∧
        (∀ a, c.access.onAir = some a → a.item.kind.cls = .routine ∨ a.item.kind.cls = .priority →
          d.keyLine = false ∧ d.tx = none ∧ d.access.chan = .clear ∧ d.access.clearSince = some c.now ∧
          d.access.counts.preemptions = bump c.access.counts.preemptions) ∧
        (∀ a, c.access.onAir = some a → a.item.kind.cls = .answer ∨ a.item.kind.cls = .distress →
          d.access.onAir = some a ∧ d.tx = c.tx)) ∧
    (nature ≤ 9 → persons ≤ 62 ∨ persons = 255 →
      c.distress.own.st = .alerting ∨ c.distress.own.st = .acknowledged →
      ∃ d : Device, exec (.distress tag nature persons) s = .next { s with dev := (d.echo tag .taken).settle } ∧
        d.distress.own.st = .alerting ∧ d.distress.own.num = c.distress.own.num ∧ d.distress.own.nature = nature ∧
        d.distress.own.persons = aboard ∧ d.distress.own.ackedBy = none ∧
        (c.access.onAir = none → d.store = c.store ∧ d.log = c.log) ∧
        (c.ownOnAir = true → d.distress.own.repeatAsked = true ∧ d.access = c.access) ∧
        (c.ownOnAir = false →
          (∃ it ∈ d.access.distress.items, it.owner = .own) ∧
          (∀ it ∈ d.access.distress.items, it.owner = .own → it.body = body) ∧
          ((∃ it ∈ c.access.distress.items, it.owner = .own) →
            d.access = { c.access with distress :=
              { waiting := c.access.distress.waiting.map fun it => if it.owner = .own then { it with body := body } else it,
                contender := c.access.distress.contender.map fun k =>
                  if k.item.owner = .own then { k with item := { k.item with body := body } } else k } }) ∧
          ((∀ it ∈ c.access.distress.items, it.owner ≠ .own) →
            d.distress.own.repeatDue = none ∧
            ∃ it ∈ d.access.distress.waiting, it.kind = .distress ∧ it.owner = .own ∧ it.dest = 262143 ∧
              it.seq = c.distress.own.num ∧ it.ready = c.now))) ∧
    (9 < nature ∨ (persons ≠ 255 ∧ 62 < persons) →
      exec (.distress tag nature persons) s = .next { s with dev := (c.echo tag .range).settle }) ∧
    (nature ≤ 9 → persons ≤ 62 ∨ persons = 255 → c.distress.own.st = .cancelling →
      exec (.distress tag nature persons) s = .next { s with dev := (c.echo tag .state).settle })) ∧
  (∀ (tag : Nat) (s : State), s.dev.live = true →
      let c := s.dev.completeExchange
      (c.distress.own.st = .alerting ∨ c.distress.own.st = .acknowledged →
        ∃ d : Device, exec (.cancel tag) s = .next { s with dev := (d.echo tag .taken).settle } ∧
          d.distress.own.st = .cancelling ∧ d.distress.own.cancelCount = 0 ∧ d.distress.own.repeatDue = none ∧
          d.distress.own.num = c.distress.own.num ∧
          (c.ownOnAir = true → d.access = c.access) ∧
          (c.ownOnAir = false →
            (∀ it ∈ d.access.distress.items, it.owner = .own →
              it.kind = .cancel ∧ it.body = [] ∧ it.seq = c.distress.own.num) ∧
            ∃ it ∈ d.access.distress.waiting, it.kind = .cancel ∧ it.owner = .own ∧ it.body = [] ∧
              it.seq = c.distress.own.num)) ∧
      (c.distress.own.st = .idle ∨ c.distress.own.st = .cancelling →
        exec (.cancel tag) s = .next { s with dev := (c.echo tag .state).settle })) ∧
  (∀ d : Device, d.loop.st ≠ .idle → OwedRef.loop ∉ d.console.general.owed → d.console.general.entries.length < 24 →
      (∀ a, d.access.onAir = some a → a.item.kind.cls = .answer ∨ a.item.kind.cls = .distress) →
      d.offerOwn.loop = { d.loop with st := .idle } ∧ d.offerOwn.console.general.entries = d.console.general.entries ++
        [⟨.loopResult, d.loop.tag.getD 0, .report [.num 1 2, .num 2 0, .num 1 1], 0⟩]) ∧
  (∀ (d : Device) (cause : Nat) (st : Station), d.xfer.slots.length = 8 → (∀ i, i < 8 → (d.slot i).pendingEnd = none) →
      d.loop.st ≠ .waiting →
      let e := d.startHold cause st
      e.distress.holdSince = some d.now ∧
      (∀ i, i < 8 →
        ((d.slot i).st = .ready ∧ (d.slot i).onAir = false ∨ (d.slot i).st = .awaitingAck ∨ (d.slot i).st = .refusalWait →
          e.slot i = { d.slot i with
            st := .held, heldFrom := (d.slot i).st, onAir := false, ackDue := none, ackWaiting := false,
            heldRefusal := (match (d.slot i).refusalEnd with | none => 0 | some t => t - d.now), refusalEnd := none }) ∧
        ((d.slot i).st = .ready ∧ (d.slot i).onAir = true ∨ (d.slot i).st = .free ∨ (d.slot i).st = .reserved ∨
          (d.slot i).st = .awaitingRoute ∨ (d.slot i).st = .outcomeOwed → e.slot i = d.slot i)) ∧
      e.xfer.reasms = d.xfer.reasms.map (fun x => { x with timer := .paused (x.timer.left d.now) }) ∧
      e.xfer.recents = d.xfer.recents.map (fun x => { x with timer := .paused (x.timer.left d.now) }) ∧
      (∀ x, d.rep.deadline = some x → e.rep.deadline = some (.paused (x.left d.now))) ∧
      (∀ it ∈ e.access.routine.items, it ∈ d.access.routine.items ∧ it.kind ≠ .beacon) ∧
      (d.console.distress.entries.length < 8 → OwedRef.hold ∉ d.console.distress.owed →
        e.console.distress.entries = d.console.distress.entries ++
          [⟨.holdStarted, 0, .report [.num 1 cause, .num 3 st,
            .num 2 (match d.distress.holdTimer with | none => 0 | some t => min 65535 ((t - d.now) / 1000))], 0⟩]))

/-- CLOSE_CASE: BAD PARAM for a station of 0 or ALL, NO CASE, STATE for a CLOSED case; else the case goes to CLOSED with
reason HOST, its wait is dropped and its items withdrawn. ACK_CASE of a case that is not CLOSED is TAKEN: with its
own acknowledgement OFFERED nothing changes; else the case is ACKED, an UNACKED one by the part itself, a
DISTRESS-ACK item is offered, and its wait, its relay item and its relay state are settled (R121). Received distress
traffic (R115): counted, the hold timer restarted, and judged on the station it concerns (that an erased symbol 63
in the station field makes it unattributable is the model's reading, log entry 13), then the case table (R116,
R117), the relay wait (R123), an acknowledgement of a case (R118), a CANCEL (R119), a relay heard (R124), the
settled list (R124), and traffic that names the part itself (R112; its pair entered, log entry 26; the station heard
in the OLD ACK report, log entry 16).
With all 8 relay waits in use and a WARNING wait among them, a DISTRESS wait displaces the WARNING wait of the
latest expiry: its record's relay is NONE again, the refusal is counted, and the DISTRESS wait is taken (R74). A
DISTRESS-RELAY heard makes the OFFERED relay state of a CLOSED case SUPPRESSED too (the model's choice, log entry
79). -/
def Obligations.CaseOrders : Prop :=
  ((∀ (tag st : Nat) (s : State), s.dev.live = true →
      let c := s.dev.completeExchange
      (st = 0 ∨ 262143 ≤ st →
        exec (.closeCase tag st) s = .next { s with dev := (c.echo tag .badParam).settle } ∧
        exec (.ackCase tag st) s = .next { s with dev := (c.echo tag .badParam).settle }) ∧
      (1 ≤ st → st < 262143 → c.case? st = none →
        exec (.closeCase tag st) s = .next { s with dev := (c.echo tag .noCase).settle } ∧
        exec (.ackCase tag st) s = .next { s with dev := (c.echo tag .noCase).settle }) ∧
      (1 ≤ st → st < 262143 → ∀ x, c.case? st = some x →
        (x.st = .closed → exec (.closeCase tag st) s = .next { s with dev := (c.echo tag .state).settle }) ∧
        (x.st = .closed → exec (.ackCase tag st) s = .next { s with dev := (c.echo tag .noCase).settle }) ∧
        (x.st ≠ .closed →
          ∃ d : Device, exec (.closeCase tag st) s = .next { s with dev := (d.echo tag .taken).settle } ∧
            (∃ y, d.case? st = some y ∧ y.st = .closed ∧ y.closeReason = some .host ∧ y.alert = x.alert) ∧
            d.wait? .distress st x.alert = none ∧
            (∀ it ∈ d.access.distress.items, it.owner ≠ .caseAck st x.alert ∧ it.owner ≠ .caseRelay st x.alert) ∧
            d.store = c.store ∧ d.log = c.log) ∧
        (x.st ≠ .closed → x.ownAck = .offered →
          exec (.ackCase tag st) s = .next { s with dev := (c.echo tag .taken).settle }) ∧
        (x.st ≠ .closed → x.ownAck ≠ .offered →
          ∃ d : Device, exec (.ackCase tag st) s = .next { s with dev := (d.echo tag .taken).settle } ∧
            (∃ y, d.case? st = some y ∧ y.st = .acked ∧ y.ownAck = .offered ∧ y.alert = x.alert ∧
              y.relay = (if x.relay = .relayed then .relayed else .suppressed) ∧
              (x.st = .unacked → y.ackedBy = some .own)) ∧
            (∃ it ∈ d.access.distress.waiting, it.kind = .distressAck ∧ it.owner = .caseAck st x.alert ∧
              it.dest = 262143 ∧ it.seq = x.alert ∧ it.body = toSyms 3 st ∧ it.ready = c.now) ∧
            (∀ it ∈ d.access.distress.items, it.owner ≠ .caseRelay st x.alert) ∧
            d.wait? .distress st x.alert = none))) ∧
  (∀ (d : Device) (b : Burst),
    let named := symsAt b.body 0 3
    let clean := (b.erasures = 0 ∨ 63 ∉ b.body.take 3) ∧ 1 ≤ named ∧ named < 262143
    let facts := if b.pass then
        (if b.kind = .distress then readDistressBody b.body else readDistressBody (b.body.drop 3)) else none
    let counted := { d with distress := { d.distress with
      counts := { d.distress.counts with heard := bump d.distress.counts.heard } } }
    let unplaced := fun cause : Nat =>
      let e := Device.restartHold counted cause 0
      { e with distress := { e.distress with
        counts := { e.distress.counts with unattributed := bump e.distress.counts.unattributed } } }
    let heard := fun (cause : Nat) (st : Station) (readable : Bool) =>
      let e := Device.restartHold counted cause st
      if readable then e else { e with distress := { e.distress with
        counts := { e.distress.counts with unreadable := bump e.distress.counts.unreadable } } }
    (b.kind = .distress → b.source ≠ d.config.own → d.receiveDistress b
      = ((heard 1 b.source facts.isSome).applyAlert b.source b.seq facts none).examineCase b.source) ∧
    (b.kind = .distressAck → ¬(b.body.length = 3 ∧ clean) → d.receiveDistress b = unplaced 2) ∧
    (b.kind = .distressAck → b.body.length = 3 → clean →
      (named ≠ d.config.own → d.receiveDistress b = (heard 2 named b.pass).distressAckHeard named b) ∧
      (named = d.config.own → d.receiveDistress b = (heard 2 named b.pass).ownNamed b)) ∧
    (b.kind = .distressRelay → ¬(3 ≤ b.body.length ∧ clean) → d.receiveDistress b = unplaced 3) ∧
    (b.kind = .distressRelay → 3 ≤ b.body.length → clean →
      (named ≠ d.config.own → d.receiveDistress b
        = ((heard 3 named facts.isSome).distressRelayHeard named b.seq).applyAlert named b.seq facts (some b.source)) ∧
      (named = d.config.own → d.receiveDistress b = (heard 3 named facts.isSome).ownNamed b)) ∧
    (b.kind = .cancel → b.source ≠ d.config.own →
      let readable := b.pass && b.body.isEmpty
      d.receiveDistress b = (heard 4 b.source readable).cancelHeard b readable)) ∧
  (∀ (d : Device) (cause : Nat) (st : Station),
    let timed := { d with distress := { d.distress with holdTimer := some (d.now + d.config.hold * 60000) } }
    d.restartHold cause st = if d.holdInForce then timed else timed.startHold cause st) ∧
  (∀ (d : Device) (b : Burst), d.console.distress.entries.length < 8 → OwedRef.ownAlert ∉ d.console.distress.owed →
    let own := d.distress.own
    let m := (d.removeWait .distress d.config.own b.seq).enterSettled d.config.own b.seq
    let told := fun (e : Device) (x : List Datum) => { e with console := { e.console with
      distress := { e.console.distress with
        entries := e.console.distress.entries ++ [⟨.ownAlertState, 0, .report x, 0⟩] } } }
    (b.kind = .distressAck → b.pass = false → d.ownNamed b = m) ∧
    (b.kind = .distressAck → b.pass = true → own.st = .alerting → own.num = b.seq →
      let e := { m with
        distress := { m.distress with own := { own with
          st := .acknowledged, ackedBy := some b.source, repeatDue := none } },
        access := { m.access with distress := m.access.distress.withdraw fun it => it.owner == .own } }
      d.ownNamed b = told e (e.ownAlertData .acknowledged own.num b.source)) ∧
    (b.kind = .distressAck → b.pass = true → own.st = .acknowledged ∨ own.st = .cancelling → own.num = b.seq →
      d.ownNamed b = told m (m.ownAlertData .ackHeard own.num b.source)) ∧
    (b.kind = .distressAck → b.pass = true → own.st = .idle ∨ own.num ≠ b.seq →
      d.ownNamed b = told m (m.ownAlertData .oldAck b.seq b.source)) ∧
    (b.kind = .distressRelay → own.st ≠ .idle → own.num = b.seq →
      d.ownNamed b = told d (d.ownAlertData .relayed b.seq b.source)) ∧
    (b.kind = .distressRelay → own.st = .idle ∨ own.num ≠ b.seq → d.ownNamed b = d)) ∧
  (∀ (d : Device) (st alert : Nat) (facts : Option DistressFacts) (via : Option Station),
    d.console.distress.entries.length < 8 → OwedRef.caseOf st ∉ d.console.distress.owed →
    let fresh : Case :=
      { station := st, alert := alert, nature := (facts.map fun f => f.nature).getD 0,
        pos := facts.bind fun f => f.pos, posTime := facts.bind fun f => f.posTime,
        persons := facts.bind fun f => f.persons, firstHeard := d.now, lastHeard := d.now, via := via,
        readable := facts.isSome, st := .unacked, ackedBy := none, closeReason := none,
        relay := if (st, alert) ∈ d.distress.settled then .suppressed else .none, ownAck := .none }
    let told := fun (e : Device) (c : Case) (event : CaseEvent) => { e with console := { e.console with
      distress := { e.console.distress with entries :=
        e.console.distress.entries ++ [⟨.caseUpdate, 0, .report (e.caseData c event), 0⟩] } } }
    let withCases := fun (cases : List Case) => { d with distress := { d.distress with cases := cases } }
    let setTo := fun c : Case => d.distress.cases.map fun x => if x.station = st then c else x
    (d.case? st = none → d.distress.cases.length < 6 →
      d.applyAlert st alert facts via = told (withCases (d.distress.cases ++ [fresh])) fresh .created) ∧
    (d.case? st = none → 6 ≤ d.distress.cases.length → (∀ c ∈ d.distress.cases, c.st = .unacked) →
      d.applyAlert st alert facts via = { d with
        distress := { d.distress with
          counts := { d.distress.counts with notRecorded := bump d.distress.counts.notRecorded } },
        console := { d.console with distress := { d.console.distress with
          entries := d.console.distress.entries ++ [⟨.distressHeard, 0, .report
            [.num 3 st, .num 1 alert, .num 1 fresh.nature, .num 1 (if facts.isSome then 1 else 0),
             .num 3 (via.getD 0)], 0⟩] } } }) ∧
    (∀ c, d.case? st = some c → c.alert = alert →
      let better := match facts with
        | none => c
        | some f => { c with
            nature := f.nature, pos := f.pos, posTime := f.posTime, persons := f.persons, readable := true }
      let heard := { better with
        lastHeard := d.now, via := if via = none ∨ c.via = none then none else via }
      (c.st ≠ .closed → heard ≠ { c with lastHeard := d.now } →
        d.applyAlert st alert facts via = told (withCases (setTo heard)) heard .facts) ∧
      (c.st ≠ .closed → heard = { c with lastHeard := d.now } →
        d.applyAlert st alert facts via = withCases (setTo heard)) ∧
      (c.st = .closed → c.closeReason = some .cancelled →
        ∃ y, (d.applyAlert st alert facts via).case? st = some y ∧ y = { c with lastHeard := d.now } ∧
          (d.applyAlert st alert facts via).console = d.console) ∧
      (c.st = .closed → c.closeReason ≠ some .cancelled →
        let opened := { heard with st := .unacked, closeReason := none, ackedBy := none, ownAck := .none }
        d.applyAlert st alert facts via = told (withCases (setTo opened)) opened .reopened)) ∧
    (∀ c, d.case? st = some c → c.alert ≠ alert →
      ∃ e : Device, d.applyAlert st alert facts via = told e fresh .newAlert ∧ e.case? st = some fresh ∧
        (∀ st', st' ≠ st → e.case? st' = d.case? st') ∧ e.wait? .distress st c.alert = none ∧
        (∀ it ∈ e.access.distress.items, it.owner ≠ .caseAck st c.alert ∧ it.owner ≠ .caseRelay st c.alert) ∧
        e.console = d.console ∧ e.store = d.store ∧ e.xfer = d.xfer)) ∧
  (∀ (d : Device) (st : Station),
    (∀ c, d.case? st = some c →
      let wanted := d.config.distress = true ∧ c.st = .unacked ∧ c.readable = true ∧ c.relay = .none ∧
        d.distress.settled.length < 64
      (¬wanted → d.examineCase st = d) ∧
      (wanted → d.wait? .distress st c.alert = none → d.waits.length < 8 →
        d.examineCase st = { d with
          draws := d.draws + 1,
          waits := d.waits ++
            [⟨.distress, st, c.alert, d.now + (60 + Config.draw d.draws % 121) * 1000, false⟩],
          distress := { d.distress with cases := d.distress.cases.map fun x =>
            if x.station = st then { x with relay := .waiting } else x } }) ∧
      (wanted → d.wait? .distress st c.alert = none → 8 ≤ d.waits.length → (∀ w ∈ d.waits, w.kind = .distress) →
        d.examineCase st = { d with neigh := { d.neigh with
          counts := { d.neigh.counts with waitRefusals := bump d.neigh.counts.waitRefusals } } }))) ∧
  (∀ (d : Device) (st : Station) (b : Burst), d.console.distress.entries.length < 8 →
    OwedRef.caseOf st ∉ d.console.distress.owed → d.distress.settled.length < 63 →
    let e := d.distressAckHeard st b
    (st, b.seq) ∈ e.distress.settled ∧ e.wait? .distress st b.seq = none ∧
    (∀ c, d.case? st = some c → c.alert ≠ b.seq →
      e.case? st = some { c with lastHeard := d.now } ∧ e.console = d.console ∧ e.access = d.access) ∧
    ∀ c, d.case? st = some c → c.alert = b.seq →
      let quiet := { c with lastHeard := d.now, relay := if c.relay = .relayed then .relayed else .suppressed }
      (∀ it ∈ e.access.distress.items, it.owner ≠ .caseRelay st b.seq) ∧
      (c.st = .unacked → b.pass = true →
        e.case? st = some { quiet with st := .acked, ackedBy := some (.station b.source) } ∧
        e.console.distress.entries = d.console.distress.entries ++ [⟨.caseUpdate, 0, .report
          (d.caseData { quiet with st := .acked, ackedBy := some (.station b.source) } .acked), 0⟩]) ∧
      (c.st ≠ .unacked ∨ b.pass = false → e.case? st = some quiet ∧ e.console = d.console)) ∧
  (∀ (d : Device) (b : Burst) (readable : Bool),
    (d.case? b.source = none → d.cancelHeard b readable = d) ∧
    ∀ c, d.case? b.source = some c →
      let e := d.cancelHeard b readable
      (readable = false ∨ c.alert ≠ b.seq ∨ c.st = .closed →
        e.case? b.source = some { c with lastHeard := d.now } ∧ e.console = d.console ∧ e.access = d.access ∧
        e.waits = d.waits) ∧
      (readable = true → c.alert = b.seq → c.st ≠ .closed →
        (∃ y, e.case? b.source = some y ∧ y.st = .closed ∧ y.closeReason = some .cancelled ∧ y.lastHeard = d.now) ∧
        e.wait? .distress b.source c.alert = none ∧
        (∀ it ∈ e.access.distress.items,
          it.owner ≠ .caseAck b.source c.alert ∧ it.owner ≠ .caseRelay b.source c.alert) ∧
        (d.console.distress.entries.length < 8 → OwedRef.caseOf b.source ∉ d.console.distress.owed →
          e.console.distress.entries = d.console.distress.entries ++
            [⟨.caseClosed, 0, .report [.num 3 b.source, .num 1 c.alert, .num 1 0], 0⟩]) ∧
        (d.distress.own.st = .idle → (∀ x ∈ d.distress.cases, x.station ≠ b.source → x.st = .closed) →
          e.distress.holdTimer = d.distress.holdTimer.map fun t => min t (d.now + 60000)))) ∧
  (∀ (d : Device) (st alert : Nat),
    ((st, alert) ∈ d.distress.settled ∨ 64 ≤ d.distress.settled.length → d.enterSettled st alert = d) ∧
    ((st, alert) ∉ d.distress.settled → d.distress.settled.length < 63 → d.enterSettled st alert = { d with
      distress := { d.distress with settled := d.distress.settled ++ [(st, alert)] } }) ∧
    ((st, alert) ∉ d.distress.settled → d.distress.settled.length = 63 → d.enterSettled st alert = { d with
      waits := d.waits.filter fun w => w.kind != .distress,
      access := { d.access with
        distress := d.access.distress.withdraw fun it => it.kind == .distressRelay },
      distress := { d.distress with
        settled := d.distress.settled ++ [(st, alert)],
        cases := d.distress.cases.map fun c =>
          if c.relay = .waiting ∨ c.relay = .offered then { c with relay := .suppressed } else c } })) ∧
  (∀ (d : Device) (st alert : Nat),
    let e := d.distressRelayHeard st alert
    e.wait? .distress st alert = none ∧ e.console = d.console ∧
    (∀ c, d.case? st = some c → c.alert = alert →
      ((d.wait? .distress st alert).isSome = true ∨ c.relay = .offered →
        e.case? st = some { c with relay := if c.relay = .relayed then .relayed else .suppressed } ∧
        ∀ it ∈ e.access.distress.items, it.owner ≠ .caseRelay st alert) ∧
      (d.wait? .distress st alert = none → c.relay ≠ .offered →
        e.case? st = some c ∧ e.access = d.access))) ∧
  (∀ (d : Device) (st alert : Nat) (facts : Option DistressFacts) (via : Option Station),
      let e := d.applyAlert st alert facts via
      d.case? st = none → 6 ≤ d.distress.cases.length → (∃ c ∈ d.distress.cases, c.st ≠ .unacked) →
      ∃ c ∈ d.distress.cases,
        ((c.st = .closed ∨ c.st = .acked ∧ ∀ x ∈ d.distress.cases, x.st ≠ .closed) ∧
          ∀ x ∈ d.distress.cases, x.st = c.st →
            c.lastHeard < x.lastHeard ∨ c.lastHeard = x.lastHeard ∧ c.station ≤ x.station) ∧
        e.case? st = some (d.freshCase st alert facts via) ∧ e.case? c.station = none ∧
        (∀ s, s ≠ st → s ≠ c.station → e.case? s = d.case? s) ∧
        e.wait? .distress c.station c.alert = none ∧
        (∀ it ∈ e.access.distress.items,
          it.owner ≠ .caseAck c.station c.alert ∧ it.owner ≠ .caseRelay c.station c.alert) ∧
        (d.console.distress.entries.length < 7 → d.console.distress.owed = [] →
          let made := ⟨.caseUpdate, 0, .report (d.caseData (d.freshCase st alert facts via) .created), 0⟩
          e.console.distress.entries = d.console.distress.entries ++
            if c.st = .closed then [made]
            else [⟨.caseClosed, 0, .report [.num 3 c.station, .num 1 c.alert, .num 1 3], 0⟩, made]))) ∧
  ∀ (d : Device) (st : Station) (c : Case), d.case? st = some c → d.config.distress = true → c.st = .unacked →
    c.readable = true → c.relay = .none → d.distress.settled.length < 64 → d.wait? .distress st c.alert = none →
    8 ≤ d.waits.length → (∃ w ∈ d.waits, w.kind = .warning) →
    ∃ w ∈ d.waits, w.kind = .warning ∧ (∀ x ∈ d.waits, x.kind = .warning → x.expiry ≤ w.expiry) ∧
      d.examineCase st = { d with
        draws := d.draws + 1,
        neigh := { d.neigh with counts := { d.neigh.counts with waitRefusals := bump d.neigh.counts.waitRefusals } },
        waits := (d.waits.filter fun x => !(x.kind == .warning && x.station == w.station && x.number == w.number)) ++
          [⟨.distress, st, c.alert, d.now + (60 + Config.draw d.draws % 121) * 1000, false⟩],
        weather := { d.weather with warnings := d.weather.warnings.map fun x =>
          if x.issuer = w.station ∧ x.issue = w.number then { x with relay := .none } else x },
        distress := { d.distress with cases := d.distress.cases.map fun x =>
          if x.station = st then { x with relay := .waiting } else x } }

/-- FLUSH under the hold is TAKEN, and without it refused with NO HOLD (R128). The pending ACK and the DATA item are
withdrawn, each reassembly entry is discarded in turn with its grant released, its RESERVED relay slot freed and a
HAND-OVER WAIT counted as a relay lost, and then each slot that was not FREE, RESERVED or OUTCOME OWED ends FLUSHED
in slot order (R104). Entries before slots and slots in their order are the model's choice (log entries 39 and 56).
A slot that ends FLUSHED: its pages are released and the outcome counted; a CONSOLE transfer's TRANSFER OUTCOME is
queued, or owed in a full lane, and a CATCH one is handed to the Report Builder (R92). A catch report that waits for
a slot may be built as a slot is freed (R178), and the FLUSH under way does not end it, its slots having been listed
before (the model's choice, log entry 75). With none pending, no transfer but a RESERVED, FREE or OUTCOME OWED one
is left. -/
def Obligations.Flush : Prop :=
  (∀ (tag : Nat) (s : State), s.dev.live = true →
    let c := s.dev.completeExchange
    (c.holdInForce = true → c.rep.pending = none →
      ∃ d : Device, exec (.flush tag) s = .next { s with dev := (d.echo tag .taken).settle } ∧ d.xfer.reasms = [] ∧
        (∀ i, i < 8 → (d.slot i).st = .free ∨ (d.slot i).st = .reserved ∨ (d.slot i).st = .outcomeOwed) ∧
        d.access.answer = ⟨[], none⟩ ∧ (∀ it ∈ d.access.routine.items, it.kind ≠ .data)) ∧
    (c.holdInForce = false → exec (.flush tag) s = .next { s with dev := (c.echo tag .noHold).settle })) ∧
  (∀ (tag : Nat) (s : State), s.dev.live = true →
    let c := s.dev.completeExchange
    let ends := (List.range 8).filter fun i =>
      decide ((c.slot i).st ≠ .free ∧ (c.slot i).st ≠ .reserved ∧ (c.slot i).st ≠ .outcomeOwed)
    let withdrawn := { c with access := { c.access with
      answer := ⟨[], none⟩, routine := c.access.routine.withdraw fun it => it.kind == .data } }
    let discard : Device → Reasm → Device := fun e x =>
      let gone := { e with
        store := e.store.release x.grant,
        xfer := { e.xfer with
          reasms := e.xfer.reasms.filter fun y => !(y.source == x.source && y.num == x.num),
          counts := { e.xfer.counts with
            relaysLost := if x.waiting then bump e.xfer.counts.relaysLost else e.xfer.counts.relaysLost } } }
      match x.relaySlot with
      | none => gone
      | some i => Device.slotFreed { gone with xfer := { gone.xfer with slots := modAt gone.xfer.slots i fun _ => Slot.free } }
    c.holdInForce = true →
      exec (.flush tag) s = .next { s with dev := Device.settle (Device.echo
        (ends.foldl (fun e i => e.endTransfer i .flushed) (c.xfer.reasms.foldl discard withdrawn)) tag .taken) }) ∧
  (∀ (d : Device) (i : Nat), i < d.xfer.slots.length → (∀ e ∈ d.xfer.reasms, e.waiting = false) →
    let s := d.slot i
    let counts := { d.xfer.counts with flushed := bump d.xfer.counts.flushed }
    let ended : Device := { d with
      access := { d.access with
        routine := d.access.routine.withdraw fun it => it.kind == .data && it.owner == .slot i },
      store := match s.grant with | none => d.store | some g => d.store.release g,
      xfer := { d.xfer with counts := counts, slots := d.xfer.slots.set i Slot.free } }
    (s.origin = .relay → d.endTransfer i .flushed = ended.slotFreed) ∧
    (s.origin = .console → d.console.general.entries.length < 24 →
      d.endTransfer i .flushed = Device.slotFreed { ended with console := { d.console with
        general := { d.console.general with entries := d.console.general.entries ++ [⟨.transferOutcome, 0, .report
          [.num 1 s.tag, .num 1 4, .num 1 s.num, .num 3 s.dest, .num 3 s.lastHop, .num 2 (min s.idx 65535)], 0⟩] } } }) ∧
    (s.origin = .console → 24 ≤ d.console.general.entries.length →
      d.endTransfer i .flushed = { ended with
        xfer := { d.xfer with counts := counts, slots := d.xfer.slots.set i { s with
          st := .outcomeOwed, grant := none, hop := none, onAir := false, ackDue := none, ackWaiting := false,
          refusalEnd := none, pendingEnd := none, outcome := some .flushed } },
        console := { d.console with general := { d.console.general with
          owed := d.console.general.owed ++ [.slot i] } } }) ∧
    (s.origin = .catchReport → d.endTransfer i .flushed =
      (Device.slotFreed { ended with store := d.store }).catchOutcome .flushed))

/-- REPEAT_DUE and CANCEL_DUE clear their due time and offer the own item that the alert's state asks for.
CASE_EXPIRY 2 hours after the last heard closes the case with reason EXPIRED, drops its wait and withdraws its
items; HOLD_TIMER_EXPIRY stops the timer, and with the own alert IDLE the hold has ended. Each row takes place at its own
moment (the model's choice, log entry 1).
What the hold does when it ends (R102, R127): each HELD transfer resumes by its held-from state, port-bound ones by a new
route question; the paused times run on; the HELD WARNING waits are relayed; and HOLD ENDED is queued with the length.
A case that closes, by its expiry, by CLOSE CASE or by a CANCEL heard: its wait is dropped and its items go, an own
acknowledgement whose item waited is NONE again, CASE CLOSED goes up with the reason (queued, owed in a full lane,
none while the mark stands), and when it was the last open case, with the own alert IDLE, the hold timer is cut to
at most 60 s (R119, R120, R122, R126). -/
def Obligations.DistressTimers : Prop :=
  ((∀ (t : Time) (s : State), s.dev.resetLow = false →
    (s.dev.distress.own.repeatDue = some t → s.dev.distress.own.st = .alerting →
      ∃ d : Device, exec .repeatDue s = .next { s with dev := d.settle } ∧ d.now = max s.dev.now t ∧
        d.distress.own.repeatDue = none ∧ d.distress.own.st = .alerting ∧ d.distress.own.num = s.dev.distress.own.num ∧
        ∃ it ∈ d.access.distress.waiting, it.kind = .distress ∧ it.owner = .own ∧ it.ready = d.now) ∧
    (s.dev.distress.own.cancelDue = some t → s.dev.distress.own.st = .cancelling →
      ∃ d : Device, exec .cancelDue s = .next { s with dev := d.settle } ∧ d.now = max s.dev.now t ∧
        d.distress.own.cancelDue = none ∧ d.distress.own.st = .cancelling ∧ d.distress.own.num = s.dev.distress.own.num ∧
        ∃ it ∈ d.access.distress.waiting, it.kind = .cancel ∧ it.owner = .own ∧ it.ready = d.now)) ∧
  ((∀ (st : Station) (c : Case) (s : State), s.dev.resetLow = false → s.dev.case? st = some c → c.st ≠ .closed →
    ∃ d : Device, exec (.caseExpiry st) s = .next { s with dev := d.settle } ∧
      d.now = max s.dev.now (c.lastHeard + 7200000) ∧
      (∃ y, d.case? st = some y ∧ y.st = .closed ∧ y.closeReason = some .expired) ∧
      d.wait? .distress st c.alert = none ∧
      (∀ it ∈ d.access.distress.items, it.owner ≠ .caseAck st c.alert ∧ it.owner ≠ .caseRelay st c.alert) ∧
      d.store = s.dev.store ∧ d.log = s.dev.log) ∧
  (∀ (t : Time) (s : State), s.dev.resetLow = false → s.dev.distress.holdTimer = some t →
    (s.dev.distress.own.st ≠ .idle →
      exec .holdTimerExpiry s = .next { s with dev := Device.settle { s.dev with
        now := max s.dev.now t, distress := { s.dev.distress with holdTimer := none } } }) ∧
    (s.dev.distress.own.st = .idle →
      ∃ d : Device, exec .holdTimerExpiry s = .next { s with dev := d.settle } ∧ d.now = max s.dev.now t ∧
        d.holdInForce = false ∧ d.distress.holdTimer = none ∧ d.distress.holdSince = none))) ∧
  (∀ d : Device, d.holdInForce = false → d.xfer.slots.length = 8 →
      (∀ x, d.rep.deadline = some x → d.rep.st = .awaitingReceipt → x.left d.now ≠ 0) →
      let e := d.endHold
      let hopFor := fun s : Slot => if s.origin = .relay
        then (if (d.neighbour? s.dest).any fun n => n.fresh && !d.avoided n then some s.dest else none) else d.route
      let resumed := fun x : Countdown => match x with
        | .running t => Countdown.running t
        | .paused l => .running (d.now + l)
      let seconds := (match d.distress.holdSince with
        | none => 0
        | some t => (d.now - t) / 1000)
      e.distress = { d.distress with holdSince := none, lastHold := seconds } ∧
      (∀ i, i < 8 →
        let s := d.slot i
        let ready := { s with st := .ready, readySince := d.now, onAir := false, refusalEnd := none }
        (s.st ≠ .held → e.slot i = s) ∧
        (s.st = .held → s.heldFrom = .refusalWait →
          e.slot i = { s with st := .refusalWait, refusalEnd := some (d.now + s.heldRefusal) }) ∧
        (s.st = .held → s.heldFrom ≠ .refusalWait → s.origin ≠ .relay → s.dest ≠ d.config.port → e.slot i = ready) ∧
        (s.st = .held → s.heldFrom ≠ .refusalWait → s.origin = .relay ∨ s.dest = d.config.port →
          (hopFor s = none → e.slot i = { ready with hop := none, st := .awaitingRoute }) ∧
          (∀ h, hopFor s = some h → s.hop = some h → e.slot i = ready) ∧
          (∀ h, hopFor s = some h → s.hop ≠ some h → e.slot i = { ready with
            hop := some h, lastHop := h, idx := 0, retries := 0, refusals := 0, restarts := 0, cw := 8 }))) ∧
      e.xfer.reasms = d.xfer.reasms.map (fun x => { x with timer := resumed x.timer }) ∧
      e.xfer.recents = d.xfer.recents.map (fun x => { x with timer := resumed x.timer }) ∧
      e.rep.deadline = d.rep.deadline.map resumed ∧ e.rep.st = d.rep.st ∧
      (∀ w ∈ e.waits, w.held = false) ∧
      (∀ w ∈ d.waits, w.held = true → w.kind = .warning → (d.warning? w.station w.number).isSome = true →
        ∃ it ∈ e.access.priority.waiting, it.kind = .warning ∧ it.owner = .warning w.station w.number ∧ it.ready = d.now) ∧
      (d.console.distress.entries.length < 8 → OwedRef.hold ∉ d.console.distress.owed →
        e.console.distress.entries = d.console.distress.entries ++
          [⟨.holdEnded, 0, .report [.num 2 (min seconds 65535)], 0⟩]))) ∧
  (∀ (d : Device) (c : Case) (r : CloseReason),
    let acking : Prop := ∃ it ∈ d.access.distress.items, it.owner = .caseAck c.station c.alert
    let last : Prop := d.distress.own.st = .idle ∧ ∀ x ∈ d.distress.cases, x.station ≠ c.station → x.st = .closed
    let lane := d.console.distress
    let e := d.closeCase c r
    e = { d with
      waits := d.waits.filter fun x => !(x.kind == .distress && x.station == c.station && x.number == c.alert),
      access := { d.access with
        distress := d.access.distress.withdraw fun it =>
          it.owner == .caseAck c.station c.alert || it.owner == .caseRelay c.station c.alert },
      distress := { d.distress with cases := e.distress.cases, holdTimer := e.distress.holdTimer },
      console := { d.console with distress := e.console.distress } } ∧
    (acking → e.distress.cases = d.distress.cases.map fun x =>
      if x.station = c.station then { x with st := .closed, closeReason := some r, ownAck := .none } else x) ∧
    (¬acking → e.distress.cases = d.distress.cases.map fun x =>
      if x.station = c.station then { x with st := .closed, closeReason := some r } else x) ∧
    (last → e.distress.holdTimer = d.distress.holdTimer.map fun t => min t (d.now + 60000)) ∧
    (¬last → e.distress.holdTimer = d.distress.holdTimer) ∧
    (OwedRef.caseOf c.station ∈ lane.owed → e.console.distress = lane) ∧
    (OwedRef.caseOf c.station ∉ lane.owed → lane.entries.length < 8 → e.console.distress = { lane with
      entries := lane.entries ++ [⟨.caseClosed, 0, .report [.num 3 c.station, .num 1 c.alert, .num 1 r.code], 0⟩] }) ∧
    (OwedRef.caseOf c.station ∉ lane.owed → 8 ≤ lane.entries.length → e.console.distress = { lane with
      owed := lane.owed ++ [.caseOf c.station] })) ∧
  [CloseReason.cancelled, .expired, .host, .replaced].map CloseReason.code = List.range 4 ∧
  (∀ (st : Station) (c : Case) (s : State), s.dev.resetLow = false → s.dev.case? st = some c → c.st ≠ .closed →
    exec (.caseExpiry st) s = .next { s with dev := Device.settle (
      Device.closeCase { s.dev with now := max s.dev.now (c.lastHeard + 7200000) } c .expired) }) ∧
  (∀ (tag st : Nat) (c : Case) (s : State), s.dev.live = true → 1 ≤ st → st < 262143 →
    s.dev.completeExchange.case? st = some c → c.st ≠ .closed →
    exec (.closeCase tag st) s = .next { s with dev := Device.settle (
      (s.dev.completeExchange.closeCase c .host).echo tag .taken) })

/-! ## Weather -/

/-- The score of a copy and what improves a part (R132); the serial order of issue numbers (R133).
A FORECAST's tests in their order, and the record its part goes to (R131, R133, R134; that a body longer than 114
symbols is malformed is the model's reading, log entry 21): a part into a COLLECTING record, which completes it with
its last part, or into a COMPLETE one (R136 to R138; its last-part time moves with a stored part alone, log entry
67); a newer issue opens a record, supersedes an older collection, or is stale; and room is made by evicting the
collection whose last part is oldest (R135). -/
def Obligations.ScoresAndIssues : Prop :=
  ((∀ b : Burst, copyScore b = b.erasures + (if b.pass = true then 0 else 200)) ∧
    (∀ b : Burst, b.pass = true → b.erasures = 0 → copyScore b = 0) ∧
    (∀ b : Burst, b.pass = false → b.erasures ≤ 120 → 200 ≤ copyScore b ∧ copyScore b ≤ 320) ∧
    (∀ b c : Burst, b.pass = false → c.pass = true → c.erasures ≤ 120 → copyScore c < copyScore b) ∧
    (∀ (f : Forecast) (h : ForecastHeader) (b : Burst) (x : PartInfo), f.parts[h.idx]? = some (some x) →
      (Device.improvesPart f h b = true ↔ copyScore b < x.score)) ∧
    (∀ n m : Nat, n < 4096 → m < 4096 →
      (newer n m = true ↔ 1 ≤ ((n : Int) - m) % 4096 ∧ ((n : Int) - m) % 4096 ≤ 2047)) ∧
    newer 1204 1203 = true ∧ newer 0 4095 = true ∧ (∀ n, newer n n = false) ∧
    (∀ n m : Nat, n < 4096 → m < 4096 → ((n : Int) - m) % 4096 = 2048 → newer n m = false ∧ newer m n = false)) ∧
  (∀ (d : Device) (b : Burst),
    let h := forecastHeader b.body
    let counted : (WeatherCounts → WeatherCounts) → Device := fun f => { d with weather := { d.weather with counts := f d.weather.counts } }
    let inRange : Prop := 1 ≤ h.area ∧ 1 ≤ h.cnt ∧ h.cnt ≤ 8 ∧ h.idx < h.cnt ∧ 1 ≤ h.day ∧ h.day ≤ 31 ∧ h.hour ≤ 23 ∧
      h.minute ≤ 59 ∧ 1 ≤ h.validFor ∧ b.body.length ≤ 114
    h = ⟨symsAt b.body 0 3, symAt b.body 3, symsAt b.body 4 2, symAt b.body 6, symAt b.body 7, symAt b.body 8,
      symAt b.body 9, symAt b.body 10, symAt b.body 11⟩ ∧
    (b.body.length < 12 → d.receiveForecast b = counted fun n => { n with malformed := bump n.malformed }) ∧
    (12 ≤ b.body.length → 0 < b.erasures → 63 ∈ b.body.take 12 →
      d.receiveForecast b = counted fun n => { n with headerErasures := bump n.headerErasures }) ∧
    (12 ≤ b.body.length → b.erasures = 0 ∨ 63 ∉ b.body.take 12 →
      (h.issuer ∉ d.config.sources →
        d.receiveForecast b = counted fun n => { n with foreignIssuer := bump n.foreignIssuer }) ∧
      (h.issuer ∈ d.config.sources → ¬inRange →
        d.receiveForecast b = counted fun n => { n with malformed := bump n.malformed }) ∧
      (h.issuer ∈ d.config.sources → inRange → h.area ∉ d.config.areas →
        d.receiveForecast b = counted fun n => { n with unwantedArea := bump n.unwantedArea }) ∧
      (h.issuer ∈ d.config.sources → inRange → h.area ∈ d.config.areas →
        ((∃ f ∈ d.weather.forecasts, f.area = h.area ∧ f.issuer ≠ h.issuer) →
          d.receiveForecast b = counted fun n => { n with otherIssuer := bump n.otherIssuer }) ∧
        ((∀ f ∈ d.weather.forecasts, f.area = h.area → f.issuer = h.issuer) →
          ∀ k c, d.forecast? h.area false = k → d.forecast? h.area true = c →
          (∀ f, k = some f → f.issue = h.issue →
            (f.cnt = h.cnt → d.receiveForecast b = d.partToCollecting f h b) ∧
            (f.cnt ≠ h.cnt →
              d.receiveForecast b = counted fun n => { n with inconsistent := bump n.inconsistent })) ∧
          (∀ f, c = some f → f.issue = h.issue → (∀ x, k = some x → x.issue ≠ h.issue) →
            (f.cnt = h.cnt → d.receiveForecast b = d.partToComplete f h b) ∧
            (f.cnt ≠ h.cnt →
              d.receiveForecast b = counted fun n => { n with inconsistent := bump n.inconsistent })) ∧
          ((∀ x, k = some x ∨ c = some x → newer h.issue x.issue = true) →
            d.receiveForecast b = d.openCollection h b k) ∧
          ((∀ x, k = some x ∨ c = some x → x.issue ≠ h.issue) →
            (∃ x, (k = some x ∨ c = some x) ∧ newer h.issue x.issue = false) →
            d.receiveForecast b = counted fun n => { n with oldIssue := bump n.oldIssue }))))) ∧
  (∀ (d : Device) (f : Forecast) (h : ForecastHeader) (b : Burst),
    let part : PartInfo := ⟨copyScore b, b.erasures, b.pass, (b.body.drop 12).length⟩
    let times := issueTimes d.utcNow h.day h.hour h.minute h.validFor
    let kept : Forecast := { f with lastPart := b.endTime, parts := f.parts.set h.idx (some part) }
    let leads : Prop := ∀ p, f.parts.getD f.headerPart none = some p → part.score < p.score
    let written := d.store.writeSyms f.grant (102 * h.idx) (b.body.drop 12)
    let apart : Device → Prop := fun e => e.weather.warnings = d.weather.warnings ∧ e.log = d.log ∧
      ∀ a c, a ≠ f.area → e.forecast? a c = d.forecast? a c
    let stays : Device → Prop := fun e => e.store = d.store ∧ e.console = d.console ∧
      e.weather.counts = { d.weather.counts with notBetter := bump d.weather.counts.notBetter } ∧ apart e
    (f.marred = true ↔ ∃ p, some p ∈ f.parts ∧ (0 < p.erasures ∨ p.pass = false)) ∧
    (d.forecast? f.area false = some f →
      ((∃ p, f.parts.getD h.idx none = some p ∧ p.score ≤ part.score) →
        let e := d.partToCollecting f h b
        e.forecast? f.area false = some { f with lastPart := b.endTime } ∧
          e.forecast? f.area true = d.forecast? f.area true ∧ stays e) ∧
      ((∀ p, f.parts.getD h.idx none = some p → part.score < p.score) → ∀ g,
        (leads ∧ g = { kept with
          headerPart := h.idx, day := h.day, hour := h.hour, minute := h.minute, validFor := h.validFor,
          issued := times.1, validUntil := times.2 } ∨ ¬leads ∧ g = kept) →
        let e := d.partToCollecting f h b
        (none ∈ g.parts →
          e.forecast? f.area false = some g ∧ e.forecast? f.area true = d.forecast? f.area true ∧ e.store = written ∧
            e.console = d.console ∧ e.weather.counts = d.weather.counts ∧ apart e) ∧
        (none ∉ g.parts →
          e.forecast? f.area true = some { g with complete := true } ∧ e.forecast? f.area false = none ∧
            (d.forecast? f.area true = none → e.store = written) ∧
            (∀ old, d.forecast? f.area true = some old → e.store = written.release old.grant) ∧
            e.weather.counts = { d.weather.counts with completed := bump d.weather.counts.completed } ∧ apart e ∧
            (OwedRef.forecast f.area ∉ d.console.general.owed → d.console.general.entries.length < 24 →
              e.console.general.entries = d.console.general.entries ++
                [⟨.forecastReady, 0, .report (forecastData { g with complete := true } 0 none), 0⟩])))) ∧
    (d.forecast? f.area true = some f →
      ((∃ p, f.parts.getD h.idx none = some p ∧ p.score ≤ part.score) →
        let e := d.partToComplete f h b
        (∀ c, e.forecast? f.area c = d.forecast? f.area c) ∧ stays e) ∧
      ((∀ p, f.parts.getD h.idx none = some p → part.score < p.score) → ∀ g,
        (leads ∧ g = { kept with
          headerPart := h.idx, day := h.day, hour := h.hour, minute := h.minute, validFor := h.validFor,
          issued := times.1, validUntil := times.2 } ∨ ¬leads ∧ g = kept) →
        let e := d.partToComplete f h b
        e.forecast? f.area true = some g ∧ e.forecast? f.area false = d.forecast? f.area false ∧ e.store = written ∧
          e.weather.counts = d.weather.counts ∧ apart e ∧
          (OwedRef.forecast f.area ∉ d.console.general.owed → d.console.general.entries.length < 24 →
            e.console.general.entries = d.console.general.entries ++
              [⟨.forecastUpdated, 0, .report (forecastData g 0 (some h.idx)), 0⟩])))) ∧
  (∀ (d : Device) (h : ForecastHeader) (b : Burst) (old : Option Forecast),
    let times := issueTimes d.utcNow h.day h.hour h.minute h.validFor
    let base : Device := match old with
      | none => d
      | some k => { d with
          store := d.store.release k.grant,
          weather := { d.weather with
            forecasts := d.weather.forecasts.filter fun x => !(x.area == k.area && !x.complete),
            counts := { d.weather.counts with superseded := bump d.weather.counts.superseded } } }
    let e := d.openCollection h b old
    (∀ k, old = some k → k.complete = false) →
    (d.utcReached times.2 = true →
      e = { d with weather := { d.weather with counts := { d.weather.counts with stale := bump d.weather.counts.stale } } }) ∧
    (d.utcReached times.2 = false →
      (∀ id y, base.weather.forecasts.length < 16 → base.store.reserve .forecast (h.cnt * 102) = (.granted id, y) →
        2 ≤ h.cnt → h.idx < h.cnt → base.forecast? h.area false = none →
        e.forecast? h.area false = some
          { issuer := h.issuer, area := h.area, issue := h.issue, cnt := h.cnt,
            parts := (List.replicate h.cnt none).set h.idx
              (some ⟨copyScore b, b.erasures, b.pass, (b.body.drop 12).length⟩),
            headerPart := h.idx, day := h.day, hour := h.hour, minute := h.minute, validFor := h.validFor,
            issued := times.1, validUntil := times.2, grant := id, lastPart := b.endTime, complete := false } ∧
        e.store = y.writeSyms id (102 * h.idx) (b.body.drop 12) ∧ e.console = d.console ∧
        e.weather.counts = base.weather.counts ∧
        ∀ a c, (a, c) ≠ (h.area, false) → e.forecast? a c = base.forecast? a c) ∧
      (16 ≤ base.weather.forecasts.length ∨ (∀ id, (base.store.reserve .forecast (h.cnt * 102)).1 ≠ .granted id) →
        (∀ f ∈ base.weather.forecasts, f.complete = true ∨ f.area = h.area) →
        e.weather = { base.weather with counts := { base.weather.counts with
          droppedForRoom := bump base.weather.counts.droppedForRoom } } ∧ e.store.grants = base.store.grants)) ∧
    (∀ n, 16 ≤ d.weather.forecasts.length ∨ (∀ id, (d.store.reserve .forecast (h.cnt * 102)).1 ≠ .granted id) →
      (∃ f ∈ d.weather.forecasts, f.complete = false ∧ f.area ≠ h.area) →
      ∃ f ∈ d.weather.forecasts, f.complete = false ∧ f.area ≠ h.area ∧
        (∀ x ∈ d.weather.forecasts, x.complete = false → x.area ≠ h.area →
          f.lastPart < x.lastPart ∨ f.lastPart = x.lastPart ∧ f.area ≤ x.area) ∧
        ∃ y, (d.weather.forecasts.length < 16 → y = (d.store.reserve .forecast (h.cnt * 102)).2) ∧
          (16 ≤ d.weather.forecasts.length → y = d.store) ∧
          d.forecastRoom h.area (h.cnt * 102) (n + 1) = Device.forecastRoom { d with
            store := y.release f.grant,
            weather := { d.weather with
              forecasts := d.weather.forecasts.filter fun x => !(x.area == f.area && !x.complete),
              counts := { d.weather.counts with evicted := bump d.weather.counts.evicted } } } h.area (h.cnt * 102) n) ∧
    (∀ x, d.weather.forecasts.length ≤ 16 → d.forecastRoom h.area (h.cnt * 102) 17 = (none, x) →
      ∀ f ∈ x.weather.forecasts, f.complete = true ∨ f.area = h.area))

/-- COLLECTION_DISCARD, FORECAST_EXPIRY and WARNING_EXPIRY remove their record and release its pages; a COMPLETE
record's expiry is reported. Each row takes place at its own moment (the model's choice, log entry 1). A WARNING's
tests in their order (R131), the end of a relay wait and the suppression of a relay by a relayed copy (R75, R144;
that a malformed one ends the wait and suppresses nothing, log entry 19; that a stale copy is dropped before any
relay is examined, log entry 43; that a copy of the instant of its record's removal is a repeat, R143, log entry 71;
that only a record held when the copy is heard is suppressed is the model's choice, log entry 59), its storing,
improving and the record it replaces (R141, R142), the relay wait it starts (R144), and its relay offered, sent and
aborted (R145; that the item offered again keeps its body is the model's choice, log entry 60). -/
def Obligations.WeatherTimers : Prop :=
  (∀ (area : Nat) (f : Forecast) (s : State), s.dev.resetLow = false →
    (s.dev.forecast? area false = some f →
      ∃ d : Device, exec (.collectionDiscard area) s = .next { s with dev := d.settle } ∧
        d.now = max s.dev.now (f.lastPart + 21600000) ∧ d.store = s.dev.store.release f.grant ∧
        d.forecast? area false = none ∧ d.weather.warnings = s.dev.weather.warnings ∧
        d.weather.counts.discarded = bump s.dev.weather.counts.discarded) ∧
    (∀ u v, s.dev.console.utc = some u → f.validUntil = some v →
      (s.dev.forecast? area false = some f →
        ∃ d : Device, exec (.forecastExpiry area false) s = .next { s with dev := d.settle } ∧
          d.now = max s.dev.now (u.setAt + (v - (u.value : Int)).toNat * 1000) ∧
          d.store = s.dev.store.release f.grant ∧ d.forecast? area false = none ∧
          d.weather.counts.discarded = bump s.dev.weather.counts.discarded) ∧
      (s.dev.forecast? area true = some f → OwedRef.forecast area ∉ s.dev.console.general.owed →
        s.dev.console.general.entries.length < 24 →
        ∃ d : Device, exec (.forecastExpiry area true) s = .next { s with dev := d.settle } ∧
          d.now = max s.dev.now (u.setAt + (v - (u.value : Int)).toNat * 1000) ∧
          d.store = s.dev.store.release f.grant ∧ d.forecast? area true = none ∧
          d.weather.counts.expired = bump s.dev.weather.counts.expired ∧
          d.console.general.entries = s.dev.console.general.entries ++
            [⟨.forecastExpired, 0, .report [.num 1 area, .num 3 f.issuer, .num 2 f.issue], 0⟩]))) ∧
  (∀ (issuer issue : Nat) (w : Warning) (u : Utc) (v : Int) (s : State), s.dev.resetLow = false →
    s.dev.warning? issuer issue = some w → s.dev.console.utc = some u → w.validUntil = some v →
    ∃ d : Device, exec (.warningExpiry issuer issue) s = .next { s with dev := d.settle } ∧
      d.now = max s.dev.now (u.setAt + (v - (u.value : Int)).toNat * 1000) ∧ d.warning? issuer issue = none ∧
      d.wait? .warning issuer issue = none ∧ (∀ it ∈ d.access.priority.items, it.owner ≠ .warning issuer issue) ∧
      d.store = s.dev.store.release w.grant ∧ d.weather.forecasts = s.dev.weather.forecasts) ∧
  (∀ (d : Device) (b : Burst) (e : Device),
  let h := warningHeader b.body
  let count := symAt b.body 10
  let inRange : Prop := 1 ≤ count ∧ count ≤ 6 ∧ 1 ≤ h.day ∧ h.day ≤ 31 ∧ h.hour ≤ 23 ∧ h.minute ≤ 59 ∧ 1 ≤ h.validFor ∧
    ∀ a ∈ h.areas, 1 ≤ a
  let counted : Device → (WeatherCounts → WeatherCounts) → Device := fun x f =>
    { x with weather := { x.weather with counts := f x.weather.counts } }
  h = ⟨symsAt b.body 0 3, symsAt b.body 3 2, symAt b.body 5, symAt b.body 6, symAt b.body 7, symAt b.body 8,
    symAt b.body 9, (b.body.drop 11).take count⟩ ∧
  (b.body.length < 12 ∨ b.body.length < 11 + count →
    d.receiveWarning b = counted d fun n => { n with malformed := bump n.malformed }) ∧
  (12 ≤ b.body.length → 11 + count ≤ b.body.length → 0 < b.erasures → 63 ∈ b.body.take (11 + count) →
    d.receiveWarning b = counted d fun n => { n with headerErasures := bump n.headerErasures }) ∧
  (12 ≤ b.body.length → 11 + count ≤ b.body.length → b.erasures = 0 ∨ 63 ∉ b.body.take (11 + count) →
    (b.source = h.issuer ∨ d.wait? .warning h.issuer h.issue = none → e = d) →
    (b.source ≠ h.issuer → d.wait? .warning h.issuer h.issue ≠ none → e = { d with
      waits := d.waits.filter fun x => !(x.kind == .warning && x.station == h.issuer && x.number == h.issue),
      weather := { d.weather with warnings := d.weather.warnings.map fun w =>
        if w.issuer = h.issuer ∧ w.issue = h.issue then { w with relay := .suppressed } else w } }) →
    (h.issuer ∉ d.config.sources →
      d.receiveWarning b = counted e fun n => { n with foreignIssuer := bump n.foreignIssuer }) ∧
    (h.issuer ∈ d.config.sources → ¬inRange ∨ Severity.ofValue h.severity = none →
      d.receiveWarning b = counted e fun n => { n with malformed := bump n.malformed }) ∧
    (h.issuer ∈ d.config.sources → inRange → ∀ sev, Severity.ofValue h.severity = some sev →
      (b.source = h.issuer → d.receiveWarning b = e.applyWarning h sev b) ∧
      (b.source ≠ h.issuer → d.receiveWarning b = (e.suppressWarning h.issuer h.issue).applyWarning h sev b)))) ∧
  (∀ (d : Device) (issuer issue : Nat),
    (d.warning? issuer issue = none → d.suppressWarning issuer issue = d) ∧
    ∀ w, d.warning? issuer issue = some w →
      (w.relay = .relayed ∨ w.relay = .suppressed → d.suppressWarning issuer issue = d) ∧
      (w.relay = .none ∨ w.relay = .waiting ∨ w.relay = .offered →
        let x := d.suppressWarning issuer issue
        x.warning? issuer issue = some { w with relay := .suppressed } ∧
          (∀ i n, (i, n) ≠ (issuer, issue) → x.warning? i n = d.warning? i n) ∧
          (∀ it, it ∈ x.access.priority.items ↔ it ∈ d.access.priority.items ∧ it.owner ≠ .warning issuer issue) ∧
          x.access.onAir = d.access.onAir ∧ x.waits = d.waits ∧ x.store = d.store ∧ x.console = d.console)) ∧
  (∀ (d : Device) (issuer issue : Nat) (b : Burst),
    (d.warning? issuer issue = none → d.examineWarning issuer issue b = d) ∧
    ∀ w, d.warning? issuer issue = some w →
      let wants : Prop := b.source = w.issuer ∧ b.pass = true ∧ b.erasures = 0 ∧ w.wanted = true ∧ w.relay = .none ∧
        d.config.warning = true
      let x := d.examineWarning issuer issue b
      (¬wants ∨ d.wait? .warning issuer issue ≠ none → x = d) ∧
      (wants → d.wait? .warning issuer issue = none →
        (d.waits.length < 8 → ∃ t, 20 ≤ t ∧ t ≤ 90 ∧
          x.waits = d.waits ++ [⟨.warning, issuer, issue, d.now + t * 1000, false⟩] ∧
          x.warning? issuer issue = some { w with relay := .waiting } ∧ x.access = d.access ∧ x.store = d.store ∧
          x.console = d.console) ∧
        (8 ≤ d.waits.length → x = { d with neigh := { d.neigh with counts := { d.neigh.counts with
          waitRefusals := bump d.neigh.counts.waitRefusals } } }))) ∧
  (∀ (d : Device) (issuer issue : Nat) (w : Warning) (it : Item), d.warning? issuer issue = some w →
    ((d.offerWarning issuer issue).warning? issuer issue = some { w with relay := .offered } ∧
      (d.offerWarning issuer issue).store = d.store ∧
      (d.offerWarning issuer issue).access.priority.waiting = d.access.priority.waiting ++
        [{ kind := .warning, dest := 262143, seq := 0, owner := .warning issuer issue, ready := d.now, cw := 0,
           ackEnd := 0, order := d.access.nextOffer, blindFrom := d.now, overdue := false,
           body := toSyms 3 w.issuer ++ toSyms 2 w.issue ++
             [w.severity.value, w.day, w.hour, w.minute, w.validFor, w.areas.length] ++ w.areas ++
             d.store.readSyms w.grant 0 w.len }]) ∧
    (d.warningSent issuer issue).warning? issuer issue
      = some { w with relay := if w.relay = .offered then .relayed else w.relay } ∧
    (w.relay ≠ .offered → d.warningAborted it issuer issue = d) ∧
    (w.relay = .offered → it.kind = .warning →
      (d.warningAborted it issuer issue).access.priority.waiting =
        d.access.priority.waiting ++ [{ it with order := d.access.nextOffer }] ∧
      (d.warningAborted it issuer issue).warning? issuer issue = some w)) ∧
  (∀ (d : Device) (issuer issue : Nat), (d.warningSent issuer issue).weather.counts =
      { d.weather.counts with relaysSent := bump d.weather.counts.relaysSent } ∧
    (d.warningSent issuer issue).access = d.access) ∧
  (∀ (d : Device) (h : WarningHeader) (sev : Severity) (b : Burst),
    let times := issueTimes d.utcNow h.day h.hour h.minute h.validFor
    let text := b.body.drop (11 + h.areas.length)
    let score := copyScore b
    let copy : Nat → Time → RelayState → Warning := fun grant first relay =>
      { issuer := h.issuer, issue := h.issue, severity := sev, day := h.day, hour := h.hour, minute := h.minute,
        validFor := h.validFor, areas := h.areas, wanted := h.areas.any fun a => d.config.areas.contains a,
        issued := times.1, validUntil := times.2, grant := grant, len := b.body.length - (11 + h.areas.length),
        score := score, erasures := b.erasures, pass := b.pass, firstStored := first, relay := relay }
    let holds : Device → Warning → Store → Nat → Prop := fun e w y event =>
      e.warning? h.issuer h.issue = some w ∧ e.store = y.writeSyms w.grant 0 text ∧
      (∀ i n, (i, n) ≠ (h.issuer, h.issue) → e.warning? i n = d.warning? i n) ∧
      e.weather.forecasts = d.weather.forecasts ∧ e.access = d.access ∧ e.waits = d.waits ∧
      (OwedRef.warning h.issuer h.issue ∉ d.console.general.owed → d.console.general.entries.length < 24 →
        e.console.general.entries = d.console.general.entries ++
          [⟨.warning, 0, .report (warningData w event (some (e.store.readSyms w.grant 0 w.len))), 0⟩])
    let unstored : Device → Prop := fun e =>
      e.weather = { d.weather with counts := e.weather.counts } ∧
      e.weather.counts.notStored = bump d.weather.counts.notStored ∧ e.store.grants = d.store.grants ∧ e.access = d.access ∧
      (d.console.general.entries.length < 24 →
        e.console.general.entries = d.console.general.entries ++
          [⟨.warning, 0, .report (warningData (copy 0 b.endTime .none) 2 none), 0⟩]) ∧
      (24 ≤ d.console.general.entries.length → e.weather.counts.lostReports = bump d.weather.counts.lostReports)
    let expiring : Prop := ∃ w, d.warning? h.issuer h.issue = some w ∧ d.utcReached w.validUntil = true
    (¬expiring → d.utcReached times.2 = true → d.applyWarning h sev b =
      { d with weather := { d.weather with counts := { d.weather.counts with stale := bump d.weather.counts.stale } } }) ∧
    (expiring ∨ d.utcReached times.2 = false →
      ∃ e : Device, d.applyWarning h sev b = e.examineWarning h.issuer h.issue b ∧
      (∀ old, d.warning? h.issuer h.issue = some old →
        (old.score ≤ score → e = { d with weather := { d.weather with counts := { d.weather.counts with
          notBetter := bump d.weather.counts.notBetter } } }) ∧
        (score < old.score → text.length = old.len →
          holds e (copy old.grant old.firstStored old.relay) d.store 1 ∧ e.weather.counts = d.weather.counts) ∧
        (∀ id y, score < old.score → text.length ≠ old.len →
          (d.store.release old.grant).reserve .warning text.length = (.granted id, y) →
          holds e (copy id old.firstStored old.relay) y 1 ∧ e.weather.counts = d.weather.counts)) ∧
      (d.warning? h.issuer h.issue = none → d.weather.warnings.length < 6 →
        (∀ id y, d.store.reserve .warning text.length = (.granted id, y) →
          holds e (copy id b.endTime .none) y 0 ∧
          e.weather.counts = { d.weather.counts with stored := bump d.weather.counts.stored }) ∧
        ((∀ id, (d.store.reserve .warning text.length).1 ≠ .granted id) → unstored e)) ∧
      (d.warning? h.issuer h.issue = none → 6 ≤ d.weather.warnings.length →
        ∃ r ∈ d.weather.warnings,
          (∀ x ∈ d.weather.warnings, r.severity.value < x.severity.value ∨ r.severity.value = x.severity.value ∧
            (r.firstStored < x.firstStored ∨ r.firstStored = x.firstStored ∧
              (r.issuer < x.issuer ∨ r.issuer = x.issuer ∧ r.issue ≤ x.issue))) ∧
          (sev.value < r.severity.value → unstored e) ∧
          (r.severity.value ≤ sev.value → ∃ f : Device, e = f.storeWarning h sev b ∧
            (∀ i n, f.warning? i n = if (i, n) = (r.issuer, r.issue) then none else d.warning? i n) ∧
            f.wait? .warning r.issuer r.issue = none ∧
            (∀ it, it ∈ f.access.priority.items ↔ it ∈ d.access.priority.items ∧ it.owner ≠ .warning r.issuer r.issue) ∧
            f.access.onAir = d.access.onAir ∧ f.store = d.store.release r.grant ∧ f.config = d.config ∧ f.now = d.now ∧
            f.console.utc = d.console.utc))) ∧
    (d.warning? h.issuer h.issue = none → ∀ id y, d.store.reserve .warning text.length = (.granted id, y) →
      holds (d.storeWarning h sev b) (copy id b.endTime .none) y 0))

/-! ## Catch log -/

/-- The rectangle of a position, with the North Pole in row 539.
The midpoint of a haul: the floor of the mean of the latitudes, and of the longitudes brought to one side of the
antimeridian; the midpoint's longitude is again from -1,080,000 to 1,079,999. -/
def Obligations.Grid : Prop :=
  ((∀ lat lon : Int, -540000 ≤ lat → lat < 540000 → -1080000 ≤ lon → lon ≤ 1079999 →
    (rectangleOf (lat, lon) : Int) = (lat + 540000) / 2000 * 540 + (lon + 1080000) / 4000 ∧
    0 ≤ (lat + 540000) / 2000 ∧ (lat + 540000) / 2000 ≤ 539 ∧ 0 ≤ (lon + 1080000) / 4000 ∧
    (lon + 1080000) / 4000 ≤ 539) ∧
  (∀ lon : Int, -1080000 ≤ lon → lon ≤ 1079999 →
    (rectangleOf (540000, lon) : Int) = 539 * 540 + (lon + 1080000) / 4000) ∧
  (∀ lat lon : Int, -540000 ≤ lat → lat ≤ 540000 → -1080000 ≤ lon → lon ≤ 1079999 →
    rectangleOf (lat, lon) ≤ 291599) ∧
  rectangleOf (-540000, -1080000) = 0 ∧ rectangleOf (0, 0) = 270 * 540 + 270 ∧ rectangleOf (540000, 1079999) = 291599) ∧
  (∀ p q : Int × Int, -1080000 ≤ p.2 → p.2 ≤ 1079999 → -1080000 ≤ q.2 → q.2 ≤ 1079999 →
    (midpoint p q).1 = (p.1 + q.1) / 2 ∧ -1080000 ≤ (midpoint p q).2 ∧ (midpoint p q).2 ≤ 1079999 ∧
    (q.2 - p.2 ≤ 1080000 → p.2 - q.2 ≤ 1080000 → (midpoint p q).2 = (p.2 + q.2) / 2) ∧
    (1080000 < q.2 - p.2 ∨ 1080000 < p.2 - q.2 →
      (midpoint p q).2 = (if 1080000 ≤ (p.2 + q.2 + 2160000) / 2 then (p.2 + q.2 + 2160000) / 2 - 2160000
        else (p.2 + q.2 + 2160000) / 2)))

/-- A quota entry's state by its consumed and its quota; a quota of 0 is always REACHED. -/
def Obligations.QuotaStates : Prop :=
  ∀ consumed quota : Nat,
    (quota ≤ consumed → Device.quotaState consumed quota = .reached) ∧
    (consumed < quota → 9 * quota ≤ 10 * consumed → Device.quotaState consumed quota = .alert) ∧
    (consumed < quota → 10 * consumed < 9 * quota → Device.quotaState consumed quota = .normal) ∧
    Device.quotaState consumed 0 = .reached ∧ Device.quotaState 9 10 = .alert ∧ Device.quotaState 8 10 = .normal

/-- HAUL_OPEN: the refusals in their order, and the record that a taken one fills, with HAUL OPENED queued. The haul
number is the first after the counter, 1 after 4,095, that no OPEN or WEIGHING record holds (R149). HAUL_CLOSE of an
OPEN haul: WEIGHING with the current UTC, the fix, its rectangle, and the two flags. QUEUE FULL is judged on the
lane after this exchange's own report has gone up (the model's reading, log entry 8). -/
def Obligations.HaulOpenAndClose : Prop :=
  (∀ (tag : Nat) (s : State), s.dev.live = true →
    let c := s.dev.completeExchange
    (c.utcNow = none → exec (.haulOpen tag) s = .next { s with dev := (c.echo tag .timeUnset).settle }) ∧
    (c.utcNow ≠ none → c.console.fix = none →
      exec (.haulOpen tag) s = .next { s with dev := (c.echo tag .noFix).settle }) ∧
    ∀ utc f, c.utcNow = some utc → c.console.fix = some f →
      ((∃ h ∈ c.log.hauls, h.st = .open') →
        exec (.haulOpen tag) s = .next { s with dev := (c.echo tag .oneOpen).settle }) ∧
      ((∀ h ∈ c.log.hauls, h.st = .weighing) →
        exec (.haulOpen tag) s = .next { s with dev := (c.echo tag .haulFull).settle }) ∧
      ((∀ h ∈ c.log.hauls, h.st ≠ .open') → ∀ i h, c.log.hauls[i]? = some h → h.st = .free →
        (∀ j, j < i → ∀ x, c.log.hauls[j]? = some x → x.st ≠ .free) →
        (24 ≤ c.console.general.entries.length →
          exec (.haulOpen tag) s = .next { s with dev := (c.echo tag .queueFull).settle }) ∧
        (c.console.general.entries.length < 24 →
          exec (.haulOpen tag) s = .next { s with dev := Device.settle (Device.echo { c with
            log := { c.log with
              counter := c.nextHaulNumber,
              hauls := c.log.hauls.set i
                { st := .open', num := c.nextHaulNumber, startUtc := utc, startPos := (f.lat, f.lon), endUtc := none,
                  endPos := none, estimated := decide (600000 ≤ c.now - f.takenAt), longTow := false,
                  startRect := rectangleOf (f.lat, f.lon), endRect := none, lines := [] } },
            console := { c.console with general := { c.console.general with
              entries := c.console.general.entries ++
                [⟨.haulOpened, tag, .report (Device.haulOpenedData
                  { st := .open', num := c.nextHaulNumber, startUtc := utc, startPos := (f.lat, f.lon),
                    endUtc := none, endPos := none, estimated := decide (600000 ≤ c.now - f.takenAt),
                    longTow := false, startRect := rectangleOf (f.lat, f.lon), endRect := none, lines := [] }), 0⟩] } }
            } tag .taken) }))) ∧
  (∀ (tag n : Nat) (s : State), s.dev.live = true →
    let c := s.dev.completeExchange
    (c.haulAt? n = none → exec (.haulClose tag n) s = .next { s with dev := (c.echo tag .badParam).settle }) ∧
    ∀ i, c.haulAt? n = some i →
      ((c.haul i).st = .weighing → exec (.haulClose tag n) s = .next { s with dev := (c.echo tag .state).settle }) ∧
      ∀ f, (c.haul i).st = .open' → c.console.fix = some f →
        exec (.haulClose tag n) s = .next { s with dev := Device.settle (Device.echo { c with
          log := { c.log with hauls := modAt c.log.hauls i fun h => { h with
            st := .weighing, endUtc := c.utcNow, endPos := some (f.lat, f.lon),
            endRect := some (rectangleOf (f.lat, f.lon)),
            estimated := h.estimated || decide (600000 ≤ c.now - f.takenAt),
            longTow := decide (h.startRect ≠ rectangleOf (f.lat, f.lon)) } } } tag .taken) }) ∧
  ∀ d : Device, d.log.hauls.length = 4 →
    let n := d.nextHaulNumber
    1 ≤ n ∧ n ≤ 4095 ∧ (∀ h ∈ d.log.hauls, h.st ≠ .free → h.num ≠ n) ∧
    ∃ k, k < 5 ∧ n = (d.log.counter + k) % 4095 + 1 ∧
      ∀ j, j < k → ∃ h ∈ d.log.hauls, h.st ≠ .free ∧ h.num = (d.log.counter + j) % 4095 + 1

/-- CATCH_LINE: BAD PARAM for number 0 or a number that no record holds; to a WEIGHING haul, a new line is appended; one
of a species and disposition already there replaces the earlier; RANGE, STATE and LINES FULL as R154 orders them. -/
def Obligations.CatchLine : Prop :=
  (∀ (tag n a b e disp weight i : Nat) (s : State), s.dev.live = true →
    let c := s.dev.completeExchange
    let good : Prop := a < 26 ∧ b < 26 ∧ e < 26 ∧ disp ≤ 1 ∧ 1 ≤ weight ∧ weight ≤ 99999
    let same := fun x : Sys2Proof.Machine.CatchLine => x.species = ⟨a, b, e⟩ ∧ x.retained = decide (disp = 0)
    c.haulAt? n = some i →
      ((c.haul i).st = .open' →
        exec (.catchLine tag n a b e disp weight) s = .next { s with dev := (c.echo tag .state).settle }) ∧
      ((c.haul i).st = .weighing → ¬good →
        exec (.catchLine tag n a b e disp weight) s = .next { s with dev := (c.echo tag .range).settle }) ∧
      ((c.haul i).st = .weighing → good → (∀ x ∈ (c.haul i).lines, ¬same x) → (c.haul i).lines.length < 12 →
        exec (.catchLine tag n a b e disp weight) s = .next { s with dev := Device.settle (Device.echo { c with
          log := { c.log with hauls := modAt c.log.hauls i fun h =>
            { h with lines := h.lines ++ [⟨⟨a, b, e⟩, decide (disp = 0), weight⟩] } } } tag .taken) }) ∧
      ((c.haul i).st = .weighing → good → (∀ x ∈ (c.haul i).lines, ¬same x) → 12 ≤ (c.haul i).lines.length →
        exec (.catchLine tag n a b e disp weight) s = .next { s with dev := (c.echo tag .linesFull).settle }) ∧
      ((c.haul i).st = .weighing → good → (∃ x ∈ (c.haul i).lines, same x) →
        exec (.catchLine tag n a b e disp weight) s = .next { s with dev := Device.settle (Device.echo { c with
          log := { c.log with
            hauls := modAt c.log.hauls i fun h => { h with
              lines := h.lines.map fun x =>
                if x.species = ⟨a, b, e⟩ ∧ x.retained = decide (disp = 0)
                then ⟨⟨a, b, e⟩, decide (disp = 0), weight⟩ else x },
            counts := { c.log.counts with linesReplaced := bump c.log.counts.linesReplaced } } } tag .taken) })) ∧
  ∀ (tag n a b e disp weight : Nat) (s : State), s.dev.live = true →
    let c := s.dev.completeExchange
    n = 0 ∨ (∀ h ∈ c.log.hauls, h.st = .free ∨ h.num ≠ n) →
      exec (.catchLine tag n a b e disp weight) s = .next { s with dev := (c.echo tag .badParam).settle }

/-- HAUL_DISCARD: a number held by no record is BAD PARAM; a record that is OPEN or WEIGHING is freed with its lines and
counted, and no tally cell, quota entry or report changes. -/
def Obligations.HaulDiscard : Prop :=
  ∀ (tag n : Nat) (s : State), s.dev.live = true →
    let c := s.dev.completeExchange
    ((∀ h ∈ c.log.hauls, h.st = .free ∨ h.num ≠ n) ∨ n = 0 →
      exec (.haulDiscard tag n) s = .next { s with dev := (c.echo tag .badParam).settle }) ∧
    ∀ i h, n ≠ 0 → c.log.hauls[i]? = some h → h.num = n → h.st ≠ .free →
      (∀ j, j < i → ∀ x, c.log.hauls[j]? = some x → x.st = .free ∨ x.num ≠ n) →
      exec (.haulDiscard tag n) s = .next { s with dev := Device.settle (Device.echo { c with
        log := { c.log with
          hauls := c.log.hauls.set i Haul.free,
          counts := { c.log.counts with discarded := bump c.log.counts.discarded } } } tag .taken) }

/-- HAUL_COMMIT: the tests in their order, QUEUE FULL judged after this exchange's own report has gone up (the model's
reading, log entry 8). A taken one frees the record, counts the commit, queues HAUL COMMITTED with the numbers of cells
touched and made, the haul's flags and the saturated mark (log entry 18), and makes or raises one cell for each species
of the haul, by the line's weight and one haul, cut at the limits with the saturated flag set (R157 to R159).
The quota entries of the species it holds are then evaluated (R164, R165): consumed is the sum of the retained totals,
an entry that reaches its quota asks for a QUOTA report once (R167), and a changed state is reported (R166). -/
def Obligations.HaulCommit : Prop :=
  (∀ (tag n : Nat) (s : State), s.dev.live = true →
      let c := s.dev.completeExchange
      (c.haulAt? n = none → exec (.haulCommit tag n) s = .next { s with dev := (c.echo tag .badParam).settle }) ∧
      ∀ i, c.haulAt? n = some i →
        let h := c.haul i
        let rect := rectangleOf (midpoint h.startPos (h.endPos.getD h.startPos))
        let touched := (h.lines.map fun l => l.species).eraseDups
        let made := touched.filter fun sp => (c.cell? rect sp).isNone
        let old := fun sp => (c.cell? rect sp).getD (.empty rect sp)
        let limit := 9999999
        (h.st ≠ .weighing → exec (.haulCommit tag n) s = .next { s with dev := (c.echo tag .state).settle }) ∧
        (h.st = .weighing → h.lines = [] →
          exec (.haulCommit tag n) s = .next { s with dev := (c.echo tag .noLines).settle }) ∧
        (h.st = .weighing → h.lines ≠ [] → 60 - c.log.cells.length < made.length →
          exec (.haulCommit tag n) s = .next { s with dev := Device.settle (Device.echo { c with
            log := { c.log with counts := { c.log.counts with tallyFull := bump c.log.counts.tallyFull } } }
            tag .tallyFull) }) ∧
        (h.st = .weighing → h.lines ≠ [] → made.length ≤ 60 - c.log.cells.length →
          24 ≤ c.console.general.entries.length →
          exec (.haulCommit tag n) s = .next { s with dev := (c.echo tag .queueFull).settle }) ∧
        (h.st = .weighing → h.lines ≠ [] → made.length ≤ 60 - c.log.cells.length →
          c.console.general.entries.length < 24 → (h.lines.map fun l => (l.species, l.retained)).Nodup →
          ∃ (d : Device) (mark : Bool),
            exec (.haulCommit tag n) s = .next { s with dev := ((d.commitQuotas h.lines).echo tag .taken).settle } ∧
            d = { c with
              log := { c.log with
                hauls := modAt c.log.hauls i fun _ => Haul.free, cells := d.log.cells,
                counts := { c.log.counts with commits := bump c.log.counts.commits } },
              console := { c.console with general := { c.console.general with
                entries := c.console.general.entries ++ [⟨.haulCommitted, tag, .report
                  [.num 2 h.num, .num 3 rect, .num 2 (min touched.length 65535), .num 2 (min made.length 65535),
                   .num 1 (if h.estimated then 1 else 0), .num 1 (if h.longTow then 1 else 0),
                   .num 1 (if mark then 1 else 0)], 0⟩] } } } ∧
            (∀ r sp, r ≠ rect ∨ sp ∉ touched → d.cell? r sp = c.cell? r sp) ∧
            (∀ sp ∈ touched, ∃ x, d.cell? rect sp = some x ∧
              (∀ l ∈ h.lines, l.species = sp → l.retained = true →
                x.retained = { (old sp).retained with total := min limit ((old sp).retained.total + l.weight) }) ∧
              (∀ l ∈ h.lines, l.species = sp → l.retained = false →
                x.discarded = { (old sp).discarded with total := min limit ((old sp).discarded.total + l.weight) }) ∧
              ((∀ l ∈ h.lines, l.species = sp → l.retained = false) → x.retained = (old sp).retained) ∧
              ((∀ l ∈ h.lines, l.species = sp → l.retained = true) → x.discarded = (old sp).discarded) ∧
              x.hauls = { (old sp).hauls with total := min 65535 ((old sp).hauls.total + 1) } ∧
              x.estimated = ((old sp).estimated || h.estimated) ∧ x.longTow = ((old sp).longTow || h.longTow) ∧
              (x.saturated = true ↔ (old sp).saturated = true ∨ 65535 ≤ (old sp).hauls.total ∨
                ∃ l ∈ h.lines, l.species = sp ∧
                  limit < (if l.retained then (old sp).retained.total else (old sp).discarded.total) + l.weight)) ∧
            (mark = true ↔ (∃ sp ∈ touched, 65535 ≤ (old sp).hauls.total) ∨ ∃ l ∈ h.lines,
              (if l.retained then (old l.species).retained.total else (old l.species).discarded.total) = limit ∨
              limit < (if l.retained then (old l.species).retained.total else (old l.species).discarded.total)
                + l.weight))) ∧
  (∀ (d : Device) (lines : List Machine.CatchLine),
      let e := d.commitQuotas lines
      let consumed := fun sp =>
        min 9999999 ((d.log.cells.filter fun x => x.species == sp).map fun x => x.retained.total).sum
      ((∀ l ∈ lines, d.quota? l.species = none) → e = d) ∧
      (∀ sp q, d.quota? sp = some q → (∀ l ∈ lines, l.species ≠ sp) → e.quota? sp = some q) ∧
      (∀ sp q, d.quota? sp = some q → (∃ l ∈ lines, l.species = sp) →
        ∃ y, e.quota? sp = some y ∧ y.quota = q.quota ∧ y.consumed = consumed sp ∧
          (q.quota ≤ y.consumed → y.st = .reached) ∧
          (y.consumed < q.quota → 9 * q.quota ≤ 10 * y.consumed → y.st = .alert) ∧
          (y.consumed < q.quota → 10 * y.consumed < 9 * q.quota → y.st = .normal)) ∧
      ((∀ l ∈ lines, ∀ q, d.quota? l.species = some q → q.st = .reached ∨ consumed l.species < q.quota) →
        e.rep = d.rep ∧ e.log.cells = d.log.cells ∧ e.xfer = d.xfer) ∧
      (∀ l ∈ lines, ∀ q, d.quota? l.species = some q → q.st ≠ .reached → q.quota ≤ consumed l.species →
        (d.rep.st ≠ .none → d.rep.pending = none → e.rep = { d.rep with pending := some .quota }) ∧
        (∀ x, d.rep.st ≠ .none → d.rep.pending = some x → e.rep = { d.rep with
          counts := { d.rep.counts with merged := bump d.rep.counts.merged } })) ∧
      (∀ l q, lines = [l] → d.quota? l.species = some q → d.rep.st ≠ .none →
        let st := Device.quotaState (consumed l.species) q.quota
        d.console.general.entries.length < 24 → OwedRef.quota l.species ∉ d.console.general.owed →
        e.console.general.entries = d.console.general.entries ++
          (if st = q.st then [] else [⟨.quotaState, 0, .report
            [.num 1 l.species.a, .num 1 l.species.b, .num 1 l.species.c, .num 3 q.quota, .num 3 (consumed l.species),
             .num 1 (Device.quotaStateCode (some q.st)), .num 1 (Device.quotaStateCode (some st)), .num 1 0], 0⟩])))

/-! ## Catch reports -/

/-- REPORT_NOW is TAKEN, and REPORT_HOUR, at its own moment (the model's choice, log entry 1), sets the next day's hour;
both are triggers (R174). A trigger with a report in flight becomes the pending request or merges with it (R175);
with none and no free slot it is pending and reported (R178; a free slot is judged after this exchange's own report
has gone up, log entry 8); a QUOTA trigger without lines is reported as such (R177, log entry 22); else a report is
built with the next number, its lines the cells with something unreported, its body and its transfer (R176).
RECEIPT_DEADLINE ends the report LOST: its amounts return to the tally, its page is released, and the loss is
counted.
A receipt by its number, its result and the report in flight (R182); what ends with a report (R179, R181) and what a
transfer's outcome does to it (R180); and a quota notice: its tests, its entries one by one, and its report (R183,
R184; a removed entry reported with its present state as the previous one, log entry 28). What CATCH REPORT STATE
carries at each event is log entry 23. -/
def Obligations.ReportEvents : Prop :=
  ((∀ (tag : Nat) (s : State), s.dev.live = true →
    let c := s.dev.completeExchange
    (c.rep.st ≠ .none → c.rep.pending = none →
      exec (.reportNow tag) s = .next { s with dev := Device.settle (Device.echo { c with
        rep := { c.rep with pending := some .ordered } } tag .taken) }) ∧
    (c.rep.st = .none → ∀ i, c.catchAllowed = true → c.freeSlot? = some i → c.xfer.slots.length = 8 →
      ∃ d : Device, exec (.reportNow tag) s = .next { s with dev := (d.echo tag .taken).settle } ∧
        d.rep.st = .inTransfer ∧ d.rep.num = some (c.rep.counter % 4095 + 1) ∧ d.rep.kind = some .ordered ∧
        d.rep.lineCount = (c.log.cells.filter makesLine).length ∧ d.rep.buildUtc = c.utcNow ∧
        d.rep.counts.built = bump c.rep.counts.built ∧ (d.slot i).origin = .catchReport ∧ (d.slot i).st ≠ .free ∧
        d.log.cells.length = c.log.cells.length ∧ d.log.hauls = c.log.hauls)) ∧
  ∀ (t : Time) (s : State), s.dev.resetLow = false → s.dev.rep.hourDue = some t → s.dev.rep.st ≠ .none →
    s.dev.rep.pending = none →
    exec .reportHour s = .next { s with dev := Device.settle { s.dev with
      now := max s.dev.now t,
      rep := { s.dev.rep with hourDue := some (t + 86400000), pending := some .scheduled } } }) ∧
  (∀ (n : Nat) (t : Time) (s : State), s.dev.resetLow = false → s.dev.rep.st = .awaitingReceipt →
    s.dev.rep.deadline = some (.running t) → s.dev.rep.num = some n → s.dev.rep.pending = none →
    ∃ d : Device, exec .receiptDeadline s = .next { s with dev := d.settle } ∧ d.now = max s.dev.now t ∧
      d.rep.st = .none ∧ d.rep.lastEnding = some (n, .lost) ∧ d.rep.deadline = none ∧
      d.rep.counts.lost = bump s.dev.rep.counts.lost ∧
      (∀ g, s.dev.rep.grant = some g → d.store = s.dev.store.release g) ∧
      d.log.cells.map (fun c => (c.rect, c.species, c.retained.total, c.retained.reported))
        = s.dev.log.cells.map (fun c => (c.rect, c.species, c.retained.total, c.retained.reported)) ∧
      (∀ c ∈ d.log.cells, c.retained.inFlight = 0 ∧ c.discarded.inFlight = 0 ∧ c.hauls.inFlight = 0) ∧
      d.log.hauls = s.dev.log.hauls ∧ d.log.quotas = s.dev.log.quotas) ∧
  ((∀ (t : Time) (s : State), s.dev.resetLow = false → s.dev.rep.hourDue = some t →
      exec .reportHour s = .next { s with dev := Device.settle (Device.trigger { s.dev with
        now := max s.dev.now t, rep := { s.dev.rep with hourDue := some (t + 86400000) } } .scheduled) }) ∧
    (∀ (tag : Nat) (s : State), s.dev.live = true →
      exec (.reportNow tag) s
        = .next { s with dev := ((s.dev.completeExchange.trigger .ordered).echo tag .taken).settle }) ∧
    ∀ (d : Device) (kind : ReportReason),
      let first : ReportReason → ReportReason → ReportReason := fun a b =>
        if a = .ordered ∨ b = .ordered then .ordered else if a = .scheduled ∨ b = .scheduled then .scheduled else .quota
      let entered := { d.rep with
        pending := some (match d.rep.pending with | none => kind | some k => first kind k),
        counts := match d.rep.pending with
          | none => d.rep.counts
          | some _ => { d.rep.counts with merged := bump d.rep.counts.merged } }
      let unsent : TallyCell → Bool := fun c =>
        decide (0 < c.retained.unreported ∨ 0 < c.discarded.unreported ∨ 0 < c.hauls.unreported)
      let lines := d.log.cells.filter unsent
      let num := d.rep.counter % 4095 + 1
      let taken : Prop := (∃ j, j < 8 ∧ (d.slot j).st = .free) ∧ ∀ x ∈ d.xfer.slots, x.origin = .catchReport → x.st = .free
      let queued : Device → Nat → List Datum → Prop := fun e event data =>
        OwedRef.report ∉ d.console.general.owed → d.console.general.entries.length < 24 →
          e.console.general.entries = d.console.general.entries ++
            [⟨.catchReportState, 0, .report (.num 1 event :: data), 0⟩]
      (d.rep.st ≠ .none → d.trigger kind = { d with rep := entered }) ∧
      (d.rep.st = .none → kind = .quota → lines = [] →
        (d.trigger kind) = { d with console := (d.trigger kind).console } ∧
        queued (d.trigger kind) 5 [optNum 2 none, optNum 1 (some ReportReason.quota.code), count16 0, utcData none,
          optNum 1 none, optNum 2 none, optNum 1 (d.rep.pending.map ReportReason.code)]) ∧
      (d.rep.st = .none → ¬taken → kind ≠ .quota ∨ lines ≠ [] →
        (d.trigger kind) = { d with
          rep := { entered with counts := { entered.counts with slotWaits := bump d.rep.counts.slotWaits } },
          console := (d.trigger kind).console } ∧
        queued (d.trigger kind) 6 [optNum 2 none, optNum 1 (some kind.code), count16 0, utcData none,
          optNum 1 none, optNum 2 none, optNum 1 (entered.pending.map ReportReason.code)]) ∧
      (∀ i id y, d.rep.st = .none → taken → kind ≠ .quota ∨ lines ≠ [] → i < 8 → (d.slot i).st = .free →
        (∀ j, j < i → (d.slot j).st ≠ .free) → i < d.xfer.slots.length →
        d.store.reserve .report (8 + 19 * lines.length) = (.granted id, y) →
        let e := d.trigger kind
        e.rep = { d.rep with
          st := .inTransfer, num := some num, kind := some kind, buildUtc := d.utcNow, lineCount := lines.length,
          grant := some id, early := none, counter := num,
          counts := { d.rep.counts with
            built := bump d.rep.counts.built, nil := if lines = [] then bump d.rep.counts.nil else d.rep.counts.nil } } ∧
        e.log = { d.log with cells := d.log.cells.map fun c => if unsent c then { c with
          retained := { c.retained with inFlight := c.retained.inFlight + c.retained.unreported },
          discarded := { c.discarded with inFlight := c.discarded.inFlight + c.discarded.unreported },
          hauls := { c.hauls with inFlight := c.hauls.inFlight + c.hauls.unreported } } else c } ∧
        (∃ mo da h mi, (d.utcNow = none → [mo, da, h, mi] = [63, 63, 63, 63]) ∧
          (∀ u, d.utcNow = some u → (mo, da) = (dateOf ((u + epochShift) / 86400)).2 ∧
            h = (u + epochShift) / 3600 % 24 ∧ mi = (u + epochShift) / 60 % 60) ∧
          e.store = y.writeSyms id 0 (toSyms 2 num ++
            [(match kind with | .scheduled => 0 | .ordered => 1 | .quota => 2), mo, da, h, mi, lines.length] ++
            lines.flatMap fun c =>
              toSyms 4 c.rect ++ [c.species.a, c.species.b, c.species.c] ++ toSyms 4 c.retained.unreported ++
              toSyms 4 c.discarded.unreported ++ toSyms 3 c.hauls.unreported ++
              [flag c.saturated + 2 * flag c.estimated + 4 * flag c.longTow])) ∧
        (e.slot i).origin = .catchReport ∧ (e.slot i).cls = .catchReport ∧ (e.slot i).dest = d.config.port ∧
        (e.slot i).orig = d.config.own ∧ (e.slot i).grant = some id ∧ (e.slot i).len = 8 + 19 * lines.length ∧
        (e.slot i).cnt = (8 + 19 * lines.length + 110) / 111 ∧ (e.slot i).lifetimeEnd = d.now + 43200000 ∧
        (∀ j, j ≠ i → e.slot j = d.slot j) ∧
        queued e 0 [optNum 2 (some num), optNum 1 (some kind.code), count16 lines.length,
          utcData (d.utcNow.map Int.ofNat), optNum 1 none, optNum 2 none,
          optNum 1 (d.rep.pending.map ReportReason.code)]) ∧
      (∀ k, d.rep.st = .none → taken → d.rep.pending = some k →
        d.slotFreed = Device.trigger { d with rep := { d.rep with pending := none } } k) ∧
      (d.rep.st ≠ .none ∨ ¬taken ∨ d.rep.pending = none → d.slotFreed = d)) ∧
  (∀ (d : Device) (m : Message),
    let queued : Device → Device → ReportKind → List Datum → Prop := fun e x kind data =>
      e = { x with console := e.console, rep := { x.rep with counts := e.rep.counts } } ∧
      (x.console.general.entries.length < 24 →
        e.console.general.entries = x.console.general.entries ++ [⟨kind, 0, .report data, 0⟩] ∧
        e.rep.counts.lostReports = x.rep.counts.lostReports) ∧
      (24 ≤ x.console.general.entries.length →
        e.console = x.console ∧ e.rep.counts.lostReports = bump x.rep.counts.lostReports)
    let late : Device → Device → Nat → Nat → Prop := fun e x num result =>
      queued e x .lateReceipt [.num 2 num, .num 1 result, .num 1 x.rep.st.code, optNum 2 x.rep.num] ∧
        e.rep.counts.lateReceipts = bump x.rep.counts.lateReceipts
    let text := d.store.readSyms m.grant 0 m.len
    let num := symsAt text 0 2
    let result := symAt text 2
    let good : Prop := m.len = 3 ∧ num ≠ 0 ∧ result ≤ 1
    let said : Ending := if result = 0 then .accepted else .rejected
    let x : Device := { d with store := d.store.release m.grant }
    (m.orig ≠ d.config.port →
      queued (d.receipt m) x .noticeRejected [.num 1 0, .num 3 m.orig, .num 1 0] ∧
        (d.receipt m).rep.counts.rejectedNotices = bump d.rep.counts.rejectedNotices) ∧
    (m.orig = d.config.port → ¬good →
      queued (d.receipt m) x .noticeRejected [.num 1 0, .num 3 m.orig, .num 1 1] ∧
        (d.receipt m).rep.counts.rejectedNotices = bump d.rep.counts.rejectedNotices) ∧
    (m.orig = d.config.port → good →
      (d.rep.num = some num → d.rep.st = .awaitingReceipt → d.receipt m = x.endReport said none) ∧
      (d.rep.num = some num → d.rep.st = .inTransfer → d.rep.early = none →
        d.receipt m = { x with rep := { d.rep with early := some said } }) ∧
      (d.rep.num ≠ some num ∨ d.rep.st = .none ∨ d.rep.st = .inTransfer ∧ d.rep.early ≠ none →
        late (d.receipt m) x num result)) ∧
    (∀ (e : Ending) (cause : Option LostCause), ∃ y : Device,
      y.rep = { d.rep with
        st := .none, lastEnding := d.rep.num.map fun n => (n, e), num := none, kind := none, buildUtc := none,
        lineCount := 0, grant := none, deadline := none, early := none,
        counts := match e with
          | .accepted => { d.rep.counts with accepted := bump d.rep.counts.accepted }
          | .rejected => { d.rep.counts with rejected := bump d.rep.counts.rejected }
          | .lost => { d.rep.counts with lost := bump d.rep.counts.lost } } ∧
      y.log = { d.log with cells := d.log.cells.map fun c =>
        let settled : Amount → Amount := fun a => { a with
          reported := if e = .accepted then a.reported + a.inFlight else a.reported, inFlight := 0 }
        { c with retained := settled c.retained, discarded := settled c.discarded, hauls := settled c.hauls } } ∧
      y.store = (match d.rep.grant with | none => d.store | some g => d.store.release g) ∧
      y = { d with log := y.log, store := y.store, rep := y.rep, console := y.console } ∧
      (OwedRef.report ∉ d.console.general.owed → d.console.general.entries.length < 24 →
        y.console.general.entries = d.console.general.entries ++ [⟨.catchReportState, 0, .report
          [.num 1 (match e with | .accepted => 2 | .rejected => 3 | .lost => 4), optNum 2 d.rep.num,
           optNum 1 (d.rep.kind.map ReportReason.code), count16 d.rep.lineCount,
           utcData (d.rep.buildUtc.map Int.ofNat), optNum 1 (cause.map LostCause.code), optNum 2 none,
           optNum 1 (d.rep.pending.map ReportReason.code)], 0⟩]) ∧
      (d.rep.pending = none → d.endReport e cause = y) ∧
      (∀ k, d.rep.pending = some k →
        d.endReport e cause = Device.trigger { y with rep := { y.rep with pending := none } } k)) ∧
    (d.rep.st = .inTransfer → ∀ o,
      (∀ e, d.rep.early = some e → d.catchOutcome o = d.endReport e none) ∧
      (d.rep.early = none → o = .expired → d.catchOutcome o = d.endReport .lost (some .expired)) ∧
      (d.rep.early = none → o = .flushed → d.catchOutcome o = d.endReport .lost (some .flushed)) ∧
      (d.rep.early = none → o = .delivered → ∃ c, d.catchOutcome o = { d with
        rep := { d.rep with
          st := .awaitingReceipt,
          deadline := some (if d.holdInForce = true then .paused (d.config.receipt * 60000)
            else .running (d.now + d.config.receipt * 60000)) },
        console := c } ∧
        (OwedRef.report ∉ d.console.general.owed → d.console.general.entries.length < 24 →
          c.general.entries = d.console.general.entries ++ [⟨.catchReportState, 0, .report
            [.num 1 1, optNum 2 d.rep.num, optNum 1 (d.rep.kind.map ReportReason.code), count16 d.rep.lineCount,
             utcData (d.rep.buildUtc.map Int.ofNat), optNum 1 none, optNum 2 (some d.config.receipt),
             optNum 1 (d.rep.pending.map ReportReason.code)], 0⟩])))) ∧
  (∀ text : List Nat,
    let n := symAt text 2
    let sp : Nat → Species := fun k => ⟨symAt text (3 + 7 * k), symAt text (3 + 7 * k + 1), symAt text (3 + 7 * k + 2)⟩
    let quota : Nat → Nat := fun k => symsAt text (3 + 7 * k + 3) 4
    let good : Prop := 3 ≤ text.length ∧ n ≤ 16 ∧ text.length = 3 + 7 * n ∧
      (∀ k, k < n → (sp k).a ≤ 25 ∧ (sp k).b ≤ 25 ∧ (sp k).c ≤ 25 ∧ quota k ≤ 10000000) ∧
      ∀ j k, j < k → k < n → sp j ≠ sp k
    (good → readNotice text = some (symsAt text 0 2,
      (List.range n).map fun k => ⟨sp k, if quota k = 10000000 then none else some (quota k)⟩)) ∧
    (¬good → readNotice text = none)) ∧
  (∀ (d : Device) (m : Message),
    let queued : Device → ReportKind → List Datum → Prop := fun e kind data =>
      d.console.general.entries.length < 24 →
        e.console.general.entries = d.console.general.entries ++ [⟨kind, 0, .report data, 0⟩]
    let text := d.store.readSyms m.grant 0 m.len
    let e := d.quotaNotice m
    let idle : Prop := e.log = d.log ∧ e.store = d.store.release m.grant ∧ e.rep = { d.rep with counts := e.rep.counts }
    (m.orig ≠ d.config.port → idle ∧ queued e .noticeRejected [.num 1 1, .num 3 m.orig, .num 1 0] ∧
      e.rep.counts.rejectedNotices = bump d.rep.counts.rejectedNotices) ∧
    (m.orig = d.config.port → readNotice text = none →
      idle ∧ queued e .noticeRejected [.num 1 1, .num 3 m.orig, .num 1 1] ∧
      e.rep.counts.rejectedNotices = bump d.rep.counts.rejectedNotices) ∧
    (m.orig = d.config.port → ∀ num es, readNotice text = some (num, es) →
      (∀ last, d.rep.lastNotice = some last → newer num last = false →
        idle ∧ queued e .noticeStale [.num 2 num, .num 2 last] ∧ e.rep.counts.stale = bump d.rep.counts.stale) ∧
      ((∀ last, d.rep.lastNotice = some last → newer num last = true) →
        e = Device.applyNotice { d with store := d.store.release m.grant } num es))) ∧
  (∀ (d : Device) (num : Nat) (es : List NoticeEntry),
    let done := es.foldl Device.applyEntry (d, ⟨0, 0, 0, 0, false⟩)
    let t := done.2
    ∃ y : Device, y = { done.1 with rep := y.rep, console := y.console } ∧ y.rep.lastNotice = some num ∧
      y.rep = { done.1.rep with lastNotice := some num, counts := y.rep.counts } ∧
      (t.ignored = 0 → y.rep.counts.applied = bump done.1.rep.counts.applied) ∧
      (t.ignored ≠ 0 → y.rep.counts.partly = bump done.1.rep.counts.partly) ∧
      (done.1.console.general.entries.length < 24 →
        y.console.general.entries = done.1.console.general.entries ++
          [⟨if t.ignored = 0 then .noticeApplied else .noticePartial, 0, .report
            [.num 2 num, count16 t.updated, count16 t.made, count16 t.removed, count16 t.ignored], 0⟩]) ∧
      d.applyNotice num es = (if t.reached = true then y.trigger .quota else y)) ∧
  (∀ (d : Device) (t : NoticeTally) (e : NoticeEntry),
    let x := (Device.applyEntry (d, t) e).1
    let u := (Device.applyEntry (d, t) e).2
    let stated : QuotaEntry → Nat → Nat → Prop := fun q prev new =>
      d.console.general.entries.length < 24 →
        x.console.general.entries = d.console.general.entries ++
          [⟨.quotaState, 0, .report (Device.quotaData q.species q.quota q.consumed prev new 1), 0⟩]
    let rest : Prop := x.log.cells = d.log.cells ∧ x.log.hauls = d.log.hauls ∧ x.rep = d.rep ∧ x.store = d.store ∧
      ∀ s, s ≠ e.species → x.quota? s = d.quota? s
    rest ∧
    (e.quota = none → u = { t with removed := t.removed + 1 } ∧ x.quota? e.species = none ∧
      (d.quota? e.species = none → x = d) ∧
      ∀ q, d.quota? e.species = some q → stated q (match q.st with | .normal => 1 | .alert => 2 | .reached => 3) 4) ∧
    (∀ n, e.quota = some n →
      (∀ q, d.quota? e.species = some q →
        let st := Device.quotaState q.consumed n
        (∃ q', x.quota? e.species = some q' ∧ q'.quota = n ∧ q'.consumed = q.consumed ∧ q'.st = st) ∧
        u.updated = t.updated + 1 ∧ u.made = t.made ∧ u.removed = t.removed ∧ u.ignored = t.ignored ∧
        (u.reached = true ↔ t.reached = true ∨ q.st ≠ .reached ∧ n ≤ q.consumed) ∧
        (st = q.st → x.console = d.console) ∧
        (st ≠ q.st → OwedRef.quota e.species ∉ d.console.general.owed → stated { q with quota := n }
          (match q.st with | .normal => 1 | .alert => 2 | .reached => 3)
          (match st with | .normal => 1 | .alert => 2 | .reached => 3))) ∧
      (d.quota? e.species = none → d.log.quotas.length < 16 →
        let consumed := min ((d.log.cells.filter fun c => c.species == e.species).map fun c => c.retained.total).sum 9999999
        let st := Device.quotaState consumed n
        (∃ q', x.quota? e.species = some q' ∧ q'.quota = n ∧ q'.consumed = consumed ∧ q'.st = st) ∧
        u = { t with made := t.made + 1, reached := t.reached || decide (n ≤ consumed) } ∧
        (OwedRef.quota e.species ∉ d.console.general.owed →
          stated ⟨e.species, n, consumed, st, none⟩ 0 (match st with | .normal => 1 | .alert => 2 | .reached => 3))) ∧
      (d.quota? e.species = none → 16 ≤ d.log.quotas.length →
        x = d ∧ u = { t with ignored := t.ignored + 1 })))

/-! ## Console link -/

/-- CSEL_ASSERT settles the up frame: the one of a void exchange again (the model's reading, log entry 42), or the next
frame of the head entry of the distress lane, then of the general lane, or an idle frame (R192). CSEL_RELEASE before
the twelfth byte makes the exchange void and keeps its frame.
A complete exchange (CSEL taken as asserted where no exchange is in progress: log entry 7): it is counted, the frame
that went up has been sent, and with its last frame the entry leaves its lane, a DELIVERY's grant is released (R194)
and the first owed mark is served with a report of what it owes (R193). The part's other blocks stay as they are.
ATTN is asserted exactly while a lane holds an entry and CSEL is not asserted (R190).
Marks are served oldest first while the lane has a place (R193), each with the report it owes: CONFIGURED, the
channel's state, PROTECTION with cause OWED from the state before the first unreported change (R47), LOOP RESULT,
TRANSFER OUTCOME with its slot freed (R92), the delivery, OWN ALERT STATE, CASE UPDATE or CASE CLOSED, the hold's
start or end (R129), FORECAST READY or EXPIRED, WARNING (R146), QUOTA STATE (R168) and CATCH REPORT STATE (R185).
The key-time an owed PROTECTION carries (log entry 51) and the fields of an owed CATCH REPORT STATE (log entry 23)
are the model's reading.
Every other report of a record is queued in a lane with room; with a full lane the record takes one mark at the end
of the lane's owed list, and while the mark stands nothing is queued for it (R193): CHANNEL BLOCKED (R33), LOOP
RESULT with its kept result (R50), a delivery (R194), FORECAST READY, UPDATED and EXPIRED and WARNING, which is lost
with its record (R146), QUOTA STATE with the state it is owed from (R168), CATCH REPORT STATE (R185; the line count
0 of an event without a report is the model's choice, log entry 80), OWN ALERT STATE, CASE UPDATE, CASE CLOSED, HOLD
STARTED and HOLD ENDED (R129). A freed case's mark passes to the new case in its place (R129). -/
def Obligations.Exchanges : Prop :=
  (((∀ s : State, s.dev.resetLow = false →
    let k := s.dev.console
    let bytes := fun e : Entry =>
      [k.echoTag, k.echoDisp.code, e.kind.code + (if e.sent + 1 = (s.dev.entryContents e).length then 128 else 0),
       e.tag, e.sent % 256] ++ (s.dev.entryContents e).getD e.sent [0, 0, 0, 0, 0, 0, 0]
    let asserted := fun up : UpFrame =>
      Host.Outcome.next { s with dev := { s.dev with console := { k with exchange := .running up, reoffer := none } } }
    (k.exchange = .idle →
      (∀ up, k.reoffer = some up → exec .cselAssert s = asserted up) ∧
      (k.reoffer = none →
        (∀ e r, k.distress.entries = e :: r → exec .cselAssert s = asserted ⟨bytes e, some .distress⟩) ∧
        (∀ e r, k.distress.entries = [] → k.general.entries = e :: r →
          exec .cselAssert s = asserted ⟨bytes e, some .general⟩) ∧
        (k.distress.entries = [] → k.general.entries = [] →
          exec .cselAssert s = asserted ⟨[k.echoTag, k.echoDisp.code] ++ List.replicate 10 0, none⟩))) ∧
    (k.exchange ≠ .idle → exec .cselAssert s = .next s) ∧
    (k.exchange = .idle → exec .cselRelease s = .next s) ∧
    (k.exchange = .finished →
      exec .cselRelease s = .next { s with dev := { s.dev with console := { k with exchange := .idle } } }) ∧
    ∀ up, k.exchange = .running up →
      exec .cselRelease s = .next { s with dev := { s.dev with console := { k with
        exchange := .idle, reoffer := some up, counts := { k.counts with void := bump k.counts.void } } } }) ∧
  (∀ d : Device,
    let e := d.completeExchange
    let done := { d with console := { d.console with
      exchange := .finished,
      counts := { d.console.counts with complete := bump d.console.counts.complete } } }
    e.console.exchange = .finished ∧ e.console.counts.complete = bump d.console.counts.complete ∧
    e.fixed = d.fixed ∧ e.now = d.now ∧ e.tx = d.tx ∧ e.rx = d.rx ∧ e.distress = d.distress ∧
    e.weather = d.weather ∧ e.waits = d.waits ∧ e.log.hauls = d.log.hauls ∧ e.access.onAir = d.access.onAir ∧
    e.access.answer = d.access.answer ∧ e.access.distress = d.access.distress ∧
    e.access.priority = d.access.priority ∧
    (d.console.exchange = .idle ∨ d.console.exchange = .finished →
      e = Device.completeExchange { d with console := { d.console with
        exchange := .running (d.console.reoffer.getD d.settledUpFrame), reoffer := none } }) ∧
    ∀ up, d.console.exchange = .running up →
      (up.lane = none → e = done) ∧
      ∀ n x rest, up.lane = some n → (d.lane n).entries = x :: rest →
        (x.sent + 1 < (d.entryContents x).length →
          e = done.onLane n fun l => { l with entries := { x with sent := x.sent + 1 } :: rest }) ∧
        ((d.entryContents x).length ≤ x.sent + 1 →
          ((d.lane n).owed = [] →
            (∀ data, x.body = .report data → e = done.onLane n fun l => { l with entries := rest }) ∧
            (∀ id r, x.body = .delivery id → d.console.deliveries.find? (fun y => y.id == id) = some r →
              e = Device.onLane { done with
                store := d.store.release r.grant,
                console := { done.console with deliveries := d.console.deliveries.filter fun y => y.id != id } }
                n fun l => { l with entries := rest })) ∧
          (∀ data, x.body = .report data →
            (∀ marks, n = .general → rest.length = 23 → d.console.general.owed = .blocked :: marks →
              OwedRef.blocked ∉ marks → d.access.blocked = true →
              e = { done with console := { done.console with
                general := ⟨rest ++ [⟨.channelBlocked, 0, .report [], 0⟩], marks⟩ } }) ∧
            (∀ marks, n = .distress → rest.length = 7 → d.console.distress.owed = .ownAlert :: marks →
              OwedRef.ownAlert ∉ marks →
              e = { done with console := { done.console with
                distress := ⟨rest ++ [⟨.ownAlertState, 0, .report
                  (d.ownAlertData .owed d.distress.own.num (d.distress.own.ackedBy.getD 0)), 0⟩], marks⟩ } }) ∧
            (∀ mark marks, (d.lane n).owed = mark :: marks → rest.length < n.capacity →
              let f := (done.onLane n fun _ => ⟨rest, marks⟩).serveMark mark
              f.laneRoom n = false → e = f)))) ∧
  ∀ d : Device, d.attn = true ↔
    (d.console.distress.entries ≠ [] ∨ d.console.general.entries ≠ []) ∧ d.console.exchange = .idle) ∧
  (∀ (d : Device) (n : LaneName) (k : Nat),
    d.serveOwed n 0 = d ∧
    ((d.lane n).owed = [] → d.serveOwed n (k + 1) = d) ∧
    (d.laneRoom n = false → d.serveOwed n (k + 1) = d) ∧
    ∀ mark rest, (d.lane n).owed = mark :: rest → d.laneRoom n = true →
      d.serveOwed n (k + 1) = ((d.onLane n fun l => { l with owed := rest }).serveMark mark).serveOwed n k) ∧
  (∀ (d : Device) (up : UpFrame) (n : LaneName) (x : Entry) (rest : List Entry),
    d.console.exchange = .running up → up.lane = some n → (d.lane n).entries = x :: rest →
    (d.entryContents x).length ≤ x.sent + 1 →
    let gone := Device.onLane { d with console := { d.console with
      exchange := .finished,
      counts := { d.console.counts with complete := bump d.console.counts.complete } } } n
      fun l => { l with entries := rest }
    let freed := match x.body with
      | .report _ => gone
      | .delivery id => match d.console.deliveries.find? (fun y : Delivery => y.id == id) with
        | none => gone
        | some r => { gone with
            store := gone.store.release r.grant,
            console := { gone.console with deliveries := gone.console.deliveries.filter fun y : Delivery => y.id != id } }
    d.completeExchange = freed.serveOwed n ((d.lane n).owed.length + 32)) ∧
  (∀ (d : Device), d.console.general.entries.length < 24 →
    let general := fun (e : Device) (kind : ReportKind) (tag : Nat) (data : List Datum) =>
      { e with console := { e.console with general := { e.console.general with
        entries := e.console.general.entries ++ [⟨kind, tag, .report data, 0⟩] } } }
    let unmarked := fun r : OwedRef => r ∉ d.console.general.owed
    (unmarked .setup → d.serveMark .setup = general d .configured 0
      (.num 1 d.console.marks.length :: d.console.marks.map fun i => .num 1 i)) ∧
    (unmarked .blocked →
      (d.access.blocked = true → d.serveMark .blocked = general d .channelBlocked 0 []) ∧
      (d.access.blocked = false → d.serveMark .blocked =
        general d .channelCleared 0 [.num 2 (min d.access.lastBlocked 65535)])) ∧
    (∀ m, unmarked (.monitor m) →
      let x := d.monitor m
      d.serveMark (.monitor m) = general (d.onMonitor m fun x => { x with owedFrom := none }) .protection 0
        [.num 1 (monitorCode m), .num 1 (x.owedFrom.getD x.st).code, .num 1 x.st.code, .num 1 8,
         .num 2 (min d.prot.trips 65535),
         .num 2 (min (match d.access.onAir with | none => 0 | some a => d.now - a.keyedAt) 65535)]) ∧
    (∀ k, unmarked .loop → d.loop.kept = some k →
      d.serveMark .loop = general { d with loop := { d.loop with kept := none } } .loopResult k.tag
        [.num 1 k.outcome.code, .num 2 (min k.mutilated 65535), .num 1 (if k.check then 0 else 1)]) ∧
    (∀ i o, i < d.xfer.slots.length → (d.slot i).outcome = some o →
      let s := d.slot i
      let told := general d .transferOutcome 0 [.num 1 s.tag, .num 1 o.code, .num 1 s.num, .num 3 s.dest,
        .num 3 s.lastHop, .num 2 (min (if o = .delivered then s.cnt else s.idx) 65535)]
      d.serveMark (.slot i) = Device.slotFreed { told with xfer := { d.xfer with
        slots := d.xfer.slots.set i Slot.free } }) ∧
    (∀ id, d.serveMark (.delivery id) = { d with console := { d.console with general := { d.console.general with
      entries := d.console.general.entries ++ [⟨.delivery, 0, .delivery id, 0⟩] } } }) ∧
    (∀ area, unmarked (.forecast area) →
      (∀ f, d.forecast? area true = some f → d.serveMark (.forecast area) = general d .forecastReady 0
        [.num 1 f.area, .num 3 f.issuer, .num 2 f.issue, .num 2 (min f.cnt 65535), .num 1 (if f.marred then 1 else 0),
         .num 1 f.day, .num 1 f.hour, .num 1 f.minute, .num 1 f.validFor, utcData f.validUntil,
         .num 2 (min f.textLen 65535), .num 1 1]) ∧
      ∀ x, d.forecast? area true = none → d.weather.lastFreed.find? (fun y : LastFreed => y.area == area) = some x →
        d.serveMark (.forecast area) = general d .forecastExpired 0 [.num 1 area, .num 3 x.issuer, .num 2 x.issue]) ∧
    (∀ issuer issue w, unmarked (.warning w.issuer w.issue) → d.warning? issuer issue = some w →
      d.serveMark (.warning issuer issue) = general d .warning 0
        ([.num 3 w.issuer, .num 2 w.issue, .num 1 w.severity.code, .num 1 w.day, .num 1 w.hour, .num 1 w.minute,
          .num 1 w.validFor, utcData w.validUntil, .num 1 w.areas.length] ++ (w.areas.map fun a => .num 1 a) ++
         [.num 1 (if w.wanted then 1 else 0), .num 2 (min w.score 65535), .num 1 3,
          .text (d.store.readSyms w.grant 0 w.len)])) ∧
    (∀ sp q, unmarked (.quota sp) → d.quota? sp = some q →
      d.serveMark (.quota sp) = general { d with log := { d.log with
        quotas := d.log.quotas.map fun x => if x.species = sp then { x with owedFrom := none } else x } } .quotaState 0
        [.num 1 sp.a, .num 1 sp.b, .num 1 sp.c, .num 3 q.quota, .num 3 q.consumed,
         .num 1 (Device.quotaStateCode (q.owedFrom.getD (some q.st))), .num 1 (Device.quotaStateCode (some q.st)), .num 1 2]) ∧
    (unmarked .report →
      let r := d.rep
      d.serveMark .report = general d .catchReportState 0
        [.num 1 7, optNum 2 r.num, optNum 1 (r.kind.map ReportReason.code), .num 2 (min r.lineCount 65535),
         utcData (r.buildUtc.map Int.ofNat), optNum 1 none,
         optNum 2 (r.deadline.map fun c => (match c with | .running t => t - d.now | .paused l => l) / 60000),
         optNum 1 (r.pending.map ReportReason.code), .num 1 r.st.code,
         optNum 2 (r.lastEnding.map fun x => x.1), optNum 1 (r.lastEnding.map fun x => x.2.code)])) ∧
  ∀ (d : Device), d.console.distress.entries.length < 8 →
    let distress := fun (e : Device) (kind : ReportKind) (data : List Datum) =>
      { e with console := { e.console with distress := { e.console.distress with
        entries := e.console.distress.entries ++ [⟨kind, 0, .report data, 0⟩] } } }
    let unmarked := fun r : OwedRef => r ∉ d.console.distress.owed
    (unmarked .ownAlert →
      let o := d.distress.own
      d.serveMark .ownAlert = distress d .ownAlertState
        [.num 1 o.st.code, .num 1 o.num, .num 1 o.nature, optNum 1 o.persons, .num 1 11, .num 3 (o.ackedBy.getD 0),
         .num 1 (match d.console.fix with | none => 2 | some f => if 600000 ≤ d.now - f.takenAt then 1 else 0),
         .num 2 (min o.cancelCount 65535)]) ∧
    (∀ st c, unmarked (.caseOf st) → d.case? st = some c →
      (∀ r, c.st = .closed → c.closeReason = some r → d.serveMark (.caseOf st) = distress d .caseClosed
        [.num 3 st, .num 1 c.alert, .num 1 r.code]) ∧
      (c.st ≠ .closed → d.serveMark (.caseOf st) = distress d .caseUpdate
        ([.num 3 c.station, .num 1 (c.alert * 4 + c.st.code), .num 1 (6 * 16 + c.nature),
          .num 1 ((if c.readable then 1 else 0) + 2 * (if c.pos.isSome then 1 else 0) +
            4 * (if c.posTime.isSome then 1 else 0) + 8 * (if c.persons.isSome then 1 else 0) +
            16 * (if c.via.isNone then 1 else 0) +
            (match c.ackedBy with | none => 0 | some .own => 96 | some (.station _) => 32))] ++
         positionData c.pos ++ hourMinuteData c.posTime ++
         [optNum 1 c.persons, .num 3 (c.via.getD 0),
          .num 3 (match c.ackedBy with | none => 0 | some .own => d.config.own | some (.station s) => s)]))) ∧
    (unmarked .hold →
      (d.holdInForce = true → d.serveMark .hold = distress d .holdStarted
        [.num 1 d.distress.holdCause, .num 3 d.distress.holdStation,
         .num 2 (min (match d.distress.holdTimer with | none => 0 | some t => (t - d.now) / 1000) 65535)]) ∧
      (d.holdInForce = false → d.serveMark .hold = distress d .holdEnded [.num 2 (min d.distress.lastHold 65535)]))) ∧
  ∀ d : Device,
    let tell := fun (room : Nat) (l : Lane) (kind : ReportKind) (tag : Nat) (mark : OwedRef) (data : List Datum) =>
      if mark ∈ l.owed then l
      else if l.entries.length < room then { l with entries := l.entries ++ [⟨kind, tag, .report data, 0⟩] }
      else { l with owed := l.owed ++ [mark] }
    let general := fun (e : Device) (kind : ReportKind) (tag : Nat) (mark : OwedRef) (data : List Datum) =>
      { e with console := { e.console with general := tell 24 d.console.general kind tag mark data } }
    let distress := fun (e : Device) (kind : ReportKind) (mark : OwedRef) (data : List Datum) =>
      { e with console := { e.console with distress := tell 8 d.console.distress kind 0 mark data } }
    let inGeneral := fun (e : Device) (kind : ReportKind) (mark : OwedRef) (data : List Datum) =>
      e.console.general = tell 24 d.console.general kind 0 mark data
    let inDistress := fun (e : Device) (kind : ReportKind) (mark : OwedRef) (data : List Datum) =>
      e.console.distress = tell 8 d.console.distress kind 0 mark data
    -- CHANNEL BLOCKED (R33)
    (∀ t, d.access.notClearSince = some t → d.access.blocked = false →
      d.channelBlocks = general { d with
        now := max d.now (t + 120000), access := { d.access with blocked := true } } .channelBlocked 0 .blocked []) ∧
    -- LOOP RESULT (R50)
    (∀ k, d.reportLoop k =
      let e := general d .loopResult k.tag .loop
        [.num 1 k.outcome.code, .num 2 (min k.mutilated 65535), .num 1 (if k.check then 0 else 1)]
      { e with loop := { d.loop with kept := if .loop ∈ e.console.general.owed then some k else d.loop.kept } }) ∧
    (d.loop.st ≠ .idle → d.abandonLoop = Device.reportLoop { d with
      rx := if d.loop.st = .looping then Rx.blank .hunting else d.rx, loop := { d.loop with st := .idle } }
      ⟨.abandoned, 0, false, d.loop.tag.getD 0⟩) ∧
    (∀ received, d.loop.st = .looping → Device.loopDone received d = Device.reportLoop { d with
      now := max d.now d.loop.endAt, rx := Rx.blank .hunting, loop := { d.loop with st := .idle } }
      (d.loopVerdict received)) ∧
    -- deliveries (R194)
    (∀ src num x, d.reasm? src num = some x → x.dest = d.config.own → x.cls = .text ∨ x.cls = .catchReport →
      let m := d.enterRecent src num
      let id := d.console.nextDelivery
      d.completeMessage src num = { m with
        xfer := { m.xfer with reasms := d.xfer.reasms.filter fun x => !(x.source == src && x.num == num) },
        console := { d.console with
          deliveries := d.console.deliveries ++ [⟨id, x.source, x.orig, x.cls, x.num, x.len, x.grant⟩],
          nextDelivery := id + 1,
          general := if d.console.general.entries.length < 24
            then { d.console.general with
              entries := d.console.general.entries ++ [⟨.delivery, 0, .delivery id, 0⟩] }
            else { d.console.general with owed := d.console.general.owed ++ [.delivery id] } } }) ∧
    -- forecasts and warnings (R146)
    (∀ area k, d.forecast? area false = some k → none ∉ k.parts →
      inGeneral (d.completeForecast area) .forecastReady (.forecast area) (forecastData { k with complete := true } 0 none)) ∧
    (∀ f h b, d.forecast? f.area true = some f → (∀ p, f.parts.getD h.idx none = some p → copyScore b < p.score) →
      ∃ g, (d.partToComplete f h b).forecast? f.area true = some g ∧
        inGeneral (d.partToComplete f h b) .forecastUpdated (.forecast f.area) (forecastData g 0 (some h.idx))) ∧
    (∀ f, inGeneral (d.expireForecast f) .forecastExpired (.forecast f.area)
      [.num 1 f.area, .num 3 f.issuer, .num 2 f.issue]) ∧
    (∀ h sev b, d.warning? h.issuer h.issue = none →
      (∃ id, (d.store.reserve .warning (b.body.drop (11 + h.areas.length)).length).1 = .granted id) →
      let e := d.storeWarning h sev b
      ∃ w, e.warning? h.issuer h.issue = some w ∧ inGeneral e .warning (.warning h.issuer h.issue)
        (warningData w 0 (some (e.store.readSyms w.grant 0 w.len)))) ∧
    (∀ h sev b old, d.warning? h.issuer h.issue = some old →
      let e := d.improveWarning old h sev b
      ∃ w, e.warning? h.issuer h.issue = some w ∧ inGeneral e .warning (.warning h.issuer h.issue)
        (warningData w 1 (some (e.store.readSyms w.grant 0 w.len)))) ∧
    (∀ w, OwedRef.warning w.issuer w.issue ∈ d.console.general.owed →
      (d.freeWarning w).console.general = { d.console.general with
        owed := d.console.general.owed.filter fun x => x != .warning w.issuer w.issue } ∧
      (d.freeWarning w).weather.counts = { d.weather.counts with
        lostReports := bump d.weather.counts.lostReports }) ∧
    -- quotas (R166, R168)
    (∀ sp prev cause q, d.quota? sp = some q →
      let l := d.console.general
      d.reportQuota sp prev cause =
        general { d with log := { d.log with
          quotas := if OwedRef.quota sp ∉ l.owed ∧ 24 ≤ l.entries.length
            then d.log.quotas.map fun x => if x.species = sp then { x with owedFrom := some prev } else x
            else d.log.quotas } } .quotaState 0 (.quota sp)
        [.num 1 sp.a, .num 1 sp.b, .num 1 sp.c, .num 3 q.quota, .num 3 q.consumed,
         .num 1 (Device.quotaStateCode prev), .num 1 (Device.quotaStateCode (some q.st)), .num 1 cause]) ∧
    -- CATCH REPORT STATE (R185)
    (∀ event minutes, d.reportCatchState event minutes = general d .catchReportState 0 .report
      [.num 1 event.code, optNum 2 d.rep.num, optNum 1 (d.rep.kind.map ReportReason.code),
       .num 2 (min d.rep.lineCount 65535), utcData (d.rep.buildUtc.map Int.ofNat), optNum 1 none, optNum 2 minutes,
       optNum 1 (d.rep.pending.map ReportReason.code)]) ∧
    (∀ event kind, d.reportCatchKind event kind = general d .catchReportState 0 .report
      [.num 1 event.code, optNum 2 none, optNum 1 (some kind.code), .num 2 0, utcData none, optNum 1 none, optNum 2 none,
       optNum 1 (d.rep.pending.map ReportReason.code)]) ∧
    (∀ ending cause, d.rep.pending = none → inGeneral (d.endReport ending cause) .catchReportState .report
      [.num 1 (match ending with | .accepted => 2 | .rejected => 3 | .lost => 4), optNum 2 d.rep.num,
       optNum 1 (d.rep.kind.map ReportReason.code), .num 2 (min d.rep.lineCount 65535),
       utcData (d.rep.buildUtc.map Int.ofNat), optNum 1 (cause.map LostCause.code), optNum 2 none, optNum 1 none]) ∧
    -- OWN ALERT STATE (R129)
    (∀ event num st, d.reportOwnHeard event num st =
      distress d .ownAlertState .ownAlert (d.ownAlertData event num st)) ∧
    (∀ event, d.reportOwn event = distress d .ownAlertState .ownAlert
      (d.ownAlertData event d.distress.own.num (d.distress.own.ackedBy.getD 0))) ∧
    (∀ nature persons,
      let e := d.raiseAgain nature persons
      inDistress e .ownAlertState .ownAlert (e.ownAlertData
        (if d.distress.own.st = .alerting then .updated else .raisedAgain) d.distress.own.num 0)) ∧
    (d.distress.own.st = .alerting ∨ d.distress.own.st = .acknowledged →
      let e := d.orderCancel.2
      inDistress e .ownAlertState .ownAlert
        (e.ownAlertData .cancelling d.distress.own.num (d.distress.own.ackedBy.getD 0))) ∧
    -- CASE UPDATE and CASE CLOSED (R129)
    (∀ st event c, d.case? st = some c →
      d.reportCase st event = distress d .caseUpdate (.caseOf st) (d.caseData c event)) ∧
    (∀ st alert facts via,
      let e := d.applyAlert st alert facts via
      (d.case? st = none → d.distress.cases.length < 6 → ∃ c, e.case? st = some c ∧
        inDistress e .caseUpdate (.caseOf st) (d.caseData c .created)) ∧
      ∀ c, d.case? st = some c →
        (c.alert ≠ alert → ∃ y, e.case? st = some y ∧
          inDistress e .caseUpdate (.caseOf st) (d.caseData y .newAlert)) ∧
        (c.alert = alert → c.st = .closed → c.closeReason ≠ some .cancelled → ∃ y, e.case? st = some y ∧
          inDistress e .caseUpdate (.caseOf st) (d.caseData y .reopened)) ∧
        (c.alert = alert → c.st ≠ .closed → ∃ y, e.case? st = some y ∧
          (y ≠ { c with lastHeard := d.now } →
            inDistress e .caseUpdate (.caseOf st) (d.caseData y .facts)) ∧
          (y = { c with lastHeard := d.now } → e.console = d.console))) ∧
    (∀ c st, c.st = .acked → (d.freeCase c st).console = (Device.passMark
      (distress d .caseClosed (.caseOf c.station) [.num 3 c.station, .num 1 c.alert, .num 1 3])
      .distress (.caseOf c.station) (.caseOf st)).console) ∧
    (∀ old new,
      let l := d.console.distress
      d.passMark .distress old new = { d with console := { d.console with distress := { l with
        owed := if new ∈ l.owed then l.owed.filter fun x => x != old
          else l.owed.map fun x => if x = old then new else x } } }) ∧
    (∀ c, c.ownAck ≠ .offered → d.case? c.station = some c →
      let e := d.acknowledgeCase c
      ∃ y, e.case? c.station = some y ∧ inDistress e .caseUpdate (.caseOf c.station) (d.caseData y .acked)) ∧
    (∀ st b c, d.case? st = some c → c.alert = b.seq → c.st = .unacked → b.pass = true →
      d.distress.settled.length < 63 →
      let e := d.distressAckHeard st b
      ∃ y, e.case? st = some y ∧ inDistress e .caseUpdate (.caseOf st) (d.caseData y .acked)) ∧
    -- HOLD STARTED and HOLD ENDED (R127, R129)
    (∀ cause st, inDistress (d.startHold cause st) .holdStarted .hold [.num 1 cause, .num 3 st,
      .num 2 (match d.distress.holdTimer with | none => 0 | some t => min ((t - d.now) / 1000) 65535)]) ∧
    inDistress d.endHold .holdEnded .hold
      [.num 2 (min (match d.distress.holdSince with | none => 0 | some t => (d.now - t) / 1000) 65535)]

/-- The frames without a block of their own: NONE is TAKEN and an unknown kind is refused with UNKNOWN KIND on an
UNCONFIGURED part too; a bad READ selector is refused with BAD PARAM. Each voids a setup in progress, an unknown kind and
a frame refused with NOT SET too (the model's reading, log entry 41). -/
def Obligations.FramesWithoutOwner : Prop :=
  ∀ (tag x : Nat) (s : State), s.dev.resetLow = false →
    exec (.noneFrame tag) s = .next { s with dev := (s.dev.completeExchange.leaveSetup.echo tag .taken).settle } ∧
    exec (.unknownKind tag x) s
      = .next { s with dev := (s.dev.completeExchange.leaveSetup.echo tag .unknownKind).settle } ∧
    (s.dev.ready = true →
      exec (.readBadSelector tag x) s = .next { s with dev := (s.dev.completeExchange.echo tag .badParam).settle }) ∧
    (s.dev.ready = false →
      exec (.readBadSelector tag x) s
        = .next { s with dev := (s.dev.completeExchange.leaveSetup.echo tag .notSet).settle }) ∧
    (∀ n, s.dev.console.setup = .collecting n →
      (s.dev.completeExchange.leaveSetup).console.setup = .idle)

/-- SETUP and its parts 1 to 4 on an UNCONFIGURED part: each in its turn with good values is TAKEN and its values are
held; a bad own station, port, source or area within its count voids the sequence with BAD PARAM, and a value beyond
the count is not examined (R196, R197).
A part in IDLE is refused with STATE, and a part out of its turn voids the sequence with STATE (R196). -/
def Obligations.SetupSequence : Prop :=
  ∀ (tag : Nat) (s : State), s.dev.resetLow = false →
    let c := s.dev.completeExchange
    let voided := fun r : Disposition => Device.settle (Device.echo { c with
      console := { c.console with setup := .idle, held := SetupRaw.zero } } tag r)
    let source := fun x : Nat => 1 ≤ x ∧ x < 262143 ∧ x ≠ c.console.held.own
    let area := fun x : Nat => 1 ≤ x ∧ x ≤ 63
    (∀ own port settle, c.console.setup ≠ .done → 1 ≤ own → own < 262143 → 1 ≤ port → port < 262143 → own ≠ port →
      exec (.setup tag own port settle) s = .next { s with dev := Device.settle (Device.echo { c with
        console := { c.console with
          setup := .collecting 1,
          held := { SetupRaw.zero with own := own, port := port, settle := settle } } } tag .taken) }) ∧
    (∀ own port settle, c.console.setup ≠ .done → own = 0 ∨ 262143 ≤ own ∨ port = 0 ∨ 262143 ≤ port ∨ own = port →
      exec (.setup tag own port settle) s = .next { s with dev := voided .badParam }) ∧
    (∀ count s1 s2 s3, c.console.setup = .collecting 1 →
      ((∀ (j x : Nat), j < min count 4 → [s1, s2, s3][j]? = some x → source x) →
        exec (.setupPart1 tag count s1 s2 s3) s = .next { s with dev := Device.settle (Device.echo { c with
          console := { c.console with
            setup := .collecting 2,
            held := { c.console.held with sourceCount := count, sources := [s1, s2, s3] } } } tag .taken) }) ∧
      ((∃ j x : Nat, j < min count 4 ∧ [s1, s2, s3][j]? = some x ∧ ¬source x) →
        exec (.setupPart1 tag count s1 s2 s3) s = .next { s with dev := voided .badParam })) ∧
    (∀ s4 count a1 a2 a3 a4 a5 a6, c.console.setup = .collecting 2 →
      ((4 ≤ c.console.held.sourceCount → source s4) →
        (∀ (j x : Nat), j < min count 12 → [a1, a2, a3, a4, a5, a6][j]? = some x → area x) →
        exec (.setupPart2 tag s4 count a1 a2 a3 a4 a5 a6) s = .next { s with dev := Device.settle (Device.echo { c with
          console := { c.console with
            setup := .collecting 3,
            held := { c.console.held with
              sources := c.console.held.sources ++ [s4], areaCount := count,
              areas := [a1, a2, a3, a4, a5, a6] } } } tag .taken) }) ∧
      ((4 ≤ c.console.held.sourceCount ∧ ¬source s4) ∨
          (∃ j x : Nat, j < min count 12 ∧ [a1, a2, a3, a4, a5, a6][j]? = some x ∧ ¬area x) →
        exec (.setupPart2 tag s4 count a1 a2 a3 a4 a5 a6) s = .next { s with dev := voided .badParam })) ∧
    (∀ a7 a8 a9 a10 a11 a12 stale td tr hour, c.console.setup = .collecting 3 →
      ((∀ (j x : Nat), 6 + j < min c.console.held.areaCount 12 → [a7, a8, a9, a10, a11, a12][j]? = some x → area x) →
        exec (.setupPart3 tag a7 a8 a9 a10 a11 a12 stale td tr hour) s
          = .next { s with dev := Device.settle (Device.echo { c with
            console := { c.console with
              setup := .collecting 4,
              held := { c.console.held with
                areas := c.console.held.areas ++ [a7, a8, a9, a10, a11, a12], stale := stale, tDirect := td,
                tRelay := tr, hour := hour } } } tag .taken) }) ∧
      ((∃ j x : Nat, 6 + j < min c.console.held.areaCount 12 ∧ [a7, a8, a9, a10, a11, a12][j]? = some x ∧ ¬area x) →
        exec (.setupPart3 tag a7 a8 a9 a10 a11 a12 stale td tr hour) s = .next { s with dev := voided .badParam })) ∧
    (∀ d1 d2 d3 d4 rec latch retry beacon hold, c.console.setup = .collecting 4 →
      exec (.setupPart4 tag d1 d2 d3 d4 rec latch retry beacon hold) s
        = .next { s with dev := Device.settle (Device.echo { c with
          console := { c.console with
            setup := .collecting 5,
            held := { c.console.held with
              dTune := d1, dReflect := d2, dSupply := d3, dKeytime := d4, recovery := rec, latch := latch,
              retry := retry, beacon := beacon, hold := hold } } } tag .taken) }) ∧
    (∀ (k : Nat) (i : Instr),
      (k = 1 ∧ ∃ n s1 s2 s3, i = .setupPart1 tag n s1 s2 s3) ∨
        (k = 2 ∧ ∃ s4 n a1 a2 a3 a4 a5 a6, i = .setupPart2 tag s4 n a1 a2 a3 a4 a5 a6) ∨
        (k = 3 ∧ ∃ a7 a8 a9 a10 a11 a12 st td tr hr, i = .setupPart3 tag a7 a8 a9 a10 a11 a12 st td tr hr) ∨
        (k = 4 ∧ ∃ d1 d2 d3 d4 rc la re be ho, i = .setupPart4 tag d1 d2 d3 d4 rc la re be ho) ∨
        (k = 5 ∧ ∃ r p m d w, i = .setupPart5 tag r p m d w) →
      (c.console.setup = .idle → exec i s = .next { s with dev := (c.echo tag .state).settle }) ∧
      (∀ n, c.console.setup = .collecting n → n ≠ k → exec i s = .next { s with dev := voided .state }))

/-- SETUP_PART_5 in its turn completes setup: READY, the configuration in force with its values in their ranges, the
receive record hunting, a clear spell started, and a first beacon due within 60 s; CONFIGURED is queued with the
mark of each parameter that was clamped, and no other (R197; the marks' numbers are the model's, log entry 14), or
owed when the general lane is full. On a READY part each of the six setup frames is refused with ALREADY SET. -/
def Obligations.SetupCompletes : Prop :=
  ∀ (tag receipt p m d w : Nat) (s : State), s.dev.resetLow = false →
    let c := s.dev.completeExchange
    let held := c.console.held
    (c.console.setup = .collecting 5 →
      ∃ e : Device, exec (.setupPart5 tag receipt p m d w) s = .next { s with dev := (e.echo tag .taken).settle } ∧
        e.ready = true ∧ e.rx = Rx.blank .hunting ∧ e.access.chan = .clear ∧ e.access.clearSince = some c.now ∧
        (∃ t, e.neigh.beaconDue = some t ∧ c.now ≤ t ∧ t ≤ c.now + 60000) ∧
        e.config.own = held.own ∧ e.config.port = held.port ∧ e.config.settleMs = 10 * min held.settle 50 ∧
        e.config.sources = held.sources.take (min held.sourceCount 4) ∧
        e.config.areas = held.areas.take (min held.areaCount 12) ∧
        e.config.dTune = held.dTune ∧ e.config.dReflect = held.dReflect ∧ e.config.dSupply = held.dSupply ∧
        e.config.dKeytime = held.dKeytime ∧ e.config.recovery = held.recovery ∧
        e.config.tDirect = held.tDirect ∧ e.config.tRelay = held.tRelay ∧
        e.config.stale = max 10 (min 120 held.stale) ∧ e.config.retry = max 1 (min 15 held.retry) ∧
        e.config.beacon = max 5 (min 60 held.beacon) ∧ e.config.hold = max 5 (min 30 held.hold) ∧
        e.config.receipt = max 30 (min 720 receipt) ∧
        e.config.latch = (if held.latch ≤ 1 then 0 else if held.latch ≤ 3 then 2 else if held.latch ≤ 6 then 4 else 8) ∧
        (e.config.reportHour = if held.hour < 24 then some held.hour else none) ∧
        (e.config.position = true ↔ p ≠ 0) ∧ (e.config.message = true ↔ m ≠ 0) ∧
        (e.config.distress = true ↔ d ≠ 0) ∧ (e.config.warning = true ↔ w ≠ 0) ∧
        (∀ i, i ∈ e.console.marks ↔
          i = 0 ∧ 4 < held.sourceCount ∨ i = 1 ∧ 12 < held.areaCount ∨ i = 2 ∧ 50 < held.settle ∨
          i = 3 ∧ (held.stale < 10 ∨ 120 < held.stale) ∨ i = 4 ∧ (held.retry < 1 ∨ 15 < held.retry) ∨
          i = 5 ∧ (held.beacon < 5 ∨ 60 < held.beacon) ∨ i = 6 ∧ (held.hold < 5 ∨ 30 < held.hold) ∨
          i = 7 ∧ held.latch ∉ [0, 2, 4, 8] ∨ i = 8 ∧ (receipt < 30 ∨ 720 < receipt)) ∧
        e.console.marks.Pairwise (· < ·) ∧
        (c.access.blocked = false → OwedRef.setup ∉ c.console.general.owed →
          (c.console.general.entries.length < 24 → e.console.general = { c.console.general with
            entries := c.console.general.entries ++ [⟨.configured, 0,
              .report (.num 1 e.console.marks.length :: e.console.marks.map fun i => .num 1 i), 0⟩] }) ∧
          (24 ≤ c.console.general.entries.length → e.console.general = { c.console.general with
            owed := c.console.general.owed ++ [.setup] }))) ∧
    (c.console.setup = .done → ∀ i : Instr,
      ((∃ own port settle, i = .setup tag own port settle) ∨
        (∃ n s1 s2 s3, i = .setupPart1 tag n s1 s2 s3) ∨
        (∃ s4 n a1 a2 a3 a4 a5 a6, i = .setupPart2 tag s4 n a1 a2 a3 a4 a5 a6) ∨
        (∃ a7 a8 a9 a10 a11 a12 st td tr hr, i = .setupPart3 tag a7 a8 a9 a10 a11 a12 st td tr hr) ∨
        (∃ d1 d2 d3 d4 rc la re be ho, i = .setupPart4 tag d1 d2 d3 d4 rc la re be ho) ∨
        i = .setupPart5 tag receipt p m d w) →
      exec i s = .next { s with dev := (c.echo tag .alreadySet).settle })

/-- TIME: RANGE for a moment that does not exist; else UTC is set to it, and with no weather record nothing else but the
next report hour changes. With records held, the first TIME computes the issued UTC and valid-until of each (R139),
and any TIME ends the records whose valid-until it reaches, in the order of the tables (log entry 68), with their
grants, waits, items, counts and reports (R140, R143, R198). The issued UTC is the latest moment of the carried day,
hour and minute that is not later (R139). The next report hour is the next moment at hh:00:00 after the new UTC
(R174). POSITION: RANGE outside the coordinates' ranges or the clock's; else the fix is replaced whole, a longitude
of +1,080,000 taken as −1,080,000. -/
def Obligations.TimeAndPosition : Prop :=
  (∀ (tag y mo da h mi se : Nat) (s : State), s.dev.live = true →
    let c := s.dev.completeExchange
    (Device.timeInRange y mo da h mi se = false →
      exec (.time tag y mo da h mi se) s = .next { s with dev := (c.echo tag .range).settle }) ∧
    (Device.timeInRange y mo da h mi se = true → c.weather.forecasts = [] → c.weather.warnings = [] →
      ∃ v, secondsOf y mo da h mi se = v + epochShift ∧
        exec (.time tag y mo da h mi se) s = .next { s with dev := Device.settle (Device.echo { c with
          console := { c.console with utc := some ⟨c.now, v⟩ },
          rep := { c.rep with hourDue := c.nextHour v } } tag .taken) }) ∧
    (Device.timeInRange y mo da h mi se = true ↔
      2000 ≤ y ∧ y ≤ 2099 ∧ 1 ≤ mo ∧ mo ≤ 12 ∧ 1 ≤ da ∧
      da ≤ (if mo = 2 then (if y % 4 = 0 then 29 else 28)
        else if mo = 4 ∨ mo = 6 ∨ mo = 9 ∨ mo = 11 then 30 else 31) ∧ h ≤ 23 ∧ mi ≤ 59 ∧ se ≤ 59)) ∧
  (∀ (tag h mi : Nat) (lat lon : Int) (s : State), s.dev.live = true →
    let c := s.dev.completeExchange
    (lat < -540000 ∨ 540000 < lat ∨ lon < -1080000 ∨ 1080000 < lon ∨ 23 < h ∨ 59 < mi →
      exec (.position tag lat lon h mi) s = .next { s with dev := (c.echo tag .range).settle }) ∧
    (-540000 ≤ lat → lat ≤ 540000 → -1080000 ≤ lon → lon ≤ 1080000 → h ≤ 23 → mi ≤ 59 →
      exec (.position tag lat lon h mi) s = .next { s with dev := Device.settle (Device.echo { c with
        console := { c.console with
          fix := some ⟨lat, if lon = 1080000 then -1080000 else lon, h, mi, c.now⟩ } } tag .taken) })) ∧
  (∀ (tag y mo da h mi se : Nat) (s : State), s.dev.live = true → Device.timeInRange y mo da h mi se = true →
    let c := s.dev.completeExchange
    ∃ (v : Nat) (e : Device), secondsOf y mo da h mi se = v + epochShift ∧
      let first : Bool := c.console.utc.isNone
      let forecasts := c.weather.forecasts.map fun f => if first then { f with
        issued := issuedUtc v f.day f.hour f.minute,
        validUntil := (issuedUtc v f.day f.hour f.minute).map fun t => t + (f.validFor : Int) * 3600 } else f
      let warnings := c.weather.warnings.map fun w => if first then { w with
        issued := issuedUtc v w.day w.hour w.minute,
        validUntil := (issuedUtc v w.day w.hour w.minute).map fun t => t + (w.validFor : Int) * 3600 } else w
      let ended : Option Int → Bool := fun x => match x with
        | none => false
        | some u => decide (u ≤ (v : Int))
      let endedF := forecasts.filter fun f => ended f.validUntil
      let endedW := warnings.filter fun w => ended w.validUntil
      exec (.time tag y mo da h mi se) s = .next { s with dev := (e.echo tag .taken).settle } ∧
      e.now = c.now ∧ e.console.utc = some ⟨c.now, v⟩ ∧
      e.weather.forecasts = (forecasts.filter fun f => endedF.all fun g => !(f.area == g.area && f.complete == g.complete)) ∧
      e.weather.warnings = (warnings.filter fun w => endedW.all fun x => !(w.issuer == x.issuer && w.issue == x.issue)) ∧
      e.store = ((endedF.map fun f => f.grant) ++ endedW.map fun w => w.grant).foldl Store.release c.store ∧
      e.weather.counts.expired = (endedF.filter fun f => f.complete).foldl (fun n _ => bump n) c.weather.counts.expired ∧
      e.weather.counts.discarded = (endedF.filter fun f => !f.complete).foldl (fun n _ => bump n) c.weather.counts.discarded ∧
      (∀ w ∈ endedW, e.wait? .warning w.issuer w.issue = none ∧
        ∀ it ∈ e.access.priority.items, it.owner ≠ .warning w.issuer w.issue) ∧
      (c.console.general.owed = [] →
        c.console.general.entries.length + (endedF.filter fun f => f.complete).length ≤ 24 →
        e.console.general.entries = c.console.general.entries ++ (endedF.filter fun f => f.complete).map fun f =>
          ⟨.forecastExpired, 0, .report [.num 1 f.area, .num 3 f.issuer, .num 2 f.issue], 0⟩) ∧
      e.config = c.config ∧ e.log = c.log ∧ e.xfer = c.xfer ∧ e.distress = c.distress ∧
      (c.config.reportHour = none → e.rep.hourDue = none) ∧
      (∀ hour, c.config.reportHour = some hour → hour < 24 → ∃ t k, e.rep.hourDue = some t ∧ t = c.now + k * 1000 ∧
        1 ≤ k ∧ k ≤ 86400 ∧ (v + k) % 86400 = hour * 3600)) ∧
  (∀ u day hour minute : Nat, 1 ≤ day → day ≤ 31 → hour ≤ 23 → minute ≤ 59 →
    ∃ y m, 1996 ≤ y ∧ 1 ≤ m ∧ m ≤ 12 ∧ day ≤ monthDays y m ∧ secondsOf y m day hour minute 0 ≤ u + epochShift ∧
      issuedUtc u day hour minute = some ((secondsOf y m day hour minute 0 : Int) - (epochShift : Int)) ∧
      ∀ y' m', 1996 ≤ y' → 1 ≤ m' → m' ≤ 12 → day ≤ monthDays y' m' →
        secondsOf y' m' day hour minute 0 ≤ u + epochShift →
        secondsOf y' m' day hour minute 0 ≤ secondsOf y m day hour minute 0)

/-- The nine READ commands with room in the general lane: TAKEN, the answer queued last with the READ's tag; with a full
lane each is refused with QUEUE FULL, judged after this exchange's own report has gone up (the model's reading, log
entry 8); an area or a haul number that is not held is refused with BAD PARAM. On an UNCONFIGURED part STATUS is
taken the same way, and every other READ is refused with NOT SET.
What each answer carries, field by field (R57, R77, R106, R130, R147, R169, R170, R185, R204, R207), with the widths
(log entry 12), orders and forms that R207 leaves to the model (log entries 33, 53, 55, 62, 66, 69, 70, 77), and the
numbers of the enumerations. -/
def Obligations.Reads : Prop :=
  ((∀ (tag area number : Nat) (s : State), s.dev.live = true →
    let c := s.dev.completeExchange
    let answered := fun (selector : Nat) (data : List Datum) => Device.settle (Device.echo { c with
      console := { c.console with general := { c.console.general with
        entries := c.console.general.entries ++ [⟨.answer selector, tag, .report data, 0⟩] } } } tag .taken)
    (c.console.general.entries.length < 24 →
      exec (.readStatus tag) s = .next { s with dev := answered 1 c.statusData } ∧
      exec (.readNeighbours tag) s = .next { s with dev := answered 2 c.neighboursData } ∧
      exec (.readCases tag) s = .next { s with dev := answered 3 c.casesData } ∧
      (area ∈ c.config.areas →
        exec (.readForecast tag area) s = .next { s with dev := answered 4 (c.forecastAnswer area) }) ∧
      exec (.readWarnings tag) s = .next { s with dev := answered 5 c.warningsData } ∧
      exec (.readTally tag) s = .next { s with dev := answered 6 c.tallyData } ∧
      exec (.readQuota tag) s = .next { s with dev := answered 7 c.quotasData } ∧
      exec (.readHaul tag 0) s = .next { s with dev := answered 8 c.haulsData } ∧
      (∀ i, c.haulAt? number = some i →
        exec (.readHaul tag number) s = .next { s with dev := answered 8 (Device.haulRow (c.haul i)) }) ∧
      exec (.readTransfers tag) s = .next { s with dev := answered 9 c.transfersData }) ∧
    (24 ≤ c.console.general.entries.length →
      (∀ i ∈ [Instr.readStatus tag, .readNeighbours tag, .readCases tag, .readWarnings tag, .readTally tag,
          .readQuota tag, .readHaul tag 0, .readTransfers tag],
        exec i s = .next { s with dev := (c.echo tag .queueFull).settle }) ∧
      (area ∈ c.config.areas →
        exec (.readForecast tag area) s = .next { s with dev := (c.echo tag .queueFull).settle }) ∧
      (c.haulAt? number ≠ none →
        exec (.readHaul tag number) s = .next { s with dev := (c.echo tag .queueFull).settle })) ∧
    (area ∉ c.config.areas →
      exec (.readForecast tag area) s = .next { s with dev := (c.echo tag .badParam).settle }) ∧
    (number ≠ 0 → c.haulAt? number = none →
      exec (.readHaul tag number) s = .next { s with dev := (c.echo tag .badParam).settle })) ∧
  (∀ (tag area number : Nat) (s : State), s.dev.resetLow = false → s.dev.ready = false →
    let c := s.dev.completeExchange.leaveSetup
    (c.console.general.entries.length < 24 →
      exec (.readStatus tag) s = .next { s with dev := Device.settle (Device.echo { c with
        console := { c.console with general := { c.console.general with
          entries := c.console.general.entries ++ [⟨.answer 1, tag, .report c.statusData, 0⟩] } } } tag .taken) }) ∧
    (24 ≤ c.console.general.entries.length →
      exec (.readStatus tag) s = .next { s with dev := (c.echo tag .queueFull).settle }) ∧
    (∀ i ∈ [Instr.readNeighbours tag, .readCases tag, .readForecast tag area, .readWarnings tag, .readTally tag,
        .readQuota tag, .readHaul tag number, .readTransfers tag],
      exec i s = .next { s with dev := (c.echo tag .notSet).settle }))) ∧
  (∀ d : Device,
    let n16 : Nat → Datum := fun n => .num 2 (min n 65535)
    let flag : Bool → Datum := fun b => .num 1 (if b then 1 else 0)
    let opt : Nat → Option Nat → Datum := fun w x => .num w (match x with | none => 256 ^ w - 1 | some v => v)
    let pos : Option (Int × Int) → List Datum := fun x => match x with
      | none => [.num 3 8388608, .num 3 8388608]
      | some p => [.num 3 (p.1 % 16777216).toNat, .num 3 (p.2 % 16777216).toNat]
    let clock : Option (Nat × Nat) → List Datum := fun x => match x with
      | none => [.num 1 255, .num 1 255]
      | some t => [.num 1 t.1, .num 1 t.2]
    let utc : Option Int → Datum := fun x => .num 4 (match x with | none => 4294967295 | some v => (v % 4294967296).toNat)
    let table : List (List Datum) → List Datum := fun rows => .num 1 rows.length :: rows.flatten
    let since : Time → Datum := fun t => n16 ((d.now - t) / 1000)
    let species : Species → List Datum := fun s => [.num 1 s.a, .num 1 s.b, .num 1 s.c]
    let amount : Nat → Amount → List Datum := fun w a => [.num w a.total, .num w a.reported, .num w a.inFlight]
    let k := d.console
    let r := d.rxCounts
    let a := d.access
    let ms := [d.prot.tune, d.prot.reflect, d.prot.supply, d.prot.keytime]
    let n := d.neigh
    let x := d.xfer.counts
    let u := d.distress
    let w := d.weather
    let l := d.log
    let p := d.rep
    d.statusData =
      [n16 k.distress.owed.length, n16 k.general.owed.length,
        .num 1 (match k.setup with | .idle => 0 | .collecting _ => 1 | .done => 2)] ++
      pos (k.fix.map fun f => (f.lat, f.lon)) ++ clock (k.fix.map fun f => (f.hour, f.minute)) ++
      [match k.fix with | none => .num 2 65535 | some f => since f.takenAt,
        n16 k.counts.complete, n16 k.counts.void, n16 k.counts.refused, n16 k.counts.lostReports,
        utc (d.utcNow.map Int.ofNat), n16 k.distress.entries.length, n16 k.general.entries.length,
        flag k.submit.isSome, opt 1 (k.submit.map fun s => s.tag), opt 2 (k.submit.map fun s => s.len),
        opt 2 (k.submit.map fun s => s.received)] ++
      [n16 r.taken, n16 r.headerDiscards, n16 r.damaged, n16 r.abandoned, .num 1 a.chan.code,
        .num 4 (match a.clearSince with | none => 4294967295 | some t => t % 4294967296), flag a.blocked, n16 d.keyTime,
        n16 a.counts.keyings, n16 a.counts.aborts, n16 a.counts.preemptions, n16 a.counts.acksDropped,
        n16 a.counts.blindSends] ++
      [n16 d.prot.trips] ++ (ms.map fun m => .num 1 m.st.code) ++
      [flag (ms.any fun m => m.st == .alert), flag (ms.any fun m => m.st == .tripped || m.st == .latched),
        .num 1 d.loop.st.code] ++
      [n16 (d.store.freePages Holder.forecast.pool).length, n16 (d.store.freePages Holder.warning.pool).length,
        n16 (d.store.freePages Holder.report.pool).length] ++
      ([Holder.forecast, .inbound, .outbound, .warning, .report].map fun h => n16 (d.store.held h)) ++
      [n16 d.store.refusals.forecast, n16 d.store.refusals.inbound, n16 d.store.refusals.outbound,
        n16 d.store.refusals.warning, n16 d.store.refusals.report] ++
      [n16 n.entries.length, n16 (n.entries.filter fun e => e.fresh).length,
        .num 2 (match n.beaconDue with | none => 65535 | some t => min ((t - d.now) / 1000) 65535),
        n16 n.counts.notEntered, n16 n.counts.factsRejected, n16 n.counts.beaconsSent, n16 n.counts.beaconsSkipped,
        n16 n.counts.waitRefusals, n16 (d.waits.filter fun e => e.kind == .distress).length,
        n16 (d.waits.filter fun e => e.kind == .warning && !e.held).length,
        n16 (d.waits.filter fun e => e.kind == .warning && e.held).length] ++
      [n16 x.dataSent, n16 x.ackTimeouts, n16 x.gotAccepted, n16 x.gotFull, n16 x.gotNoRelay, n16 x.gotUnknown,
        n16 x.strayAcks, n16 x.gaveAccepted, n16 x.gaveFull, n16 x.gaveNoRelay, n16 x.gaveUnknown, n16 x.heldData,
        n16 x.malformed, n16 x.inactivity, n16 x.relaysLost, n16 x.delivered, n16 x.failed, n16 x.expired,
        n16 x.withdrawn, n16 x.flushed] ++
      ([SlotState.free, .reserved, .awaitingRoute, .ready, .awaitingAck, .refusalWait, .held, .outcomeOwed].map fun st =>
        n16 (d.xfer.slots.filter fun s => s.st == st).length) ++
      [n16 d.xfer.reasms.length] ++
      [n16 u.settled.length, flag d.holdInForce,
        n16 (match u.holdTimer with | none => 0 | some t => (t - d.now) / 1000), n16 u.counts.heard,
        n16 u.counts.unattributed, n16 u.counts.unreadable, n16 u.counts.notRecorded, n16 u.counts.relaysSent,
        n16 u.counts.acksSent, .num 1 u.own.st.code, .num 1 u.own.num] ++
      ([CaseState.unacked, .acked, .closed].map fun st => n16 (u.cases.filter fun c => c.st == st).length) ++
      [n16 (w.forecasts.filter fun f => !f.complete).length, n16 (w.forecasts.filter fun f => f.complete).length,
        n16 w.warnings.length, n16 w.counts.malformed, n16 w.counts.headerErasures, n16 w.counts.foreignIssuer,
        n16 w.counts.unwantedArea, n16 w.counts.otherIssuer, n16 w.counts.oldIssue, n16 w.counts.inconsistent,
        n16 w.counts.notBetter, n16 w.counts.superseded, n16 w.counts.evicted, n16 w.counts.discarded,
        n16 w.counts.droppedForRoom, n16 w.counts.stale, n16 w.counts.completed, n16 w.counts.expired,
        n16 w.counts.stored, n16 w.counts.notStored, n16 w.counts.relaysSent, n16 w.counts.lostReports] ++
      ([HaulState.free, .open', .weighing].map fun st => n16 (l.hauls.filter fun h => h.st == st).length) ++
      [.num 2 (match l.hauls.find? fun h => h.st == .open' with | none => 0 | some h => h.num), n16 l.cells.length,
        n16 (l.cells.filter fun c => c.saturated).length] ++
      ([QuotaState.normal, .alert, .reached].map fun st => n16 (l.quotas.filter fun q => q.st == st).length) ++
      [n16 l.counts.commits, n16 l.counts.tallyFull, n16 l.counts.linesReplaced, n16 l.counts.discarded,
        n16 l.counts.lostReports] ++
      [.num 1 p.st.code, opt 2 p.num, opt 1 (p.kind.map ReportReason.code), n16 p.lineCount,
        opt 1 (p.early.map Ending.code), opt 2 (p.deadline.map fun c => c.left d.now / 60000),
        flag (match p.deadline with | some (.paused _) => true | _ => false), opt 1 (p.pending.map ReportReason.code),
        opt 2 (p.lastEnding.map fun e => e.1), opt 1 (p.lastEnding.map fun e => e.2.code), .num 2 p.counter,
        opt 2 p.lastNotice, n16 p.counts.built, n16 p.counts.nil, n16 p.counts.accepted, n16 p.counts.rejected,
        n16 p.counts.lost, n16 p.counts.slotWaits, n16 p.counts.merged, n16 p.counts.lateReceipts, n16 p.counts.applied,
        n16 p.counts.partly, n16 p.counts.stale, n16 p.counts.rejectedNotices, n16 p.counts.lostReports] ∧
    (∃ rows : List Neigh, rows.Perm n.entries ∧ rows.Pairwise (fun y z => y.station ≤ z.station) ∧
      d.neighboursData = table (rows.map fun e =>
        [.num 3 e.station, .num 1 e.kind.code, .num 1 e.q, n16 e.heard, .num 1 (if e.fresh then 0 else 1),
          since e.lastHeard, opt 1 (e.facts.map fun f => if f.willing then 1 else 0)] ++
        pos (e.facts.bind fun f => f.pos) ++
        [.num 3 (((e.facts.bind fun f => f.port).map fun y => y.1).getD 0),
          opt 1 ((e.facts.bind fun f => f.port).map fun y => y.2),
          .num 2 (match e.avoidUntil with | none => 65535 | some t => min ((t - d.now) / 1000) 65535)])) ∧
    (∃ rows : List Case, rows.Perm u.cases ∧ rows.Pairwise (fun y z => y.station ≤ z.station) ∧
      d.casesData = table (rows.map fun c =>
        [.num 3 c.station, .num 1 c.alert, .num 1 c.nature] ++ pos c.pos ++ clock c.posTime ++
        [opt 1 c.persons, since c.firstHeard, since c.lastHeard, .num 3 (c.via.getD 0), flag c.readable,
          .num 1 c.st.code,
          .num 3 (match c.ackedBy with | none => 0 | some .own => d.config.own | some (.station s) => s),
          opt 1 (c.closeReason.map CloseReason.code), .num 1 c.relay.code, .num 1 c.ownAck.code])) ∧
    (∀ area, d.forecastAnswer area =
      (match d.forecast? area true with
        | none => [.num 1 0]
        | some f =>
          let parts := f.parts.map fun y => y.getD ⟨0, 0, true, 0⟩
          [.num 1 1, .num 3 f.issuer, .num 2 f.issue, n16 f.cnt] ++ table (parts.map fun y => [n16 y.score]) ++
          [flag f.marred] ++
          (match f.issued with | some t => [utc (some t)] | none => [.num 1 f.day, .num 1 f.hour, .num 1 f.minute]) ++
          [utc f.validUntil] ++ (List.range parts.length).map fun i =>
            .text (d.store.readSyms f.grant (102 * i) (parts.getD i ⟨0, 0, true, 0⟩).len)) ++
      (match d.forecast? area false with
        | none => [.num 1 0]
        | some f => [.num 1 1, .num 2 f.issue] ++ table (((List.range f.parts.length).filter fun i =>
            (f.parts.getD i none).isSome).map fun i => [.num 1 i]))) ∧
    (∃ rows : List Warning, rows.Perm w.warnings ∧ rows.Pairwise (fun y z => y.firstStored ≤ z.firstStored) ∧
      d.warningsData = table (rows.map fun e =>
        [.num 3 e.issuer, .num 2 e.issue, .num 1 e.severity.code, .num 1 e.day, .num 1 e.hour, .num 1 e.minute,
          .num 1 e.validFor] ++ table (e.areas.map fun y => [.num 1 y]) ++
        [flag e.wanted, utc e.issued, utc e.validUntil, .text (d.store.readSyms e.grant 0 e.len), n16 e.len, n16 e.score,
          n16 e.erasures, .num 1 (if e.pass then 0 else 1), .num 4 (e.firstStored % 4294967296), .num 1 e.relay.code])) ∧
    d.tallyData = table (l.cells.map fun c => [.num 3 c.rect] ++ species c.species ++ amount 3 c.retained ++
      amount 3 c.discarded ++ amount 2 c.hauls ++ [flag c.saturated, flag c.estimated, flag c.longTow]) ∧
    d.quotasData = table (l.quotas.map fun q => species q.species ++
      [.num 3 q.quota, .num 3 q.consumed, .num 1 q.st.code, .num 3 (q.quota - q.consumed)]) ∧
    d.haulsData = table ((l.hauls.filter fun h => h.st != .free).map fun h => [.num 2 h.num, .num 1 h.st.code]) ∧
    (∀ h : Haul, Device.haulRow h =
      [.num 1 h.st.code, .num 2 h.num, utc (some (h.startUtc : Int))] ++ pos (some h.startPos) ++
      [utc (h.endUtc.map Int.ofNat)] ++ pos h.endPos ++
      [flag h.estimated, flag h.longTow, .num 3 h.startRect, opt 3 h.endRect] ++
      table (h.lines.map fun y => species y.species ++ [.num 1 (if y.retained then 0 else 1), .num 3 y.weight])) ∧
    d.transfersData =
      table (((List.range 8).filter fun i => (d.slot i).st != .free).map fun i =>
        let s := d.slot i
        [.num 1 i, .num 1 s.origin.code, opt 1 (if s.origin = .console then some s.tag else none), .num 1 s.num,
          .num 1 s.cls.code, .num 3 s.dest, .num 3 (s.hop.getD 0), .num 1 s.st.code,
          opt 1 (if s.st = .held then some s.heldFrom.code else none), .num 1 s.idx, n16 s.cnt, n16 s.retries, n16 s.cw,
          n16 s.refusals, n16 s.restarts, n16 ((s.lifetimeEnd - d.now) / 60000)]) ++
      table (d.xfer.reasms.map fun e =>
        [.num 3 e.source, .num 1 e.num, .num 1 e.cls.code, .num 3 e.dest, n16 e.next, n16 e.cnt, flag e.waiting,
          n16 (e.timer.left d.now / 1000)])) ∧
  ([Channel.clear, .busy, .own].map Channel.code = List.range 3 ∧
    [MonState.normal, .alert, .tripped, .latched].map MonState.code = List.range 4 ∧
    [LoopState.idle, .waiting, .looping].map LoopState.code = List.range 3 ∧
    [StationKind.vessel, .port, .source, .unknown].map StationKind.code = List.range 4 ∧
    [SlotState.free, .reserved, .awaitingRoute, .ready, .awaitingAck, .refusalWait, .held, .outcomeOwed].map SlotState.code
      = List.range 8 ∧
    [Origin.console, .catchReport, .relay].map Origin.code = List.range 3 ∧
    [MsgClass.text, .catchReport, .receipt, .quota].map MsgClass.code = List.range 4 ∧
    [OwnState.idle, .alerting, .acknowledged, .cancelling].map OwnState.code = List.range 4 ∧
    [CaseState.unacked, .acked, .closed].map CaseState.code = List.range 3 ∧
    [CloseReason.cancelled, .expired, .host, .replaced].map CloseReason.code = List.range 4 ∧
    [RelayState.none, .waiting, .offered, .relayed, .suppressed].map RelayState.code = List.range 5 ∧
    [OwnAckState.none, .offered, .sent].map OwnAckState.code = List.range 3 ∧
    [Severity.gale, .storm, .hurricane].map Severity.code = List.range 3 ∧
    [HaulState.free, .open', .weighing].map HaulState.code = List.range 3 ∧
    [QuotaState.normal, .alert, .reached].map QuotaState.code = List.range 3 ∧
    [ReportState.none, .inTransfer, .awaitingReceipt].map ReportState.code = List.range 3 ∧
    [ReportReason.scheduled, .ordered, .quota].map ReportReason.code = List.range 3 ∧
    [Ending.accepted, .rejected, .lost].map Ending.code = List.range 3)

/-- SUBMIT: BUSY, BAD PARAM, RANGE, TABLE FULL, POOL FULL in that order, the last two judged on the slots and pages
after this exchange's own report has gone up (the model's reading, log entry 8); with a free slot and pages it is TAKEN,
the slot RESERVED with the reservation's grant and a lifetime of 12 h (R80), and the submit open for 30 s. The table has
its 8 slots in every state that `Obligations.CapacitiesKept` speaks of. -/
def Obligations.Submit : Prop :=
  ∀ (tag dest len : Nat) (s : State), s.dev.live = true →
    let c := s.dev.completeExchange
    (c.console.submit ≠ none → exec (.submit tag dest len) s = .next { s with dev := (c.echo tag .busy).settle }) ∧
    (c.console.submit = none → dest = 0 ∨ 262143 ≤ dest →
      exec (.submit tag dest len) s = .next { s with dev := (c.echo tag .badParam).settle }) ∧
    (c.console.submit = none → 1 ≤ dest → dest < 262143 → len = 0 ∨ 1776 < len →
      exec (.submit tag dest len) s = .next { s with dev := (c.echo tag .range).settle }) ∧
    (c.console.submit = none → 1 ≤ dest → dest < 262143 → 1 ≤ len → len ≤ 1776 → c.freeSlot? = none →
      exec (.submit tag dest len) s = .next { s with dev := (c.echo tag .tableFull).settle }) ∧
    (∀ i r y, c.console.submit = none → 1 ≤ dest → dest < 262143 → 1 ≤ len → len ≤ 1776 → c.freeSlot? = some i →
      c.store.reserve .outbound len = (r, y) → (∀ id, r ≠ .granted id) →
      exec (.submit tag dest len) s = .next { s with dev := (Device.echo { c with store := y } tag .poolFull).settle }) ∧
    ∀ i id y, c.console.submit = none → 1 ≤ dest → dest < 262143 → 1 ≤ len → len ≤ 1776 → c.freeSlot? = some i →
      c.xfer.slots.length = 8 → c.store.reserve .outbound len = (.granted id, y) →
      ∃ d : Device, exec (.submit tag dest len) s = .next { s with dev := (d.echo tag .taken).settle } ∧
        d.store = y ∧ d.console.submit = some ⟨tag, dest, len, 0, id, i, c.now + 30000⟩ ∧
        (d.slot i).st = .reserved ∧ (d.slot i).dest = dest ∧ (d.slot i).tag = tag ∧ (d.slot i).grant = some id ∧
        (d.slot i).len = len ∧ (d.slot i).cnt = (len + 110) / 111 ∧
        (d.slot i).lifetimeEnd = c.now + 43200000 ∧ (∀ j, j ≠ i → d.slot j = c.slot j) ∧ d.access = c.access

/-- TEXT: STATE without a submit, BAD PARAM for another tag; eight symbols short of the length are written after those
received and the void timer starts again; a symbol of 63 or more among those needed voids the submit with RANGE; the
frame that reaches the length closes the submit and starts its transfer by the first route answer (R81, R201).
WITHDRAW of the open submit's tag voids it, and asks for the ending of each slot with the tag, in slot order (the
model's choice, log entry 57): at once with its TRANSFER OUTCOME, or as pending (an ending already pending stands,
log entry 34); of a tag that neither has, BAD PARAM. Slots and lanes are those after this exchange's own report has
gone up (the model's reading, log entry 8). SUBMIT_VOID_TIMER, at its own moment (the model's choice, log entry 1),
voids the open submit: its grant is released, its slot FREE, and then TRANSFER OUTCOME goes up with outcome VOID (in
that order: the model's choice, log entry 76). -/
def Obligations.TextAndWithdraw : Prop :=
  (∀ (tag cmd : Nat) (symbols : List Nat) (s : State), s.dev.live = true →
    let c := s.dev.completeExchange
    (c.console.submit = none → exec (.text tag symbols) s = .next { s with dev := (c.echo tag .state).settle }) ∧
    (c.console.submit = none → c.withdrawable tag = [] →
      exec (.withdraw cmd tag) s = .next { s with dev := (c.echo cmd .badParam).settle }) ∧
    ∀ x, c.console.submit = some x →
      (x.tag ≠ tag → exec (.text tag symbols) s = .next { s with dev := (c.echo tag .badParam).settle }) ∧
      (x.tag = tag → (∀ v ∈ symbols, v < 63) → symbols.length = 8 → x.received + 8 < x.len →
        exec (.text tag symbols) s = .next { s with dev := Device.settle (Device.echo { c with
          store := c.store.writeSyms x.grant x.received symbols,
          console := { c.console with
            submit := some { x with received := x.received + 8, voidAt := c.now + 30000 } } } tag .taken) }) ∧
      (x.tag = tag → c.withdrawable tag = [] →
        exec (.withdraw cmd tag) s = .next { s with dev := (c.voidSubmit.echo cmd .taken).settle })) ∧
  (∀ (tag cmd i : Nat) (s : State), s.dev.live = true →
    let c := s.dev.completeExchange
    (∀ x, c.console.submit = some x → x.tag ≠ tag) → c.withdrawable tag = [i] →
    exec (.withdraw cmd tag) s = .next { s with dev := ((c.askEnding i .withdrawn).echo cmd .taken).settle }) ∧
  (∀ (x : Machine.Submit) (s : State), s.dev.resetLow = false → s.dev.console.submit = some x →
    x.slot < s.dev.xfer.slots.length → s.dev.rep.pending = none → (∀ e ∈ s.dev.xfer.reasms, e.waiting = false) →
    s.dev.console.general.entries.length < 24 →
    ∃ d : Device, exec .submitVoidTimer s = .next { s with dev := d.settle } ∧ d.now = max s.dev.now x.voidAt ∧
      d.console.submit = none ∧ d.store = s.dev.store.release x.grant ∧ d.slot x.slot = Slot.free ∧
      d.console.general.entries = s.dev.console.general.entries ++
        [⟨.transferOutcome, 0, .report (Device.outcomeData x.tag .void (s.dev.slot x.slot).num x.dest 0 0), 0⟩] ∧
      d.access = s.dev.access) ∧
  (∀ (tag : Nat) (symbols : List Nat) (x : Machine.Submit) (s : State), s.dev.live = true →
    let c := s.dev.completeExchange
    let wanted := symbols.take (x.len - x.received)
    c.console.submit = some x → x.tag = tag → x.slot < c.xfer.slots.length →
    ((∃ v ∈ wanted, 63 ≤ v) → c.rep.pending = none → (∀ e ∈ c.xfer.reasms, e.waiting = false) →
      exec (.text tag symbols) s = .next { s with dev := Device.settle (Device.echo { c with
        store := c.store.release x.grant,
        xfer := { c.xfer with slots := c.xfer.slots.set x.slot Slot.free },
        console := { c.console with submit := none } } tag .range) }) ∧
    ((∀ v ∈ wanted, v < 63) → x.received + wanted.length = x.len →
      let closed := { c with
        store := c.store.writeSyms x.grant x.received wanted, console := { c.console with submit := none } }
      let sl := c.slot x.slot
      (sl.dest = c.config.own →
        exec (.text tag symbols) s
          = .next { s with dev := ((closed.endTransfer x.slot .failed).echo tag .taken).settle }) ∧
      (sl.dest ≠ c.config.own → sl.origin = .console →
        ∃ d : Device, exec (.text tag symbols) s = .next { s with dev := (d.echo tag .taken).settle } ∧
          d = { closed with access := d.access, xfer := { c.xfer with slots := d.xfer.slots } } ∧
          (∀ j, j ≠ x.slot → d.slot j = c.slot j) ∧
          (∀ it ∈ d.access.routine.items, it ∈ c.access.routine.items) ∧
          d.slot x.slot = match (if sl.dest = c.config.port then c.route else some sl.dest) with
            | none => { sl with hop := none, st := .awaitingRoute, refusalEnd := none }
            | some h =>
              let y := { sl with
                hop := some h, lastHop := h, idx := 0, retries := 0, refusals := 0, restarts := 0, cw := 8,
                refusalEnd := none }
              if c.holdInForce = true then { y with st := .held, heldFrom := .ready }
              else { y with st := .ready, readySince := c.now, onAir := false }))) ∧
  (∀ (tag cmd : Nat) (s : State), s.dev.live = true →
    let c := s.dev.completeExchange
    let asked := (List.range 8).filter fun j =>
      (c.slot j).origin == .console && (c.slot j).tag == tag &&
        !((c.slot j).st == .free || (c.slot j).st == .reserved || (c.slot j).st == .outcomeOwed)
    let later := fun j => (c.slot j).st = .awaitingAck ∨ (c.slot j).st = .ready ∧ (c.slot j).onAir = true
    let ended := asked.filter fun j => !((c.slot j).st == .awaitingAck || ((c.slot j).st == .ready && (c.slot j).onAir))
    let withdrawn := fun e : Device =>
      ∃ d : Device, exec (.withdraw cmd tag) s = .next { s with dev := (d.echo cmd .taken).settle } ∧
        d = { e with access := d.access, store := d.store, xfer := d.xfer, console := d.console } ∧
        (∀ j, j ∉ asked → d.slot j = e.slot j) ∧
        (∀ j ∈ asked, later j → d.slot j = { c.slot j with
          pendingEnd := some ((c.slot j).pendingEnd.getD .withdrawn) }) ∧
        (∀ j ∈ ended, d.slot j = Slot.free ∧
          ∀ it ∈ d.access.routine.items, it.kind = .data → it.owner ≠ .slot j) ∧
        d.console.submit = e.console.submit ∧
        d.console.general.entries = e.console.general.entries ++ ended.map (fun j =>
          ⟨.transferOutcome, 0, .report (Device.slotOutcomeData (c.slot j) .withdrawn), 0⟩) ∧
        d.store = (ended.filterMap fun j => (c.slot j).grant).foldl Store.release e.store ∧
        d.xfer.counts.withdrawn = ended.foldl (fun n _ => bump n) e.xfer.counts.withdrawn
    c.xfer.slots.length = 8 → c.rep.pending = none → (∀ e ∈ c.xfer.reasms, e.waiting = false) →
    c.console.general.entries.length + ended.length ≤ 24 →
    ((∀ x, c.console.submit = some x → x.tag ≠ tag) → asked ≠ [] → withdrawn c) ∧
    (∀ x, c.console.submit = some x → x.tag = tag → x.slot < 8 → (c.slot x.slot).st = .reserved →
      withdrawn { c with
        store := c.store.release x.grant,
        xfer := { c.xfer with slots := c.xfer.slots.set x.slot Slot.free },
        console := { c.console with submit := none } }))

/-- RESTART is TAKEN: the lanes hold STARTED alone (the model's reading, log entry 38), no delivery or submit is open,
every slot is FREE with no reassembly, recent pair, report or loop test left (log entry 30), no item waits but
distress traffic, and what R202 keeps is kept (a neighbour entry whose removal waited for a pin goes as the blocks
come into step: log entry 64). Every waiting own DISTRESS or CANCEL, DISTRESS-ACK and DISTRESS-RELAY is offered
again with its body unchanged and a new blind timer (R36, R111; log entry 29); a burst of the distress class on air
goes on, and any other is aborted.
An OFFERED relay of a WARNING becomes SUPPRESSED (R145, R148). A catch report in flight ends LOST and is counted,
the last ending says so, and its amounts in flight are unreported again (R186). -/
def Obligations.Restart : Prop :=
  ∀ (tag : Nat) (s : State), s.dev.live = true →
    let c := s.dev.completeExchange
    ∃ d : Device, exec (.restart tag) s = .next { s with dev := (d.echo tag .taken).settle } ∧
      d.console.general = ⟨[⟨.started, 0, .report [.num 1 1, .num 1 1], 0⟩], []⟩ ∧ d.console.distress = ⟨[], []⟩ ∧
      d.console.deliveries = [] ∧ d.console.submit = none ∧ (∀ i, d.slot i = Slot.free) ∧ d.xfer.reasms = [] ∧
      d.xfer.recents = [] ∧ d.rep.st = .none ∧ d.rep.pending = none ∧ d.loop.st = .idle ∧
      (∀ q, (d.access.queue q).contender = none ∧ ∀ it ∈ (d.access.queue q).waiting,
        ∃ x ∈ c.access.distress.items, x.kind = it.kind ∧ x.owner = it.owner ∧ x.body = it.body ∧ x.seq = it.seq) ∧
      d.config = c.config ∧ d.ready = true ∧ d.console.utc = c.console.utc ∧ d.console.fix = c.console.fix ∧
      d.neigh.entries = c.neigh.entries ∧ d.waits = c.waits ∧ d.distress.own.st = c.distress.own.st ∧
      d.distress.holdTimer = c.distress.holdTimer ∧ d.weather.forecasts = c.weather.forecasts ∧
      d.log.hauls = c.log.hauls ∧ d.log.counter = c.log.counter ∧
      (∀ x ∈ c.access.distress.items, x.kind.cls = .distress →
        ∃ it ∈ d.access.distress.waiting,
          it = { x with ready := c.now, blindFrom := c.now, overdue := false, order := it.order }) ∧
      (∀ a, c.access.onAir = some a → a.item.kind.cls = .distress →
        d.access.onAir = some a ∧ d.tx = c.tx ∧ d.access.counts = c.access.counts) ∧
      (∀ a, c.access.onAir = some a → a.item.kind.cls ≠ .distress →
        d.access.onAir = none ∧ d.tx = none ∧ d.access.counts.aborts = bump c.access.counts.aborts) ∧
      d.weather.warnings = (c.weather.warnings.map fun x =>
        if x.relay = .offered then { x with relay := .suppressed } else x) ∧
      (c.rep.st = .none → d.rep = { c.rep with pending := none } ∧ d.log.cells = c.log.cells) ∧
      (c.rep.st ≠ .none →
        d.rep = { c.rep with
          st := .none, num := none, kind := none, buildUtc := none, lineCount := 0, grant := none, deadline := none,
          early := none, pending := none, lastEnding := c.rep.num.map fun n => (n, .lost),
          counts := { c.rep.counts with lost := bump c.rep.counts.lost } } ∧
        d.log.cells = c.log.cells.map fun x => { x with
          retained := { x.retained with inFlight := 0 }, discarded := { x.discarded with inFlight := 0 },
          hauls := { x.hauls with inFlight := 0 } }) ∧
      d.store.grants = (if c.rep.st = .none then c.store else match c.rep.grant with
        | none => c.store
        | some id => c.store.release id).grants.filter fun g => g.holder == .forecast || g.holder == .warning
end

