-- ==== Sys2Proof/Laws/Aside.lean ====
section
/-! SUPPORT. What routes, transfers and the catch report leave aside: everything but the pages, the transfer tables, the
report record, the tally cells, the neighbour entries, the ROUTINE items and the general lane. One lemma per
operation. -/

namespace Sys2Proof.Machine

/-- The part with everything that a transfer's course may change blanked. -/
def Device.aside (d : Device) : Device :=
  { d with
    store := Store.reset, xfer := Transfers.reset, rep := ReportBuilder.reset, log := { d.log with cells := [] },
    neigh := { d.neigh with entries := [] }, access := { d.access with routine := ⟨[], none⟩ },
    console := { d.console with general := ⟨[], []⟩ } }

theorem foldl_aside {α : Type} (f : Device → α → Device) (h : ∀ d x, (f d x).aside = d.aside) (l : List α)
    (d : Device) : (l.foldl f d).aside = d.aside := by
  induction l generalizing d with
  | nil => rfl
  | cons x r ih => rw [List.foldl_cons, ih, h]

theorem Device.orPending_aside (d : Device) (i : Nat) (k : Device → Device)
    (h1 : ∀ o, (d.endTransfer i o).aside = d.aside) (h2 : (k d).aside = d.aside) :
    (d.orPending i k).aside = d.aside := by
  unfold Device.orPending
  split
  · exact h1 _
  · exact h2

@[simp] theorem Device.onLane_aside (d : Device) (f : Lane → Lane) : (d.onLane .general f).aside = d.aside := rfl
@[simp] theorem Device.queueEntry_aside (d : Device) (e : Entry) : (d.queueEntry .general e).aside = d.aside := by
  unfold Device.queueEntry
  split <;> rfl

@[simp] theorem Device.addMark_aside (d : Device) (r : OwedRef) : (d.addMark .general r).aside = d.aside := rfl

theorem Device.reportTagged_aside (d : Device) (kind : ReportKind) (tag : Nat) (r : OwedRef) (data : List Datum)
    (h : kind.lane = .general) : (d.reportTagged kind tag r data).aside = d.aside := by
  unfold Device.reportTagged
  rw [h]
  repeat' split
  all_goals first
    | rfl
    | exact Device.queueEntry_aside _ _

theorem Device.report_aside (d : Device) (kind : ReportKind) (r : OwedRef) (data : List Datum)
    (h : kind.lane = .general) : (d.report kind r data).aside = d.aside :=
  Device.reportTagged_aside d kind 0 r data h

theorem Device.onLog_aside (d : Device) (f : CatchLog → CatchLog)
    (h : { f d.log with cells := [] } = { d.log with cells := [] }) : (d.onLog f).aside = d.aside := by
  simp only [Device.aside, Device.onLog, h]

theorem Device.onNeigh_aside (d : Device) (f : NeighTable → NeighTable)
    (h : { f d.neigh with entries := [] } = { d.neigh with entries := [] }) : (d.onNeigh f).aside = d.aside := by
  simp only [Device.aside, Device.onNeigh, h]

@[simp] theorem Device.onStore_aside (d : Device) (f : Store → Store) : (d.onStore f).aside = d.aside := rfl
@[simp] theorem Device.onXfer_aside (d : Device) (f : Transfers → Transfers) : (d.onXfer f).aside = d.aside := rfl
@[simp] theorem Device.onRep_aside (d : Device) (f : ReportBuilder → ReportBuilder) : (d.onRep f).aside = d.aside := rfl
@[simp] theorem Device.set_store_aside (d : Device) (x : Store) : Device.aside { d with store := x } = d.aside := rfl
@[simp] theorem Device.withdraw_routine_aside (d : Device) (p : Item → Bool) :
    (d.withdraw .routine p).aside = d.aside := rfl

@[simp] theorem Device.reserve_aside (d : Device) (h : Holder) (size : Nat) :
    (Device.reserve d h size).2.aside = d.aside := by
  unfold Device.reserve
  simp

@[simp] theorem Device.writeText_aside (d : Device) (id i : Nat) (syms : List Nat) :
    (Device.writeText d id i syms).aside = d.aside := by
  unfold Device.writeText
  simp

@[simp] theorem Device.onNeighbour_aside (d : Device) (st : Station) (f : Neigh → Neigh) :
    (Device.onNeighbour d st f).aside = d.aside := by
  exact Device.onNeigh_aside _ _ rfl

@[simp] theorem Device.removeNeighbour_aside (d : Device) (st : Station) :
    (Device.removeNeighbour d st).aside = d.aside := by
  exact Device.onNeigh_aside _ _ rfl

@[simp] theorem Device.charge_aside (d : Device) (st : Station) :
    (Device.charge d st).aside = d.aside := by
  unfold Device.charge
  simp

@[simp] theorem Device.avoid_aside (d : Device) (st : Station) :
    (Device.avoid d st).aside = d.aside := by
  unfold Device.avoid
  simp

@[simp] theorem Device.clearWilling_aside (d : Device) (st : Station) :
    (Device.clearWilling d st).1.aside = d.aside := by
  unfold Device.clearWilling
  repeat' (first | with_reducible rfl | simp | split)

@[simp] theorem Device.onSlot_aside (d : Device) (i : Nat) (f : Slot → Slot) :
    (Device.onSlot d i f).aside = d.aside := by
  unfold Device.onSlot
  simp

@[simp] theorem Device.onXferCounts_aside (d : Device) (f : XferCounts → XferCounts) :
    (Device.onXferCounts d f).aside = d.aside := by
  unfold Device.onXferCounts
  simp

@[simp] theorem Device.takeSlot_aside (d : Device) (i : Nat) (st : SlotState) (origin : Origin) (tag : Nat) (cls : MsgClass) (dest orig : Station) (grant : Option Nat) (len : Nat) :
    (Device.takeSlot d i st origin tag cls dest orig grant len).aside = d.aside := by
  unfold Device.takeSlot
  simp

@[simp] theorem Device.withdrawData_aside (d : Device) (i : Nat) :
    (Device.withdrawData d i).aside = d.aside := by
  unfold Device.withdrawData
  simp

@[simp] theorem Device.goReady_aside (d : Device) (i : Nat) :
    (Device.goReady d i).aside = d.aside := by
  unfold Device.goReady
  split <;> simp

@[simp] theorem Device.takeAnswer_aside (d : Device) (i : Nat) (ans : Option Station) :
    (Device.takeAnswer d i ans).aside = d.aside := by
  unfold Device.takeAnswer
  repeat' (first | with_reducible rfl | simp | split)

@[simp] theorem Device.askRoute_aside (d : Device) (i : Nat) :
    (Device.askRoute d i).aside = d.aside := by
  unfold Device.askRoute
  simp

@[simp] theorem Device.startRoute_aside (d : Device) (i : Nat) :
    (Device.startRoute d i).aside = d.aside := by
  unfold Device.startRoute
  simp

@[simp] theorem Device.routeEvent_aside (d : Device) (st : Station) :
    (Device.routeEvent d st).aside = d.aside := by
  unfold Device.routeEvent
  exact foldl_aside _ (fun _ _ => by split <;> simp) _ _

@[simp] theorem Device.routeEvents_aside (d : Device) (sts : List Station) :
    (Device.routeEvents d sts).aside = d.aside := by
  unfold Device.routeEvents
  exact foldl_aside _ (fun _ _ => by simp) _ _

@[simp] theorem Device.onRepCounts_aside (d : Device) (f : RepCounts → RepCounts) :
    (Device.onRepCounts d f).aside = d.aside := by
  unfold Device.onRepCounts
  simp

@[simp] theorem Device.reportCatchState_aside (d : Device) (e : RepEvent) (minutes : Option Nat) :
    (Device.reportCatchState d e minutes).aside = d.aside := by
  exact Device.report_aside _ _ _ _ rfl

@[simp] theorem Device.reportCatchKind_aside (d : Device) (e : RepEvent) (kind : ReportReason) :
    (Device.reportCatchKind d e kind).aside = d.aside := by
  exact Device.report_aside _ _ _ _ rfl

@[simp] theorem Device.enterPending_aside (d : Device) (kind : ReportReason) :
    (Device.enterPending d kind).aside = d.aside := by
  unfold Device.enterPending
  split <;> simp

@[simp] theorem Device.build_aside (d : Device) (kind : ReportReason) (i : Nat) :
    (Device.build d kind i).aside = d.aside := by
  unfold Device.build
  dsimp only
  repeat' (first
    | with_reducible rfl
    | simp
    | exact Device.onLog_aside _ _ rfl
    | exact Device.onNeigh_aside _ _ rfl
    | exact Device.report_aside _ _ _ _ rfl
    | exact (Device.report_aside _ _ _ _ rfl).trans (by simp)
    | (refine (foldl_aside _ ?_ _ _).trans ?_; intro _ _)
    | split
    | (refine (Device.orPending_aside _ _ _ ?_ ?_).trans ?_; intro _)
    | exact (by simpa using (congrArg (fun x => x.2.aside) ‹_ = (_, _)›).symm))

@[simp] theorem Device.tryBuild_aside (d : Device) (kind : ReportReason) :
    (Device.tryBuild d kind).aside = d.aside := by
  unfold Device.tryBuild
  repeat' (first | with_reducible rfl | simp | split)

@[simp] theorem Device.trigger_aside (d : Device) (kind : ReportReason) :
    (Device.trigger d kind).aside = d.aside := by
  unfold Device.trigger
  split <;> simp

@[simp] theorem Device.buildPending_aside (d : Device) :
    (Device.buildPending d).aside = d.aside := by
  unfold Device.buildPending
  split <;> simp

@[simp] theorem Device.slotFreed_aside (d : Device) :
    (Device.slotFreed d).aside = d.aside := by
  unfold Device.slotFreed
  split <;> simp

@[simp] theorem Device.closeReport_aside (d : Device) (e : Ending) :
    (Device.closeReport d e).aside = d.aside := by
  unfold Device.closeReport
  dsimp only
  repeat' (first
    | with_reducible rfl
    | simp
    | exact Device.onLog_aside _ _ rfl
    | exact Device.onNeigh_aside _ _ rfl
    | exact Device.report_aside _ _ _ _ rfl
    | exact (Device.report_aside _ _ _ _ rfl).trans (by simp)
    | (refine (foldl_aside _ ?_ _ _).trans ?_; intro _ _)
    | split
    | (refine (Device.orPending_aside _ _ _ ?_ ?_).trans ?_; intro _)
    | exact (by simpa using (congrArg (fun x => x.2.aside) ‹_ = (_, _)›).symm))

@[simp] theorem Device.countEnding_aside (d : Device) (e : Ending) :
    (Device.countEnding d e).aside = d.aside := by
  unfold Device.countEnding
  simp

@[simp] theorem Device.endReport_aside (d : Device) (e : Ending) (cause : Option LostCause) :
    (Device.endReport d e cause).aside = d.aside := by
  unfold Device.endReport
  dsimp only
  repeat' (first
    | with_reducible rfl
    | simp
    | exact Device.onLog_aside _ _ rfl
    | exact Device.onNeigh_aside _ _ rfl
    | exact Device.report_aside _ _ _ _ rfl
    | exact (Device.report_aside _ _ _ _ rfl).trans (by simp)
    | (refine (foldl_aside _ ?_ _ _).trans ?_; intro _ _)
    | split
    | (refine (Device.orPending_aside _ _ _ ?_ ?_).trans ?_; intro _)
    | exact (by simpa using (congrArg (fun x => x.2.aside) ‹_ = (_, _)›).symm))

@[simp] theorem Device.catchOutcome_aside (d : Device) (o : Outcome) :
    (Device.catchOutcome d o).aside = d.aside := by
  unfold Device.catchOutcome
  repeat' (first | with_reducible rfl | simp | split)

@[simp] theorem Device.removeReasm_aside (d : Device) (src num : Nat) :
    (Device.removeReasm d src num).aside = d.aside := by
  unfold Device.removeReasm
  simp

@[simp] theorem Device.onReasm_aside (d : Device) (src num : Nat) (f : Reasm → Reasm) :
    (Device.onReasm d src num f).aside = d.aside := by
  unfold Device.onReasm
  simp

@[simp] theorem Device.startRelay_aside (d : Device) (i : Nat) (e : Reasm) :
    (Device.startRelay d i e).aside = d.aside := by
  unfold Device.startRelay
  simp

@[simp] theorem Device.handOverRelay_aside (d : Device) (e : Reasm) :
    (Device.handOverRelay d e).aside = d.aside := by
  unfold Device.handOverRelay
  repeat' (first | with_reducible rfl | simp | split)

@[simp] theorem Device.retryHandOvers_aside (d : Device) :
    (Device.retryHandOvers d).aside = d.aside := by
  unfold Device.retryHandOvers
  exact foldl_aside _ (fun _ _ => by simp) _ _

@[simp] theorem Device.releaseOutbound_aside (d : Device) (id : Nat) :
    (Device.releaseOutbound d id).aside = d.aside := by
  unfold Device.releaseOutbound
  simp

@[simp] theorem Device.releaseGrant_aside (d : Device) (id : Nat) :
    (Device.releaseGrant d id).aside = d.aside := by
  unfold Device.releaseGrant
  simp

@[simp] theorem Device.freeSlot_aside (d : Device) (i : Nat) :
    (Device.freeSlot d i).aside = d.aside := by
  unfold Device.freeSlot
  simp

@[simp] theorem Device.discardReasm_aside (d : Device) (e : Reasm) :
    (Device.discardReasm d e).aside = d.aside := by
  unfold Device.discardReasm
  split <;> simp

@[simp] theorem Device.countOutcome_aside (d : Device) (o : Outcome) :
    (Device.countOutcome d o).aside = d.aside := by
  unfold Device.countOutcome
  simp

@[simp] theorem Device.endTransfer_aside (d : Device) (i : Nat) (o : Outcome) :
    (Device.endTransfer d i o).aside = d.aside := by
  unfold Device.endTransfer
  repeat' (first | with_reducible rfl | simp | split)

@[simp] theorem Device.startConsole_aside (d : Device) (i : Nat) :
    (Device.startConsole d i).aside = d.aside := by
  unfold Device.startConsole
  split <;> simp

@[simp] theorem Device.hopFails_aside (d : Device) (i : Nat) :
    (Device.hopFails d i).aside = d.aside := by
  unfold Device.hopFails
  repeat' (first | with_reducible rfl | simp | split)

@[simp] theorem Device.leaveAck_aside (d : Device) (i : Nat) :
    (Device.leaveAck d i).aside = d.aside := by
  unfold Device.leaveAck
  simp

@[simp] theorem Device.takeTimeout_aside (d : Device) (i : Nat) :
    (Device.takeTimeout d i).aside = d.aside := by
  unfold Device.takeTimeout
  dsimp only
  refine (Device.orPending_aside _ _ _ (fun _ => by simp) ?_).trans ?_
  · repeat' split
    all_goals simp
  · rw [Device.onXferCounts_aside, Device.onSlot_aside]
    split <;> simp

@[simp] theorem Device.takeAccepted_aside (d : Device) (i : Nat) :
    (Device.takeAccepted d i).aside = d.aside := by
  unfold Device.takeAccepted
  dsimp only
  repeat' (first
    | with_reducible rfl
    | simp
    | exact Device.onLog_aside _ _ rfl
    | exact Device.onNeigh_aside _ _ rfl
    | exact Device.report_aside _ _ _ _ rfl
    | exact (Device.report_aside _ _ _ _ rfl).trans (by simp)
    | (refine (foldl_aside _ ?_ _ _).trans ?_; intro _ _)
    | split
    | (refine (Device.orPending_aside _ _ _ ?_ ?_).trans ?_; intro _)
    | exact (by simpa using (congrArg (fun x => x.2.aside) ‹_ = (_, _)›).symm))

@[simp] theorem Device.takeFull_aside (d : Device) (i : Nat) :
    (Device.takeFull d i).aside = d.aside := by
  unfold Device.takeFull
  dsimp only
  repeat' (first
    | with_reducible rfl
    | simp
    | exact Device.onLog_aside _ _ rfl
    | exact Device.onNeigh_aside _ _ rfl
    | exact Device.report_aside _ _ _ _ rfl
    | exact (Device.report_aside _ _ _ _ rfl).trans (by simp)
    | (refine (foldl_aside _ ?_ _ _).trans ?_; intro _ _)
    | split
    | (refine (Device.orPending_aside _ _ _ ?_ ?_).trans ?_; intro _)
    | exact (by simpa using (congrArg (fun x => x.2.aside) ‹_ = (_, _)›).symm))

@[simp] theorem Device.takeNoRelay_aside (d : Device) (i : Nat) :
    (Device.takeNoRelay d i).aside = d.aside := by
  unfold Device.takeNoRelay
  dsimp only
  split
  · simp
  · refine (Device.orPending_aside _ _ _ (fun _ => by simp) ?_).trans (by simp)
    split <;> simp

@[simp] theorem Device.takeUnknown_aside (d : Device) (i : Nat) :
    (Device.takeUnknown d i).aside = d.aside := by
  unfold Device.takeUnknown
  dsimp only
  repeat' (first
    | with_reducible rfl
    | simp
    | exact Device.onLog_aside _ _ rfl
    | exact Device.onNeigh_aside _ _ rfl
    | exact Device.report_aside _ _ _ _ rfl
    | exact (Device.report_aside _ _ _ _ rfl).trans (by simp)
    | (refine (foldl_aside _ ?_ _ _).trans ?_; intro _ _)
    | split
    | (refine (Device.orPending_aside _ _ _ ?_ ?_).trans ?_; intro _)
    | exact (by simpa using (congrArg (fun x => x.2.aside) ‹_ = (_, _)›).symm))

@[simp] theorem Device.takeWaitingTimeout_aside (d : Device) :
    (Device.takeWaitingTimeout d).aside = d.aside := by
  unfold Device.takeWaitingTimeout
  repeat' split
  all_goals first
    | rfl
    | simp

@[simp] theorem Device.dataKeyed_aside (d : Device) (i : Nat) :
    (Device.dataKeyed d i).aside = d.aside := by
  unfold Device.dataKeyed
  simp

@[simp] theorem Device.goHeld_aside (d : Device) (i : Nat) (from' : SlotState) :
    (Device.goHeld d i from').aside = d.aside := by
  unfold Device.goHeld
  exact Device.orPending_aside _ _ _ (fun _ => by simp) (by simp)

@[simp] theorem Device.dataSent_aside (d : Device) (i : Nat) :
    (Device.dataSent d i).aside = d.aside := by
  unfold Device.dataSent
  repeat' (first | with_reducible rfl | simp | split)

@[simp] theorem Device.dataAborted_aside (d : Device) (i : Nat) :
    (Device.dataAborted d i).aside = d.aside := by
  unfold Device.dataAborted
  split
  · split
    · simp
    · exact (Device.orPending_aside _ _ _ (fun _ => by simp) (by simp)).trans (by simp)
  · rfl

@[simp] theorem Device.askEnding_aside (d : Device) (i : Nat) (o : Outcome) :
    (Device.askEnding d i o).aside = d.aside := by
  unfold Device.askEnding
  repeat' (first | with_reducible rfl | simp | split)

@[simp] theorem Device.holdTransfers_aside (d : Device) :
    (Device.holdTransfers d).aside = d.aside := by
  unfold Device.holdTransfers
  refine (foldl_aside _ (fun d i => ?_) _ _).trans rfl
  dsimp only
  split <;> simp

@[simp] theorem Device.unhold_aside (d : Device) (i : Nat) :
    (Device.unhold d i).aside = d.aside := by
  unfold Device.unhold
  repeat' (first | with_reducible rfl | simp | split)

@[simp] theorem Device.unholdTransfers_aside (d : Device) :
    (Device.unholdTransfers d).aside = d.aside := by
  unfold Device.unholdTransfers
  exact foldl_aside _ (fun _ _ => by simp) _ _

end Sys2Proof.Machine
end

