-- ==== Sys2Proof/Laws/Calendar.lean ====
section
/-! SUPPORT. The calendar of ship's time (R198) and the search for the moment a forecast or warning was issued (R139). -/

namespace Sys2Proof.Machine

theorem dayNumber_eq (y m d : Nat) :
    dayNumber y m d = (y - 1996) * 365 + (y - 1996 + 3) / 4 + daysBeforeMonth y m + (d - 1) := rfl

/-- A moment by its month and what lies within it. -/
theorem secondsOf_eq (y m d h mi s : Nat) :
    secondsOf y m d h mi s = (dayNumber y m 1 + (d - 1)) * 86400 + h * 3600 + mi * 60 + s := by
  unfold secondsOf; rw [dayNumber_eq, dayNumber_eq]; omega

theorem leapYear_iff (y : Nat) : leapYear y = true ↔ y % 4 = 0 := by unfold leapYear; exact beq_iff_eq

theorem daysBeforeMonth_succ (y m : Nat) (h : 1 ≤ m) :
    daysBeforeMonth y (m + 1) = daysBeforeMonth y m + monthDays y m := by
  obtain ⟨m, rfl⟩ : ∃ n, m = n + 1 := ⟨m - 1, by omega⟩
  simp [daysBeforeMonth, List.range_succ]

theorem daysBeforeMonth_le (y m k : Nat) (h : 1 ≤ m) : daysBeforeMonth y m ≤ daysBeforeMonth y (m + k) := by
  induction k with
  | zero => exact Nat.le_refl _
  | succ k ih => rw [← Nat.add_assoc, daysBeforeMonth_succ y (m + k) (by omega)]; omega

/-- The days of a year. -/
theorem daysBeforeMonth_year (y : Nat) : daysBeforeMonth y 13 = 365 + if y % 4 = 0 then 1 else 0 := by
  by_cases h : y % 4 = 0
  · have hl := (leapYear_iff y).2 h
    simp [daysBeforeMonth, List.range_succ, monthDays, hl, h]
  · have hl : leapYear y = false := by
      cases hy : leapYear y
      · rfl
      · exact absurd ((leapYear_iff y).1 hy) h
    simp [daysBeforeMonth, List.range_succ, monthDays, hl, h]

/-- A month ends before every later month begins. -/
theorem month_before (y m y' m' : Nat) (h0 : 1996 ≤ y) (h1 : 1 ≤ m) (h2 : m ≤ 12)
    (h : y < y' ∨ y = y' ∧ m < m') : dayNumber y m 1 + monthDays y m ≤ dayNumber y' m' 1 := by
  rw [dayNumber_eq, dayNumber_eq]
  have hs := daysBeforeMonth_succ y m h1
  rcases h with h | ⟨rfl, h⟩
  · have hy := daysBeforeMonth_year y
    have hle := daysBeforeMonth_le y (m + 1) (12 - m) (by omega)
    rw [show m + 1 + (12 - m) = 13 by omega] at hle
    split at hy <;> omega
  · have hle := daysBeforeMonth_le y (m + 1) (m' - (m + 1)) (by omega)
    rw [show m + 1 + (m' - (m + 1)) = m' by omega] at hle
    omega

/-- Moments with one day, hour and minute lie before every later month. -/
theorem secondsOf_before (y m y' m' d h mi : Nat) (h0 : 1996 ≤ y) (h1 : 1 ≤ m) (h2 : m ≤ 12) (hd : 1 ≤ d)
    (hm : d ≤ monthDays y m) (hh : h ≤ 23) (hmi : mi ≤ 59) (hb : y < y' ∨ y = y' ∧ m < m') :
    secondsOf y m d h mi 0 < dayNumber y' m' 1 * 86400 := by
  have := month_before y m y' m' h0 h1 h2 hb
  rw [secondsOf_eq]; omega

/-- Years with as many days in February have the same months. -/
theorem calendar_congr (y z : Nat) (h : leapYear y = leapYear z) :
    (∀ m, monthDays y m = monthDays z m) ∧ (∀ m, daysBeforeMonth y m = daysBeforeMonth z m) ∧
      ∀ l day, monthOfDay y l day = monthOfDay z l day := by
  have hm : ∀ m, monthDays y m = monthDays z m := by intro m; unfold monthDays; rw [h]
  refine ⟨hm, fun m => by unfold daysBeforeMonth; simp only [hm], fun l => ?_⟩
  induction l with
  | nil => intro day; rfl
  | cons a r ih => intro day; unfold monthOfDay; rw [hm, ih]

/-- The month of a day of the year holds it. -/
theorem monthOfDay_holds (y day : Nat) (h : day < 365 + if y % 4 = 0 then 1 else 0) :
    let md := monthOfDay y [1, 2, 3, 4, 5, 6, 7, 8, 9, 10, 11, 12] day
    1 ≤ md.1 ∧ md.1 ≤ 12 ∧ daysBeforeMonth y md.1 ≤ day ∧ day < daysBeforeMonth y md.1 + monthDays y md.1 := by
  have t0 : ∀ day : Fin 366, let md := monthOfDay 1996 [1, 2, 3, 4, 5, 6, 7, 8, 9, 10, 11, 12] day.val
      1 ≤ md.1 ∧ md.1 ≤ 12 ∧ daysBeforeMonth 1996 md.1 ≤ day.val ∧
        day.val < daysBeforeMonth 1996 md.1 + monthDays 1996 md.1 := by decide +kernel
  have t1 : ∀ day : Fin 365, let md := monthOfDay 1997 [1, 2, 3, 4, 5, 6, 7, 8, 9, 10, 11, 12] day.val
      1 ≤ md.1 ∧ md.1 ≤ 12 ∧ daysBeforeMonth 1997 md.1 ≤ day.val ∧
        day.val < daysBeforeMonth 1997 md.1 + monthDays 1997 md.1 := by decide +kernel
  by_cases h4 : y % 4 = 0
  · obtain ⟨c1, c2, c3⟩ := calendar_congr y 1996 (by rw [(leapYear_iff y).2 h4]; rfl)
    rw [if_pos h4] at h
    simp only [c1, c2, c3]
    exact t0 ⟨day, h⟩
  · obtain ⟨c1, c2, c3⟩ := calendar_congr y 1997 (by
      cases h5 : leapYear y
      · rfl
      · exact absurd ((leapYear_iff y).1 h5) h4)
    rw [if_neg h4] at h
    simp only [c1, c2, c3]
    exact t1 ⟨day, h⟩

/-- The date of a day number: its month holds the day. -/
theorem dateOf_month (n : Nat) : 1996 ≤ (dateOf n).1 ∧ 1996 + n / 1461 * 4 ≤ (dateOf n).1 ∧ 1 ≤ (dateOf n).2.1 ∧
    (dateOf n).2.1 ≤ 12 ∧ dayNumber (dateOf n).1 (dateOf n).2.1 1 ≤ n ∧
    n < dayNumber (dateOf n).1 (dateOf n).2.1 1 + monthDays (dateOf n).1 (dateOf n).2.1 := by
  unfold dateOf
  dsimp only
  have hq := Nat.div_add_mod n 1461
  have hr := Nat.mod_lt n (show 0 < 1461 by omega)
  generalize n / 1461 = q at *
  generalize n % 1461 = r at *
  by_cases h : r < 366
  · rw [if_pos h, if_pos h]
    have := monthOfDay_holds (1996 + q * 4 + 0) r (by rw [if_pos (by omega)]; omega)
    dsimp only at this
    rw [dayNumber_eq]
    omega
  · rw [if_neg h, if_neg h]
    have hk := Nat.div_add_mod (r - 366) 365
    have hk2 := Nat.mod_lt (r - 366) (show 0 < 365 by omega)
    generalize (r - 366) / 365 = k at *
    generalize (r - 366) % 365 = u at *
    have := monthOfDay_holds (1996 + q * 4 + (1 + k)) u (by rw [if_neg (by omega)]; omega)
    dsimp only at this
    rw [dayNumber_eq]
    omega

/-- The month before. -/
def monthBack (y m : Nat) : Nat × Nat := if m = 1 then (y - 1, 12) else (y, m - 1)

theorem searchIssued_succ (now d h mi f y m : Nat) : searchIssued now d h mi (f + 1) y m =
    if d ≤ monthDays y m ∧ secondsOf y m d h mi 0 ≤ now then some (secondsOf y m d h mi 0)
    else searchIssued now d h mi f (monthBack y m).1 (monthBack y m).2 := by
  rw [searchIssued]
  unfold monthBack
  split
  · rfl
  · split <;> rfl

/-- Of two months in a row one has 31 days. -/
theorem long_month (a b : Nat) (h1 : 1 ≤ b) (h2 : b ≤ 12) :
    31 ≤ monthDays a b ∨ 31 ≤ monthDays (monthBack a b).1 (monthBack a b).2 := by
  interval_cases b <;> simp [monthBack, monthDays]

theorem searchIssued_none (now d h mi f y m : Nat) (hs : searchIssued now d h mi (f + 1) y m = none) :
    ¬(d ≤ monthDays y m ∧ secondsOf y m d h mi 0 ≤ now) ∧
      searchIssued now d h mi f (monthBack y m).1 (monthBack y m).2 = none := by
  rw [searchIssued_succ] at hs
  split at hs
  · cases hs
  · exact ⟨‹_›, hs⟩

/-- A search of four months meets a fitting one. -/
theorem searchIssued_some (now d h mi y m : Nat) (hd : 1 ≤ d) (hd' : d ≤ 31) (hh : h ≤ 23) (hmi : mi ≤ 59)
    (hy : 2000 ≤ y) (hm : 1 ≤ m) (hm' : m ≤ 12) (hn : dayNumber y m 1 * 86400 ≤ now) (f : Nat) :
    searchIssued now d h mi (f + 3) y m ≠ none := by
  intro hs
  obtain ⟨-, hs⟩ := searchIssued_none now d h mi (f + 2) y m hs
  have hback : ∀ a b, 1996 ≤ a → 1 ≤ b → b ≤ 12 → (a < y ∨ a = y ∧ b < m) →
      d ≤ monthDays a b → secondsOf a b d h mi 0 ≤ now := by
    intro a b g0 g1 g2 g3 g4
    have := secondsOf_before a b y m d h mi g0 g1 g2 hd g4 hh hmi g3
    omega
  have hb : 1 ≤ (monthBack y m).2 ∧ (monthBack y m).2 ≤ 12 ∧ 1999 ≤ (monthBack y m).1 ∧
      ((monthBack y m).1 < y ∨ (monthBack y m).1 = y ∧ (monthBack y m).2 < m) := by
    unfold monthBack; split <;> dsimp only <;> omega
  generalize (monthBack y m).1 = y1 at *
  generalize (monthBack y m).2 = m1 at *
  obtain ⟨b1, b2, b3, b4⟩ := hb
  have hb2 : 1 ≤ (monthBack y1 m1).2 ∧ (monthBack y1 m1).2 ≤ 12 ∧ 1996 ≤ (monthBack y1 m1).1 ∧
      ((monthBack y1 m1).1 < y ∨ (monthBack y1 m1).1 = y ∧ (monthBack y1 m1).2 < m) := by
    unfold monthBack; split <;> dsimp only <;> omega
  obtain ⟨hn1, hs⟩ := searchIssued_none now d h mi (f + 1) y1 m1 hs
  obtain ⟨hn2, -⟩ := searchIssued_none now d h mi f _ _ hs
  rcases long_month y1 m1 b1 b2 with hl | hl
  · exact hn1 ⟨by omega, hback y1 m1 (by omega) b1 b2 b4 (by omega)⟩
  · exact hn2 ⟨by omega, hback _ _ hb2.2.2.1 hb2.1 hb2.2.1 hb2.2.2.2 (by omega)⟩

/-- A search from a month with no fitting one after it answers the latest fitting moment. -/
theorem searchIssued_latest (now d h mi : Nat) (hd : 1 ≤ d) (hh : h ≤ 23) (hmi : mi ≤ 59) (f : Nat) : ∀ y m,
    1996 * 12 + f + 1 ≤ y * 12 + m → 1 ≤ m → m ≤ 12 →
    (∀ y' m', 1996 ≤ y' → 1 ≤ m' → m' ≤ 12 → d ≤ monthDays y' m' → secondsOf y' m' d h mi 0 ≤ now →
      ¬(y < y' ∨ y = y' ∧ m < m')) →
    ∀ t, searchIssued now d h mi f y m = some t → ∃ a b, 1996 ≤ a ∧ 1 ≤ b ∧ b ≤ 12 ∧ d ≤ monthDays a b ∧
      t = secondsOf a b d h mi 0 ∧ t ≤ now ∧ ∀ y' m', 1996 ≤ y' → 1 ≤ m' → m' ≤ 12 → d ≤ monthDays y' m' →
        secondsOf y' m' d h mi 0 ≤ now → secondsOf y' m' d h mi 0 ≤ t := by
  induction f with
  | zero => intro y m _ _ _ _ t ht; simp [searchIssued] at ht
  | succ f ih =>
    intro y m h0 h1 h2 hno t ht
    rw [searchIssued_succ] at ht
    by_cases hc : d ≤ monthDays y m ∧ secondsOf y m d h mi 0 ≤ now
    · rw [if_pos hc] at ht
      cases ht
      refine ⟨y, m, by omega, h1, h2, hc.1, rfl, hc.2, fun y' m' g0 g1 g2 g3 g4 => ?_⟩
      have := hno y' m' g0 g1 g2 g3 g4
      by_cases he : y' = y ∧ m' = m
      · rw [he.1, he.2]
      · have hb := secondsOf_before y' m' y m d h mi g0 g1 g2 hd g3 hh hmi (by omega)
        rw [secondsOf_eq y m]; omega
    · rw [if_neg hc] at ht
      refine ih (monthBack y m).1 (monthBack y m).2 ?_ ?_ ?_ ?_ t ht
      · unfold monthBack; split <;> dsimp only <;> omega
      · unfold monthBack; split <;> dsimp only <;> omega
      · unfold monthBack; split <;> dsimp only <;> omega
      · intro y' m' g0 g1 g2 g3 g4 hlt
        have := hno y' m' g0 g1 g2 g3 g4
        by_cases he : y' = y ∧ m' = m
        · exact hc ⟨by rw [← he.1, ← he.2]; exact g3, by rw [← he.1, ← he.2]; exact g4⟩
        · unfold monthBack at hlt
          split at hlt <;> dsimp only at hlt <;> omega

/-- R139's search: the latest moment, not later than the given one, with the day, hour and minute. -/
theorem issuedUtc_latest (u day hour minute : Nat) (h1 : 1 ≤ day) (h2 : day ≤ 31) (h3 : hour ≤ 23)
    (h4 : minute ≤ 59) :
    ∃ y m, 1996 ≤ y ∧ 1 ≤ m ∧ m ≤ 12 ∧ day ≤ monthDays y m ∧ secondsOf y m day hour minute 0 ≤ u + epochShift ∧
      issuedUtc u day hour minute = some ((secondsOf y m day hour minute 0 : Int) - (epochShift : Int)) ∧
      ∀ y' m', 1996 ≤ y' → 1 ≤ m' → m' ≤ 12 → day ≤ monthDays y' m' →
        secondsOf y' m' day hour minute 0 ≤ u + epochShift →
        secondsOf y' m' day hour minute 0 ≤ secondsOf y m day hour minute 0 := by
  have hE : epochShift = 126230400 := by decide
  unfold issuedUtc
  generalize epochShift = shift at *
  obtain ⟨d0, d0', d1, d2, d3, d4⟩ := dateOf_month ((u + shift) / 86400)
  dsimp only
  generalize hy : (dateOf ((u + shift) / 86400)).1 = y at *
  generalize hm : (dateOf ((u + shift) / 86400)).2.1 = m at *
  have hy2 : 2000 ≤ y := by omega
  have hlate : ∀ y' m', 1996 ≤ y' → 1 ≤ m' → m' ≤ 12 → day ≤ monthDays y' m' →
      secondsOf y' m' day hour minute 0 ≤ u + shift → ¬(y < y' ∨ y = y' ∧ m < m') := by
    intro y' m' _ _ _ _ g4 hlt
    have := month_before y m y' m' d0 d1 d2 hlt
    rw [secondsOf_eq] at g4
    omega
  cases hs : searchIssued (u + shift) day hour minute 4 y m with
  | some t =>
    obtain ⟨a, b, a0, a1, a2, a3, rfl, a5, a6⟩ :=
      searchIssued_latest (u + shift) day hour minute h1 h3 h4 4 y m (by omega) d1 d2 hlate t hs
    exact ⟨a, b, a0, a1, a2, a3, a5, rfl, a6⟩
  | none =>
    exact absurd hs (searchIssued_some (u + shift) day hour minute y m h1 h2 h3 h4 hy2 d1 d2 (by omega) 1)

end Sys2Proof.Machine
end

