-- ==== Sys2Proof/Laws/Store.lean ====
section
/-! SUPPORT. The Page Store: every operation keeps the canonical form of its contents, and a read after a write. -/

namespace Sys2Proof.Machine

/-- Every listed address lies above `a`, or there is none. -/
theorem Store.wf_cons (c : Host.Cell) (r : List Host.Cell) :
    Store.wf (c :: r) = true ↔ c.2 ≠ erasureMark ∧ (∀ x ∈ r, c.1 < x.1) ∧ Store.wf r = true := by
  induction r generalizing c with
  | nil => simp [Store.wf]
  | cons c' r ih =>
    have h1 : Store.wf (c :: c' :: r) = (c.2 != erasureMark && decide (c.1 < c'.1) && Store.wf (c' :: r)) := rfl
    rw [h1, Bool.and_eq_true, Bool.and_eq_true, ih c']
    simp only [bne_iff_ne, decide_eq_true_eq, List.mem_cons, forall_eq_or_imp]
    constructor
    · rintro ⟨⟨h2, h3⟩, h4, h5, h6⟩
      exact ⟨h2, ⟨h3, fun x hx => Nat.lt_trans h3 (h5 x hx)⟩, h4, h5, h6⟩
    · rintro ⟨h2, ⟨h3, _⟩, h4, h5, h6⟩
      exact ⟨⟨h2, h3⟩, h4, h5, h6⟩

theorem Store.mem_consCell (a : Nat) (b : BitVec 8) (r : List Host.Cell) (x : Host.Cell)
    (h : x ∈ Store.consCell a b r) : x = (a, b) ∨ x ∈ r := by
  unfold Store.consCell at h
  split at h
  · exact Or.inr h
  · exact List.mem_cons.1 h

theorem Store.consCell_wf (a : Nat) (b : BitVec 8) (r : List Host.Cell) (h : Store.wf r = true)
    (ha : ∀ x ∈ r, a < x.1) : Store.wf (Store.consCell a b r) = true := by
  unfold Store.consCell
  split
  · exact h
  · exact (Store.wf_cons _ _).2 ⟨by assumption, ha, h⟩

theorem Store.mem_putCell (l : List Host.Cell) (a : Nat) (b : BitVec 8) (x : Host.Cell)
    (h : x ∈ Store.putCell l a b) : x = (a, b) ∨ x ∈ l := by
  induction l with
  | nil => exact Store.mem_consCell a b [] x h
  | cons c r ih =>
    obtain ⟨y, v⟩ := c
    unfold Store.putCell at h
    split at h
    · exact Store.mem_consCell a b _ x h
    · split at h
      · rcases Store.mem_consCell a b r x h with h | h
        · exact Or.inl h
        · exact Or.inr (List.mem_cons_of_mem _ h)
      · rcases List.mem_cons.1 h with h | h
        · exact Or.inr (h ▸ List.mem_cons_self)
        · rcases ih h with h | h
          · exact Or.inl h
          · exact Or.inr (List.mem_cons_of_mem _ h)

/-- A write keeps the canonical form. -/
theorem Store.putCell_wf (l : List Host.Cell) (a : Nat) (b : BitVec 8) (h : Store.wf l = true) :
    Store.wf (Store.putCell l a b) = true := by
  induction l with
  | nil => exact Store.consCell_wf a b [] rfl (by simp)
  | cons c r ih =>
    obtain ⟨y, v⟩ := c
    obtain ⟨h1, h2, h3⟩ := (Store.wf_cons _ _).1 h
    unfold Store.putCell
    split
    · rename_i hlt
      refine Store.consCell_wf a b _ h ?_
      intro x hx
      rcases List.mem_cons.1 hx with hx | hx
      · exact hx ▸ hlt
      · exact Nat.lt_trans hlt (h2 x hx)
    · split
      · rename_i heq
        exact Store.consCell_wf a b r h3 (fun x hx => heq ▸ h2 x hx)
      · refine (Store.wf_cons _ _).2 ⟨h1, ?_, ih h3⟩
        intro x hx
        rcases Store.mem_putCell r a b x hx with hx | hx
        · subst hx
          simp only
          omega
        · exact h2 x hx

/-- Leaving out cells keeps the canonical form. -/
theorem Store.filter_wf (l : List Host.Cell) (p : Host.Cell → Bool) (h : Store.wf l = true) :
    Store.wf (l.filter p) = true := by
  induction l with
  | nil => rfl
  | cons c r ih =>
    obtain ⟨h1, h2, h3⟩ := (Store.wf_cons _ _).1 h
    rw [List.filter_cons]
    split
    · exact (Store.wf_cons _ _).2 ⟨h1, fun x hx => h2 x (List.mem_filter.1 hx).1, ih h3⟩
    · exact ih h3

/-- Filling a page keeps the canonical form. -/
theorem Store.clearPage_wf (l : List Host.Cell) (page : Nat) (h : Store.wf l = true) :
    Store.wf (Store.clearPage l page) = true := Store.filter_wf l _ h

theorem Store.clearPages_wf (pages : List Nat) (l : List Host.Cell) (h : Store.wf l = true) :
    Store.wf (pages.foldl Store.clearPage l) = true := by
  induction pages generalizing l with
  | nil => exact h
  | cons p r ih => exact ih _ (Store.clearPage_wf l p h)

/-- A reservation keeps the canonical form. -/
theorem Store.reserve_wf (s : Store) (h : Holder) (size : Nat) (hs : Store.wf s.cells = true) :
    Store.wf (s.reserve h size).2.cells = true := by
  unfold Store.reserve
  dsimp only
  repeat' split
  · exact hs
  · exact hs
  · exact hs
  · exact Store.clearPages_wf _ _ hs

/-- A hand-over and a release leave the contents as they are. -/
theorem Store.handOver_cells (s : Store) (id : Nat) (taker : Holder) : (s.handOver id taker).2.cells = s.cells := by
  unfold Store.handOver
  repeat' split
  all_goals rfl

theorem Store.release_cells (s : Store) (id : Nat) : (s.release id).cells = s.cells := rfl

theorem Store.writeSym_wf (s : Store) (id i v : Nat) (hs : Store.wf s.cells = true) :
    Store.wf (s.writeSym id i v).cells = true := by
  unfold Store.writeSym
  repeat' split
  · exact hs
  · exact hs
  · exact Store.putCell_wf _ _ _ hs

theorem Store.writeSyms_wf (s : Store) (id : Nat) : ∀ (i : Nat) (l : List Nat), Store.wf s.cells = true →
    Store.wf (s.writeSyms id i l).cells = true := by
  intro i l
  induction l generalizing s i with
  | nil => exact fun h => h
  | cons v r ih => exact fun h => ih _ _ (Store.writeSym_wf s id i v h)

/-! ## Reads after writes (R53) -/

/-- What was just written is read back, and no other address changes. -/
theorem Store.getCell_consCell (a : Nat) (b : BitVec 8) (r : List Host.Cell) (x : Nat)
    (ha : ∀ c ∈ r, a < c.1) : Store.getCell (Store.consCell a b r) x = if x = a then b else Store.getCell r x := by
  have miss : ∀ l : List Host.Cell, (∀ c ∈ l, x < c.1) → Store.getCell l x = erasureMark := by
    intro l
    induction l with
    | nil => intro _; rfl
    | cons c l ih =>
      intro h
      obtain ⟨y, v⟩ := c
      have h1 : x < y := h (y, v) List.mem_cons_self
      unfold Store.getCell
      rw [if_neg (by omega)]
      exact ih fun c hc => h c (List.mem_cons_of_mem _ hc)
  unfold Store.consCell
  split
  · rename_i hb
    split
    · rename_i hx
      subst hx
      rw [miss r ha, hb]
    · rfl
  · rfl

/-- One address reads what was written there; every other address reads as before (R53). -/
theorem Store.getCell_putCell (l : List Host.Cell) (a : Nat) (b : BitVec 8) (x : Nat) (h : Store.wf l = true) :
    Store.getCell (Store.putCell l a b) x = if x = a then b else Store.getCell l x := by
  induction l with
  | nil => exact Store.getCell_consCell a b [] x (by simp)
  | cons c r ih =>
    obtain ⟨y, v⟩ := c
    obtain ⟨h1, h2, h3⟩ := (Store.wf_cons _ _).1 h
    unfold Store.putCell
    split
    · rename_i hlt
      refine Store.getCell_consCell a b _ x ?_
      intro c hc
      rcases List.mem_cons.1 hc with hc | hc
      · exact hc ▸ hlt
      · exact Nat.lt_trans hlt (h2 c hc)
    · split
      · rename_i heq
        rw [Store.getCell_consCell a b r x (fun c hc => heq ▸ h2 c hc)]
        by_cases hx : x = a
        · simp [hx]
        · simp only [if_neg hx, Store.getCell]
          rw [if_neg (by rw [← heq]; exact hx)]
      · rename_i hlt hne
        simp only [Store.getCell, ih h3]
        by_cases hx : x = y
        · simp only [if_pos hx]
          rw [if_neg (by omega)]
        · simp only [if_neg hx]

end Sys2Proof.Machine
end

