-- ==== Sys2Proof/Laws/Cells.lean ====
section
/-! SUPPORT. Every operation keeps the page contents in canonical form: one lemma per operation. -/

namespace Sys2Proof.Machine

/-- The page contents are in canonical form. -/
def Device.cellsOk (d : Device) : Bool := Store.wf d.store.cells

theorem foldl_cellsOk {α : Type} (f : Device → α → Device) (h : ∀ d x, d.cellsOk = true → (f d x).cellsOk = true)
    (l : List α) (d : Device) (h0 : d.cellsOk = true) : (l.foldl f d).cellsOk = true := by
  induction l generalizing d with
  | nil => exact h0
  | cons x r ih => exact ih _ (h d x h0)

theorem Device.orPending_cellsOk (d : Device) (i : Nat) (k : Device → Device)
    (h1 : ∀ o, (d.endTransfer i o).cellsOk = true) (h2 : (k d).cellsOk = true) : (d.orPending i k).cellsOk = true := by
  unfold Device.orPending
  split
  · exact h1 _
  · exact h2

@[simp] theorem Device.mk_cellsOk (a1 : Time) (a2 : Bool) (a3 : Nat) (a4 : Pins) (a5 : Setup) (a6 : Rx) (a7 : Option Tx)
    (a8 : RxCounts) (a9 : Access) (a10 : Protection) (a11 : LoopTest) (a12 : Store) (a13 : NeighTable)
    (a14 : List Wait) (a15 : Transfers) (a16 : DistressUnit) (a17 : WeatherStore) (a18 : CatchLog)
    (a19 : ReportBuilder) (a20 : Console) :
    Device.cellsOk ⟨a1, a2, a3, a4, a5, a6, a7, a8, a9, a10, a11, a12, a13, a14, a15, a16, a17, a18, a19, a20⟩
      = Store.wf a12.cells := rfl

@[simp] theorem Device.cellsOk_eta (d : Device) : Store.wf d.store.cells = d.cellsOk := rfl

@[simp] theorem Device.onStore_cellsOk (d : Device) (f : Store → Store) :
    (d.onStore f).cellsOk = Store.wf (f d.store).cells := rfl

@[simp] theorem Device.reserve_cellsOk (d : Device) (h : Holder) (size : Nat) (h0 : d.cellsOk = true) :
    (d.reserve h size).2.cellsOk = true := Store.reserve_wf d.store h size h0

theorem Device.reserve_eq_cellsOk {d e : Device} {h : Holder} {size : Nat} {r : Reserved}
    (h1 : d.reserve h size = (r, e)) (h0 : d.cellsOk = true) : e.cellsOk = true := by
  have h2 := Device.reserve_cellsOk d h size h0
  rwa [h1] at h2

@[simp] theorem Device.writeText_cellsOk (d : Device) (id i : Nat) (syms : List Nat) (h0 : d.cellsOk = true) :
    (d.writeText id i syms).cellsOk = true := Store.writeSyms_wf d.store id i syms h0

@[simp] theorem Device.handOver_cellsOk (d : Device) (id : Nat) (taker : Holder) (h0 : d.cellsOk = true) :
    Store.wf (d.store.handOver id taker).2.cells = true := by rw [Store.handOver_cells]; exact h0

@[simp] theorem Store.release_wf (s : Store) (id : Nat) : Store.wf (s.release id).cells = Store.wf s.cells := rfl

@[simp] theorem Device.onConsole_cellsOk (d : Device) (f : Console → Console) : (d.onConsole f).cellsOk = d.cellsOk := rfl
@[simp] theorem Device.onAccess_cellsOk (d : Device) (f : Access → Access) : (d.onAccess f).cellsOk = d.cellsOk := rfl
@[simp] theorem Device.onProt_cellsOk (d : Device) (f : Protection → Protection) : (d.onProt f).cellsOk = d.cellsOk := rfl
@[simp] theorem Device.onLoop_cellsOk (d : Device) (f : LoopTest → LoopTest) : (d.onLoop f).cellsOk = d.cellsOk := rfl
@[simp] theorem Device.onRx_cellsOk (d : Device) (f : Rx → Rx) : (d.onRx f).cellsOk = d.cellsOk := rfl
@[simp] theorem Device.onRxCounts_cellsOk (d : Device) (f : RxCounts → RxCounts) : (d.onRxCounts f).cellsOk = d.cellsOk := rfl
@[simp] theorem Device.onNeigh_cellsOk (d : Device) (f : NeighTable → NeighTable) : (d.onNeigh f).cellsOk = d.cellsOk := rfl
@[simp] theorem Device.onXfer_cellsOk (d : Device) (f : Transfers → Transfers) : (d.onXfer f).cellsOk = d.cellsOk := rfl
@[simp] theorem Device.onDistress_cellsOk (d : Device) (f : DistressUnit → DistressUnit) : (d.onDistress f).cellsOk = d.cellsOk := rfl
@[simp] theorem Device.onWeather_cellsOk (d : Device) (f : WeatherStore → WeatherStore) : (d.onWeather f).cellsOk = d.cellsOk := rfl
@[simp] theorem Device.onLog_cellsOk (d : Device) (f : CatchLog → CatchLog) : (d.onLog f).cellsOk = d.cellsOk := rfl
@[simp] theorem Device.onRep_cellsOk (d : Device) (f : ReportBuilder → ReportBuilder) : (d.onRep f).cellsOk = d.cellsOk := rfl

@[simp] theorem Device.reach_cellsOk (d : Device) (t : Time) (h0 : d.cellsOk = true) :
    (Device.reach d t).cellsOk = true := by
  unfold Device.reach
  simp [h0]

@[simp] theorem Device.draw_cellsOk (d : Device) (lo hi : Nat) (h0 : d.cellsOk = true) :
    (Device.draw d lo hi).2.cellsOk = true := by
  unfold Device.draw
  simp [h0]

@[simp] theorem Device.onLane_cellsOk (d : Device) (n : LaneName) (f : Lane → Lane) (h0 : d.cellsOk = true) :
    (Device.onLane d n f).cellsOk = true := by
  unfold Device.onLane
  split <;> simp [h0]

@[simp] theorem Device.queueEntry_cellsOk (d : Device) (n : LaneName) (e : Entry) (h0 : d.cellsOk = true) :
    (Device.queueEntry d n e).cellsOk = true := by
  unfold Device.queueEntry
  split <;> simp [h0]

@[simp] theorem Device.addMark_cellsOk (d : Device) (n : LaneName) (r : OwedRef) (h0 : d.cellsOk = true) :
    (Device.addMark d n r).cellsOk = true := by
  unfold Device.addMark
  simp [h0]

@[simp] theorem Device.dropMark_cellsOk (d : Device) (n : LaneName) (r : OwedRef) (h0 : d.cellsOk = true) :
    (Device.dropMark d n r).cellsOk = true := by
  unfold Device.dropMark
  simp [h0]

@[simp] theorem Device.passMark_cellsOk (d : Device) (n : LaneName) (old new : OwedRef) (h0 : d.cellsOk = true) :
    (Device.passMark d n old new).cellsOk = true := by
  unfold Device.passMark
  simp [h0]

@[simp] theorem Device.reportTagged_cellsOk (d : Device) (kind : ReportKind) (tag : Nat) (r : OwedRef) (data : List Datum) (h0 : d.cellsOk = true) :
    (Device.reportTagged d kind tag r data).cellsOk = true := by
  unfold Device.reportTagged
  repeat' (first | with_reducible exact h0 | simp [h0] | split)

@[simp] theorem Device.report_cellsOk (d : Device) (kind : ReportKind) (r : OwedRef) (data : List Datum) (h0 : d.cellsOk = true) :
    (Device.report d kind r data).cellsOk = true := by
  unfold Device.report
  simp [h0]

@[simp] theorem Device.reportOrLose_cellsOk (d : Device) (kind : ReportKind) (tag : Nat) (data : List Datum) (h0 : d.cellsOk = true) :
    (Device.reportOrLose d kind tag data).2.cellsOk = true := by
  unfold Device.reportOrLose
  split <;> simp [h0]

@[simp] theorem Device.offer_cellsOk (d : Device) (it : Item) (h0 : d.cellsOk = true) :
    (Device.offer d it).cellsOk = true := by
  unfold Device.offer
  simp [h0]

@[simp] theorem Device.withdraw_cellsOk (d : Device) (c : AccessClass) (p : Item → Bool) (h0 : d.cellsOk = true) :
    (Device.withdraw d c p).cellsOk = true := by
  unfold Device.withdraw
  simp [h0]

@[simp] theorem Device.bumpAcksDropped_cellsOk (d : Device) (h0 : d.cellsOk = true) :
    (Device.bumpAcksDropped d).cellsOk = true := by
  unfold Device.bumpAcksDropped
  simp [h0]

@[simp] theorem Device.offerAck_cellsOk (d : Device) (dest : Station) (num idx answer : Nat) (endTime : Time) (h0 : d.cellsOk = true) :
    (Device.offerAck d dest num idx answer endTime).cellsOk = true := by
  unfold Device.offerAck
  dsimp only
  repeat' (first
    | with_reducible assumption
    | simp (maxDischargeDepth := 16) [*]
    | (refine foldl_cellsOk _ ?_ _ _ ?_; intro _ _ _)
    | (refine Device.orPending_cellsOk _ _ _ ?_ ?_; intro _)
    | split)

@[simp] theorem Device.enterClear_cellsOk (d : Device) (h0 : d.cellsOk = true) :
    (Device.enterClear d).cellsOk = true := by
  unfold Device.enterClear
  repeat' (first | with_reducible exact h0 | simp [h0] | split)

@[simp] theorem Device.leaveClear_cellsOk (d : Device) (ch : Channel) (h0 : d.cellsOk = true) :
    (Device.leaveClear d ch).cellsOk = true := by
  unfold Device.leaveClear
  simp [h0]

@[simp] theorem Device.settleChannel_cellsOk (d : Device) (h0 : d.cellsOk = true) :
    (Device.settleChannel d).cellsOk = true := by
  unfold Device.settleChannel
  repeat' (first | with_reducible exact h0 | simp [h0] | split)

@[simp] theorem Device.makeContender_cellsOk (d : Device) (c : AccessClass) (it : Item) (h0 : d.cellsOk = true) :
    (Device.makeContender d c it).cellsOk = true := by
  unfold Device.makeContender
  repeat' (first | with_reducible exact h0 | simp [h0] | split)

@[simp] theorem Device.selectContender_cellsOk (d : Device) (c : AccessClass) (h0 : d.cellsOk = true) :
    (Device.selectContender d c).cellsOk = true := by
  unfold Device.selectContender
  repeat' (first | with_reducible exact h0 | simp [h0] | split)

@[simp] theorem Device.selectAll_cellsOk (d : Device) (h0 : d.cellsOk = true) :
    (Device.selectAll d).cellsOk = true := by
  unfold Device.selectAll
  exact foldl_cellsOk _ (fun _ _ h => by simp [h]) _ _ (by simp [h0])

@[simp] theorem Device.refreshEligible_cellsOk (d : Device) (h0 : d.cellsOk = true) :
    (Device.refreshEligible d).cellsOk = true := by
  unfold Device.refreshEligible
  exact foldl_cellsOk _ (fun _ _ h => by simp [h]) _ _ (by simp [h0])

@[simp] theorem Device.countSlots_cellsOk (d : Device) (h0 : d.cellsOk = true) :
    (Device.countSlots d).cellsOk = true := by
  unfold Device.countSlots
  exact foldl_cellsOk _ (fun _ _ h => by simp [h]) _ _ (by simp [h0])

@[simp] theorem Device.onNeighbour_cellsOk (d : Device) (st : Station) (f : Neigh → Neigh) (h0 : d.cellsOk = true) :
    (Device.onNeighbour d st f).cellsOk = true := by
  unfold Device.onNeighbour
  simp [h0]

@[simp] theorem Device.removeNeighbour_cellsOk (d : Device) (st : Station) (h0 : d.cellsOk = true) :
    (Device.removeNeighbour d st).cellsOk = true := by
  unfold Device.removeNeighbour
  simp [h0]

@[simp] theorem Device.onNeighCounts_cellsOk (d : Device) (f : NeighCounts → NeighCounts) (h0 : d.cellsOk = true) :
    (Device.onNeighCounts d f).cellsOk = true := by
  unfold Device.onNeighCounts
  simp [h0]

@[simp] theorem Device.headerFacts_cellsOk (d : Device) (st : Station) (score : Nat) (endTime : Time) (h0 : d.cellsOk = true) :
    (Device.headerFacts d st score endTime).1.cellsOk = true := by
  unfold Device.headerFacts
  repeat' (first | with_reducible exact h0 | simp [h0] | split)

@[simp] theorem Device.goStale_cellsOk (d : Device) (st : Station) (h0 : d.cellsOk = true) :
    (Device.goStale d st).1.cellsOk = true := by
  unfold Device.goStale
  repeat' (first | with_reducible exact h0 | simp [h0] | split)

@[simp] theorem Device.removeAtTime_cellsOk (d : Device) (st : Station) (h0 : d.cellsOk = true) :
    (Device.removeAtTime d st).cellsOk = true := by
  unfold Device.removeAtTime
  split <;> simp [h0]

@[simp] theorem Device.removeUnpinned_cellsOk (d : Device) (h0 : d.cellsOk = true) :
    (Device.removeUnpinned d).cellsOk = true := by
  unfold Device.removeUnpinned
  simp [h0]

@[simp] theorem Device.charge_cellsOk (d : Device) (st : Station) (h0 : d.cellsOk = true) :
    (Device.charge d st).cellsOk = true := by
  unfold Device.charge
  simp [h0]

@[simp] theorem Device.avoid_cellsOk (d : Device) (st : Station) (h0 : d.cellsOk = true) :
    (Device.avoid d st).cellsOk = true := by
  unfold Device.avoid
  simp [h0]

@[simp] theorem Device.avoidPassed_cellsOk (d : Device) (st : Station) (h0 : d.cellsOk = true) :
    (Device.avoidPassed d st).1.cellsOk = true := by
  unfold Device.avoidPassed
  simp [h0]

@[simp] theorem Device.clearWilling_cellsOk (d : Device) (st : Station) (h0 : d.cellsOk = true) :
    (Device.clearWilling d st).1.cellsOk = true := by
  unfold Device.clearWilling
  repeat' (first | with_reducible exact h0 | simp [h0] | split)

@[simp] theorem Device.beaconFacts_cellsOk (d : Device) (b : Burst) (h0 : d.cellsOk = true) :
    (Device.beaconFacts d b).1.cellsOk = true := by
  unfold Device.beaconFacts
  repeat' (first | with_reducible exact h0 | simp [h0] | split)

@[simp] theorem Device.skipBeacon_cellsOk (d : Device) (h0 : d.cellsOk = true) :
    (Device.skipBeacon d).cellsOk = true := by
  unfold Device.skipBeacon
  simp [h0]

@[simp] theorem Device.dropBeacon_cellsOk (d : Device) (h0 : d.cellsOk = true) :
    (Device.dropBeacon d).cellsOk = true := by
  unfold Device.dropBeacon
  split <;> simp [h0]

@[simp] theorem Device.beaconFalls_cellsOk (d : Device) (due : Time) (h0 : d.cellsOk = true) :
    (Device.beaconFalls d due).cellsOk = true := by
  unfold Device.beaconFalls
  dsimp only
  repeat' (first
    | with_reducible assumption
    | simp (maxDischargeDepth := 16) [*]
    | (refine foldl_cellsOk _ ?_ _ _ ?_; intro _ _ _)
    | (refine Device.orPending_cellsOk _ _ _ ?_ ?_; intro _)
    | split)

@[simp] theorem Device.removeWait_cellsOk (d : Device) (k : WaitKind) (st num : Nat) (h0 : d.cellsOk = true) :
    (Device.removeWait d k st num).cellsOk = true := by
  unfold Device.removeWait
  simp [h0]

@[simp] theorem Device.refuseWait_cellsOk (d : Device) (h0 : d.cellsOk = true) :
    (Device.refuseWait d).cellsOk = true := by
  unfold Device.refuseWait
  simp [h0]

@[simp] theorem Device.addWait_cellsOk (d : Device) (k : WaitKind) (st num : Nat) (h0 : d.cellsOk = true) :
    (Device.addWait d k st num).cellsOk = true := by
  unfold Device.addWait
  repeat' (first | with_reducible exact h0 | simp [h0] | split)

@[simp] theorem Device.startWait_cellsOk (d : Device) (k : WaitKind) (st num : Nat) (h0 : d.cellsOk = true) :
    (Device.startWait d k st num).2.2.cellsOk = true := by
  unfold Device.startWait
  try dsimp only
  repeat' split
  all_goals first
    | simp (maxDischargeDepth := 16) [*]
    | (have h2 := congrArg (fun x => x.2.cellsOk) ‹_ = (_, _)›
       simp (maxDischargeDepth := 16) [h0] at h2
       simp (maxDischargeDepth := 16) [*])
    | (have h2 := congrArg (fun x => x.1.cellsOk) ‹_ = (_, _)›
       simp (maxDischargeDepth := 16) [h0] at h2
       simp (maxDischargeDepth := 16) [*])
    | (have h2 := congrArg (fun x => x.2.2.cellsOk) ‹_ = (_, _, _)›
       simp (maxDischargeDepth := 16) [h0] at h2
       simp (maxDischargeDepth := 16) [*])

@[simp] theorem Device.onSlot_cellsOk (d : Device) (i : Nat) (f : Slot → Slot) (h0 : d.cellsOk = true) :
    (Device.onSlot d i f).cellsOk = true := by
  unfold Device.onSlot
  simp [h0]

@[simp] theorem Device.onXferCounts_cellsOk (d : Device) (f : XferCounts → XferCounts) (h0 : d.cellsOk = true) :
    (Device.onXferCounts d f).cellsOk = true := by
  unfold Device.onXferCounts
  simp [h0]

@[simp] theorem Device.takeSlot_cellsOk (d : Device) (i : Nat) (st : SlotState) (origin : Origin) (tag : Nat) (cls : MsgClass) (dest orig : Station) (grant : Option Nat) (len : Nat) (h0 : d.cellsOk = true) :
    (Device.takeSlot d i st origin tag cls dest orig grant len).cellsOk = true := by
  unfold Device.takeSlot
  simp [h0]

@[simp] theorem Device.withdrawData_cellsOk (d : Device) (i : Nat) (h0 : d.cellsOk = true) :
    (Device.withdrawData d i).cellsOk = true := by
  unfold Device.withdrawData
  simp [h0]

@[simp] theorem Device.goReady_cellsOk (d : Device) (i : Nat) (h0 : d.cellsOk = true) :
    (Device.goReady d i).cellsOk = true := by
  unfold Device.goReady
  split <;> simp [h0]

@[simp] theorem Device.takeAnswer_cellsOk (d : Device) (i : Nat) (ans : Option Station) (h0 : d.cellsOk = true) :
    (Device.takeAnswer d i ans).cellsOk = true := by
  unfold Device.takeAnswer
  dsimp only
  repeat' (first
    | with_reducible assumption
    | simp (maxDischargeDepth := 16) [*]
    | (refine foldl_cellsOk _ ?_ _ _ ?_; intro _ _ _)
    | (refine Device.orPending_cellsOk _ _ _ ?_ ?_; intro _)
    | split)

@[simp] theorem Device.askRoute_cellsOk (d : Device) (i : Nat) (h0 : d.cellsOk = true) :
    (Device.askRoute d i).cellsOk = true := by
  unfold Device.askRoute
  simp [h0]

@[simp] theorem Device.startRoute_cellsOk (d : Device) (i : Nat) (h0 : d.cellsOk = true) :
    (Device.startRoute d i).cellsOk = true := by
  unfold Device.startRoute
  simp [h0]

@[simp] theorem Device.routeEvent_cellsOk (d : Device) (st : Station) (h0 : d.cellsOk = true) :
    (Device.routeEvent d st).cellsOk = true := by
  unfold Device.routeEvent
  exact foldl_cellsOk _ (fun _ _ h => by split <;> simp (maxDischargeDepth := 16) [h]) _ _ (by simp (maxDischargeDepth := 16) [h0])

@[simp] theorem Device.routeEvents_cellsOk (d : Device) (sts : List Station) (h0 : d.cellsOk = true) :
    (Device.routeEvents d sts).cellsOk = true := by
  unfold Device.routeEvents
  exact foldl_cellsOk _ (fun _ _ h => by simp [h]) _ _ (by simp [h0])

@[simp] theorem Device.refreshData_cellsOk (d : Device) (h0 : d.cellsOk = true) :
    (Device.refreshData d).cellsOk = true := by
  unfold Device.refreshData
  repeat' (first | with_reducible exact h0 | simp [h0] | split)

@[simp] theorem Device.onLogCounts_cellsOk (d : Device) (f : LogCounts → LogCounts) (h0 : d.cellsOk = true) :
    (Device.onLogCounts d f).cellsOk = true := by
  unfold Device.onLogCounts
  simp [h0]

@[simp] theorem Device.onHaul_cellsOk (d : Device) (i : Nat) (f : Haul → Haul) (h0 : d.cellsOk = true) :
    (Device.onHaul d i f).cellsOk = true := by
  unfold Device.onHaul
  simp [h0]

@[simp] theorem Device.onCell_cellsOk (d : Device) (rect : Nat) (sp : Species) (f : TallyCell → TallyCell) (h0 : d.cellsOk = true) :
    (Device.onCell d rect sp f).cellsOk = true := by
  unfold Device.onCell
  split <;> simp [h0]

@[simp] theorem Device.onQuota_cellsOk (d : Device) (sp : Species) (f : QuotaEntry → QuotaEntry) (h0 : d.cellsOk = true) :
    (Device.onQuota d sp f).cellsOk = true := by
  unfold Device.onQuota
  simp [h0]

@[simp] theorem Device.reportQuota_cellsOk (d : Device) (sp : Species) (prev : Option QuotaState) (cause : Nat) (h0 : d.cellsOk = true) :
    (Device.reportQuota d sp prev cause).cellsOk = true := by
  unfold Device.reportQuota
  repeat' (first | with_reducible exact h0 | simp [h0] | split)

@[simp] theorem Device.evaluateQuota_cellsOk (d : Device) (sp : Species) (cause : Nat) (h0 : d.cellsOk = true) :
    (Device.evaluateQuota d sp cause).2.cellsOk = true := by
  unfold Device.evaluateQuota
  repeat' (first | with_reducible exact h0 | simp [h0] | split)

@[simp] theorem Device.onRepCounts_cellsOk (d : Device) (f : RepCounts → RepCounts) (h0 : d.cellsOk = true) :
    (Device.onRepCounts d f).cellsOk = true := by
  unfold Device.onRepCounts
  simp [h0]

@[simp] theorem Device.reportCatchState_cellsOk (d : Device) (e : RepEvent) (minutes : Option Nat) (h0 : d.cellsOk = true) :
    (Device.reportCatchState d e minutes).cellsOk = true := by
  unfold Device.reportCatchState
  simp [h0]

@[simp] theorem Device.reportCatchKind_cellsOk (d : Device) (e : RepEvent) (kind : ReportReason) (h0 : d.cellsOk = true) :
    (Device.reportCatchKind d e kind).cellsOk = true := by
  unfold Device.reportCatchKind
  simp [h0]

@[simp] theorem Device.enterPending_cellsOk (d : Device) (kind : ReportReason) (h0 : d.cellsOk = true) :
    (Device.enterPending d kind).cellsOk = true := by
  unfold Device.enterPending
  split <;> simp [h0]

@[simp] theorem Device.build_cellsOk (d : Device) (kind : ReportReason) (i : Nat) (h0 : d.cellsOk = true) :
    (Device.build d kind i).cellsOk = true := by
  unfold Device.build
  dsimp only
  repeat' (first
    | with_reducible assumption
    | simp (maxDischargeDepth := 16) [*]
    | (refine foldl_cellsOk _ ?_ _ _ ?_; intro _ _ _)
    | (refine Device.orPending_cellsOk _ _ _ ?_ ?_; intro _)
    | split)

@[simp] theorem Device.tryBuild_cellsOk (d : Device) (kind : ReportReason) (h0 : d.cellsOk = true) :
    (Device.tryBuild d kind).cellsOk = true := by
  unfold Device.tryBuild
  try dsimp only
  repeat' split
  all_goals first
    | simp (maxDischargeDepth := 16) [*]
    | (have h2 := congrArg (fun x => x.2.cellsOk) ‹_ = (_, _)›
       simp (maxDischargeDepth := 16) [h0] at h2
       simp (maxDischargeDepth := 16) [*])
    | (have h2 := congrArg (fun x => x.1.cellsOk) ‹_ = (_, _)›
       simp (maxDischargeDepth := 16) [h0] at h2
       simp (maxDischargeDepth := 16) [*])
    | (have h2 := congrArg (fun x => x.2.2.cellsOk) ‹_ = (_, _, _)›
       simp (maxDischargeDepth := 16) [h0] at h2
       simp (maxDischargeDepth := 16) [*])

@[simp] theorem Device.trigger_cellsOk (d : Device) (kind : ReportReason) (h0 : d.cellsOk = true) :
    (Device.trigger d kind).cellsOk = true := by
  unfold Device.trigger
  split <;> simp [h0]

@[simp] theorem Device.buildPending_cellsOk (d : Device) (h0 : d.cellsOk = true) :
    (Device.buildPending d).cellsOk = true := by
  unfold Device.buildPending
  split <;> simp [h0]

@[simp] theorem Device.slotFreed_cellsOk (d : Device) (h0 : d.cellsOk = true) :
    (Device.slotFreed d).cellsOk = true := by
  unfold Device.slotFreed
  split <;> simp [h0]

@[simp] theorem Device.closeReport_cellsOk (d : Device) (e : Ending) (h0 : d.cellsOk = true) :
    (Device.closeReport d e).cellsOk = true := by
  unfold Device.closeReport
  repeat' (first | with_reducible exact h0 | simp [h0] | split)

@[simp] theorem Device.countEnding_cellsOk (d : Device) (e : Ending) (h0 : d.cellsOk = true) :
    (Device.countEnding d e).cellsOk = true := by
  unfold Device.countEnding
  simp [h0]

@[simp] theorem Device.endReport_cellsOk (d : Device) (e : Ending) (cause : Option LostCause) (h0 : d.cellsOk = true) :
    (Device.endReport d e cause).cellsOk = true := by
  unfold Device.endReport
  simp (maxDischargeDepth := 16) [h0]

@[simp] theorem Device.catchOutcome_cellsOk (d : Device) (o : Outcome) (h0 : d.cellsOk = true) :
    (Device.catchOutcome d o).cellsOk = true := by
  unfold Device.catchOutcome
  repeat' (first | with_reducible exact h0 | simp [h0] | split)

@[simp] theorem Device.removeReasm_cellsOk (d : Device) (src num : Nat) (h0 : d.cellsOk = true) :
    (Device.removeReasm d src num).cellsOk = true := by
  unfold Device.removeReasm
  simp [h0]

@[simp] theorem Device.onReasm_cellsOk (d : Device) (src num : Nat) (f : Reasm → Reasm) (h0 : d.cellsOk = true) :
    (Device.onReasm d src num f).cellsOk = true := by
  unfold Device.onReasm
  simp [h0]

@[simp] theorem Device.startRelay_cellsOk (d : Device) (i : Nat) (e : Reasm) (h0 : d.cellsOk = true) :
    (Device.startRelay d i e).cellsOk = true := by
  unfold Device.startRelay
  simp [h0]

@[simp] theorem Device.handOverRelay_cellsOk (d : Device) (e : Reasm) (h0 : d.cellsOk = true) :
    (Device.handOverRelay d e).cellsOk = true := by
  unfold Device.handOverRelay
  dsimp only
  repeat' (first
    | with_reducible assumption
    | simp (maxDischargeDepth := 16) [*]
    | (refine foldl_cellsOk _ ?_ _ _ ?_; intro _ _ _)
    | (refine Device.orPending_cellsOk _ _ _ ?_ ?_; intro _)
    | split)

@[simp] theorem Device.retryHandOvers_cellsOk (d : Device) (h0 : d.cellsOk = true) :
    (Device.retryHandOvers d).cellsOk = true := by
  unfold Device.retryHandOvers
  exact foldl_cellsOk _ (fun _ _ h => by simp [h]) _ _ (by simp [h0])

@[simp] theorem Device.releaseOutbound_cellsOk (d : Device) (id : Nat) (h0 : d.cellsOk = true) :
    (Device.releaseOutbound d id).cellsOk = true := by
  unfold Device.releaseOutbound
  simp [h0]

@[simp] theorem Device.releaseGrant_cellsOk (d : Device) (id : Nat) (h0 : d.cellsOk = true) :
    (Device.releaseGrant d id).cellsOk = true := by
  unfold Device.releaseGrant
  simp [h0]

@[simp] theorem Device.freeSlot_cellsOk (d : Device) (i : Nat) (h0 : d.cellsOk = true) :
    (Device.freeSlot d i).cellsOk = true := by
  unfold Device.freeSlot
  simp [h0]

@[simp] theorem Device.discardReasm_cellsOk (d : Device) (e : Reasm) (h0 : d.cellsOk = true) :
    (Device.discardReasm d e).cellsOk = true := by
  unfold Device.discardReasm
  split <;> simp (maxDischargeDepth := 16) [h0]

@[simp] theorem Device.countOutcome_cellsOk (d : Device) (o : Outcome) (h0 : d.cellsOk = true) :
    (Device.countOutcome d o).cellsOk = true := by
  unfold Device.countOutcome
  simp [h0]

@[simp] theorem Device.endTransfer_cellsOk (d : Device) (i : Nat) (o : Outcome) (h0 : d.cellsOk = true) :
    (Device.endTransfer d i o).cellsOk = true := by
  unfold Device.endTransfer
  dsimp only
  repeat' (first
    | with_reducible assumption
    | simp (maxDischargeDepth := 16) [*]
    | (refine foldl_cellsOk _ ?_ _ _ ?_; intro _ _ _)
    | (refine Device.orPending_cellsOk _ _ _ ?_ ?_; intro _)
    | split)

@[simp] theorem Device.startConsole_cellsOk (d : Device) (i : Nat) (h0 : d.cellsOk = true) :
    (Device.startConsole d i).cellsOk = true := by
  unfold Device.startConsole
  split <;> simp [h0]

@[simp] theorem Device.hopFails_cellsOk (d : Device) (i : Nat) (h0 : d.cellsOk = true) :
    (Device.hopFails d i).cellsOk = true := by
  unfold Device.hopFails
  dsimp only
  repeat' (first
    | with_reducible assumption
    | simp (maxDischargeDepth := 16) [*]
    | (refine foldl_cellsOk _ ?_ _ _ ?_; intro _ _ _)
    | (refine Device.orPending_cellsOk _ _ _ ?_ ?_; intro _)
    | split)

@[simp] theorem Device.leaveAck_cellsOk (d : Device) (i : Nat) (h0 : d.cellsOk = true) :
    (Device.leaveAck d i).cellsOk = true := by
  unfold Device.leaveAck
  simp [h0]

@[simp] theorem Device.takeTimeout_cellsOk (d : Device) (i : Nat) (h0 : d.cellsOk = true) :
    (Device.takeTimeout d i).cellsOk = true := by
  unfold Device.takeTimeout
  dsimp only
  repeat' (first
    | with_reducible assumption
    | simp (maxDischargeDepth := 16) [*]
    | (refine foldl_cellsOk _ ?_ _ _ ?_; intro _ _ _)
    | (refine Device.orPending_cellsOk _ _ _ ?_ ?_; intro _)
    | split)

@[simp] theorem Device.takeAccepted_cellsOk (d : Device) (i : Nat) (h0 : d.cellsOk = true) :
    (Device.takeAccepted d i).cellsOk = true := by
  unfold Device.takeAccepted
  dsimp only
  repeat' (first
    | with_reducible assumption
    | simp (maxDischargeDepth := 16) [*]
    | (refine foldl_cellsOk _ ?_ _ _ ?_; intro _ _ _)
    | (refine Device.orPending_cellsOk _ _ _ ?_ ?_; intro _)
    | split)

@[simp] theorem Device.takeFull_cellsOk (d : Device) (i : Nat) (h0 : d.cellsOk = true) :
    (Device.takeFull d i).cellsOk = true := by
  unfold Device.takeFull
  dsimp only
  repeat' (first
    | with_reducible assumption
    | simp (maxDischargeDepth := 16) [*]
    | (refine foldl_cellsOk _ ?_ _ _ ?_; intro _ _ _)
    | (refine Device.orPending_cellsOk _ _ _ ?_ ?_; intro _)
    | split)

@[simp] theorem Device.takeNoRelay_cellsOk (d : Device) (i : Nat) (h0 : d.cellsOk = true) :
    (Device.takeNoRelay d i).cellsOk = true := by
  unfold Device.takeNoRelay
  dsimp only
  repeat' (first
    | with_reducible assumption
    | simp (maxDischargeDepth := 16) [*]
    | (refine foldl_cellsOk _ ?_ _ _ ?_; intro _ _ _)
    | (refine Device.orPending_cellsOk _ _ _ ?_ ?_; intro _)
    | split)

@[simp] theorem Device.takeUnknown_cellsOk (d : Device) (i : Nat) (h0 : d.cellsOk = true) :
    (Device.takeUnknown d i).cellsOk = true := by
  unfold Device.takeUnknown
  dsimp only
  repeat' (first
    | with_reducible assumption
    | simp (maxDischargeDepth := 16) [*]
    | (refine foldl_cellsOk _ ?_ _ _ ?_; intro _ _ _)
    | (refine Device.orPending_cellsOk _ _ _ ?_ ?_; intro _)
    | split)

@[simp] theorem Device.receiveAck_cellsOk (d : Device) (b : Burst) (h0 : d.cellsOk = true) :
    (Device.receiveAck d b).cellsOk = true := by
  unfold Device.receiveAck
  repeat' (first | with_reducible exact h0 | simp [h0] | split)

@[simp] theorem Device.takeWaitingTimeout_cellsOk (d : Device) (h0 : d.cellsOk = true) :
    (Device.takeWaitingTimeout d).cellsOk = true := by
  unfold Device.takeWaitingTimeout
  repeat' (first | with_reducible exact h0 | simp [h0] | split)

@[simp] theorem Device.dataKeyed_cellsOk (d : Device) (i : Nat) (h0 : d.cellsOk = true) :
    (Device.dataKeyed d i).cellsOk = true := by
  unfold Device.dataKeyed
  simp [h0]

@[simp] theorem Device.goHeld_cellsOk (d : Device) (i : Nat) (from' : SlotState) (h0 : d.cellsOk = true) :
    (Device.goHeld d i from').cellsOk = true := by
  unfold Device.goHeld
  exact Device.orPending_cellsOk _ _ _ (fun _ => by simp (maxDischargeDepth := 16) [h0]) (by simp (maxDischargeDepth := 16) [h0])

@[simp] theorem Device.dataSent_cellsOk (d : Device) (i : Nat) (h0 : d.cellsOk = true) :
    (Device.dataSent d i).cellsOk = true := by
  unfold Device.dataSent
  repeat' (first | with_reducible exact h0 | simp [h0] | split)

@[simp] theorem Device.dataAborted_cellsOk (d : Device) (i : Nat) (h0 : d.cellsOk = true) :
    (Device.dataAborted d i).cellsOk = true := by
  unfold Device.dataAborted
  split
  · split
    · simp (maxDischargeDepth := 16) [h0]
    · exact (Device.orPending_cellsOk _ _ _ (fun _ => by simp (maxDischargeDepth := 16) [h0]) (by simp (maxDischargeDepth := 16) [h0]))
  · exact h0

@[simp] theorem Device.askEnding_cellsOk (d : Device) (i : Nat) (o : Outcome) (h0 : d.cellsOk = true) :
    (Device.askEnding d i o).cellsOk = true := by
  unfold Device.askEnding
  repeat' (first | with_reducible exact h0 | simp [h0] | split)

@[simp] theorem Device.voidSubmit_cellsOk (d : Device) (h0 : d.cellsOk = true) :
    (Device.voidSubmit d).cellsOk = true := by
  unfold Device.voidSubmit
  split <;> simp (maxDischargeDepth := 16) [h0]

@[simp] theorem Device.holdTransfers_cellsOk (d : Device) (h0 : d.cellsOk = true) :
    (Device.holdTransfers d).cellsOk = true := by
  unfold Device.holdTransfers
  dsimp only
  repeat' (first
    | with_reducible assumption
    | simp [*]
    | (refine foldl_cellsOk _ ?_ _ _ ?_; intro _ _ _)
    | (refine Device.orPending_cellsOk _ _ _ ?_ ?_; intro _)
    | split
    | exact (by simpa [h0] using (congrArg (fun x => x.2.cellsOk) ‹_ = (_, _)›).symm)
    | exact (by simpa [h0] using (congrArg (fun x => x.1.cellsOk) ‹_ = (_, _)›).symm)
    | exact (by simpa [h0] using (congrArg (fun x => x.2.2.cellsOk) ‹_ = (_, _, _)›).symm))

@[simp] theorem Device.unhold_cellsOk (d : Device) (i : Nat) (h0 : d.cellsOk = true) :
    (Device.unhold d i).cellsOk = true := by
  unfold Device.unhold
  repeat' (first | with_reducible exact h0 | simp [h0] | split)

@[simp] theorem Device.unholdTransfers_cellsOk (d : Device) (h0 : d.cellsOk = true) :
    (Device.unholdTransfers d).cellsOk = true := by
  unfold Device.unholdTransfers
  exact foldl_cellsOk _ (fun _ _ h => by simp [h]) _ _ (by simp [h0])

@[simp] theorem Device.flushTransfers_cellsOk (d : Device) (h0 : d.cellsOk = true) :
    (Device.flushTransfers d).cellsOk = true := by
  unfold Device.flushTransfers
  dsimp only
  repeat' (first
    | with_reducible assumption
    | simp [*]
    | (refine foldl_cellsOk _ ?_ _ _ ?_; intro _ _ _)
    | (refine Device.orPending_cellsOk _ _ _ ?_ ?_; intro _)
    | split
    | exact (by simpa [h0] using (congrArg (fun x => x.2.cellsOk) ‹_ = (_, _)›).symm)
    | exact (by simpa [h0] using (congrArg (fun x => x.1.cellsOk) ‹_ = (_, _)›).symm)
    | exact (by simpa [h0] using (congrArg (fun x => x.2.2.cellsOk) ‹_ = (_, _, _)›).symm))

@[simp] theorem Device.onWeatherCounts_cellsOk (d : Device) (f : WeatherCounts → WeatherCounts) (h0 : d.cellsOk = true) :
    (Device.onWeatherCounts d f).cellsOk = true := by
  unfold Device.onWeatherCounts
  simp [h0]

@[simp] theorem Device.onForecast_cellsOk (d : Device) (area : Nat) (complete : Bool) (f : Forecast → Forecast) (h0 : d.cellsOk = true) :
    (Device.onForecast d area complete f).cellsOk = true := by
  unfold Device.onForecast
  simp [h0]

@[simp] theorem Device.freeForecast_cellsOk (d : Device) (f : Forecast) (h0 : d.cellsOk = true) :
    (Device.freeForecast d f).cellsOk = true := by
  unfold Device.freeForecast
  simp [h0]

@[simp] theorem Device.forecastRoom_cellsOk (d : Device) (area size : Nat) (a0 : Nat) (h0 : d.cellsOk = true) :
    (Device.forecastRoom d area size a0).2.cellsOk = true := by
  induction a0 generalizing d with
  | zero => exact h0
  | succ n ih =>
    unfold Device.forecastRoom
    split <;> rename_i r e h
    have h2 : e.cellsOk = true := by
      have h3 := congrArg (fun x => x.2.cellsOk) h
      dsimp only at h3
      rw [← h3]
      split <;> simp (maxDischargeDepth := 16) [h0]
    split
    · exact h2
    · split
      · exact h2
      · exact ih _ (by simp (maxDischargeDepth := 16) [h2])

@[simp] theorem Device.storePart_cellsOk (d : Device) (f : Forecast) (h : ForecastHeader) (b : Burst) (h0 : d.cellsOk = true) :
    (Device.storePart d f h b).cellsOk = true := by
  unfold Device.storePart
  simp [h0]

@[simp] theorem Device.completeForecast_cellsOk (d : Device) (area : Nat) (h0 : d.cellsOk = true) :
    (Device.completeForecast d area).cellsOk = true := by
  unfold Device.completeForecast
  dsimp only
  repeat' (first
    | with_reducible assumption
    | simp (maxDischargeDepth := 16) [*]
    | (refine foldl_cellsOk _ ?_ _ _ ?_; intro _ _ _)
    | (refine Device.orPending_cellsOk _ _ _ ?_ ?_; intro _)
    | split)

@[simp] theorem Device.countNotBetter_cellsOk (d : Device) (h0 : d.cellsOk = true) :
    (Device.countNotBetter d).cellsOk = true := by
  unfold Device.countNotBetter
  simp [h0]

@[simp] theorem Device.partToCollecting_cellsOk (d : Device) (f : Forecast) (h : ForecastHeader) (b : Burst) (h0 : d.cellsOk = true) :
    (Device.partToCollecting d f h b).cellsOk = true := by
  unfold Device.partToCollecting
  split <;> simp (maxDischargeDepth := 16) [h0]

@[simp] theorem Device.partToComplete_cellsOk (d : Device) (f : Forecast) (h : ForecastHeader) (b : Burst) (h0 : d.cellsOk = true) :
    (Device.partToComplete d f h b).cellsOk = true := by
  unfold Device.partToComplete
  dsimp only
  repeat' (first
    | with_reducible assumption
    | simp (maxDischargeDepth := 16) [*]
    | (refine foldl_cellsOk _ ?_ _ _ ?_; intro _ _ _)
    | (refine Device.orPending_cellsOk _ _ _ ?_ ?_; intro _)
    | split)

@[simp] theorem Device.partTo_cellsOk (d : Device) (f : Forecast) (h : ForecastHeader) (b : Burst) (h0 : d.cellsOk = true) :
    (Device.partTo d f h b).cellsOk = true := by
  unfold Device.partTo
  repeat' (first | with_reducible exact h0 | simp [h0] | split)

@[simp] theorem Device.countStale_cellsOk (d : Device) (h0 : d.cellsOk = true) :
    (Device.countStale d).cellsOk = true := by
  unfold Device.countStale
  simp [h0]

@[simp] theorem Device.openCollection_cellsOk (d : Device) (h : ForecastHeader) (b : Burst) (old : Option Forecast) (h0 : d.cellsOk = true) :
    (Device.openCollection d h b old).cellsOk = true := by
  unfold Device.openCollection
  split
  · exact h0
  · dsimp only
    split
    all_goals
      rename_i h
      have h2 := congrArg (fun x => x.2.cellsOk) h
      dsimp only at h2
      rw [Device.forecastRoom_cellsOk _ _ _ _ (by split <;> simp (maxDischargeDepth := 16) [h0])] at h2
    · simp (maxDischargeDepth := 16) [← h2]
    · simp (maxDischargeDepth := 16) [← h2]

@[simp] theorem Device.placePart_cellsOk (d : Device) (h : ForecastHeader) (b : Burst) (h0 : d.cellsOk = true) :
    (Device.placePart d h b).cellsOk = true := by
  unfold Device.placePart
  repeat' (first | with_reducible exact h0 | simp [h0] | split)

@[simp] theorem Device.countMalformed_cellsOk (d : Device) (h0 : d.cellsOk = true) :
    (Device.countMalformed d).cellsOk = true := by
  unfold Device.countMalformed
  simp [h0]

@[simp] theorem Device.countHeaderErasure_cellsOk (d : Device) (h0 : d.cellsOk = true) :
    (Device.countHeaderErasure d).cellsOk = true := by
  unfold Device.countHeaderErasure
  simp [h0]

@[simp] theorem Device.countForeign_cellsOk (d : Device) (h0 : d.cellsOk = true) :
    (Device.countForeign d).cellsOk = true := by
  unfold Device.countForeign
  simp [h0]

@[simp] theorem Device.receiveForecast_cellsOk (d : Device) (b : Burst) (h0 : d.cellsOk = true) :
    (Device.receiveForecast d b).cellsOk = true := by
  unfold Device.receiveForecast
  repeat' (first | with_reducible exact h0 | simp [h0] | split)

@[simp] theorem Device.expireForecast_cellsOk (d : Device) (f : Forecast) (h0 : d.cellsOk = true) :
    (Device.expireForecast d f).cellsOk = true := by
  unfold Device.expireForecast
  simp (maxDischargeDepth := 16) [h0]

@[simp] theorem Device.discardForecast_cellsOk (d : Device) (f : Forecast) (h0 : d.cellsOk = true) :
    (Device.discardForecast d f).cellsOk = true := by
  unfold Device.discardForecast
  simp [h0]

@[simp] theorem Device.onWarning_cellsOk (d : Device) (issuer issue : Nat) (f : Warning → Warning) (h0 : d.cellsOk = true) :
    (Device.onWarning d issuer issue f).cellsOk = true := by
  unfold Device.onWarning
  simp [h0]

@[simp] theorem Device.lostWeatherReport_cellsOk (d : Device) (h0 : d.cellsOk = true) :
    (Device.lostWeatherReport d).cellsOk = true := by
  unfold Device.lostWeatherReport
  simp [h0]

@[simp] theorem Device.freeWarning_cellsOk (d : Device) (w : Warning) (h0 : d.cellsOk = true) :
    (Device.freeWarning d w).cellsOk = true := by
  unfold Device.freeWarning
  dsimp only
  repeat' (first
    | with_reducible assumption
    | simp (maxDischargeDepth := 16) [*]
    | (refine foldl_cellsOk _ ?_ _ _ ?_; intro _ _ _)
    | (refine Device.orPending_cellsOk _ _ _ ?_ ?_; intro _)
    | split)

@[simp] theorem Device.reportWarning_cellsOk (d : Device) (w : Warning) (event : Nat) (h0 : d.cellsOk = true) :
    (Device.reportWarning d w event).cellsOk = true := by
  unfold Device.reportWarning
  simp [h0]

@[simp] theorem Device.warningNotStored_cellsOk (d : Device) (w : Warning) (h0 : d.cellsOk = true) :
    (Device.warningNotStored d w).cellsOk = true := by
  unfold Device.warningNotStored
  try dsimp only
  repeat' split
  all_goals first
    | exact h0
    | simp (maxDischargeDepth := 16) [h0]
    | (rename_i h
       have h2 := congrArg (fun x => x.2.cellsOk) h
       dsimp only at h2
       rw [Device.reserve_cellsOk _ _ _ h0] at h2
       simp (maxDischargeDepth := 16) [h2.symm])
    | (rename_i h
       have h2 := congrArg (fun x => x.2.cellsOk) h
       simp (maxDischargeDepth := 16) [h0] at h2
       simp (maxDischargeDepth := 16) [h2])
    | (rename_i h _
       have h2 := congrArg (fun x => x.2.cellsOk) h
       simp (maxDischargeDepth := 16) [h0] at h2
       simp (maxDischargeDepth := 16) [h2])
    | (rename_i h
       have h2 := congrArg (fun x => x.2.2.cellsOk) h
       simp (maxDischargeDepth := 16) [h0] at h2
       simp (maxDischargeDepth := 16) [h2])

@[simp] theorem Device.storeWarning_cellsOk (d : Device) (h : WarningHeader) (sev : Severity) (b : Burst) (h0 : d.cellsOk = true) :
    (Device.storeWarning d h sev b).cellsOk = true := by
  unfold Device.storeWarning
  try dsimp only
  repeat' split
  all_goals first
    | exact h0
    | (have h2 := Device.reserve_eq_cellsOk ‹Device.reserve _ _ _ = _› (by simp (maxDischargeDepth := 16) [h0])
       simp (maxDischargeDepth := 16) [h2]
       done)
    | simp (maxDischargeDepth := 16) [h0]

@[simp] theorem Device.improveWarning_cellsOk (d : Device) (old : Warning) (h : WarningHeader) (sev : Severity) (b : Burst) (h0 : d.cellsOk = true) :
    (Device.improveWarning d old h sev b).cellsOk = true := by
  unfold Device.improveWarning
  dsimp only
  split
  · simp (maxDischargeDepth := 16) [h0]
  · split <;>
      (have h2 := Device.reserve_eq_cellsOk ‹Device.reserve _ _ _ = _› (by simp (maxDischargeDepth := 16) [h0])
       simp (maxDischargeDepth := 16) [h2])
  

@[simp] theorem Device.newWarning_cellsOk (d : Device) (h : WarningHeader) (sev : Severity) (b : Burst) (h0 : d.cellsOk = true) :
    (Device.newWarning d h sev b).cellsOk = true := by
  unfold Device.newWarning
  repeat' (first | with_reducible exact h0 | simp [h0] | split)

@[simp] theorem Device.examineWarning_cellsOk (d : Device) (issuer issue : Nat) (b : Burst) (h0 : d.cellsOk = true) :
    (Device.examineWarning d issuer issue b).cellsOk = true := by
  unfold Device.examineWarning
  try dsimp only
  repeat' split
  all_goals first
    | exact h0
    | simp (maxDischargeDepth := 16) [h0]
    | (rename_i h
       have h2 := congrArg (fun x => x.2.cellsOk) h
       dsimp only at h2
       rw [Device.reserve_cellsOk _ _ _ h0] at h2
       simp (maxDischargeDepth := 16) [h2.symm])
    | (rename_i h
       have h2 := congrArg (fun x => x.2.cellsOk) h
       simp (maxDischargeDepth := 16) [h0] at h2
       simp (maxDischargeDepth := 16) [h2])
    | (rename_i h _
       have h2 := congrArg (fun x => x.2.cellsOk) h
       simp (maxDischargeDepth := 16) [h0] at h2
       simp (maxDischargeDepth := 16) [h2])
    | (rename_i h
       have h2 := congrArg (fun x => x.2.2.cellsOk) h
       simp (maxDischargeDepth := 16) [h0] at h2
       simp (maxDischargeDepth := 16) [h2])

@[simp] theorem Device.suppressWarning_cellsOk (d : Device) (issuer issue : Nat) (h0 : d.cellsOk = true) :
    (Device.suppressWarning d issuer issue).cellsOk = true := by
  unfold Device.suppressWarning
  repeat' (first | with_reducible exact h0 | simp [h0] | split)

@[simp] theorem Device.warningRelayHeard_cellsOk (d : Device) (issuer issue : Nat) (h0 : d.cellsOk = true) :
    (Device.warningRelayHeard d issuer issue).cellsOk = true := by
  unfold Device.warningRelayHeard
  split <;> simp [h0]

@[simp] theorem Device.applyWarning_cellsOk (d : Device) (h : WarningHeader) (sev : Severity) (b : Burst) (h0 : d.cellsOk = true) :
    (Device.applyWarning d h sev b).cellsOk = true := by
  unfold Device.applyWarning
  repeat' (first | with_reducible exact h0 | simp [h0] | split)

@[simp] theorem Device.receiveWarning_cellsOk (d : Device) (b : Burst) (h0 : d.cellsOk = true) :
    (Device.receiveWarning d b).cellsOk = true := by
  unfold Device.receiveWarning
  dsimp only
  repeat' (first
    | with_reducible assumption
    | simp (maxDischargeDepth := 16) [*]
    | (refine foldl_cellsOk _ ?_ _ _ ?_; intro _ _ _)
    | (refine Device.orPending_cellsOk _ _ _ ?_ ?_; intro _)
    | split)

@[simp] theorem Device.offerWarning_cellsOk (d : Device) (issuer issue : Nat) (h0 : d.cellsOk = true) :
    (Device.offerWarning d issuer issue).cellsOk = true := by
  unfold Device.offerWarning
  split <;> simp [h0]

@[simp] theorem Device.warningSent_cellsOk (d : Device) (issuer issue : Nat) (h0 : d.cellsOk = true) :
    (Device.warningSent d issuer issue).cellsOk = true := by
  unfold Device.warningSent
  simp [h0]

@[simp] theorem Device.warningAborted_cellsOk (d : Device) (it : Item) (issuer issue : Nat) (h0 : d.cellsOk = true) :
    (Device.warningAborted d it issuer issue).cellsOk = true := by
  unfold Device.warningAborted
  repeat' (first | with_reducible exact h0 | simp [h0] | split)

@[simp] theorem Device.computeTimes_cellsOk (d : Device) (h0 : d.cellsOk = true) :
    (Device.computeTimes d).cellsOk = true := by
  unfold Device.computeTimes
  simp [h0]

@[simp] theorem Device.reachValidity_cellsOk (d : Device) (h0 : d.cellsOk = true) :
    (Device.reachValidity d).cellsOk = true := by
  unfold Device.reachValidity
  dsimp only
  repeat' (first
    | with_reducible assumption
    | simp [*]
    | (refine foldl_cellsOk _ ?_ _ _ ?_; intro _ _ _)
    | (refine Device.orPending_cellsOk _ _ _ ?_ ?_; intro _)
    | split
    | exact (by simpa [h0] using (congrArg (fun x => x.2.cellsOk) ‹_ = (_, _)›).symm)
    | exact (by simpa [h0] using (congrArg (fun x => x.1.cellsOk) ‹_ = (_, _)›).symm)
    | exact (by simpa [h0] using (congrArg (fun x => x.2.2.cellsOk) ‹_ = (_, _, _)›).symm))

@[simp] theorem Device.onMonitor_cellsOk (d : Device) (m : MonitorId) (f : Monitor → Monitor) (h0 : d.cellsOk = true) :
    (Device.onMonitor d m f).cellsOk = true := by
  unfold Device.onMonitor
  simp [h0]

@[simp] theorem Device.reportMonitor_cellsOk (d : Device) (m : MonitorId) (prev : MonState) (cause : ProtCause) (keyTime : Nat) (h0 : d.cellsOk = true) :
    (Device.reportMonitor d m prev cause keyTime).cellsOk = true := by
  unfold Device.reportMonitor
  repeat' (first | with_reducible exact h0 | simp [h0] | split)

@[simp] theorem Device.moveMonitor_cellsOk (d : Device) (m : MonitorId) (st : MonState) (run : Nat) (cause : ProtCause) (keyTime : Nat) (h0 : d.cellsOk = true) :
    (Device.moveMonitor d m st run cause keyTime).cellsOk = true := by
  unfold Device.moveMonitor
  simp [h0]

@[simp] theorem Device.tripMonitor_cellsOk (d : Device) (m : MonitorId) (h0 : d.cellsOk = true) :
    (Device.tripMonitor d m).cellsOk = true := by
  unfold Device.tripMonitor
  repeat' (first | with_reducible exact h0 | simp [h0] | split)

@[simp] theorem Device.sampleMonitor_cellsOk (d : Device) (m : MonitorId) (active : Bool) (h0 : d.cellsOk = true) :
    (Device.sampleMonitor d m active).2.cellsOk = true := by
  unfold Device.sampleMonitor
  repeat' (first | with_reducible exact h0 | simp [h0] | split)

@[simp] theorem Device.sampleKeytime_cellsOk (d : Device) (h0 : d.cellsOk = true) :
    (Device.sampleKeytime d).cellsOk = true := by
  unfold Device.sampleKeytime
  split <;> simp [h0]

@[simp] theorem Device.afterInhibit_cellsOk (before : Bool) (d : Device) (h0 : d.cellsOk = true) :
    (Device.afterInhibit before d).cellsOk = true := by
  unfold Device.afterInhibit
  split <;> simp [h0]

@[simp] theorem Device.tripKeytime_cellsOk (d : Device) (keyTime : Nat) (h0 : d.cellsOk = true) :
    (Device.tripKeytime d keyTime).cellsOk = true := by
  unfold Device.tripKeytime
  repeat' (first | with_reducible exact h0 | simp [h0] | split)

@[simp] theorem Device.recoverMonitor_cellsOk (d : Device) (m : MonitorId) (h0 : d.cellsOk = true) :
    (Device.recoverMonitor d m).cellsOk = true := by
  unfold Device.recoverMonitor
  simp [h0]

@[simp] theorem Device.recoverAll_cellsOk (d : Device) (h0 : d.cellsOk = true) :
    (Device.recoverAll d).cellsOk = true := by
  unfold Device.recoverAll
  dsimp only
  repeat' (first
    | with_reducible assumption
    | simp [*]
    | (refine foldl_cellsOk _ ?_ _ _ ?_; intro _ _ _)
    | (refine Device.orPending_cellsOk _ _ _ ?_ ?_; intro _)
    | split
    | exact (by simpa [h0] using (congrArg (fun x => x.2.cellsOk) ‹_ = (_, _)›).symm)
    | exact (by simpa [h0] using (congrArg (fun x => x.1.cellsOk) ‹_ = (_, _)›).symm)
    | exact (by simpa [h0] using (congrArg (fun x => x.2.2.cellsOk) ‹_ = (_, _, _)›).symm))

@[simp] theorem Device.endAlerts_cellsOk (d : Device) (keyTime : Nat) (limit : Bool) (h0 : d.cellsOk = true) :
    (Device.endAlerts d keyTime limit).cellsOk = true := by
  unfold Device.endAlerts
  exact foldl_cellsOk _ (fun _ _ h => by split <;> simp (maxDischargeDepth := 16) [h]) _ _ (by simp (maxDischargeDepth := 16) [h0])

@[simp] theorem Device.endRests_cellsOk (d : Device) (h0 : d.cellsOk = true) :
    (Device.endRests d).cellsOk = true := by
  unfold Device.endRests
  simp [h0]

@[simp] theorem Device.dropKey_cellsOk (d : Device) (limit : Bool) (h0 : d.cellsOk = true) :
    (Device.dropKey d limit).cellsOk = true := by
  unfold Device.dropKey
  simp (maxDischargeDepth := 16) [h0]

@[simp] theorem Device.reportLoop_cellsOk (d : Device) (k : LoopKept) (h0 : d.cellsOk = true) :
    (Device.reportLoop d k).cellsOk = true := by
  unfold Device.reportLoop
  simp [h0]

@[simp] theorem Device.leaveLoop_cellsOk (d : Device) (h0 : d.cellsOk = true) :
    (Device.leaveLoop d).cellsOk = true := by
  unfold Device.leaveLoop
  split <;> simp [h0]

@[simp] theorem Device.abandonLoop_cellsOk (d : Device) (h0 : d.cellsOk = true) :
    (Device.abandonLoop d).cellsOk = true := by
  unfold Device.abandonLoop
  split <;> simp [h0]

@[simp] theorem Device.startLoop_cellsOk (d : Device) (h0 : d.cellsOk = true) :
    (Device.startLoop d).cellsOk = true := by
  unfold Device.startLoop
  simp [h0]

@[simp] theorem Device.onDistressCounts_cellsOk (d : Device) (f : DistressCounts → DistressCounts) (h0 : d.cellsOk = true) :
    (Device.onDistressCounts d f).cellsOk = true := by
  unfold Device.onDistressCounts
  simp [h0]

@[simp] theorem Device.onOwn_cellsOk (d : Device) (f : OwnAlert → OwnAlert) (h0 : d.cellsOk = true) :
    (Device.onOwn d f).cellsOk = true := by
  unfold Device.onOwn
  simp [h0]

@[simp] theorem Device.startHold_cellsOk (d : Device) (cause : Nat) (st : Station) (h0 : d.cellsOk = true) :
    (Device.startHold d cause st).cellsOk = true := by
  unfold Device.startHold
  try dsimp only
  repeat' split
  all_goals first
    | simp (maxDischargeDepth := 16) [*]
    | (have h2 := congrArg (fun x => x.2.cellsOk) ‹_ = (_, _)›
       simp (maxDischargeDepth := 16) [h0] at h2
       simp (maxDischargeDepth := 16) [*])
    | (have h2 := congrArg (fun x => x.1.cellsOk) ‹_ = (_, _)›
       simp (maxDischargeDepth := 16) [h0] at h2
       simp (maxDischargeDepth := 16) [*])
    | (have h2 := congrArg (fun x => x.2.2.cellsOk) ‹_ = (_, _, _)›
       simp (maxDischargeDepth := 16) [h0] at h2
       simp (maxDischargeDepth := 16) [*])

@[simp] theorem Device.restartHold_cellsOk (d : Device) (cause : Nat) (st : Station) (h0 : d.cellsOk = true) :
    (Device.restartHold d cause st).cellsOk = true := by
  unfold Device.restartHold
  repeat' (first | with_reducible exact h0 | simp [h0] | split)

@[simp] theorem Device.cutHold_cellsOk (d : Device) (h0 : d.cellsOk = true) :
    (Device.cutHold d).cellsOk = true := by
  unfold Device.cutHold
  simp [h0]

@[simp] theorem Device.releaseHeldWaits_cellsOk (d : Device) (h0 : d.cellsOk = true) :
    (Device.releaseHeldWaits d).cellsOk = true := by
  unfold Device.releaseHeldWaits
  exact foldl_cellsOk _ (fun _ _ h => by simp [h]) _ _ (by simp [h0])

@[simp] theorem Device.resumeDeadline_cellsOk (d : Device) (h0 : d.cellsOk = true) :
    (Device.resumeDeadline d).cellsOk = true := by
  unfold Device.resumeDeadline
  repeat' (first | with_reducible exact h0 | simp [h0] | split)

@[simp] theorem Device.endHold_cellsOk (d : Device) (h0 : d.cellsOk = true) :
    (Device.endHold d).cellsOk = true := by
  unfold Device.endHold
  simp (maxDischargeDepth := 16) [h0]

@[simp] theorem Device.placeOwn_cellsOk (d : Device) (h0 : d.cellsOk = true) :
    (Device.placeOwn d).cellsOk = true := by
  unfold Device.placeOwn
  simp [h0]

@[simp] theorem Device.onCase_cellsOk (d : Device) (st : Station) (f : Case → Case) (h0 : d.cellsOk = true) :
    (Device.onCase d st f).cellsOk = true := by
  unfold Device.onCase
  simp [h0]

@[simp] theorem Device.accountAbort_cellsOk (d : Device) (it : Item) (r : AbortReason) (h0 : d.cellsOk = true) :
    (Device.accountAbort d it r).cellsOk = true := by
  unfold Device.accountAbort
  repeat' (first | with_reducible exact h0 | simp [h0] | split)

@[simp] theorem Device.abortBurst_cellsOk (d : Device) (r : AbortReason) (h0 : d.cellsOk = true) :
    (Device.abortBurst d r).cellsOk = true := by
  unfold Device.abortBurst
  split <;> simp [h0]

@[simp] theorem Device.reportOwn_cellsOk (d : Device) (e : OwnEvent) (h0 : d.cellsOk = true) :
    (Device.reportOwn d e).cellsOk = true := by
  unfold Device.reportOwn
  simp [h0]

@[simp] theorem Device.reportOwnHeard_cellsOk (d : Device) (e : OwnEvent) (num : Nat) (st : Station) (h0 : d.cellsOk = true) :
    (Device.reportOwnHeard d e num st).cellsOk = true := by
  unfold Device.reportOwnHeard
  simp [h0]

@[simp] theorem Device.offerOwn_cellsOk (d : Device) (h0 : d.cellsOk = true) :
    (Device.offerOwn d).cellsOk = true := by
  unfold Device.offerOwn
  dsimp only
  repeat' (first
    | with_reducible assumption
    | simp (maxDischargeDepth := 16) [*]
    | (refine foldl_cellsOk _ ?_ _ _ ?_; intro _ _ _)
    | (refine Device.orPending_cellsOk _ _ _ ?_ ?_; intro _)
    | split)

@[simp] theorem Device.cutIfQuiet_cellsOk (d : Device) (h0 : d.cellsOk = true) :
    (Device.cutIfQuiet d).cellsOk = true := by
  unfold Device.cutIfQuiet
  split <;> simp [h0]

@[simp] theorem Device.ownDistressSent_cellsOk (d : Device) (h0 : d.cellsOk = true) :
    (Device.ownDistressSent d).cellsOk = true := by
  unfold Device.ownDistressSent
  dsimp only
  repeat' (first
    | with_reducible assumption
    | simp (maxDischargeDepth := 16) [*]
    | (refine foldl_cellsOk _ ?_ _ _ ?_; intro _ _ _)
    | (refine Device.orPending_cellsOk _ _ _ ?_ ?_; intro _)
    | split)

@[simp] theorem Device.ownCancelSent_cellsOk (d : Device) (h0 : d.cellsOk = true) :
    (Device.ownCancelSent d).cellsOk = true := by
  unfold Device.ownCancelSent
  dsimp only
  repeat' (first
    | with_reducible assumption
    | simp (maxDischargeDepth := 16) [*]
    | (refine foldl_cellsOk _ ?_ _ _ ?_; intro _ _ _)
    | (refine Device.orPending_cellsOk _ _ _ ?_ ?_; intro _)
    | split)

@[simp] theorem Device.ownAcknowledged_cellsOk (d : Device) (b : Burst) (h0 : d.cellsOk = true) :
    (Device.ownAcknowledged d b).cellsOk = true := by
  unfold Device.ownAcknowledged
  dsimp only
  repeat' (first
    | with_reducible assumption
    | simp (maxDischargeDepth := 16) [*]
    | (refine foldl_cellsOk _ ?_ _ _ ?_; intro _ _ _)
    | (refine Device.orPending_cellsOk _ _ _ ?_ ?_; intro _)
    | split)

@[simp] theorem Device.reportCase_cellsOk (d : Device) (st : Station) (e : CaseEvent) (h0 : d.cellsOk = true) :
    (Device.reportCase d st e).cellsOk = true := by
  unfold Device.reportCase
  split <;> simp [h0]

@[simp] theorem Device.dropCaseTraffic_cellsOk (d : Device) (st alert : Nat) (h0 : d.cellsOk = true) :
    (Device.dropCaseTraffic d st alert).cellsOk = true := by
  unfold Device.dropCaseTraffic
  dsimp only
  repeat' (first
    | with_reducible assumption
    | simp (maxDischargeDepth := 16) [*]
    | (refine foldl_cellsOk _ ?_ _ _ ?_; intro _ _ _)
    | (refine Device.orPending_cellsOk _ _ _ ?_ ?_; intro _)
    | split)

@[simp] theorem Device.closeCase_cellsOk (d : Device) (c : Case) (r : CloseReason) (h0 : d.cellsOk = true) :
    (Device.closeCase d c r).cellsOk = true := by
  unfold Device.closeCase
  simp (maxDischargeDepth := 16) [h0]

@[simp] theorem Device.freeCase_cellsOk (d : Device) (c : Case) (new : Station) (h0 : d.cellsOk = true) :
    (Device.freeCase d c new).cellsOk = true := by
  unfold Device.freeCase
  split <;> simp (maxDischargeDepth := 16) [h0]

@[simp] theorem Device.distressHeard_cellsOk (d : Device) (st alert : Nat) (facts : Option DistressFacts) (via : Option Station) (h0 : d.cellsOk = true) :
    (Device.distressHeard d st alert facts via).cellsOk = true := by
  unfold Device.distressHeard
  simp [h0]

@[simp] theorem Device.applyAlert_cellsOk (d : Device) (st alert : Nat) (facts : Option DistressFacts) (via : Option Station) (h0 : d.cellsOk = true) :
    (Device.applyAlert d st alert facts via).cellsOk = true := by
  unfold Device.applyAlert
  try dsimp only
  repeat' split
  all_goals first
    | exact h0
    | simp (maxDischargeDepth := 16) [h0]
    | (rename_i h
       have h2 := congrArg (fun x => x.2.cellsOk) h
       dsimp only at h2
       rw [Device.reserve_cellsOk _ _ _ h0] at h2
       simp (maxDischargeDepth := 16) [h2.symm])
    | (rename_i h
       have h2 := congrArg (fun x => x.2.cellsOk) h
       simp (maxDischargeDepth := 16) [h0] at h2
       simp (maxDischargeDepth := 16) [h2])
    | (rename_i h _
       have h2 := congrArg (fun x => x.2.cellsOk) h
       simp (maxDischargeDepth := 16) [h0] at h2
       simp (maxDischargeDepth := 16) [h2])
    | (rename_i h
       have h2 := congrArg (fun x => x.2.2.cellsOk) h
       simp (maxDischargeDepth := 16) [h0] at h2
       simp (maxDischargeDepth := 16) [h2])

@[simp] theorem Device.examineCase_cellsOk (d : Device) (st : Station) (h0 : d.cellsOk = true) :
    (Device.examineCase d st).cellsOk = true := by
  unfold Device.examineCase
  dsimp only
  repeat' (first
    | with_reducible assumption
    | simp (maxDischargeDepth := 16) [*]
    | (refine foldl_cellsOk _ ?_ _ _ ?_; intro _ _ _)
    | (refine Device.orPending_cellsOk _ _ _ ?_ ?_; intro _)
    | split)

@[simp] theorem Device.settledFull_cellsOk (d : Device) (h0 : d.cellsOk = true) :
    (Device.settledFull d).cellsOk = true := by
  unfold Device.settledFull
  simp [h0]

@[simp] theorem Device.enterSettled_cellsOk (d : Device) (st alert : Nat) (h0 : d.cellsOk = true) :
    (Device.enterSettled d st alert).cellsOk = true := by
  unfold Device.enterSettled
  repeat' (first | with_reducible exact h0 | simp [h0] | split)

@[simp] theorem Device.suppressRelay_cellsOk (d : Device) (st alert : Nat) (h0 : d.cellsOk = true) :
    (Device.suppressRelay d st alert).cellsOk = true := by
  unfold Device.suppressRelay
  simp [h0]

@[simp] theorem Device.distressRelayHeard_cellsOk (d : Device) (st alert : Nat) (h0 : d.cellsOk = true) :
    (Device.distressRelayHeard d st alert).cellsOk = true := by
  unfold Device.distressRelayHeard
  repeat' (first | with_reducible exact h0 | simp [h0] | split)

@[simp] theorem Device.distressAckHeard_cellsOk (d : Device) (st : Station) (b : Burst) (h0 : d.cellsOk = true) :
    (Device.distressAckHeard d st b).cellsOk = true := by
  unfold Device.distressAckHeard
  dsimp only
  repeat' (first
    | with_reducible assumption
    | simp (maxDischargeDepth := 16) [*]
    | (refine foldl_cellsOk _ ?_ _ _ ?_; intro _ _ _)
    | (refine Device.orPending_cellsOk _ _ _ ?_ ?_; intro _)
    | split)

@[simp] theorem Device.cancelHeard_cellsOk (d : Device) (b : Burst) (readable : Bool) (h0 : d.cellsOk = true) :
    (Device.cancelHeard d b readable).cellsOk = true := by
  unfold Device.cancelHeard
  repeat' (first | with_reducible exact h0 | simp [h0] | split)

@[simp] theorem Device.acknowledgeCase_cellsOk (d : Device) (c : Case) (h0 : d.cellsOk = true) :
    (Device.acknowledgeCase d c).cellsOk = true := by
  unfold Device.acknowledgeCase
  split <;> simp (maxDischargeDepth := 16) [h0]

@[simp] theorem Device.caseAckSent_cellsOk (d : Device) (st alert : Nat) (h0 : d.cellsOk = true) :
    (Device.caseAckSent d st alert).cellsOk = true := by
  unfold Device.caseAckSent
  simp (maxDischargeDepth := 16) [h0]

@[simp] theorem Device.caseRelayKeyed_cellsOk (d : Device) (st alert : Nat) (h0 : d.cellsOk = true) :
    (Device.caseRelayKeyed d st alert).cellsOk = true := by
  unfold Device.caseRelayKeyed
  simp (maxDischargeDepth := 16) [h0]

@[simp] theorem Device.caseRelaySent_cellsOk (d : Device) (st alert : Nat) (h0 : d.cellsOk = true) :
    (Device.caseRelaySent d st alert).cellsOk = true := by
  unfold Device.caseRelaySent
  repeat' (first | with_reducible exact h0 | simp [h0] | split)

@[simp] theorem Device.offerRelay_cellsOk (d : Device) (st alert : Nat) (h0 : d.cellsOk = true) :
    (Device.offerRelay d st alert).cellsOk = true := by
  unfold Device.offerRelay
  repeat' (first | with_reducible exact h0 | simp [h0] | split)

@[simp] theorem Device.ownNamed_cellsOk (d : Device) (b : Burst) (h0 : d.cellsOk = true) :
    (Device.ownNamed d b).cellsOk = true := by
  unfold Device.ownNamed
  dsimp only
  repeat' (first
    | with_reducible assumption
    | simp (maxDischargeDepth := 16) [*]
    | (refine foldl_cellsOk _ ?_ _ _ ?_; intro _ _ _)
    | (refine Device.orPending_cellsOk _ _ _ ?_ ?_; intro _)
    | split)

@[simp] theorem Device.receiveDistress_cellsOk (d : Device) (b : Burst) (h0 : d.cellsOk = true) :
    (Device.receiveDistress d b).cellsOk = true := by
  unfold Device.receiveDistress
  try dsimp only
  repeat' split
  all_goals first
    | exact h0
    | simp (maxDischargeDepth := 16) [h0]
    | (rename_i h
       have h2 := congrArg (fun x => x.2.cellsOk) h
       dsimp only at h2
       rw [Device.reserve_cellsOk _ _ _ h0] at h2
       simp (maxDischargeDepth := 16) [h2.symm])
    | (rename_i h
       have h2 := congrArg (fun x => x.2.cellsOk) h
       simp (maxDischargeDepth := 16) [h0] at h2
       simp (maxDischargeDepth := 16) [h2])
    | (rename_i h _
       have h2 := congrArg (fun x => x.2.cellsOk) h
       simp (maxDischargeDepth := 16) [h0] at h2
       simp (maxDischargeDepth := 16) [h2])
    | (rename_i h
       have h2 := congrArg (fun x => x.2.2.cellsOk) h
       simp (maxDischargeDepth := 16) [h0] at h2
       simp (maxDischargeDepth := 16) [h2])

@[simp] theorem Device.burstSent_cellsOk (d : Device) (it : Item) (h0 : d.cellsOk = true) :
    (Device.burstSent d it).cellsOk = true := by
  unfold Device.burstSent
  repeat' (first | with_reducible exact h0 | simp [h0] | split)

@[simp] theorem Device.burstKeyed_cellsOk (d : Device) (it : Item) (h0 : d.cellsOk = true) :
    (Device.burstKeyed d it).cellsOk = true := by
  unfold Device.burstKeyed
  split <;> simp [h0]

@[simp] theorem Device.lostRepReport_cellsOk (d : Device) (h0 : d.cellsOk = true) :
    (Device.lostRepReport d).cellsOk = true := by
  unfold Device.lostRepReport
  simp [h0]

@[simp] theorem Device.reportNotice_cellsOk (d : Device) (k : ReportKind) (data : List Datum) (h0 : d.cellsOk = true) :
    (Device.reportNotice d k data).cellsOk = true := by
  unfold Device.reportNotice
  try dsimp only
  repeat' split
  all_goals first
    | exact h0
    | simp (maxDischargeDepth := 16) [h0]
    | (rename_i h
       have h2 := congrArg (fun x => x.2.cellsOk) h
       dsimp only at h2
       rw [Device.reserve_cellsOk _ _ _ h0] at h2
       simp (maxDischargeDepth := 16) [h2.symm])
    | (rename_i h
       have h2 := congrArg (fun x => x.2.cellsOk) h
       simp (maxDischargeDepth := 16) [h0] at h2
       simp (maxDischargeDepth := 16) [h2])
    | (rename_i h _
       have h2 := congrArg (fun x => x.2.cellsOk) h
       simp (maxDischargeDepth := 16) [h0] at h2
       simp (maxDischargeDepth := 16) [h2])
    | (rename_i h
       have h2 := congrArg (fun x => x.2.2.cellsOk) h
       simp (maxDischargeDepth := 16) [h0] at h2
       simp (maxDischargeDepth := 16) [h2])

@[simp] theorem Device.rejectNotice_cellsOk (d : Device) (cls : Nat) (orig : Station) (reason : Nat) (h0 : d.cellsOk = true) :
    (Device.rejectNotice d cls orig reason).cellsOk = true := by
  unfold Device.rejectNotice
  simp [h0]

@[simp] theorem Device.lateReceipt_cellsOk (d : Device) (num result : Nat) (h0 : d.cellsOk = true) :
    (Device.lateReceipt d num result).cellsOk = true := by
  unfold Device.lateReceipt
  simp [h0]

@[simp] theorem Device.judgeReceipt_cellsOk (d : Device) (num result : Nat) (h0 : d.cellsOk = true) :
    (Device.judgeReceipt d num result).cellsOk = true := by
  unfold Device.judgeReceipt
  repeat' (first | with_reducible exact h0 | simp [h0] | split)

@[simp] theorem Device.receipt_cellsOk (d : Device) (m : Message) (h0 : d.cellsOk = true) :
    (Device.receipt d m).cellsOk = true := by
  unfold Device.receipt
  repeat' (first | with_reducible exact h0 | simp [h0] | split)

@[simp] theorem Device.removeQuota_cellsOk (d : Device) (q : QuotaEntry) (h0 : d.cellsOk = true) :
    (Device.removeQuota d q).cellsOk = true := by
  unfold Device.removeQuota
  try dsimp only
  repeat' split
  all_goals first
    | exact h0
    | simp (maxDischargeDepth := 16) [h0]
    | (rename_i h
       have h2 := congrArg (fun x => x.2.cellsOk) h
       dsimp only at h2
       rw [Device.reserve_cellsOk _ _ _ h0] at h2
       simp (maxDischargeDepth := 16) [h2.symm])
    | (rename_i h
       have h2 := congrArg (fun x => x.2.cellsOk) h
       simp (maxDischargeDepth := 16) [h0] at h2
       simp (maxDischargeDepth := 16) [h2])
    | (rename_i h _
       have h2 := congrArg (fun x => x.2.cellsOk) h
       simp (maxDischargeDepth := 16) [h0] at h2
       simp (maxDischargeDepth := 16) [h2])
    | (rename_i h
       have h2 := congrArg (fun x => x.2.2.cellsOk) h
       simp (maxDischargeDepth := 16) [h0] at h2
       simp (maxDischargeDepth := 16) [h2])

@[simp] theorem Device.applyEntry_cellsOk (x : Device × NoticeTally) (e : NoticeEntry) (h0 : x.1.cellsOk = true) :
    (Device.applyEntry x e).1.cellsOk = true := by
  unfold Device.applyEntry
  repeat' (first | with_reducible exact h0 | simp [h0] | split)

@[simp] theorem Device.applyNotice_cellsOk (d : Device) (num : Nat) (es : List NoticeEntry) (h0 : d.cellsOk = true) :
    (Device.applyNotice d num es).cellsOk = true := by
  unfold Device.applyNotice
  split
  rename_i e t h
  have h2 : e.cellsOk = true := by
    have h3 : ∀ (l : List NoticeEntry) (x : Device × NoticeTally), x.1.cellsOk = true →
        (l.foldl Device.applyEntry x).1.cellsOk = true := by
      intro l
      induction l with
      | nil => intro x hx; exact hx
      | cons y r ih => intro x hx; rw [List.foldl_cons]; exact ih _ (by simp (maxDischargeDepth := 16) [hx])
    have h4 := h3 es (d, ⟨0, 0, 0, 0, false⟩) h0
    rw [h] at h4
    exact h4
  dsimp only
  repeat' split
  all_goals simp (maxDischargeDepth := 16) [h2]

@[simp] theorem Device.quotaNotice_cellsOk (d : Device) (m : Message) (h0 : d.cellsOk = true) :
    (Device.quotaNotice d m).cellsOk = true := by
  unfold Device.quotaNotice
  dsimp only
  repeat' (first
    | with_reducible assumption
    | simp (maxDischargeDepth := 16) [*]
    | (refine foldl_cellsOk _ ?_ _ _ ?_; intro _ _ _)
    | (refine Device.orPending_cellsOk _ _ _ ?_ ?_; intro _)
    | split)

@[simp] theorem Device.deliver_cellsOk (d : Device) (m : Message) (h0 : d.cellsOk = true) :
    (Device.deliver d m).cellsOk = true := by
  unfold Device.deliver
  repeat' (first | with_reducible exact h0 | simp [h0] | split)

@[simp] theorem Device.enterRecent_cellsOk (d : Device) (src num : Nat) (h0 : d.cellsOk = true) :
    (Device.enterRecent d src num).cellsOk = true := by
  unfold Device.enterRecent
  repeat' (first | with_reducible exact h0 | simp [h0] | split)

@[simp] theorem Device.completeMessage_cellsOk (d : Device) (src num : Nat) (h0 : d.cellsOk = true) :
    (Device.completeMessage d src num).cellsOk = true := by
  unfold Device.completeMessage
  dsimp only
  repeat' (first
    | with_reducible assumption
    | simp (maxDischargeDepth := 16) [*]
    | (refine foldl_cellsOk _ ?_ _ _ ?_; intro _ _ _)
    | (refine Device.orPending_cellsOk _ _ _ ?_ ?_; intro _)
    | split)

@[simp] theorem Device.answerData_cellsOk (d : Device) (b : Burst) (idx : Nat) (a : AckAnswer) (h0 : d.cellsOk = true) :
    (Device.answerData d b idx a).cellsOk = true := by
  unfold Device.answerData
  simp [h0]

@[simp] theorem Device.openReasm_cellsOk (d : Device) (b : Burst) (h : DataHeader) (text : List Nat) (h0 : d.cellsOk = true) :
    (Device.openReasm d b h text).cellsOk = true := by
  unfold Device.openReasm
  try dsimp only
  repeat' split
  all_goals first
    | exact h0
    | (have h2 := Device.reserve_eq_cellsOk ‹Device.reserve _ _ _ = _› (by simp (maxDischargeDepth := 16) [h0])
       simp (maxDischargeDepth := 16) [h2]
       done)
    | simp (maxDischargeDepth := 16) [h0]

@[simp] theorem Device.touch_cellsOk (d : Device) (b : Burst) (h0 : d.cellsOk = true) :
    (Device.touch d b).cellsOk = true := by
  unfold Device.touch
  simp [h0]

@[simp] theorem Device.nextFragment_cellsOk (d : Device) (b : Burst) (h : DataHeader) (text : List Nat) (e : Reasm) (h0 : d.cellsOk = true) :
    (Device.nextFragment d b h text e).cellsOk = true := by
  unfold Device.nextFragment
  try dsimp only
  repeat' split
  all_goals first
    | simp (maxDischargeDepth := 16) [*]
    | (have h2 := congrArg (fun x => x.2.cellsOk) ‹_ = (_, _)›
       simp (maxDischargeDepth := 16) [h0] at h2
       simp (maxDischargeDepth := 16) [*])
    | (have h2 := congrArg (fun x => x.1.cellsOk) ‹_ = (_, _)›
       simp (maxDischargeDepth := 16) [h0] at h2
       simp (maxDischargeDepth := 16) [*])
    | (have h2 := congrArg (fun x => x.2.2.cellsOk) ‹_ = (_, _, _)›
       simp (maxDischargeDepth := 16) [h0] at h2
       simp (maxDischargeDepth := 16) [*])

@[simp] theorem Device.receiveData_cellsOk (d : Device) (b : Burst) (h0 : d.cellsOk = true) :
    (Device.receiveData d b).cellsOk = true := by
  unfold Device.receiveData
  try dsimp only
  repeat' split
  all_goals first
    | simp (maxDischargeDepth := 16) [*]
    | (have h2 := congrArg (fun x => x.2.cellsOk) ‹_ = (_, _)›
       simp (maxDischargeDepth := 16) [h0] at h2
       simp (maxDischargeDepth := 16) [*])
    | (have h2 := congrArg (fun x => x.1.cellsOk) ‹_ = (_, _)›
       simp (maxDischargeDepth := 16) [h0] at h2
       simp (maxDischargeDepth := 16) [*])
    | (have h2 := congrArg (fun x => x.2.2.cellsOk) ‹_ = (_, _, _)›
       simp (maxDischargeDepth := 16) [h0] at h2
       simp (maxDischargeDepth := 16) [*])

@[simp] theorem Device.reasmExpires_cellsOk (d : Device) (e : Reasm) (h0 : d.cellsOk = true) :
    (Device.reasmExpires d e).cellsOk = true := by
  unfold Device.reasmExpires
  simp [h0]

@[simp] theorem Device.handOn_cellsOk (d : Device) (b : Burst) (h0 : d.cellsOk = true) :
    (Device.handOn d b).cellsOk = true := by
  unfold Device.handOn
  dsimp only
  repeat' (first
    | with_reducible assumption
    | simp (maxDischargeDepth := 16) [*]
    | (refine foldl_cellsOk _ ?_ _ _ ?_; intro _ _ _)
    | (refine Device.orPending_cellsOk _ _ _ ?_ ?_; intro _)
    | split)

@[simp] theorem Device.takeBurst_cellsOk (d : Device) (r : Rx) (linked pass : Bool) (h0 : d.cellsOk = true) :
    (Device.takeBurst d r linked pass).cellsOk = true := by
  unfold Device.takeBurst
  simp [h0]

@[simp] theorem Device.headerDiscard_cellsOk (d : Device) (h0 : d.cellsOk = true) :
    (Device.headerDiscard d).cellsOk = true := by
  unfold Device.headerDiscard
  simp [h0]

@[simp] theorem Device.damagedDiscard_cellsOk (d : Device) (h0 : d.cellsOk = true) :
    (Device.damagedDiscard d).cellsOk = true := by
  unfold Device.damagedDiscard
  simp [h0]

@[simp] theorem Device.abandonReception_cellsOk (d : Device) (st : RxState) (h0 : d.cellsOk = true) :
    (Device.abandonReception d st).cellsOk = true := by
  unfold Device.abandonReception
  simp [h0]

@[simp] theorem Device.syncingChar_cellsOk (d : Device) (p : Pattern) (q : Nat) (h0 : d.cellsOk = true) :
    (Device.syncingChar d p q).cellsOk = true := by
  unfold Device.syncingChar
  repeat' (first | with_reducible exact h0 | simp [h0] | split)

@[simp] theorem Device.linkedChar_cellsOk (d : Device) (p : Pattern) (q : Nat) (h0 : d.cellsOk = true) :
    (Device.linkedChar d p q).cellsOk = true := by
  unfold Device.linkedChar
  repeat' (first | with_reducible exact h0 | simp [h0] | split)

@[simp] theorem Device.broadcastPosition_cellsOk (d : Device) (pos : Nat) (x y : Pattern × Nat) (h0 : d.cellsOk = true) :
    (Device.broadcastPosition d pos x y).cellsOk = true := by
  unfold Device.broadcastPosition
  repeat' (first | with_reducible exact h0 | simp [h0] | split)

@[simp] theorem Device.broadcastChar_cellsOk (d : Device) (p : Pattern) (q : Nat) (h0 : d.cellsOk = true) :
    (Device.broadcastChar d p q).cellsOk = true := by
  unfold Device.broadcastChar
  repeat' (first | with_reducible exact h0 | simp [h0] | split)

@[simp] theorem Device.takeCharacter_cellsOk (d : Device) (p : Pattern) (q : Nat) (h0 : d.cellsOk = true) :
    (Device.takeCharacter d p q).cellsOk = true := by
  unfold Device.takeCharacter
  repeat' (first | with_reducible exact h0 | simp [h0] | split)

@[simp] theorem Device.findSync_cellsOk (d : Device) (quality : Nat) (h0 : d.cellsOk = true) :
    (Device.findSync d quality).cellsOk = true := by
  unfold Device.findSync
  split <;> simp [h0]

@[simp] theorem Device.carrierFalls_cellsOk (d : Device) (h0 : d.cellsOk = true) :
    (Device.carrierFalls d).cellsOk = true := by
  unfold Device.carrierFalls
  split <;> simp [h0]

@[simp] theorem Device.closeRx_cellsOk (d : Device) (h0 : d.cellsOk = true) :
    (Device.closeRx d).cellsOk = true := by
  unfold Device.closeRx
  split <;> simp [h0]

@[simp] theorem Device.keyItem_cellsOk (d : Device) (c : AccessClass) (it : Item) (blind : Bool) (h0 : d.cellsOk = true) :
    (Device.keyItem d c it blind).cellsOk = true := by
  unfold Device.keyItem
  simp (maxDischargeDepth := 16) [h0]

@[simp] theorem Device.raiseKey_cellsOk (d : Device) (c : AccessClass) (blind : Bool) (h0 : d.cellsOk = true) :
    (Device.raiseKey d c blind).cellsOk = true := by
  unfold Device.raiseKey
  split <;> simp [h0]

@[simp] theorem Device.arbitrate_cellsOk (d : Device) (h0 : d.cellsOk = true) :
    (Device.arbitrate d).cellsOk = true := by
  unfold Device.arbitrate
  repeat' (first | with_reducible exact h0 | simp [h0] | split)

@[simp] theorem Device.arbiterInstant_cellsOk (d : Device) (h0 : d.cellsOk = true) :
    (Device.arbiterInstant d).cellsOk = true := by
  unfold Device.arbiterInstant
  split <;> simp [h0]

@[simp] theorem Device.settle_cellsOk (d : Device) (h0 : d.cellsOk = true) :
    (Device.settle d).cellsOk = true := by
  unfold Device.settle
  simp (maxDischargeDepth := 16) [h0]

@[simp] theorem Device.gapEnds_cellsOk (d : Device) (c : AccessClass) (h0 : d.cellsOk = true) :
    (Device.gapEnds d c).cellsOk = true := by
  unfold Device.gapEnds
  repeat' (first | with_reducible exact h0 | simp [h0] | split)

@[simp] theorem Device.slotEnds_cellsOk (d : Device) (c : AccessClass) (h0 : d.cellsOk = true) :
    (Device.slotEnds d c).cellsOk = true := by
  unfold Device.slotEnds
  split <;> simp [h0]

@[simp] theorem Device.settleEnds_cellsOk (d : Device) (h0 : d.cellsOk = true) :
    (Device.settleEnds d).cellsOk = true := by
  unfold Device.settleEnds
  repeat' (first | with_reducible exact h0 | simp [h0] | split)

@[simp] theorem Device.burstEnds_cellsOk (d : Device) (h0 : d.cellsOk = true) :
    (Device.burstEnds d).cellsOk = true := by
  unfold Device.burstEnds
  split <;> simp (maxDischargeDepth := 16) [h0]

@[simp] theorem Device.keyLimit_cellsOk (d : Device) (h0 : d.cellsOk = true) :
    (Device.keyLimit d).cellsOk = true := by
  unfold Device.keyLimit
  split <;> simp (maxDischargeDepth := 16) [h0]

@[simp] theorem Device.ackLimit_cellsOk (d : Device) (h0 : d.cellsOk = true) :
    (Device.ackLimit d).cellsOk = true := by
  unfold Device.ackLimit
  split <;> simp (maxDischargeDepth := 16) [h0]

@[simp] theorem Device.blindReached_cellsOk (d : Device) (h0 : d.cellsOk = true) :
    (Device.blindReached d).cellsOk = true := by
  unfold Device.blindReached
  split <;> simp [h0]

@[simp] theorem Device.channelBlocks_cellsOk (d : Device) (h0 : d.cellsOk = true) :
    (Device.channelBlocks d).cellsOk = true := by
  unfold Device.channelBlocks
  repeat' (first | with_reducible exact h0 | simp [h0] | split)

@[simp] theorem Device.debounce_cellsOk (d : Device) (h0 : d.cellsOk = true) :
    (Device.debounce d).cellsOk = true := by
  unfold Device.debounce
  repeat' (first | with_reducible exact h0 | simp [h0] | split)

@[simp] theorem Device.rawChange_cellsOk (d : Device) (up : Bool) (h0 : d.cellsOk = true) :
    (Device.rawChange d up).cellsOk = true := by
  unfold Device.rawChange
  split <;> simp [h0]

@[simp] theorem Device.protectionCheck_cellsOk (d : Device) (tuneF refl supLo : Bool) (h0 : d.cellsOk = true) :
    (Device.protectionCheck d tuneF refl supLo).cellsOk = true := by
  unfold Device.protectionCheck
  dsimp only
  repeat' (first
    | with_reducible assumption
    | simp (maxDischargeDepth := 16) [*]
    | (refine foldl_cellsOk _ ?_ _ _ ?_; intro _ _ _)
    | (refine Device.orPending_cellsOk _ _ _ ?_ ?_; intro _)
    | split)

@[simp] theorem Device.serveMark_cellsOk (d : Device) (a0 : OwedRef) (h0 : d.cellsOk = true) :
    (Device.serveMark d a0).cellsOk = true := by
  unfold Device.serveMark
  repeat' (first | with_reducible exact h0 | simp [h0] | split)

@[simp] theorem Device.serveOwed_cellsOk (d : Device) (n : LaneName) (a0 : Nat) (h0 : d.cellsOk = true) :
    (Device.serveOwed d n a0).cellsOk = true := by
  induction a0 generalizing d with
  | zero => exact h0
  | succ fuel ih =>
    unfold Device.serveOwed
    split
    · exact h0
    · split
      · exact ih _ (by simp (maxDischargeDepth := 16) [h0])
      · exact h0

@[simp] theorem Device.freeDelivery_cellsOk (d : Device) (id : Nat) (h0 : d.cellsOk = true) :
    (Device.freeDelivery d id).cellsOk = true := by
  unfold Device.freeDelivery
  split <;> simp [h0]

@[simp] theorem Device.drainLane_cellsOk (d : Device) (n : LaneName) (h0 : d.cellsOk = true) :
    (Device.drainLane d n).cellsOk = true := by
  unfold Device.drainLane
  dsimp only
  repeat' (first
    | with_reducible assumption
    | simp (maxDischargeDepth := 16) [*]
    | (refine foldl_cellsOk _ ?_ _ _ ?_; intro _ _ _)
    | (refine Device.orPending_cellsOk _ _ _ ?_ ?_; intro _)
    | split)

@[simp] theorem Device.onConsoleCounts_cellsOk (d : Device) (f : ConsoleCounts → ConsoleCounts) (h0 : d.cellsOk = true) :
    (Device.onConsoleCounts d f).cellsOk = true := by
  unfold Device.onConsoleCounts
  simp [h0]

@[simp] theorem Device.assertCsel_cellsOk (d : Device) (h0 : d.cellsOk = true) :
    (Device.assertCsel d).cellsOk = true := by
  unfold Device.assertCsel
  simp [h0]

@[simp] theorem Device.releaseCsel_cellsOk (d : Device) (h0 : d.cellsOk = true) :
    (Device.releaseCsel d).cellsOk = true := by
  unfold Device.releaseCsel
  split <;> simp [h0]

@[simp] theorem Device.running_cellsOk (d : Device) (h0 : d.cellsOk = true) :
    (Device.running d).2.cellsOk = true := by
  unfold Device.running
  repeat' (first | with_reducible exact h0 | simp [h0] | split)

@[simp] theorem Device.completeExchange_cellsOk (d : Device) (h0 : d.cellsOk = true) :
    (Device.completeExchange d).cellsOk = true := by
  unfold Device.completeExchange
  dsimp only
  repeat' (first
    | with_reducible assumption
    | simp (maxDischargeDepth := 16) [*]
    | (refine foldl_cellsOk _ ?_ _ _ ?_; intro _ _ _)
    | (refine Device.orPending_cellsOk _ _ _ ?_ ?_; intro _)
    | split)

@[simp] theorem Device.leaveSetup_cellsOk (d : Device) (h0 : d.cellsOk = true) :
    (Device.leaveSetup d).cellsOk = true := by
  unfold Device.leaveSetup
  split <;> simp [h0]

@[simp] theorem Device.echo_cellsOk (d : Device) (tag : Nat) (r : Disposition) (h0 : d.cellsOk = true) :
    (Device.echo d tag r).cellsOk = true := by
  unfold Device.echo
  split <;> simp [h0]

@[simp] theorem Device.voidSetup_cellsOk (d : Device) (h0 : d.cellsOk = true) :
    (Device.voidSetup d).cellsOk = true := by
  unfold Device.voidSetup
  simp [h0]

@[simp] theorem Device.setupHead_cellsOk (own port settle : Nat) (d : Device) (h0 : d.cellsOk = true) :
    (Device.setupHead own port settle d).2.cellsOk = true := by
  unfold Device.setupHead
  repeat' (first | with_reducible exact h0 | simp [h0] | split)

@[simp] theorem Device.completeSetup_cellsOk (d : Device) (h0 : d.cellsOk = true) :
    (Device.completeSetup d).cellsOk = true := by
  unfold Device.completeSetup
  simp (maxDischargeDepth := 16) [h0]

@[simp] theorem Device.setTime_cellsOk (year month day hour minute second : Nat) (d : Device) (h0 : d.cellsOk = true) :
    (Device.setTime year month day hour minute second d).2.cellsOk = true := by
  unfold Device.setTime
  repeat' (first | with_reducible exact h0 | simp [h0] | split)

@[simp] theorem Device.setFix_cellsOk (lat lon : Int) (hour minute : Nat) (d : Device) (h0 : d.cellsOk = true) :
    (Device.setFix lat lon hour minute d).2.cellsOk = true := by
  unfold Device.setFix
  split <;> simp [h0]

@[simp] theorem Device.openSubmit_cellsOk (tag dest len : Nat) (d : Device) (h0 : d.cellsOk = true) :
    (Device.openSubmit tag dest len d).2.cellsOk = true := by
  unfold Device.openSubmit
  try dsimp only
  repeat' split
  all_goals first
    | exact h0
    | (have h2 := Device.reserve_eq_cellsOk ‹Device.reserve _ _ _ = _› (by simp (maxDischargeDepth := 16) [h0])
       simp (maxDischargeDepth := 16) [h2]
       done)
    | simp (maxDischargeDepth := 16) [h0]

@[simp] theorem Device.takeText_cellsOk (tag : Nat) (symbols : List Nat) (d : Device) (h0 : d.cellsOk = true) :
    (Device.takeText tag symbols d).2.cellsOk = true := by
  unfold Device.takeText
  repeat' (first | with_reducible exact h0 | simp [h0] | split)

@[simp] theorem Device.withdrawTag_cellsOk (consoleTag : Nat) (d : Device) (h0 : d.cellsOk = true) :
    (Device.withdrawTag consoleTag d).2.cellsOk = true := by
  unfold Device.withdrawTag
  dsimp only
  repeat' (first
    | with_reducible assumption
    | simp [*]
    | (refine foldl_cellsOk _ ?_ _ _ ?_; intro _ _ _)
    | (refine Device.orPending_cellsOk _ _ _ ?_ ?_; intro _)
    | split
    | exact (by simpa [h0] using (congrArg (fun x => x.2.cellsOk) ‹_ = (_, _)›).symm)
    | exact (by simpa [h0] using (congrArg (fun x => x.1.cellsOk) ‹_ = (_, _)›).symm)
    | exact (by simpa [h0] using (congrArg (fun x => x.2.2.cellsOk) ‹_ = (_, _, _)›).symm))

@[simp] theorem Device.submitTimesOut_cellsOk (d : Device) (h0 : d.cellsOk = true) :
    (Device.submitTimesOut d).cellsOk = true := by
  unfold Device.submitTimesOut
  try dsimp only
  repeat' split
  all_goals first
    | exact h0
    | simp (maxDischargeDepth := 16) [h0]
    | (rename_i h
       have h2 := congrArg (fun x => x.2.cellsOk) h
       dsimp only at h2
       rw [Device.reserve_cellsOk _ _ _ h0] at h2
       simp (maxDischargeDepth := 16) [h2.symm])
    | (rename_i h
       have h2 := congrArg (fun x => x.2.cellsOk) h
       simp (maxDischargeDepth := 16) [h0] at h2
       simp (maxDischargeDepth := 16) [h2])
    | (rename_i h _
       have h2 := congrArg (fun x => x.2.cellsOk) h
       simp (maxDischargeDepth := 16) [h0] at h2
       simp (maxDischargeDepth := 16) [h2])
    | (rename_i h
       have h2 := congrArg (fun x => x.2.2.cellsOk) h
       simp (maxDischargeDepth := 16) [h0] at h2
       simp (maxDischargeDepth := 16) [h2])

@[simp] theorem Device.restartAccess_cellsOk (d : Device) (h0 : d.cellsOk = true) :
    (Device.restartAccess d).cellsOk = true := by
  unfold Device.restartAccess
  repeat' (first | with_reducible exact h0 | simp [h0] | split)

@[simp] theorem Device.offerAgain_cellsOk (d : Device) (items : List Item) (h0 : d.cellsOk = true) :
    (Device.offerAgain d items).cellsOk = true := by
  unfold Device.offerAgain
  exact foldl_cellsOk _ (fun _ _ h => by simp [h]) _ _ (by simp [h0])

@[simp] theorem Device.restartRecords_cellsOk (d : Device) (h0 : d.cellsOk = true) :
    (Device.restartRecords d).cellsOk = true := by
  unfold Device.restartRecords
  dsimp only
  rw [Device.onLoop_cellsOk]
  refine Device.leaveLoop_cellsOk _ ?_
  rw [Device.onLog_cellsOk]
  refine foldl_cellsOk _ (fun _ _ h => by simp (maxDischargeDepth := 16) [h]) _ _ ?_
  split <;> simp (maxDischargeDepth := 16) [h0]

@[simp] theorem Device.restartConsole_cellsOk (d : Device) (h0 : d.cellsOk = true) :
    (Device.restartConsole d).cellsOk = true := by
  unfold Device.restartConsole
  simp [h0]

@[simp] theorem Device.restart_cellsOk (d : Device) (h0 : d.cellsOk = true) :
    (Device.restart d).2.cellsOk = true := by
  unfold Device.restart
  exact foldl_cellsOk _ (fun _ _ h => by simp [h]) _ _ (by simp [h0])

@[simp] theorem Device.answer_cellsOk (tag selector : Nat) (data : List Datum) (d : Device) (h0 : d.cellsOk = true) :
    (Device.answer tag selector data d).2.cellsOk = true := by
  unfold Device.answer
  split <;> simp [h0]

@[simp] theorem Device.startAlert_cellsOk (nature : Nat) (persons : Option Nat) (d : Device) (h0 : d.cellsOk = true) :
    (Device.startAlert nature persons d).cellsOk = true := by
  unfold Device.startAlert
  dsimp only
  repeat' (first
    | with_reducible assumption
    | simp (maxDischargeDepth := 16) [*]
    | (refine foldl_cellsOk _ ?_ _ _ ?_; intro _ _ _)
    | (refine Device.orPending_cellsOk _ _ _ ?_ ?_; intro _)
    | split)

@[simp] theorem Device.repeatNow_cellsOk (d : Device) (h0 : d.cellsOk = true) :
    (Device.repeatNow d).cellsOk = true := by
  unfold Device.repeatNow
  repeat' (first | with_reducible exact h0 | simp [h0] | split)

@[simp] theorem Device.raiseAgain_cellsOk (nature : Nat) (persons : Option Nat) (d : Device) (h0 : d.cellsOk = true) :
    (Device.raiseAgain nature persons d).cellsOk = true := by
  unfold Device.raiseAgain
  simp (maxDischargeDepth := 16) [h0]

@[simp] theorem Device.orderDistress_cellsOk (nature persons : Nat) (d : Device) (h0 : d.cellsOk = true) :
    (Device.orderDistress nature persons d).2.cellsOk = true := by
  unfold Device.orderDistress
  dsimp only
  repeat' (first
    | with_reducible assumption
    | simp (maxDischargeDepth := 16) [*]
    | (refine foldl_cellsOk _ ?_ _ _ ?_; intro _ _ _)
    | (refine Device.orPending_cellsOk _ _ _ ?_ ?_; intro _)
    | split)

@[simp] theorem Device.orderCancel_cellsOk (d : Device) (h0 : d.cellsOk = true) :
    (Device.orderCancel d).2.cellsOk = true := by
  unfold Device.orderCancel
  dsimp only
  repeat' (first
    | with_reducible assumption
    | simp (maxDischargeDepth := 16) [*]
    | (refine foldl_cellsOk _ ?_ _ _ ?_; intro _ _ _)
    | (refine Device.orPending_cellsOk _ _ _ ?_ ?_; intro _)
    | split)

@[simp] theorem Device.orderAck_cellsOk (st : Nat) (d : Device) (h0 : d.cellsOk = true) :
    (Device.orderAck st d).2.cellsOk = true := by
  unfold Device.orderAck
  repeat' (first | with_reducible exact h0 | simp [h0] | split)

@[simp] theorem Device.orderClose_cellsOk (st : Nat) (d : Device) (h0 : d.cellsOk = true) :
    (Device.orderClose st d).2.cellsOk = true := by
  unfold Device.orderClose
  repeat' (first | with_reducible exact h0 | simp [h0] | split)

@[simp] theorem Device.orderFlush_cellsOk (d : Device) (h0 : d.cellsOk = true) :
    (Device.orderFlush d).2.cellsOk = true := by
  unfold Device.orderFlush
  dsimp only
  repeat' (first
    | with_reducible assumption
    | simp [*]
    | (refine foldl_cellsOk _ ?_ _ _ ?_; intro _ _ _)
    | (refine Device.orPending_cellsOk _ _ _ ?_ ?_; intro _)
    | split
    | exact (by simpa [h0] using (congrArg (fun x => x.2.cellsOk) ‹_ = (_, _)›).symm)
    | exact (by simpa [h0] using (congrArg (fun x => x.1.cellsOk) ‹_ = (_, _)›).symm)
    | exact (by simpa [h0] using (congrArg (fun x => x.2.2.cellsOk) ‹_ = (_, _, _)›).symm))

@[simp] theorem Device.orderLoop_cellsOk (tag : Nat) (d : Device) (h0 : d.cellsOk = true) :
    (Device.orderLoop tag d).2.cellsOk = true := by
  unfold Device.orderLoop
  repeat' (first | with_reducible exact h0 | simp [h0] | split)

@[simp] theorem Device.openHaul_cellsOk (tag : Nat) (d : Device) (h0 : d.cellsOk = true) :
    (Device.openHaul tag d).2.cellsOk = true := by
  unfold Device.openHaul
  repeat' (first | with_reducible exact h0 | simp [h0] | split)

@[simp] theorem Device.closeHaul_cellsOk (number : Nat) (d : Device) (h0 : d.cellsOk = true) :
    (Device.closeHaul number d).2.cellsOk = true := by
  unfold Device.closeHaul
  repeat' (first | with_reducible exact h0 | simp [h0] | split)

@[simp] theorem Device.catchLine_cellsOk (number : Nat) (sp : Species) (disp weight : Nat) (d : Device) (h0 : d.cellsOk = true) :
    (Device.catchLine number sp disp weight d).2.cellsOk = true := by
  unfold Device.catchLine
  repeat' (first | with_reducible exact h0 | simp [h0] | split)

@[simp] theorem Device.discardHaul_cellsOk (number : Nat) (d : Device) (h0 : d.cellsOk = true) :
    (Device.discardHaul number d).2.cellsOk = true := by
  unfold Device.discardHaul
  split <;> simp [h0]

@[simp] theorem Device.commitLine_cellsOk (rect : Nat) (x : Device × Bool) (l : CatchLine) (h0 : x.1.cellsOk = true) :
    (Device.commitLine rect x l).1.cellsOk = true := by
  unfold Device.commitLine
  simp [h0]

@[simp] theorem Device.commitCell_cellsOk (rect : Nat) (h : Haul) (x : Device × Bool) (sp : Species) (h0 : x.1.cellsOk = true) :
    (Device.commitCell rect h x sp).1.cellsOk = true := by
  unfold Device.commitCell
  simp [h0]

@[simp] theorem Device.commitQuotas_cellsOk (d : Device) (lines : List CatchLine) (h0 : d.cellsOk = true) :
    (Device.commitQuotas d lines).cellsOk = true := by
  have h1 : ∀ (l : List Species) (e : Device), e.cellsOk = true →
      (l.foldl (fun d sp => d.onQuota sp fun q => ⟨q.species, q.quota, d.consumedOf sp, q.st, q.owedFrom⟩) e).cellsOk = true :=
    fun l e he => foldl_cellsOk _ (fun _ _ h => by simp (maxDischargeDepth := 16) [h]) l e he
  have h3 : ∀ (l : List Species) (x : Bool × Device), x.2.cellsOk = true →
      (l.foldl (fun x sp => (x.1 || (x.2.evaluateQuota sp 0).1, (x.2.evaluateQuota sp 0).2)) x).2.cellsOk = true := by
    intro l
    induction l with
    | nil => intro x hx; exact hx
    | cons y r ih => intro x hx; rw [List.foldl_cons]; exact ih _ (by simp (maxDischargeDepth := 16) [hx])
  unfold Device.commitQuotas
  dsimp only
  split
  · exact Device.trigger_cellsOk _ _ (h3 _ (false, _) (h1 _ _ h0))
  · exact h3 _ (false, _) (h1 _ _ h0)

@[simp] theorem Device.commitHaul_cellsOk (tag i : Nat) (d : Device) (h0 : d.cellsOk = true) :
    (Device.commitHaul tag i d).cellsOk = true := by
  have h1 : ∀ (rect : Nat) (l : List CatchLine) (x : Device × Bool), x.1.cellsOk = true →
      (l.foldl (Device.commitLine rect) x).1.cellsOk = true := by
    intro rect l
    induction l with
    | nil => intro x hx; exact hx
    | cons y r ih => intro x hx; rw [List.foldl_cons]; exact ih _ (by simp (maxDischargeDepth := 16) [hx])
  have h2 : ∀ (rect : Nat) (h : Haul) (l : List Species) (x : Device × Bool), x.1.cellsOk = true →
      (l.foldl (Device.commitCell rect h) x).1.cellsOk = true := by
    intro rect h l
    induction l with
    | nil => intro x hx; exact hx
    | cons y r ih => intro x hx; rw [List.foldl_cons]; exact ih _ (by simp (maxDischargeDepth := 16) [hx])
  unfold Device.commitHaul
  dsimp only
  apply Device.commitQuotas_cellsOk
  refine Device.onLogCounts_cellsOk _ _ (Device.queueEntry_cellsOk _ _ _ (Device.onHaul_cellsOk _ _ _ ?_))
  exact h2 _ _ _ (_, _) (h1 _ _ (_, _) h0)

@[simp] theorem Device.orderCommit_cellsOk (tag number : Nat) (d : Device) (h0 : d.cellsOk = true) :
    (Device.orderCommit tag number d).2.cellsOk = true := by
  unfold Device.orderCommit
  repeat' (first | with_reducible exact h0 | simp [h0] | split)

@[simp] theorem Device.hourReached_cellsOk (d : Device) (h0 : d.cellsOk = true) :
    (Device.hourReached d).cellsOk = true := by
  unfold Device.hourReached
  split <;> simp [h0]

@[simp] theorem Device.deadlineReached_cellsOk (d : Device) (h0 : d.cellsOk = true) :
    (Device.deadlineReached d).cellsOk = true := by
  unfold Device.deadlineReached
  split <;> simp [h0]

@[simp] theorem Device.recoveryTime_cellsOk (m : MonitorId) (d : Device) (h0 : d.cellsOk = true) :
    (Device.recoveryTime m d).cellsOk = true := by
  unfold Device.recoveryTime
  split <;> simp [h0]

@[simp] theorem Device.quietTime_cellsOk (d : Device) (h0 : d.cellsOk = true) :
    (Device.quietTime d).cellsOk = true := by
  unfold Device.quietTime
  split <;> simp [h0]

@[simp] theorem Device.loopDone_cellsOk (received : List Pattern) (d : Device) (h0 : d.cellsOk = true) :
    (Device.loopDone received d).cellsOk = true := by
  unfold Device.loopDone
  split <;> simp (maxDischargeDepth := 16) [h0]

@[simp] theorem Device.staleTime_cellsOk (st : Station) (d : Device) (h0 : d.cellsOk = true) :
    (Device.staleTime st d).cellsOk = true := by
  unfold Device.staleTime
  dsimp only
  repeat' (first
    | with_reducible assumption
    | simp [*]
    | (refine foldl_cellsOk _ ?_ _ _ ?_; intro _ _ _)
    | (refine Device.orPending_cellsOk _ _ _ ?_ ?_; intro _)
    | split
    | exact (by simpa [h0] using (congrArg (fun x => x.2.cellsOk) ‹_ = (_, _)›).symm)
    | exact (by simpa [h0] using (congrArg (fun x => x.1.cellsOk) ‹_ = (_, _)›).symm)
    | exact (by simpa [h0] using (congrArg (fun x => x.2.2.cellsOk) ‹_ = (_, _, _)›).symm))

@[simp] theorem Device.removalTime_cellsOk (st : Station) (d : Device) (h0 : d.cellsOk = true) :
    (Device.removalTime st d).cellsOk = true := by
  unfold Device.removalTime
  repeat' (first | with_reducible exact h0 | simp [h0] | split)

@[simp] theorem Device.avoidTime_cellsOk (st : Station) (d : Device) (h0 : d.cellsOk = true) :
    (Device.avoidTime st d).cellsOk = true := by
  unfold Device.avoidTime
  dsimp only
  repeat' (first
    | with_reducible assumption
    | simp [*]
    | (refine foldl_cellsOk _ ?_ _ _ ?_; intro _ _ _)
    | (refine Device.orPending_cellsOk _ _ _ ?_ ?_; intro _)
    | split
    | exact (by simpa [h0] using (congrArg (fun x => x.2.cellsOk) ‹_ = (_, _)›).symm)
    | exact (by simpa [h0] using (congrArg (fun x => x.1.cellsOk) ‹_ = (_, _)›).symm)
    | exact (by simpa [h0] using (congrArg (fun x => x.2.2.cellsOk) ‹_ = (_, _, _)›).symm))

@[simp] theorem Device.beaconTime_cellsOk (d : Device) (h0 : d.cellsOk = true) :
    (Device.beaconTime d).cellsOk = true := by
  unfold Device.beaconTime
  split <;> simp [h0]

@[simp] theorem Device.waitTime_cellsOk (k : WaitKind) (st num : Nat) (d : Device) (h0 : d.cellsOk = true) :
    (Device.waitTime k st num d).cellsOk = true := by
  unfold Device.waitTime
  dsimp only
  repeat' (first
    | with_reducible assumption
    | simp (maxDischargeDepth := 16) [*]
    | (refine foldl_cellsOk _ ?_ _ _ ?_; intro _ _ _)
    | (refine Device.orPending_cellsOk _ _ _ ?_ ?_; intro _)
    | split)

@[simp] theorem Device.ackTime_cellsOk (d : Device) (h0 : d.cellsOk = true) :
    (Device.ackTime d).cellsOk = true := by
  unfold Device.ackTime
  repeat' (first | with_reducible exact h0 | simp [h0] | split)

@[simp] theorem Device.refusalTime_cellsOk (i : Nat) (d : Device) (h0 : d.cellsOk = true) :
    (Device.refusalTime i d).cellsOk = true := by
  unfold Device.refusalTime
  split <;> simp [h0]

@[simp] theorem Device.lifeTime_cellsOk (i : Nat) (d : Device) (h0 : d.cellsOk = true) :
    (Device.lifeTime i d).cellsOk = true := by
  unfold Device.lifeTime
  repeat' (first | with_reducible exact h0 | simp [h0] | split)

@[simp] theorem Device.inactivityTime_cellsOk (src num : Nat) (d : Device) (h0 : d.cellsOk = true) :
    (Device.inactivityTime src num d).cellsOk = true := by
  unfold Device.inactivityTime
  repeat' (first | with_reducible exact h0 | simp [h0] | split)

@[simp] theorem Device.recentTime_cellsOk (src num : Nat) (d : Device) (h0 : d.cellsOk = true) :
    (Device.recentTime src num d).cellsOk = true := by
  unfold Device.recentTime
  repeat' (first | with_reducible exact h0 | simp [h0] | split)

@[simp] theorem Device.repeatTime_cellsOk (d : Device) (h0 : d.cellsOk = true) :
    (Device.repeatTime d).cellsOk = true := by
  unfold Device.repeatTime
  split <;> simp (maxDischargeDepth := 16) [h0]

@[simp] theorem Device.cancelTime_cellsOk (d : Device) (h0 : d.cellsOk = true) :
    (Device.cancelTime d).cellsOk = true := by
  unfold Device.cancelTime
  split <;> simp (maxDischargeDepth := 16) [h0]

@[simp] theorem Device.caseTime_cellsOk (st : Station) (d : Device) (h0 : d.cellsOk = true) :
    (Device.caseTime st d).cellsOk = true := by
  unfold Device.caseTime
  repeat' (first | with_reducible exact h0 | simp [h0] | split)

@[simp] theorem Device.holdTime_cellsOk (d : Device) (h0 : d.cellsOk = true) :
    (Device.holdTime d).cellsOk = true := by
  unfold Device.holdTime
  repeat' (first | with_reducible exact h0 | simp [h0] | split)

@[simp] theorem Device.collectionTime_cellsOk (area : Nat) (d : Device) (h0 : d.cellsOk = true) :
    (Device.collectionTime area d).cellsOk = true := by
  unfold Device.collectionTime
  split <;> simp [h0]

@[simp] theorem Device.forecastTime_cellsOk (area : Nat) (complete : Bool) (d : Device) (h0 : d.cellsOk = true) :
    (Device.forecastTime area complete d).cellsOk = true := by
  unfold Device.forecastTime
  repeat' (first | with_reducible exact h0 | simp [h0] | split)

@[simp] theorem Device.warningTime_cellsOk (issuer issue : Nat) (d : Device) (h0 : d.cellsOk = true) :
    (Device.warningTime issuer issue d).cellsOk = true := by
  unfold Device.warningTime
  repeat' (first | with_reducible exact h0 | simp [h0] | split)

@[simp] theorem Device.tick_cellsOk (d : Device) (h0 : d.cellsOk = true) :
    (Device.tick d).cellsOk = true := by
  unfold Device.tick
  simp [h0]

@[simp] theorem Device.takeDue_cellsOk (d : Device) (h0 : d.cellsOk = true) :
    (Device.takeDue d).2.cellsOk = true := by
  unfold Device.takeDue
  repeat' (first | with_reducible exact h0 | simp [h0] | split)

theorem Device.setupPart_cellsOk (k : Nat) (take : SetupRaw → Option SetupRaw) (finish : Device → Device) (d : Device)
    (h : ∀ e : Device, e.cellsOk = true → (finish e).cellsOk = true) (h0 : d.cellsOk = true) :
    (Device.setupPart k take finish d).2.cellsOk = true := by
  unfold Device.setupPart
  repeat' split
  all_goals first
    | exact h0
    | exact Device.voidSetup_cellsOk _ h0
    | exact h _ h0

/-- A frame keeps what its judging keeps. -/
theorem Device.frame_cellsOk (d : Device) (tag : Nat) (isSetup early : Bool) (judge : Device → Disposition × Device)
    (h : ∀ e : Device, e.cellsOk = true → (judge e).2.cellsOk = true) (h0 : d.cellsOk = true) :
    (d.frame tag isSetup early judge).cellsOk = true := by
  unfold Device.frame
  have h1 := Device.completeExchange_cellsOk d h0
  have h2 := Device.leaveSetup_cellsOk _ h1
  dsimp only
  refine Device.settle_cellsOk _ (Device.echo_cellsOk _ _ _ ?_)
  repeat' split
  all_goals first
    | exact h _ h1
    | exact h _ h2
    | exact h1
    | exact h2

theorem State.act_cellsOk (s t : State) (f : Device → Device) (h : ∀ e : Device, e.cellsOk = true → (f e).cellsOk = true)
    (h0 : s.dev.cellsOk = true) (ht : s.act f = .next t) : t.dev.cellsOk = true := by
  unfold State.act at ht
  injection ht with ht
  subst ht
  dsimp only
  split
  · exact h0
  · exact h _ h0

theorem State.frame_cellsOk (s t : State) (tag : Nat) (isSetup early : Bool) (judge : Device → Disposition × Device)
    (h : ∀ e : Device, e.cellsOk = true → (judge e).2.cellsOk = true) (h0 : s.dev.cellsOk = true)
    (ht : s.frame tag isSetup early judge = .next t) : t.dev.cellsOk = true :=
  State.act_cellsOk s t _ (fun e he => Device.frame_cellsOk e tag isSetup early judge h he) h0 ht

theorem State.event_cellsOk (s t : State) (f : Device → Device) (h : ∀ e : Device, e.cellsOk = true → (f e).cellsOk = true)
    (h0 : s.dev.cellsOk = true) (ht : s.event f = .next t) : t.dev.cellsOk = true :=
  State.act_cellsOk s t _ (fun e he => Device.settle_cellsOk _ (h e he)) h0 ht

end Sys2Proof.Machine
end

