-- ==== Sys2Proof/Laws/Fixed.lean ====
section
/-! SUPPORT. No operation but setup and the resets changes what `Fixed` holds (R197): one lemma per operation. -/

namespace Sys2Proof.Machine

theorem foldl_fixed {α : Type} (f : Device → α → Device) (h : ∀ d x, (f d x).fixed = d.fixed) (l : List α)
    (d : Device) : (l.foldl f d).fixed = d.fixed := by
  induction l generalizing d with
  | nil => rfl
  | cons x r ih => rw [List.foldl_cons, ih, h]

theorem Device.orPending_fixed (d : Device) (i : Nat) (k : Device → Device) (h1 : ∀ o, (d.endTransfer i o).fixed = d.fixed)
    (h2 : (k d).fixed = d.fixed) : (d.orPending i k).fixed = d.fixed := by
  unfold Device.orPending
  split
  · exact h1 _
  · exact h2

@[simp] theorem Device.mk_fixed (a1 : Time) (a2 : Bool) (a3 : Nat) (a4 : Pins) (a5 : Setup) (a6 : Rx) (a7 : Option Tx)
    (a8 : RxCounts) (a9 : Access) (a10 : Protection) (a11 : LoopTest) (a12 : Store) (a13 : NeighTable)
    (a14 : List Wait) (a15 : Transfers) (a16 : DistressUnit) (a17 : WeatherStore) (a18 : CatchLog)
    (a19 : ReportBuilder) (a20 : Console) :
    Device.fixed ⟨a1, a2, a3, a4, a5, a6, a7, a8, a9, a10, a11, a12, a13, a14, a15, a16, a17, a18, a19, a20⟩
      = ⟨a2, a20.setup == .done, a5, a20.marks⟩ := rfl

@[simp] theorem Device.fixed_eta (d : Device) :
    (⟨d.resetLow, d.console.setup == .done, d.config, d.console.marks⟩ : Fixed) = d.fixed := rfl

@[simp] theorem Device.onConsole_fixed (d : Device) (f : Console → Console)
    (h1 : (f d.console).setup = d.console.setup) (h2 : (f d.console).marks = d.console.marks) :
    (d.onConsole f).fixed = d.fixed := by
  simp only [Device.fixed, Device.onConsole, Device.ready, h1, h2]

@[simp] theorem Device.onAccess_fixed (d : Device) (f : Access → Access) : (d.onAccess f).fixed = d.fixed := rfl
@[simp] theorem Device.onProt_fixed (d : Device) (f : Protection → Protection) : (d.onProt f).fixed = d.fixed := rfl
@[simp] theorem Device.onLoop_fixed (d : Device) (f : LoopTest → LoopTest) : (d.onLoop f).fixed = d.fixed := rfl
@[simp] theorem Device.onRx_fixed (d : Device) (f : Rx → Rx) : (d.onRx f).fixed = d.fixed := rfl
@[simp] theorem Device.onRxCounts_fixed (d : Device) (f : RxCounts → RxCounts) : (d.onRxCounts f).fixed = d.fixed := rfl
@[simp] theorem Device.onStore_fixed (d : Device) (f : Store → Store) : (d.onStore f).fixed = d.fixed := rfl
@[simp] theorem Device.onNeigh_fixed (d : Device) (f : NeighTable → NeighTable) : (d.onNeigh f).fixed = d.fixed := rfl
@[simp] theorem Device.onXfer_fixed (d : Device) (f : Transfers → Transfers) : (d.onXfer f).fixed = d.fixed := rfl
@[simp] theorem Device.onDistress_fixed (d : Device) (f : DistressUnit → DistressUnit) : (d.onDistress f).fixed = d.fixed := rfl
@[simp] theorem Device.onWeather_fixed (d : Device) (f : WeatherStore → WeatherStore) : (d.onWeather f).fixed = d.fixed := rfl
@[simp] theorem Device.onLog_fixed (d : Device) (f : CatchLog → CatchLog) : (d.onLog f).fixed = d.fixed := rfl
@[simp] theorem Device.onRep_fixed (d : Device) (f : ReportBuilder → ReportBuilder) : (d.onRep f).fixed = d.fixed := rfl

@[simp] theorem Device.reach_fixed (d : Device) (t : Time) :
    (Device.reach d t).fixed = d.fixed := by
  unfold Device.reach
  simp

@[simp] theorem Device.draw_fixed (d : Device) (lo hi : Nat) :
    (Device.draw d lo hi).2.fixed = d.fixed := by
  unfold Device.draw
  simp

@[simp] theorem Device.reserve_fixed (d : Device) (h : Holder) (size : Nat) :
    (Device.reserve d h size).2.fixed = d.fixed := by
  unfold Device.reserve
  simp

@[simp] theorem Device.writeText_fixed (d : Device) (id i : Nat) (syms : List Nat) :
    (Device.writeText d id i syms).fixed = d.fixed := by
  unfold Device.writeText
  simp

@[simp] theorem Device.onLane_fixed (d : Device) (n : LaneName) (f : Lane → Lane) :
    (Device.onLane d n f).fixed = d.fixed := by
  unfold Device.onLane
  split <;> simp

@[simp] theorem Device.queueEntry_fixed (d : Device) (n : LaneName) (e : Entry) :
    (Device.queueEntry d n e).fixed = d.fixed := by
  unfold Device.queueEntry
  split <;> simp

@[simp] theorem Device.addMark_fixed (d : Device) (n : LaneName) (r : OwedRef) :
    (Device.addMark d n r).fixed = d.fixed := by
  unfold Device.addMark
  simp

@[simp] theorem Device.dropMark_fixed (d : Device) (n : LaneName) (r : OwedRef) :
    (Device.dropMark d n r).fixed = d.fixed := by
  unfold Device.dropMark
  simp

@[simp] theorem Device.passMark_fixed (d : Device) (n : LaneName) (old new : OwedRef) :
    (Device.passMark d n old new).fixed = d.fixed := by
  unfold Device.passMark
  simp

@[simp] theorem Device.reportTagged_fixed (d : Device) (kind : ReportKind) (tag : Nat) (r : OwedRef) (data : List Datum) :
    (Device.reportTagged d kind tag r data).fixed = d.fixed := by
  unfold Device.reportTagged
  repeat' (first | with_reducible rfl | simp | split)

@[simp] theorem Device.report_fixed (d : Device) (kind : ReportKind) (r : OwedRef) (data : List Datum) :
    (Device.report d kind r data).fixed = d.fixed := by
  unfold Device.report
  simp

@[simp] theorem Device.reportOrLose_fixed (d : Device) (kind : ReportKind) (tag : Nat) (data : List Datum) :
    (Device.reportOrLose d kind tag data).2.fixed = d.fixed := by
  unfold Device.reportOrLose
  split <;> simp

@[simp] theorem Device.offer_fixed (d : Device) (it : Item) :
    (Device.offer d it).fixed = d.fixed := by
  unfold Device.offer
  simp

@[simp] theorem Device.withdraw_fixed (d : Device) (c : AccessClass) (p : Item → Bool) :
    (Device.withdraw d c p).fixed = d.fixed := by
  unfold Device.withdraw
  simp

@[simp] theorem Device.bumpAcksDropped_fixed (d : Device) :
    (Device.bumpAcksDropped d).fixed = d.fixed := by
  unfold Device.bumpAcksDropped
  simp

@[simp] theorem Device.offerAck_fixed (d : Device) (dest : Station) (num idx answer : Nat) (endTime : Time) :
    (Device.offerAck d dest num idx answer endTime).fixed = d.fixed := by
  unfold Device.offerAck
  repeat' (first | with_reducible rfl | simp | split)

@[simp] theorem Device.enterClear_fixed (d : Device) :
    (Device.enterClear d).fixed = d.fixed := by
  unfold Device.enterClear
  repeat' (first | with_reducible rfl | simp | split)

@[simp] theorem Device.leaveClear_fixed (d : Device) (ch : Channel) :
    (Device.leaveClear d ch).fixed = d.fixed := by
  unfold Device.leaveClear
  simp

@[simp] theorem Device.settleChannel_fixed (d : Device) :
    (Device.settleChannel d).fixed = d.fixed := by
  unfold Device.settleChannel
  repeat' (first | with_reducible rfl | simp | split)

@[simp] theorem Device.makeContender_fixed (d : Device) (c : AccessClass) (it : Item) :
    (Device.makeContender d c it).fixed = d.fixed := by
  unfold Device.makeContender
  repeat' (first | with_reducible rfl | simp | split)

@[simp] theorem Device.selectContender_fixed (d : Device) (c : AccessClass) :
    (Device.selectContender d c).fixed = d.fixed := by
  unfold Device.selectContender
  repeat' (first | with_reducible rfl | simp | split)

@[simp] theorem Device.selectAll_fixed (d : Device) :
    (Device.selectAll d).fixed = d.fixed := by
  unfold Device.selectAll
  exact foldl_fixed _ (fun _ _ => by simp) _ _

@[simp] theorem Device.refreshEligible_fixed (d : Device) :
    (Device.refreshEligible d).fixed = d.fixed := by
  unfold Device.refreshEligible
  exact foldl_fixed _ (fun _ _ => by simp) _ _

@[simp] theorem Device.countSlots_fixed (d : Device) :
    (Device.countSlots d).fixed = d.fixed := by
  unfold Device.countSlots
  exact foldl_fixed _ (fun _ _ => by simp) _ _

@[simp] theorem Device.onNeighbour_fixed (d : Device) (st : Station) (f : Neigh → Neigh) :
    (Device.onNeighbour d st f).fixed = d.fixed := by
  unfold Device.onNeighbour
  simp

@[simp] theorem Device.removeNeighbour_fixed (d : Device) (st : Station) :
    (Device.removeNeighbour d st).fixed = d.fixed := by
  unfold Device.removeNeighbour
  simp

@[simp] theorem Device.onNeighCounts_fixed (d : Device) (f : NeighCounts → NeighCounts) :
    (Device.onNeighCounts d f).fixed = d.fixed := by
  unfold Device.onNeighCounts
  simp

@[simp] theorem Device.headerFacts_fixed (d : Device) (st : Station) (score : Nat) (endTime : Time) :
    (Device.headerFacts d st score endTime).1.fixed = d.fixed := by
  unfold Device.headerFacts
  repeat' (first | with_reducible rfl | simp | split)

@[simp] theorem Device.goStale_fixed (d : Device) (st : Station) :
    (Device.goStale d st).1.fixed = d.fixed := by
  unfold Device.goStale
  repeat' (first | with_reducible rfl | simp | split)

@[simp] theorem Device.removeAtTime_fixed (d : Device) (st : Station) :
    (Device.removeAtTime d st).fixed = d.fixed := by
  unfold Device.removeAtTime
  split <;> simp

@[simp] theorem Device.removeUnpinned_fixed (d : Device) :
    (Device.removeUnpinned d).fixed = d.fixed := by
  unfold Device.removeUnpinned
  simp

@[simp] theorem Device.charge_fixed (d : Device) (st : Station) :
    (Device.charge d st).fixed = d.fixed := by
  unfold Device.charge
  simp

@[simp] theorem Device.avoid_fixed (d : Device) (st : Station) :
    (Device.avoid d st).fixed = d.fixed := by
  unfold Device.avoid
  simp

@[simp] theorem Device.avoidPassed_fixed (d : Device) (st : Station) :
    (Device.avoidPassed d st).1.fixed = d.fixed := by
  unfold Device.avoidPassed
  simp

@[simp] theorem Device.clearWilling_fixed (d : Device) (st : Station) :
    (Device.clearWilling d st).1.fixed = d.fixed := by
  unfold Device.clearWilling
  repeat' (first | with_reducible rfl | simp | split)

@[simp] theorem Device.beaconFacts_fixed (d : Device) (b : Burst) :
    (Device.beaconFacts d b).1.fixed = d.fixed := by
  unfold Device.beaconFacts
  repeat' (first | with_reducible rfl | simp | split)

@[simp] theorem Device.skipBeacon_fixed (d : Device) :
    (Device.skipBeacon d).fixed = d.fixed := by
  unfold Device.skipBeacon
  simp

@[simp] theorem Device.dropBeacon_fixed (d : Device) :
    (Device.dropBeacon d).fixed = d.fixed := by
  unfold Device.dropBeacon
  split <;> simp

@[simp] theorem Device.beaconFalls_fixed (d : Device) (due : Time) :
    (Device.beaconFalls d due).fixed = d.fixed := by
  unfold Device.beaconFalls
  repeat' (first | with_reducible rfl | simp | split)

@[simp] theorem Device.removeWait_fixed (d : Device) (k : WaitKind) (st num : Nat) :
    (Device.removeWait d k st num).fixed = d.fixed := by
  unfold Device.removeWait
  simp

@[simp] theorem Device.refuseWait_fixed (d : Device) :
    (Device.refuseWait d).fixed = d.fixed := by
  unfold Device.refuseWait
  simp

@[simp] theorem Device.addWait_fixed (d : Device) (k : WaitKind) (st num : Nat) :
    (Device.addWait d k st num).fixed = d.fixed := by
  unfold Device.addWait
  repeat' (first | with_reducible rfl | simp | split)

@[simp] theorem Device.startWait_fixed (d : Device) (k : WaitKind) (st num : Nat) :
    (Device.startWait d k st num).2.2.fixed = d.fixed := by
  unfold Device.startWait
  repeat' (first | with_reducible rfl | simp | split)

@[simp] theorem Device.onSlot_fixed (d : Device) (i : Nat) (f : Slot → Slot) :
    (Device.onSlot d i f).fixed = d.fixed := by
  unfold Device.onSlot
  simp

@[simp] theorem Device.onXferCounts_fixed (d : Device) (f : XferCounts → XferCounts) :
    (Device.onXferCounts d f).fixed = d.fixed := by
  unfold Device.onXferCounts
  simp

@[simp] theorem Device.takeSlot_fixed (d : Device) (i : Nat) (st : SlotState) (origin : Origin) (tag : Nat) (cls : MsgClass) (dest orig : Station) (grant : Option Nat) (len : Nat) :
    (Device.takeSlot d i st origin tag cls dest orig grant len).fixed = d.fixed := by
  unfold Device.takeSlot
  simp

@[simp] theorem Device.withdrawData_fixed (d : Device) (i : Nat) :
    (Device.withdrawData d i).fixed = d.fixed := by
  unfold Device.withdrawData
  simp

@[simp] theorem Device.goReady_fixed (d : Device) (i : Nat) :
    (Device.goReady d i).fixed = d.fixed := by
  unfold Device.goReady
  split <;> simp

@[simp] theorem Device.takeAnswer_fixed (d : Device) (i : Nat) (ans : Option Station) :
    (Device.takeAnswer d i ans).fixed = d.fixed := by
  unfold Device.takeAnswer
  repeat' (first | with_reducible rfl | simp | split)

@[simp] theorem Device.askRoute_fixed (d : Device) (i : Nat) :
    (Device.askRoute d i).fixed = d.fixed := by
  unfold Device.askRoute
  simp

@[simp] theorem Device.startRoute_fixed (d : Device) (i : Nat) :
    (Device.startRoute d i).fixed = d.fixed := by
  unfold Device.startRoute
  simp

@[simp] theorem Device.routeEvent_fixed (d : Device) (st : Station) :
    (Device.routeEvent d st).fixed = d.fixed := by
  unfold Device.routeEvent
  exact foldl_fixed _ (fun _ _ => by split <;> simp) _ _

@[simp] theorem Device.routeEvents_fixed (d : Device) (sts : List Station) :
    (Device.routeEvents d sts).fixed = d.fixed := by
  unfold Device.routeEvents
  exact foldl_fixed _ (fun _ _ => by simp) _ _

@[simp] theorem Device.refreshData_fixed (d : Device) :
    (Device.refreshData d).fixed = d.fixed := by
  unfold Device.refreshData
  repeat' (first | with_reducible rfl | simp | split)

@[simp] theorem Device.onLogCounts_fixed (d : Device) (f : LogCounts → LogCounts) :
    (Device.onLogCounts d f).fixed = d.fixed := by
  unfold Device.onLogCounts
  simp

@[simp] theorem Device.onHaul_fixed (d : Device) (i : Nat) (f : Haul → Haul) :
    (Device.onHaul d i f).fixed = d.fixed := by
  unfold Device.onHaul
  simp

@[simp] theorem Device.onCell_fixed (d : Device) (rect : Nat) (sp : Species) (f : TallyCell → TallyCell) :
    (Device.onCell d rect sp f).fixed = d.fixed := by
  unfold Device.onCell
  split <;> simp

@[simp] theorem Device.onQuota_fixed (d : Device) (sp : Species) (f : QuotaEntry → QuotaEntry) :
    (Device.onQuota d sp f).fixed = d.fixed := by
  unfold Device.onQuota
  simp

@[simp] theorem Device.reportQuota_fixed (d : Device) (sp : Species) (prev : Option QuotaState) (cause : Nat) :
    (Device.reportQuota d sp prev cause).fixed = d.fixed := by
  unfold Device.reportQuota
  repeat' (first | with_reducible rfl | simp | split)

@[simp] theorem Device.evaluateQuota_fixed (d : Device) (sp : Species) (cause : Nat) :
    (Device.evaluateQuota d sp cause).2.fixed = d.fixed := by
  unfold Device.evaluateQuota
  repeat' (first | with_reducible rfl | simp | split)

@[simp] theorem Device.onRepCounts_fixed (d : Device) (f : RepCounts → RepCounts) :
    (Device.onRepCounts d f).fixed = d.fixed := by
  unfold Device.onRepCounts
  simp

@[simp] theorem Device.reportCatchState_fixed (d : Device) (e : RepEvent) (minutes : Option Nat) :
    (Device.reportCatchState d e minutes).fixed = d.fixed := by
  unfold Device.reportCatchState
  simp

@[simp] theorem Device.reportCatchKind_fixed (d : Device) (e : RepEvent) (kind : ReportReason) :
    (Device.reportCatchKind d e kind).fixed = d.fixed := by
  unfold Device.reportCatchKind
  simp

@[simp] theorem Device.enterPending_fixed (d : Device) (kind : ReportReason) :
    (Device.enterPending d kind).fixed = d.fixed := by
  unfold Device.enterPending
  split <;> simp

@[simp] theorem Device.build_fixed (d : Device) (kind : ReportReason) (i : Nat) :
    (Device.build d kind i).fixed = d.fixed := by
  unfold Device.build
  repeat' (first | with_reducible rfl | simp | split)

@[simp] theorem Device.tryBuild_fixed (d : Device) (kind : ReportReason) :
    (Device.tryBuild d kind).fixed = d.fixed := by
  unfold Device.tryBuild
  repeat' (first | with_reducible rfl | simp | split)

@[simp] theorem Device.trigger_fixed (d : Device) (kind : ReportReason) :
    (Device.trigger d kind).fixed = d.fixed := by
  unfold Device.trigger
  split <;> simp

@[simp] theorem Device.buildPending_fixed (d : Device) :
    (Device.buildPending d).fixed = d.fixed := by
  unfold Device.buildPending
  split <;> simp

@[simp] theorem Device.slotFreed_fixed (d : Device) :
    (Device.slotFreed d).fixed = d.fixed := by
  unfold Device.slotFreed
  split <;> simp

@[simp] theorem Device.closeReport_fixed (d : Device) (e : Ending) :
    (Device.closeReport d e).fixed = d.fixed := by
  unfold Device.closeReport
  repeat' (first | with_reducible rfl | simp | split)

@[simp] theorem Device.countEnding_fixed (d : Device) (e : Ending) :
    (Device.countEnding d e).fixed = d.fixed := by
  unfold Device.countEnding
  simp

@[simp] theorem Device.endReport_fixed (d : Device) (e : Ending) (cause : Option LostCause) :
    (Device.endReport d e cause).fixed = d.fixed := by
  unfold Device.endReport
  simp

@[simp] theorem Device.catchOutcome_fixed (d : Device) (o : Outcome) :
    (Device.catchOutcome d o).fixed = d.fixed := by
  unfold Device.catchOutcome
  repeat' (first | with_reducible rfl | simp | split)

@[simp] theorem Device.removeReasm_fixed (d : Device) (src num : Nat) :
    (Device.removeReasm d src num).fixed = d.fixed := by
  unfold Device.removeReasm
  simp

@[simp] theorem Device.onReasm_fixed (d : Device) (src num : Nat) (f : Reasm → Reasm) :
    (Device.onReasm d src num f).fixed = d.fixed := by
  unfold Device.onReasm
  simp

@[simp] theorem Device.startRelay_fixed (d : Device) (i : Nat) (e : Reasm) :
    (Device.startRelay d i e).fixed = d.fixed := by
  unfold Device.startRelay
  simp

@[simp] theorem Device.handOverRelay_fixed (d : Device) (e : Reasm) :
    (Device.handOverRelay d e).fixed = d.fixed := by
  unfold Device.handOverRelay
  repeat' (first | with_reducible rfl | simp | split)

@[simp] theorem Device.retryHandOvers_fixed (d : Device) :
    (Device.retryHandOvers d).fixed = d.fixed := by
  unfold Device.retryHandOvers
  exact foldl_fixed _ (fun _ _ => by simp) _ _

@[simp] theorem Device.releaseOutbound_fixed (d : Device) (id : Nat) :
    (Device.releaseOutbound d id).fixed = d.fixed := by
  unfold Device.releaseOutbound
  simp

@[simp] theorem Device.releaseGrant_fixed (d : Device) (id : Nat) :
    (Device.releaseGrant d id).fixed = d.fixed := by
  unfold Device.releaseGrant
  simp

@[simp] theorem Device.freeSlot_fixed (d : Device) (i : Nat) :
    (Device.freeSlot d i).fixed = d.fixed := by
  unfold Device.freeSlot
  simp

@[simp] theorem Device.discardReasm_fixed (d : Device) (e : Reasm) :
    (Device.discardReasm d e).fixed = d.fixed := by
  unfold Device.discardReasm
  split <;> simp

@[simp] theorem Device.countOutcome_fixed (d : Device) (o : Outcome) :
    (Device.countOutcome d o).fixed = d.fixed := by
  unfold Device.countOutcome
  simp

@[simp] theorem Device.endTransfer_fixed (d : Device) (i : Nat) (o : Outcome) :
    (Device.endTransfer d i o).fixed = d.fixed := by
  unfold Device.endTransfer
  repeat' (first | with_reducible rfl | simp | split)

@[simp] theorem Device.startConsole_fixed (d : Device) (i : Nat) :
    (Device.startConsole d i).fixed = d.fixed := by
  unfold Device.startConsole
  split <;> simp

@[simp] theorem Device.hopFails_fixed (d : Device) (i : Nat) :
    (Device.hopFails d i).fixed = d.fixed := by
  unfold Device.hopFails
  repeat' (first | with_reducible rfl | simp | split)

@[simp] theorem Device.leaveAck_fixed (d : Device) (i : Nat) :
    (Device.leaveAck d i).fixed = d.fixed := by
  unfold Device.leaveAck
  simp

@[simp] theorem Device.takeTimeout_fixed (d : Device) (i : Nat) :
    (Device.takeTimeout d i).fixed = d.fixed := by
  unfold Device.takeTimeout
  dsimp only
  repeat' (first
    | with_reducible rfl
    | simp
    | (refine (foldl_fixed _ ?_ _ _).trans ?_; intro _ _)
    | (refine (Device.orPending_fixed _ _ _ ?_ ?_).trans ?_; intro _)
    | split
    | exact (by simpa using (congrArg (fun x => x.2.fixed) ‹_ = (_, _)›).symm)
    | exact (by simpa using (congrArg (fun x => x.1.fixed) ‹_ = (_, _)›).symm)
    | exact (by simpa using (congrArg (fun x => x.2.2.fixed) ‹_ = (_, _, _)›).symm))

@[simp] theorem Device.takeAccepted_fixed (d : Device) (i : Nat) :
    (Device.takeAccepted d i).fixed = d.fixed := by
  unfold Device.takeAccepted
  dsimp only
  repeat' (first
    | with_reducible rfl
    | simp
    | (refine (foldl_fixed _ ?_ _ _).trans ?_; intro _ _)
    | (refine (Device.orPending_fixed _ _ _ ?_ ?_).trans ?_; intro _)
    | split
    | exact (by simpa using (congrArg (fun x => x.2.fixed) ‹_ = (_, _)›).symm)
    | exact (by simpa using (congrArg (fun x => x.1.fixed) ‹_ = (_, _)›).symm)
    | exact (by simpa using (congrArg (fun x => x.2.2.fixed) ‹_ = (_, _, _)›).symm))

@[simp] theorem Device.takeFull_fixed (d : Device) (i : Nat) :
    (Device.takeFull d i).fixed = d.fixed := by
  unfold Device.takeFull
  dsimp only
  repeat' (first
    | with_reducible rfl
    | simp
    | (refine (foldl_fixed _ ?_ _ _).trans ?_; intro _ _)
    | (refine (Device.orPending_fixed _ _ _ ?_ ?_).trans ?_; intro _)
    | split
    | exact (by simpa using (congrArg (fun x => x.2.fixed) ‹_ = (_, _)›).symm)
    | exact (by simpa using (congrArg (fun x => x.1.fixed) ‹_ = (_, _)›).symm)
    | exact (by simpa using (congrArg (fun x => x.2.2.fixed) ‹_ = (_, _, _)›).symm))

@[simp] theorem Device.takeNoRelay_fixed (d : Device) (i : Nat) :
    (Device.takeNoRelay d i).fixed = d.fixed := by
  unfold Device.takeNoRelay
  dsimp only
  repeat' (first
    | with_reducible rfl
    | simp
    | (refine (foldl_fixed _ ?_ _ _).trans ?_; intro _ _)
    | (refine (Device.orPending_fixed _ _ _ ?_ ?_).trans ?_; intro _)
    | split
    | exact (by simpa using (congrArg (fun x => x.2.fixed) ‹_ = (_, _)›).symm)
    | exact (by simpa using (congrArg (fun x => x.1.fixed) ‹_ = (_, _)›).symm)
    | exact (by simpa using (congrArg (fun x => x.2.2.fixed) ‹_ = (_, _, _)›).symm))

@[simp] theorem Device.takeUnknown_fixed (d : Device) (i : Nat) :
    (Device.takeUnknown d i).fixed = d.fixed := by
  unfold Device.takeUnknown
  dsimp only
  repeat' (first
    | with_reducible rfl
    | simp
    | (refine (foldl_fixed _ ?_ _ _).trans ?_; intro _ _)
    | (refine (Device.orPending_fixed _ _ _ ?_ ?_).trans ?_; intro _)
    | split
    | exact (by simpa using (congrArg (fun x => x.2.fixed) ‹_ = (_, _)›).symm)
    | exact (by simpa using (congrArg (fun x => x.1.fixed) ‹_ = (_, _)›).symm)
    | exact (by simpa using (congrArg (fun x => x.2.2.fixed) ‹_ = (_, _, _)›).symm))

@[simp] theorem Device.receiveAck_fixed (d : Device) (b : Burst) :
    (Device.receiveAck d b).fixed = d.fixed := by
  unfold Device.receiveAck
  repeat' (first | with_reducible rfl | simp | split)

@[simp] theorem Device.takeWaitingTimeout_fixed (d : Device) :
    (Device.takeWaitingTimeout d).fixed = d.fixed := by
  unfold Device.takeWaitingTimeout
  repeat' (first | with_reducible rfl | simp | split)

@[simp] theorem Device.dataKeyed_fixed (d : Device) (i : Nat) :
    (Device.dataKeyed d i).fixed = d.fixed := by
  unfold Device.dataKeyed
  simp

@[simp] theorem Device.goHeld_fixed (d : Device) (i : Nat) (from' : SlotState) :
    (Device.goHeld d i from').fixed = d.fixed := by
  unfold Device.goHeld
  exact Device.orPending_fixed _ _ _ (fun _ => by simp) (by simp)

@[simp] theorem Device.dataSent_fixed (d : Device) (i : Nat) :
    (Device.dataSent d i).fixed = d.fixed := by
  unfold Device.dataSent
  repeat' (first | with_reducible rfl | simp | split)

@[simp] theorem Device.dataAborted_fixed (d : Device) (i : Nat) :
    (Device.dataAborted d i).fixed = d.fixed := by
  unfold Device.dataAborted
  split
  · split
    · simp
    · exact (Device.orPending_fixed _ _ _ (fun _ => by simp) (by simp)).trans (by simp)
  · rfl

@[simp] theorem Device.askEnding_fixed (d : Device) (i : Nat) (o : Outcome) :
    (Device.askEnding d i o).fixed = d.fixed := by
  unfold Device.askEnding
  repeat' (first | with_reducible rfl | simp | split)

@[simp] theorem Device.voidSubmit_fixed (d : Device) :
    (Device.voidSubmit d).fixed = d.fixed := by
  unfold Device.voidSubmit
  split <;> simp

@[simp] theorem Device.holdTransfers_fixed (d : Device) :
    (Device.holdTransfers d).fixed = d.fixed := by
  unfold Device.holdTransfers
  dsimp only
  repeat' (first
    | with_reducible rfl
    | simp
    | (refine (foldl_fixed _ ?_ _ _).trans ?_; intro _ _)
    | (refine (Device.orPending_fixed _ _ _ ?_ ?_).trans ?_; intro _)
    | split
    | exact (by simpa using (congrArg (fun x => x.2.fixed) ‹_ = (_, _)›).symm)
    | exact (by simpa using (congrArg (fun x => x.1.fixed) ‹_ = (_, _)›).symm)
    | exact (by simpa using (congrArg (fun x => x.2.2.fixed) ‹_ = (_, _, _)›).symm))

@[simp] theorem Device.unhold_fixed (d : Device) (i : Nat) :
    (Device.unhold d i).fixed = d.fixed := by
  unfold Device.unhold
  repeat' (first | with_reducible rfl | simp | split)

@[simp] theorem Device.unholdTransfers_fixed (d : Device) :
    (Device.unholdTransfers d).fixed = d.fixed := by
  unfold Device.unholdTransfers
  exact foldl_fixed _ (fun _ _ => by simp) _ _

@[simp] theorem Device.flushTransfers_fixed (d : Device) :
    (Device.flushTransfers d).fixed = d.fixed := by
  unfold Device.flushTransfers
  dsimp only
  repeat' (first
    | with_reducible rfl
    | simp
    | (refine (foldl_fixed _ ?_ _ _).trans ?_; intro _ _)
    | (refine (Device.orPending_fixed _ _ _ ?_ ?_).trans ?_; intro _)
    | split
    | exact (by simpa using (congrArg (fun x => x.2.fixed) ‹_ = (_, _)›).symm)
    | exact (by simpa using (congrArg (fun x => x.1.fixed) ‹_ = (_, _)›).symm)
    | exact (by simpa using (congrArg (fun x => x.2.2.fixed) ‹_ = (_, _, _)›).symm))

@[simp] theorem Device.onWeatherCounts_fixed (d : Device) (f : WeatherCounts → WeatherCounts) :
    (Device.onWeatherCounts d f).fixed = d.fixed := by
  unfold Device.onWeatherCounts
  simp

@[simp] theorem Device.onForecast_fixed (d : Device) (area : Nat) (complete : Bool) (f : Forecast → Forecast) :
    (Device.onForecast d area complete f).fixed = d.fixed := by
  unfold Device.onForecast
  simp

@[simp] theorem Device.freeForecast_fixed (d : Device) (f : Forecast) :
    (Device.freeForecast d f).fixed = d.fixed := by
  unfold Device.freeForecast
  simp

@[simp] theorem Device.forecastRoom_fixed (d : Device) (area size : Nat) (a0 : Nat) :
    (Device.forecastRoom d area size a0).2.fixed = d.fixed := by
  induction a0 generalizing d with
  | zero => rfl
  | succ n ih =>
    unfold Device.forecastRoom
    split <;> rename_i r e h
    have h2 : e.fixed = d.fixed := by
      have h3 := congrArg (fun x => x.2.fixed) h
      split at h3 <;> simpa using h3.symm
    split
    · exact h2
    · split
      · exact h2
      · exact (ih _).trans (by simp [h2])

@[simp] theorem Device.storePart_fixed (d : Device) (f : Forecast) (h : ForecastHeader) (b : Burst) :
    (Device.storePart d f h b).fixed = d.fixed := by
  unfold Device.storePart
  simp

@[simp] theorem Device.completeForecast_fixed (d : Device) (area : Nat) :
    (Device.completeForecast d area).fixed = d.fixed := by
  unfold Device.completeForecast
  repeat' (first | with_reducible rfl | simp | split)

@[simp] theorem Device.countNotBetter_fixed (d : Device) :
    (Device.countNotBetter d).fixed = d.fixed := by
  unfold Device.countNotBetter
  simp

@[simp] theorem Device.partToCollecting_fixed (d : Device) (f : Forecast) (h : ForecastHeader) (b : Burst) :
    (Device.partToCollecting d f h b).fixed = d.fixed := by
  unfold Device.partToCollecting
  split <;> simp

@[simp] theorem Device.partToComplete_fixed (d : Device) (f : Forecast) (h : ForecastHeader) (b : Burst) :
    (Device.partToComplete d f h b).fixed = d.fixed := by
  unfold Device.partToComplete
  repeat' (first | with_reducible rfl | simp | split)

@[simp] theorem Device.partTo_fixed (d : Device) (f : Forecast) (h : ForecastHeader) (b : Burst) :
    (Device.partTo d f h b).fixed = d.fixed := by
  unfold Device.partTo
  repeat' (first | with_reducible rfl | simp | split)

@[simp] theorem Device.countStale_fixed (d : Device) :
    (Device.countStale d).fixed = d.fixed := by
  unfold Device.countStale
  simp

@[simp] theorem Device.openCollection_fixed (d : Device) (h : ForecastHeader) (b : Burst) (old : Option Forecast) :
    (Device.openCollection d h b old).fixed = d.fixed := by
  unfold Device.openCollection
  split
  · simp
  · dsimp only
    split <;> rename_i h <;> have h2 := congrArg (fun x => x.2.fixed) h <;> simp at h2 <;> simp [← h2] <;> split <;> simp

@[simp] theorem Device.placePart_fixed (d : Device) (h : ForecastHeader) (b : Burst) :
    (Device.placePart d h b).fixed = d.fixed := by
  unfold Device.placePart
  repeat' (first | with_reducible rfl | simp | split)

@[simp] theorem Device.countMalformed_fixed (d : Device) :
    (Device.countMalformed d).fixed = d.fixed := by
  unfold Device.countMalformed
  simp

@[simp] theorem Device.countHeaderErasure_fixed (d : Device) :
    (Device.countHeaderErasure d).fixed = d.fixed := by
  unfold Device.countHeaderErasure
  simp

@[simp] theorem Device.countForeign_fixed (d : Device) :
    (Device.countForeign d).fixed = d.fixed := by
  unfold Device.countForeign
  simp

@[simp] theorem Device.receiveForecast_fixed (d : Device) (b : Burst) :
    (Device.receiveForecast d b).fixed = d.fixed := by
  unfold Device.receiveForecast
  repeat' (first | with_reducible rfl | simp | split)

@[simp] theorem Device.expireForecast_fixed (d : Device) (f : Forecast) :
    (Device.expireForecast d f).fixed = d.fixed := by
  unfold Device.expireForecast
  simp

@[simp] theorem Device.discardForecast_fixed (d : Device) (f : Forecast) :
    (Device.discardForecast d f).fixed = d.fixed := by
  unfold Device.discardForecast
  simp

@[simp] theorem Device.onWarning_fixed (d : Device) (issuer issue : Nat) (f : Warning → Warning) :
    (Device.onWarning d issuer issue f).fixed = d.fixed := by
  unfold Device.onWarning
  simp

@[simp] theorem Device.lostWeatherReport_fixed (d : Device) :
    (Device.lostWeatherReport d).fixed = d.fixed := by
  unfold Device.lostWeatherReport
  simp

@[simp] theorem Device.freeWarning_fixed (d : Device) (w : Warning) :
    (Device.freeWarning d w).fixed = d.fixed := by
  unfold Device.freeWarning
  repeat' (first | with_reducible rfl | simp | split)

@[simp] theorem Device.reportWarning_fixed (d : Device) (w : Warning) (event : Nat) :
    (Device.reportWarning d w event).fixed = d.fixed := by
  unfold Device.reportWarning
  simp

@[simp] theorem Device.warningNotStored_fixed (d : Device) (w : Warning) :
    (Device.warningNotStored d w).fixed = d.fixed := by
  unfold Device.warningNotStored
  try dsimp only
  split <;> rename_i h <;> have h2 := congrArg (fun x => x.2.fixed) h <;> simp at h2 <;> simp [← h2]

@[simp] theorem Device.storeWarning_fixed (d : Device) (h : WarningHeader) (sev : Severity) (b : Burst) :
    (Device.storeWarning d h sev b).fixed = d.fixed := by
  unfold Device.storeWarning
  dsimp only
  split
  · rename_i h
    have h2 := congrArg (fun x => x.2.fixed) h
    simp only [Device.reserve_fixed] at h2
    simp [h2]
  · rename_i h
    have h2 := congrArg (fun x => x.2.fixed) h
    simp only [Device.reserve_fixed] at h2
    simp [h2]

@[simp] theorem Device.improveWarning_fixed (d : Device) (old : Warning) (h : WarningHeader) (sev : Severity) (b : Burst) :
    (Device.improveWarning d old h sev b).fixed = d.fixed := by
  unfold Device.improveWarning
  dsimp only
  split
  · simp
  · split <;> rename_i h <;> have h2 := congrArg (fun x => x.2.fixed) h <;> simp at h2 <;> simp [← h2]

@[simp] theorem Device.newWarning_fixed (d : Device) (h : WarningHeader) (sev : Severity) (b : Burst) :
    (Device.newWarning d h sev b).fixed = d.fixed := by
  unfold Device.newWarning
  repeat' (first | with_reducible rfl | simp | split)

@[simp] theorem Device.examineWarning_fixed (d : Device) (issuer issue : Nat) (b : Burst) :
    (Device.examineWarning d issuer issue b).fixed = d.fixed := by
  unfold Device.examineWarning
  split
  · rfl
  · split
    · split <;> rename_i h <;> have h2 := congrArg (fun x => x.2.2.fixed) h <;> simp at h2 <;> simp [← h2]
    · rfl

@[simp] theorem Device.suppressWarning_fixed (d : Device) (issuer issue : Nat) :
    (Device.suppressWarning d issuer issue).fixed = d.fixed := by
  unfold Device.suppressWarning
  repeat' (first | with_reducible rfl | simp | split)

@[simp] theorem Device.warningRelayHeard_fixed (d : Device) (issuer issue : Nat) :
    (Device.warningRelayHeard d issuer issue).fixed = d.fixed := by
  unfold Device.warningRelayHeard
  split <;> simp

@[simp] theorem Device.applyWarning_fixed (d : Device) (h : WarningHeader) (sev : Severity) (b : Burst) :
    (Device.applyWarning d h sev b).fixed = d.fixed := by
  unfold Device.applyWarning
  repeat' (first | with_reducible rfl | simp | split)

@[simp] theorem Device.receiveWarning_fixed (d : Device) (b : Burst) :
    (Device.receiveWarning d b).fixed = d.fixed := by
  unfold Device.receiveWarning
  repeat' (first | with_reducible rfl | simp | split)

@[simp] theorem Device.offerWarning_fixed (d : Device) (issuer issue : Nat) :
    (Device.offerWarning d issuer issue).fixed = d.fixed := by
  unfold Device.offerWarning
  split <;> simp

@[simp] theorem Device.warningSent_fixed (d : Device) (issuer issue : Nat) :
    (Device.warningSent d issuer issue).fixed = d.fixed := by
  unfold Device.warningSent
  simp

@[simp] theorem Device.warningAborted_fixed (d : Device) (it : Item) (issuer issue : Nat) :
    (Device.warningAborted d it issuer issue).fixed = d.fixed := by
  unfold Device.warningAborted
  repeat' (first | with_reducible rfl | simp | split)

@[simp] theorem Device.computeTimes_fixed (d : Device) :
    (Device.computeTimes d).fixed = d.fixed := by
  unfold Device.computeTimes
  simp

@[simp] theorem Device.reachValidity_fixed (d : Device) :
    (Device.reachValidity d).fixed = d.fixed := by
  unfold Device.reachValidity
  dsimp only
  repeat' (first
    | with_reducible rfl
    | simp
    | (refine (foldl_fixed _ ?_ _ _).trans ?_; intro _ _)
    | (refine (Device.orPending_fixed _ _ _ ?_ ?_).trans ?_; intro _)
    | split
    | exact (by simpa using (congrArg (fun x => x.2.fixed) ‹_ = (_, _)›).symm)
    | exact (by simpa using (congrArg (fun x => x.1.fixed) ‹_ = (_, _)›).symm)
    | exact (by simpa using (congrArg (fun x => x.2.2.fixed) ‹_ = (_, _, _)›).symm))

@[simp] theorem Device.onMonitor_fixed (d : Device) (m : MonitorId) (f : Monitor → Monitor) :
    (Device.onMonitor d m f).fixed = d.fixed := by
  unfold Device.onMonitor
  simp

@[simp] theorem Device.reportMonitor_fixed (d : Device) (m : MonitorId) (prev : MonState) (cause : ProtCause) (keyTime : Nat) :
    (Device.reportMonitor d m prev cause keyTime).fixed = d.fixed := by
  unfold Device.reportMonitor
  repeat' (first | with_reducible rfl | simp | split)

@[simp] theorem Device.moveMonitor_fixed (d : Device) (m : MonitorId) (st : MonState) (run : Nat) (cause : ProtCause) (keyTime : Nat) :
    (Device.moveMonitor d m st run cause keyTime).fixed = d.fixed := by
  unfold Device.moveMonitor
  simp

@[simp] theorem Device.tripMonitor_fixed (d : Device) (m : MonitorId) :
    (Device.tripMonitor d m).fixed = d.fixed := by
  unfold Device.tripMonitor
  repeat' (first | with_reducible rfl | simp | split)

@[simp] theorem Device.sampleMonitor_fixed (d : Device) (m : MonitorId) (active : Bool) :
    (Device.sampleMonitor d m active).2.fixed = d.fixed := by
  unfold Device.sampleMonitor
  repeat' (first | with_reducible rfl | simp | split)

@[simp] theorem Device.sampleKeytime_fixed (d : Device) :
    (Device.sampleKeytime d).fixed = d.fixed := by
  unfold Device.sampleKeytime
  split <;> simp

@[simp] theorem Device.afterInhibit_fixed (before : Bool) (d : Device) :
    (Device.afterInhibit before d).fixed = d.fixed := by
  unfold Device.afterInhibit
  split <;> simp

@[simp] theorem Device.tripKeytime_fixed (d : Device) (keyTime : Nat) :
    (Device.tripKeytime d keyTime).fixed = d.fixed := by
  unfold Device.tripKeytime
  repeat' (first | with_reducible rfl | simp | split)

@[simp] theorem Device.recoverMonitor_fixed (d : Device) (m : MonitorId) :
    (Device.recoverMonitor d m).fixed = d.fixed := by
  unfold Device.recoverMonitor
  simp

@[simp] theorem Device.recoverAll_fixed (d : Device) :
    (Device.recoverAll d).fixed = d.fixed := by
  unfold Device.recoverAll
  dsimp only
  repeat' (first
    | with_reducible rfl
    | simp
    | (refine (foldl_fixed _ ?_ _ _).trans ?_; intro _ _)
    | (refine (Device.orPending_fixed _ _ _ ?_ ?_).trans ?_; intro _)
    | split
    | exact (by simpa using (congrArg (fun x => x.2.fixed) ‹_ = (_, _)›).symm)
    | exact (by simpa using (congrArg (fun x => x.1.fixed) ‹_ = (_, _)›).symm)
    | exact (by simpa using (congrArg (fun x => x.2.2.fixed) ‹_ = (_, _, _)›).symm))

@[simp] theorem Device.endAlerts_fixed (d : Device) (keyTime : Nat) (limit : Bool) :
    (Device.endAlerts d keyTime limit).fixed = d.fixed := by
  unfold Device.endAlerts
  exact foldl_fixed _ (fun _ _ => by split <;> simp) _ _

@[simp] theorem Device.endRests_fixed (d : Device) :
    (Device.endRests d).fixed = d.fixed := by
  unfold Device.endRests
  simp

@[simp] theorem Device.dropKey_fixed (d : Device) (limit : Bool) :
    (Device.dropKey d limit).fixed = d.fixed := by
  unfold Device.dropKey
  simp

@[simp] theorem Device.reportLoop_fixed (d : Device) (k : LoopKept) :
    (Device.reportLoop d k).fixed = d.fixed := by
  unfold Device.reportLoop
  simp

@[simp] theorem Device.leaveLoop_fixed (d : Device) :
    (Device.leaveLoop d).fixed = d.fixed := by
  unfold Device.leaveLoop
  split <;> simp

@[simp] theorem Device.abandonLoop_fixed (d : Device) :
    (Device.abandonLoop d).fixed = d.fixed := by
  unfold Device.abandonLoop
  split <;> simp

@[simp] theorem Device.startLoop_fixed (d : Device) :
    (Device.startLoop d).fixed = d.fixed := by
  unfold Device.startLoop
  simp

@[simp] theorem Device.onDistressCounts_fixed (d : Device) (f : DistressCounts → DistressCounts) :
    (Device.onDistressCounts d f).fixed = d.fixed := by
  unfold Device.onDistressCounts
  simp

@[simp] theorem Device.onOwn_fixed (d : Device) (f : OwnAlert → OwnAlert) :
    (Device.onOwn d f).fixed = d.fixed := by
  unfold Device.onOwn
  simp

@[simp] theorem Device.startHold_fixed (d : Device) (cause : Nat) (st : Station) :
    (Device.startHold d cause st).fixed = d.fixed := by
  unfold Device.startHold
  repeat' (first | with_reducible rfl | simp | split)

@[simp] theorem Device.restartHold_fixed (d : Device) (cause : Nat) (st : Station) :
    (Device.restartHold d cause st).fixed = d.fixed := by
  unfold Device.restartHold
  repeat' (first | with_reducible rfl | simp | split)

@[simp] theorem Device.cutHold_fixed (d : Device) :
    (Device.cutHold d).fixed = d.fixed := by
  unfold Device.cutHold
  simp

@[simp] theorem Device.releaseHeldWaits_fixed (d : Device) :
    (Device.releaseHeldWaits d).fixed = d.fixed := by
  unfold Device.releaseHeldWaits
  exact foldl_fixed _ (fun _ _ => by simp) _ _

@[simp] theorem Device.resumeDeadline_fixed (d : Device) :
    (Device.resumeDeadline d).fixed = d.fixed := by
  unfold Device.resumeDeadline
  repeat' (first | with_reducible rfl | simp | split)

@[simp] theorem Device.endHold_fixed (d : Device) :
    (Device.endHold d).fixed = d.fixed := by
  unfold Device.endHold
  simp

@[simp] theorem Device.placeOwn_fixed (d : Device) :
    (Device.placeOwn d).fixed = d.fixed := by
  unfold Device.placeOwn
  simp

@[simp] theorem Device.onCase_fixed (d : Device) (st : Station) (f : Case → Case) :
    (Device.onCase d st f).fixed = d.fixed := by
  unfold Device.onCase
  simp

@[simp] theorem Device.accountAbort_fixed (d : Device) (it : Item) (r : AbortReason) :
    (Device.accountAbort d it r).fixed = d.fixed := by
  unfold Device.accountAbort
  repeat' (first | with_reducible rfl | simp | split)

@[simp] theorem Device.abortBurst_fixed (d : Device) (r : AbortReason) :
    (Device.abortBurst d r).fixed = d.fixed := by
  unfold Device.abortBurst
  split <;> simp

@[simp] theorem Device.reportOwn_fixed (d : Device) (e : OwnEvent) :
    (Device.reportOwn d e).fixed = d.fixed := by
  unfold Device.reportOwn
  simp

@[simp] theorem Device.reportOwnHeard_fixed (d : Device) (e : OwnEvent) (num : Nat) (st : Station) :
    (Device.reportOwnHeard d e num st).fixed = d.fixed := by
  unfold Device.reportOwnHeard
  simp

@[simp] theorem Device.offerOwn_fixed (d : Device) :
    (Device.offerOwn d).fixed = d.fixed := by
  unfold Device.offerOwn
  repeat' (first | with_reducible rfl | simp | split)

@[simp] theorem Device.cutIfQuiet_fixed (d : Device) :
    (Device.cutIfQuiet d).fixed = d.fixed := by
  unfold Device.cutIfQuiet
  split <;> simp

@[simp] theorem Device.ownDistressSent_fixed (d : Device) :
    (Device.ownDistressSent d).fixed = d.fixed := by
  unfold Device.ownDistressSent
  repeat' (first | with_reducible rfl | simp | split)

@[simp] theorem Device.ownCancelSent_fixed (d : Device) :
    (Device.ownCancelSent d).fixed = d.fixed := by
  unfold Device.ownCancelSent
  repeat' (first | with_reducible rfl | simp | split)

@[simp] theorem Device.ownAcknowledged_fixed (d : Device) (b : Burst) :
    (Device.ownAcknowledged d b).fixed = d.fixed := by
  unfold Device.ownAcknowledged
  repeat' (first | with_reducible rfl | simp | split)

@[simp] theorem Device.reportCase_fixed (d : Device) (st : Station) (e : CaseEvent) :
    (Device.reportCase d st e).fixed = d.fixed := by
  unfold Device.reportCase
  split <;> simp

@[simp] theorem Device.dropCaseTraffic_fixed (d : Device) (st alert : Nat) :
    (Device.dropCaseTraffic d st alert).fixed = d.fixed := by
  unfold Device.dropCaseTraffic
  repeat' (first | with_reducible rfl | simp | split)

@[simp] theorem Device.closeCase_fixed (d : Device) (c : Case) (r : CloseReason) :
    (Device.closeCase d c r).fixed = d.fixed := by
  unfold Device.closeCase
  simp

@[simp] theorem Device.freeCase_fixed (d : Device) (c : Case) (new : Station) :
    (Device.freeCase d c new).fixed = d.fixed := by
  unfold Device.freeCase
  split <;> simp

@[simp] theorem Device.distressHeard_fixed (d : Device) (st alert : Nat) (facts : Option DistressFacts) (via : Option Station) :
    (Device.distressHeard d st alert facts via).fixed = d.fixed := by
  unfold Device.distressHeard
  simp

@[simp] theorem Device.applyAlert_fixed (d : Device) (st alert : Nat) (facts : Option DistressFacts) (via : Option Station) :
    (Device.applyAlert d st alert facts via).fixed = d.fixed := by
  unfold Device.applyAlert
  repeat' (first | with_reducible rfl | simp | split)

@[simp] theorem Device.examineCase_fixed (d : Device) (st : Station) :
    (Device.examineCase d st).fixed = d.fixed := by
  unfold Device.examineCase
  repeat' (first | with_reducible rfl | simp | split)

@[simp] theorem Device.settledFull_fixed (d : Device) :
    (Device.settledFull d).fixed = d.fixed := by
  unfold Device.settledFull
  simp

@[simp] theorem Device.enterSettled_fixed (d : Device) (st alert : Nat) :
    (Device.enterSettled d st alert).fixed = d.fixed := by
  unfold Device.enterSettled
  repeat' (first | with_reducible rfl | simp | split)

@[simp] theorem Device.suppressRelay_fixed (d : Device) (st alert : Nat) :
    (Device.suppressRelay d st alert).fixed = d.fixed := by
  unfold Device.suppressRelay
  simp

@[simp] theorem Device.distressRelayHeard_fixed (d : Device) (st alert : Nat) :
    (Device.distressRelayHeard d st alert).fixed = d.fixed := by
  unfold Device.distressRelayHeard
  repeat' (first | with_reducible rfl | simp | split)

@[simp] theorem Device.distressAckHeard_fixed (d : Device) (st : Station) (b : Burst) :
    (Device.distressAckHeard d st b).fixed = d.fixed := by
  unfold Device.distressAckHeard
  repeat' (first | with_reducible rfl | simp | split)

@[simp] theorem Device.cancelHeard_fixed (d : Device) (b : Burst) (readable : Bool) :
    (Device.cancelHeard d b readable).fixed = d.fixed := by
  unfold Device.cancelHeard
  repeat' (first | with_reducible rfl | simp | split)

@[simp] theorem Device.acknowledgeCase_fixed (d : Device) (c : Case) :
    (Device.acknowledgeCase d c).fixed = d.fixed := by
  unfold Device.acknowledgeCase
  split <;> simp

@[simp] theorem Device.caseAckSent_fixed (d : Device) (st alert : Nat) :
    (Device.caseAckSent d st alert).fixed = d.fixed := by
  unfold Device.caseAckSent
  simp

@[simp] theorem Device.caseRelayKeyed_fixed (d : Device) (st alert : Nat) :
    (Device.caseRelayKeyed d st alert).fixed = d.fixed := by
  unfold Device.caseRelayKeyed
  simp

@[simp] theorem Device.caseRelaySent_fixed (d : Device) (st alert : Nat) :
    (Device.caseRelaySent d st alert).fixed = d.fixed := by
  unfold Device.caseRelaySent
  repeat' (first | with_reducible rfl | simp | split)

@[simp] theorem Device.offerRelay_fixed (d : Device) (st alert : Nat) :
    (Device.offerRelay d st alert).fixed = d.fixed := by
  unfold Device.offerRelay
  repeat' (first | with_reducible rfl | simp | split)

@[simp] theorem Device.ownNamed_fixed (d : Device) (b : Burst) :
    (Device.ownNamed d b).fixed = d.fixed := by
  unfold Device.ownNamed
  repeat' (first | with_reducible rfl | simp | split)

@[simp] theorem Device.receiveDistress_fixed (d : Device) (b : Burst) :
    (Device.receiveDistress d b).fixed = d.fixed := by
  unfold Device.receiveDistress
  repeat' (first | with_reducible rfl | simp | split)

@[simp] theorem Device.burstSent_fixed (d : Device) (it : Item) :
    (Device.burstSent d it).fixed = d.fixed := by
  unfold Device.burstSent
  repeat' (first | with_reducible rfl | simp | split)

@[simp] theorem Device.burstKeyed_fixed (d : Device) (it : Item) :
    (Device.burstKeyed d it).fixed = d.fixed := by
  unfold Device.burstKeyed
  split <;> simp

@[simp] theorem Device.lostRepReport_fixed (d : Device) :
    (Device.lostRepReport d).fixed = d.fixed := by
  unfold Device.lostRepReport
  simp

@[simp] theorem Device.reportNotice_fixed (d : Device) (k : ReportKind) (data : List Datum) :
    (Device.reportNotice d k data).fixed = d.fixed := by
  unfold Device.reportNotice
  try dsimp only
  split <;> rename_i h <;> have h2 := congrArg (fun x => x.2.fixed) h <;> simp at h2 <;> simp [← h2]

@[simp] theorem Device.rejectNotice_fixed (d : Device) (cls : Nat) (orig : Station) (reason : Nat) :
    (Device.rejectNotice d cls orig reason).fixed = d.fixed := by
  unfold Device.rejectNotice
  simp

@[simp] theorem Device.lateReceipt_fixed (d : Device) (num result : Nat) :
    (Device.lateReceipt d num result).fixed = d.fixed := by
  unfold Device.lateReceipt
  simp

@[simp] theorem Device.judgeReceipt_fixed (d : Device) (num result : Nat) :
    (Device.judgeReceipt d num result).fixed = d.fixed := by
  unfold Device.judgeReceipt
  repeat' (first | with_reducible rfl | simp | split)

@[simp] theorem Device.receipt_fixed (d : Device) (m : Message) :
    (Device.receipt d m).fixed = d.fixed := by
  unfold Device.receipt
  repeat' (first | with_reducible rfl | simp | split)

@[simp] theorem Device.removeQuota_fixed (d : Device) (q : QuotaEntry) :
    (Device.removeQuota d q).fixed = d.fixed := by
  unfold Device.removeQuota
  try dsimp only
  split <;> rename_i h <;> have h2 := congrArg (fun x => x.2.fixed) h <;> simp at h2 <;> simp [← h2]

@[simp] theorem Device.applyEntry_fixed (x : Device × NoticeTally) (e : NoticeEntry) :
    (Device.applyEntry x e).1.fixed = x.1.fixed := by
  unfold Device.applyEntry
  repeat' (first | with_reducible rfl | simp | split)

@[simp] theorem Device.applyNotice_fixed (d : Device) (num : Nat) (es : List NoticeEntry) :
    (Device.applyNotice d num es).fixed = d.fixed := by
  unfold Device.applyNotice
  split
  rename_i e t h
  have h2 : e.fixed = d.fixed := by
    have h3 : ∀ (l : List NoticeEntry) (x : Device × NoticeTally), (l.foldl Device.applyEntry x).1.fixed = x.1.fixed := by
      intro l
      induction l with
      | nil => intro x; rfl
      | cons y r ih => intro x; rw [List.foldl_cons, ih]; simp
    have h4 := h3 es (d, ⟨0, 0, 0, 0, false⟩)
    rw [h] at h4
    exact h4
  dsimp only
  repeat' split
  all_goals simp [h2]

@[simp] theorem Device.quotaNotice_fixed (d : Device) (m : Message) :
    (Device.quotaNotice d m).fixed = d.fixed := by
  unfold Device.quotaNotice
  repeat' (first | with_reducible rfl | simp | split)

@[simp] theorem Device.deliver_fixed (d : Device) (m : Message) :
    (Device.deliver d m).fixed = d.fixed := by
  unfold Device.deliver
  repeat' (first | with_reducible rfl | simp | split)

@[simp] theorem Device.enterRecent_fixed (d : Device) (src num : Nat) :
    (Device.enterRecent d src num).fixed = d.fixed := by
  unfold Device.enterRecent
  repeat' (first | with_reducible rfl | simp | split)

@[simp] theorem Device.completeMessage_fixed (d : Device) (src num : Nat) :
    (Device.completeMessage d src num).fixed = d.fixed := by
  unfold Device.completeMessage
  repeat' (first | with_reducible rfl | simp | split)

@[simp] theorem Device.answerData_fixed (d : Device) (b : Burst) (idx : Nat) (a : AckAnswer) :
    (Device.answerData d b idx a).fixed = d.fixed := by
  unfold Device.answerData
  simp

@[simp] theorem Device.openReasm_fixed (d : Device) (b : Burst) (h : DataHeader) (text : List Nat) :
    (Device.openReasm d b h text).fixed = d.fixed := by
  unfold Device.openReasm
  dsimp only
  split
  · simp
  · split
    · simp
    · split <;> rename_i h <;> have h2 := congrArg (fun x => x.2.fixed) h <;> simp at h2
      · repeat' split
        all_goals simp [← h2]
      · simp [← h2]

@[simp] theorem Device.touch_fixed (d : Device) (b : Burst) :
    (Device.touch d b).fixed = d.fixed := by
  unfold Device.touch
  simp

@[simp] theorem Device.nextFragment_fixed (d : Device) (b : Burst) (h : DataHeader) (text : List Nat) (e : Reasm) :
    (Device.nextFragment d b h text e).fixed = d.fixed := by
  unfold Device.nextFragment
  repeat' (first | with_reducible rfl | simp | split)

@[simp] theorem Device.receiveData_fixed (d : Device) (b : Burst) :
    (Device.receiveData d b).fixed = d.fixed := by
  unfold Device.receiveData
  repeat' (first | with_reducible rfl | simp | split)

@[simp] theorem Device.reasmExpires_fixed (d : Device) (e : Reasm) :
    (Device.reasmExpires d e).fixed = d.fixed := by
  unfold Device.reasmExpires
  simp

@[simp] theorem Device.handOn_fixed (d : Device) (b : Burst) :
    (Device.handOn d b).fixed = d.fixed := by
  unfold Device.handOn
  repeat' (first | with_reducible rfl | simp | split)

@[simp] theorem Device.takeBurst_fixed (d : Device) (r : Rx) (linked pass : Bool) :
    (Device.takeBurst d r linked pass).fixed = d.fixed := by
  unfold Device.takeBurst
  simp

@[simp] theorem Device.headerDiscard_fixed (d : Device) :
    (Device.headerDiscard d).fixed = d.fixed := by
  unfold Device.headerDiscard
  simp

@[simp] theorem Device.damagedDiscard_fixed (d : Device) :
    (Device.damagedDiscard d).fixed = d.fixed := by
  unfold Device.damagedDiscard
  simp

@[simp] theorem Device.abandonReception_fixed (d : Device) (st : RxState) :
    (Device.abandonReception d st).fixed = d.fixed := by
  unfold Device.abandonReception
  simp

@[simp] theorem Device.syncingChar_fixed (d : Device) (p : Pattern) (q : Nat) :
    (Device.syncingChar d p q).fixed = d.fixed := by
  unfold Device.syncingChar
  repeat' (first | with_reducible rfl | simp | split)

@[simp] theorem Device.linkedChar_fixed (d : Device) (p : Pattern) (q : Nat) :
    (Device.linkedChar d p q).fixed = d.fixed := by
  unfold Device.linkedChar
  repeat' (first | with_reducible rfl | simp | split)

@[simp] theorem Device.broadcastPosition_fixed (d : Device) (pos : Nat) (x y : Pattern × Nat) :
    (Device.broadcastPosition d pos x y).fixed = d.fixed := by
  unfold Device.broadcastPosition
  repeat' (first | with_reducible rfl | simp | split)

@[simp] theorem Device.broadcastChar_fixed (d : Device) (p : Pattern) (q : Nat) :
    (Device.broadcastChar d p q).fixed = d.fixed := by
  unfold Device.broadcastChar
  repeat' (first | with_reducible rfl | simp | split)

@[simp] theorem Device.takeCharacter_fixed (d : Device) (p : Pattern) (q : Nat) :
    (Device.takeCharacter d p q).fixed = d.fixed := by
  unfold Device.takeCharacter
  repeat' (first | with_reducible rfl | simp | split)

@[simp] theorem Device.findSync_fixed (d : Device) (quality : Nat) :
    (Device.findSync d quality).fixed = d.fixed := by
  unfold Device.findSync
  split <;> simp

@[simp] theorem Device.carrierFalls_fixed (d : Device) :
    (Device.carrierFalls d).fixed = d.fixed := by
  unfold Device.carrierFalls
  split <;> simp

@[simp] theorem Device.closeRx_fixed (d : Device) :
    (Device.closeRx d).fixed = d.fixed := by
  unfold Device.closeRx
  split <;> simp

@[simp] theorem Device.keyItem_fixed (d : Device) (c : AccessClass) (it : Item) (blind : Bool) :
    (Device.keyItem d c it blind).fixed = d.fixed := by
  unfold Device.keyItem
  simp

@[simp] theorem Device.raiseKey_fixed (d : Device) (c : AccessClass) (blind : Bool) :
    (Device.raiseKey d c blind).fixed = d.fixed := by
  unfold Device.raiseKey
  split <;> simp

@[simp] theorem Device.arbitrate_fixed (d : Device) :
    (Device.arbitrate d).fixed = d.fixed := by
  unfold Device.arbitrate
  repeat' (first | with_reducible rfl | simp | split)

@[simp] theorem Device.arbiterInstant_fixed (d : Device) :
    (Device.arbiterInstant d).fixed = d.fixed := by
  unfold Device.arbiterInstant
  split <;> simp

@[simp] theorem Device.settle_fixed (d : Device) :
    (Device.settle d).fixed = d.fixed := by
  unfold Device.settle
  simp

@[simp] theorem Device.gapEnds_fixed (d : Device) (c : AccessClass) :
    (Device.gapEnds d c).fixed = d.fixed := by
  unfold Device.gapEnds
  repeat' (first | with_reducible rfl | simp | split)

@[simp] theorem Device.slotEnds_fixed (d : Device) (c : AccessClass) :
    (Device.slotEnds d c).fixed = d.fixed := by
  unfold Device.slotEnds
  split <;> simp

@[simp] theorem Device.settleEnds_fixed (d : Device) :
    (Device.settleEnds d).fixed = d.fixed := by
  unfold Device.settleEnds
  repeat' (first | with_reducible rfl | simp | split)

@[simp] theorem Device.burstEnds_fixed (d : Device) :
    (Device.burstEnds d).fixed = d.fixed := by
  unfold Device.burstEnds
  split <;> simp

@[simp] theorem Device.keyLimit_fixed (d : Device) :
    (Device.keyLimit d).fixed = d.fixed := by
  unfold Device.keyLimit
  split <;> simp

@[simp] theorem Device.ackLimit_fixed (d : Device) :
    (Device.ackLimit d).fixed = d.fixed := by
  unfold Device.ackLimit
  split <;> simp

@[simp] theorem Device.blindReached_fixed (d : Device) :
    (Device.blindReached d).fixed = d.fixed := by
  unfold Device.blindReached
  split <;> simp

@[simp] theorem Device.channelBlocks_fixed (d : Device) :
    (Device.channelBlocks d).fixed = d.fixed := by
  unfold Device.channelBlocks
  repeat' (first | with_reducible rfl | simp | split)

@[simp] theorem Device.debounce_fixed (d : Device) :
    (Device.debounce d).fixed = d.fixed := by
  unfold Device.debounce
  repeat' (first | with_reducible rfl | simp | split)

@[simp] theorem Device.rawChange_fixed (d : Device) (up : Bool) :
    (Device.rawChange d up).fixed = d.fixed := by
  unfold Device.rawChange
  split <;> simp

@[simp] theorem Device.protectionCheck_fixed (d : Device) (tuneF refl supLo : Bool) :
    (Device.protectionCheck d tuneF refl supLo).fixed = d.fixed := by
  unfold Device.protectionCheck
  repeat' (first | with_reducible rfl | simp | split)

@[simp] theorem Device.serveMark_fixed (d : Device) (a0 : OwedRef) :
    (Device.serveMark d a0).fixed = d.fixed := by
  unfold Device.serveMark
  repeat' (first | with_reducible rfl | simp | split)

@[simp] theorem Device.serveOwed_fixed (d : Device) (n : LaneName) (a0 : Nat) :
    (Device.serveOwed d n a0).fixed = d.fixed := by
  induction a0 generalizing d with
  | zero => rfl
  | succ fuel ih =>
    unfold Device.serveOwed
    split
    · rfl
    · split
      · rw [ih]; simp
      · rfl

@[simp] theorem Device.freeDelivery_fixed (d : Device) (id : Nat) :
    (Device.freeDelivery d id).fixed = d.fixed := by
  unfold Device.freeDelivery
  split <;> simp

@[simp] theorem Device.drainLane_fixed (d : Device) (n : LaneName) :
    (Device.drainLane d n).fixed = d.fixed := by
  unfold Device.drainLane
  repeat' (first | with_reducible rfl | simp | split)

@[simp] theorem Device.onConsoleCounts_fixed (d : Device) (f : ConsoleCounts → ConsoleCounts) :
    (Device.onConsoleCounts d f).fixed = d.fixed := by
  unfold Device.onConsoleCounts
  simp

@[simp] theorem Device.assertCsel_fixed (d : Device) :
    (Device.assertCsel d).fixed = d.fixed := by
  unfold Device.assertCsel
  simp

@[simp] theorem Device.releaseCsel_fixed (d : Device) :
    (Device.releaseCsel d).fixed = d.fixed := by
  unfold Device.releaseCsel
  split <;> simp

@[simp] theorem Device.running_fixed (d : Device) :
    (Device.running d).2.fixed = d.fixed := by
  unfold Device.running
  repeat' (first | with_reducible rfl | simp | split)

@[simp] theorem Device.completeExchange_fixed (d : Device) :
    (Device.completeExchange d).fixed = d.fixed := by
  unfold Device.completeExchange
  repeat' (first | with_reducible rfl | simp | split)

@[simp] theorem Device.leaveSetup_fixed (d : Device) :
    (Device.leaveSetup d).fixed = d.fixed := by
  unfold Device.leaveSetup
  split
  · rename_i h
    simp only [Device.fixed, Device.ready, Device.onConsole, h]
    rfl
  · rfl

@[simp] theorem Device.voidSetup_fixed (d : Device) (h : d.ready = false) : d.voidSetup.fixed = d.fixed := by
  unfold Device.ready at h
  simp [Device.fixed, Device.ready, Device.voidSetup, Device.onConsole, h]

@[simp] theorem Device.setupHead_fixed (own port settle : Nat) (d : Device) : (Device.setupHead own port settle d).2.fixed = d.fixed := by
  unfold Device.setupHead
  by_cases h : d.ready = true
  · simp [h]
  · have h : d.ready = false := by simpa using h
    rw [if_neg (by simp [h])]
    split
    · exact Device.voidSetup_fixed d h
    · unfold Device.ready at h
      simp [Device.fixed, Device.ready, Device.onConsole, h]

@[simp] theorem Device.echo_fixed (d : Device) (tag : Nat) (r : Disposition) :
    (Device.echo d tag r).fixed = d.fixed := by
  unfold Device.echo
  split <;> simp

@[simp] theorem Device.setTime_fixed (year month day hour minute second : Nat) (d : Device) :
    (Device.setTime year month day hour minute second d).2.fixed = d.fixed := by
  unfold Device.setTime
  repeat' (first | with_reducible rfl | simp | split)

@[simp] theorem Device.setFix_fixed (lat lon : Int) (hour minute : Nat) (d : Device) :
    (Device.setFix lat lon hour minute d).2.fixed = d.fixed := by
  unfold Device.setFix
  split <;> simp

@[simp] theorem Device.openSubmit_fixed (tag dest len : Nat) (d : Device) :
    (Device.openSubmit tag dest len d).2.fixed = d.fixed := by
  unfold Device.openSubmit
  repeat' split
  all_goals first
    | rfl
    | (rename_i h
       have h2 := congrArg (fun x => x.2.fixed) h
       simp only [Device.reserve_fixed] at h2
       simp [h2])

@[simp] theorem Device.takeText_fixed (tag : Nat) (symbols : List Nat) (d : Device) :
    (Device.takeText tag symbols d).2.fixed = d.fixed := by
  unfold Device.takeText
  repeat' (first | with_reducible rfl | simp | split)

@[simp] theorem Device.withdrawTag_fixed (consoleTag : Nat) (d : Device) :
    (Device.withdrawTag consoleTag d).2.fixed = d.fixed := by
  unfold Device.withdrawTag
  dsimp only
  repeat' (first
    | with_reducible rfl
    | simp
    | (refine (foldl_fixed _ ?_ _ _).trans ?_; intro _ _)
    | (refine (Device.orPending_fixed _ _ _ ?_ ?_).trans ?_; intro _)
    | split
    | exact (by simpa using (congrArg (fun x => x.2.fixed) ‹_ = (_, _)›).symm)
    | exact (by simpa using (congrArg (fun x => x.1.fixed) ‹_ = (_, _)›).symm)
    | exact (by simpa using (congrArg (fun x => x.2.2.fixed) ‹_ = (_, _, _)›).symm))

@[simp] theorem Device.submitTimesOut_fixed (d : Device) :
    (Device.submitTimesOut d).fixed = d.fixed := by
  unfold Device.submitTimesOut
  split
  · rfl
  · dsimp only
    split <;> rename_i h <;> have h2 := congrArg (fun x => x.2.fixed) h <;> simp at h2 <;> simp [← h2]

@[simp] theorem Device.restartAccess_fixed (d : Device) :
    (Device.restartAccess d).fixed = d.fixed := by
  unfold Device.restartAccess
  repeat' (first | with_reducible rfl | simp | split)

@[simp] theorem Device.offerAgain_fixed (d : Device) (items : List Item) :
    (Device.offerAgain d items).fixed = d.fixed := by
  unfold Device.offerAgain
  exact foldl_fixed _ (fun _ _ => by simp) _ _

@[simp] theorem Device.restartRecords_fixed (d : Device) :
    (Device.restartRecords d).fixed = d.fixed := by
  unfold Device.restartRecords
  dsimp only
  repeat' (first
    | with_reducible rfl
    | simp
    | (refine (foldl_fixed _ ?_ _ _).trans ?_; intro _ _)
    | (refine (Device.orPending_fixed _ _ _ ?_ ?_).trans ?_; intro _)
    | split
    | exact (by simpa using (congrArg (fun x => x.2.fixed) ‹_ = (_, _)›).symm)
    | exact (by simpa using (congrArg (fun x => x.1.fixed) ‹_ = (_, _)›).symm)
    | exact (by simpa using (congrArg (fun x => x.2.2.fixed) ‹_ = (_, _, _)›).symm))

@[simp] theorem Device.restartConsole_fixed (d : Device) :
    (Device.restartConsole d).fixed = d.fixed := by
  unfold Device.restartConsole
  simp

@[simp] theorem Device.restart_fixed (d : Device) :
    (Device.restart d).2.fixed = d.fixed := by
  unfold Device.restart
  simp

@[simp] theorem Device.answer_fixed (tag selector : Nat) (data : List Datum) (d : Device) :
    (Device.answer tag selector data d).2.fixed = d.fixed := by
  unfold Device.answer
  split <;> simp

@[simp] theorem Device.startAlert_fixed (nature : Nat) (persons : Option Nat) (d : Device) :
    (Device.startAlert nature persons d).fixed = d.fixed := by
  unfold Device.startAlert
  repeat' (first | with_reducible rfl | simp | split)

@[simp] theorem Device.repeatNow_fixed (d : Device) :
    (Device.repeatNow d).fixed = d.fixed := by
  unfold Device.repeatNow
  repeat' (first | with_reducible rfl | simp | split)

@[simp] theorem Device.raiseAgain_fixed (nature : Nat) (persons : Option Nat) (d : Device) :
    (Device.raiseAgain nature persons d).fixed = d.fixed := by
  unfold Device.raiseAgain
  simp

@[simp] theorem Device.orderDistress_fixed (nature persons : Nat) (d : Device) :
    (Device.orderDistress nature persons d).2.fixed = d.fixed := by
  unfold Device.orderDistress
  repeat' (first | with_reducible rfl | simp | split)

@[simp] theorem Device.orderCancel_fixed (d : Device) :
    (Device.orderCancel d).2.fixed = d.fixed := by
  unfold Device.orderCancel
  repeat' (first | with_reducible rfl | simp | split)

@[simp] theorem Device.orderAck_fixed (st : Nat) (d : Device) :
    (Device.orderAck st d).2.fixed = d.fixed := by
  unfold Device.orderAck
  repeat' (first | with_reducible rfl | simp | split)

@[simp] theorem Device.orderClose_fixed (st : Nat) (d : Device) :
    (Device.orderClose st d).2.fixed = d.fixed := by
  unfold Device.orderClose
  repeat' (first | with_reducible rfl | simp | split)

@[simp] theorem Device.orderFlush_fixed (d : Device) :
    (Device.orderFlush d).2.fixed = d.fixed := by
  unfold Device.orderFlush
  split <;> simp

@[simp] theorem Device.orderLoop_fixed (tag : Nat) (d : Device) :
    (Device.orderLoop tag d).2.fixed = d.fixed := by
  unfold Device.orderLoop
  repeat' (first | with_reducible rfl | simp | split)

@[simp] theorem Device.openHaul_fixed (tag : Nat) (d : Device) :
    (Device.openHaul tag d).2.fixed = d.fixed := by
  unfold Device.openHaul
  repeat' (first | with_reducible rfl | simp | split)

@[simp] theorem Device.closeHaul_fixed (number : Nat) (d : Device) :
    (Device.closeHaul number d).2.fixed = d.fixed := by
  unfold Device.closeHaul
  repeat' (first | with_reducible rfl | simp | split)

@[simp] theorem Device.catchLine_fixed (number : Nat) (sp : Species) (disp weight : Nat) (d : Device) :
    (Device.catchLine number sp disp weight d).2.fixed = d.fixed := by
  unfold Device.catchLine
  repeat' (first | with_reducible rfl | simp | split)

@[simp] theorem Device.discardHaul_fixed (number : Nat) (d : Device) :
    (Device.discardHaul number d).2.fixed = d.fixed := by
  unfold Device.discardHaul
  split <;> simp

@[simp] theorem Device.commitLine_fixed (rect : Nat) (x : Device × Bool) (l : CatchLine) :
    (Device.commitLine rect x l).1.fixed = x.1.fixed := by
  unfold Device.commitLine
  simp

@[simp] theorem Device.commitCell_fixed (rect : Nat) (h : Haul) (x : Device × Bool) (sp : Species) :
    (Device.commitCell rect h x sp).1.fixed = x.1.fixed := by
  unfold Device.commitCell
  simp

@[simp] theorem Device.commitQuotas_fixed (d : Device) (lines : List CatchLine) :
    (Device.commitQuotas d lines).fixed = d.fixed := by
  have h1 : ∀ (l : List Species) (e : Device),
      (l.foldl (fun d sp => d.onQuota sp fun q => ⟨q.species, q.quota, d.consumedOf sp, q.st, q.owedFrom⟩) e).fixed = e.fixed :=
    fun l e => foldl_fixed _ (fun _ _ => by simp) l e
  have h3 : ∀ (l : List Species) (x : Bool × Device),
      (l.foldl (fun x sp => (x.1 || (x.2.evaluateQuota sp 0).1, (x.2.evaluateQuota sp 0).2)) x).2.fixed = x.2.fixed := by
    intro l
    induction l with
    | nil => intro x; rfl
    | cons y r ih => intro x; rw [List.foldl_cons, ih]; simp
  unfold Device.commitQuotas
  dsimp only
  split
  · rw [Device.trigger_fixed]; exact (h3 _ _).trans (h1 _ _)
  · exact (h3 _ _).trans (h1 _ _)

@[simp] theorem Device.commitHaul_fixed (tag i : Nat) (d : Device) :
    (Device.commitHaul tag i d).fixed = d.fixed := by
  have h1 : ∀ (rect : Nat) (l : List CatchLine) (x : Device × Bool),
      (l.foldl (Device.commitLine rect) x).1.fixed = x.1.fixed := by
    intro rect l
    induction l with
    | nil => intro x; rfl
    | cons y r ih => intro x; rw [List.foldl_cons, ih]; simp
  have h2 : ∀ (rect : Nat) (h : Haul) (l : List Species) (x : Device × Bool),
      (l.foldl (Device.commitCell rect h) x).1.fixed = x.1.fixed := by
    intro rect h l
    induction l with
    | nil => intro x; rfl
    | cons y r ih => intro x; rw [List.foldl_cons, ih]; simp
  unfold Device.commitHaul
  dsimp only
  rw [Device.commitQuotas_fixed, Device.onLogCounts_fixed, Device.queueEntry_fixed, Device.onHaul_fixed]
  exact (h2 _ _ _ _).trans (h1 _ _ _)

@[simp] theorem Device.orderCommit_fixed (tag number : Nat) (d : Device) :
    (Device.orderCommit tag number d).2.fixed = d.fixed := by
  unfold Device.orderCommit
  repeat' (first | with_reducible rfl | simp | split)

@[simp] theorem Device.hourReached_fixed (d : Device) :
    (Device.hourReached d).fixed = d.fixed := by
  unfold Device.hourReached
  split <;> simp

@[simp] theorem Device.deadlineReached_fixed (d : Device) :
    (Device.deadlineReached d).fixed = d.fixed := by
  unfold Device.deadlineReached
  split <;> simp

@[simp] theorem Device.recoveryTime_fixed (m : MonitorId) (d : Device) :
    (Device.recoveryTime m d).fixed = d.fixed := by
  unfold Device.recoveryTime
  split <;> simp

@[simp] theorem Device.quietTime_fixed (d : Device) :
    (Device.quietTime d).fixed = d.fixed := by
  unfold Device.quietTime
  split <;> simp

@[simp] theorem Device.loopDone_fixed (received : List Pattern) (d : Device) :
    (Device.loopDone received d).fixed = d.fixed := by
  unfold Device.loopDone
  split <;> simp

@[simp] theorem Device.staleTime_fixed (st : Station) (d : Device) :
    (Device.staleTime st d).fixed = d.fixed := by
  unfold Device.staleTime
  repeat' (first | with_reducible rfl | simp | split)

@[simp] theorem Device.removalTime_fixed (st : Station) (d : Device) :
    (Device.removalTime st d).fixed = d.fixed := by
  unfold Device.removalTime
  repeat' (first | with_reducible rfl | simp | split)

@[simp] theorem Device.avoidTime_fixed (st : Station) (d : Device) :
    (Device.avoidTime st d).fixed = d.fixed := by
  unfold Device.avoidTime
  split <;> simp

@[simp] theorem Device.beaconTime_fixed (d : Device) :
    (Device.beaconTime d).fixed = d.fixed := by
  unfold Device.beaconTime
  split <;> simp

@[simp] theorem Device.waitTime_fixed (k : WaitKind) (st num : Nat) (d : Device) :
    (Device.waitTime k st num d).fixed = d.fixed := by
  unfold Device.waitTime
  repeat' (first | with_reducible rfl | simp | split)

@[simp] theorem Device.ackTime_fixed (d : Device) :
    (Device.ackTime d).fixed = d.fixed := by
  unfold Device.ackTime
  repeat' (first | with_reducible rfl | simp | split)

@[simp] theorem Device.refusalTime_fixed (i : Nat) (d : Device) :
    (Device.refusalTime i d).fixed = d.fixed := by
  unfold Device.refusalTime
  split <;> simp

@[simp] theorem Device.lifeTime_fixed (i : Nat) (d : Device) :
    (Device.lifeTime i d).fixed = d.fixed := by
  unfold Device.lifeTime
  repeat' (first | with_reducible rfl | simp | split)

@[simp] theorem Device.inactivityTime_fixed (src num : Nat) (d : Device) :
    (Device.inactivityTime src num d).fixed = d.fixed := by
  unfold Device.inactivityTime
  repeat' (first | with_reducible rfl | simp | split)

@[simp] theorem Device.recentTime_fixed (src num : Nat) (d : Device) :
    (Device.recentTime src num d).fixed = d.fixed := by
  unfold Device.recentTime
  repeat' (first | with_reducible rfl | simp | split)

@[simp] theorem Device.repeatTime_fixed (d : Device) :
    (Device.repeatTime d).fixed = d.fixed := by
  unfold Device.repeatTime
  split <;> simp

@[simp] theorem Device.cancelTime_fixed (d : Device) :
    (Device.cancelTime d).fixed = d.fixed := by
  unfold Device.cancelTime
  split <;> simp

@[simp] theorem Device.caseTime_fixed (st : Station) (d : Device) :
    (Device.caseTime st d).fixed = d.fixed := by
  unfold Device.caseTime
  repeat' (first | with_reducible rfl | simp | split)

@[simp] theorem Device.holdTime_fixed (d : Device) :
    (Device.holdTime d).fixed = d.fixed := by
  unfold Device.holdTime
  repeat' (first | with_reducible rfl | simp | split)

@[simp] theorem Device.collectionTime_fixed (area : Nat) (d : Device) :
    (Device.collectionTime area d).fixed = d.fixed := by
  unfold Device.collectionTime
  split <;> simp

@[simp] theorem Device.forecastTime_fixed (area : Nat) (complete : Bool) (d : Device) :
    (Device.forecastTime area complete d).fixed = d.fixed := by
  unfold Device.forecastTime
  repeat' (first | with_reducible rfl | simp | split)

@[simp] theorem Device.warningTime_fixed (issuer issue : Nat) (d : Device) :
    (Device.warningTime issuer issue d).fixed = d.fixed := by
  unfold Device.warningTime
  repeat' (first | with_reducible rfl | simp | split)

@[simp] theorem Device.tick_fixed (d : Device) :
    (Device.tick d).fixed = d.fixed := by
  unfold Device.tick
  simp

@[simp] theorem Device.takeDue_fixed (d : Device) :
    (Device.takeDue d).2.fixed = d.fixed := by
  unfold Device.takeDue
  repeat' (first | with_reducible rfl | simp | split)

end Sys2Proof.Machine
end

