-- ==== Sys2Proof/Laws/Frames.lean ====
section
/-! SUPPORT. What a frame and an event come to while RESETN is high: the whole of their common course. -/

namespace Sys2Proof.Machine

theorem Device.live_iff (d : Device) : d.live = true ↔ d.resetLow = false ∧ d.ready = true := by
  simp [Device.live]

theorem Device.completeExchange_config (d : Device) : d.completeExchange.config = d.config :=
  congrArg Fixed.config (Device.completeExchange_fixed d)

theorem Device.completeExchange_resetLow (d : Device) : d.completeExchange.resetLow = d.resetLow :=
  congrArg Fixed.resetLow (Device.completeExchange_fixed d)

theorem Device.completeExchange_ready (d : Device) : d.completeExchange.ready = d.ready :=
  congrArg Fixed.ready (Device.completeExchange_fixed d)

/-- On a READY part no setup is in progress to be voided (R196). -/
theorem Device.leaveSetup_ready (d : Device) (h : d.ready = true) : d.leaveSetup = d := by
  have h2 : d.console.setup = .done := by simpa [Device.ready] using h
  simp [Device.leaveSetup, h2]

theorem State.act_eq (s : State) (f : Device → Device) (h : s.dev.resetLow = false) :
    s.act f = .next { s with dev := f s.dev } := by
  simp [State.act, h]

theorem State.event_eq (s : State) (f : Device → Device) (h : s.dev.resetLow = false) :
    s.event f = .next { s with dev := (f s.dev).settle } := State.act_eq s _ h

/-- Any frame on a READY part: the exchange is completed, the owning block judges, the disposition is echoed. -/
theorem State.frame_live (s : State) (tag : Nat) (isSetup early : Bool) (judge : Device → Disposition × Device)
    (h : s.dev.live = true) :
    s.frame tag isSetup early judge
      = .next { s with dev :=
          ((judge s.dev.completeExchange).2.echo tag (judge s.dev.completeExchange).1).settle } := by
  obtain ⟨h1, h2⟩ := (Device.live_iff _).1 h
  have h3 := s.dev.completeExchange_ready.trans h2
  unfold State.frame
  rw [State.act_eq s _ h1]
  unfold Device.frame
  simp [Device.leaveSetup_ready _ h3, h3]

/-- A frame that is judged on an UNCONFIGURED part too and belongs to a setup sequence (R196). -/
theorem State.frame_setup (s : State) (tag : Nat) (judge : Device → Disposition × Device)
    (h : s.dev.resetLow = false) :
    s.frame tag true true judge
      = .next { s with dev :=
          ((judge s.dev.completeExchange).2.echo tag (judge s.dev.completeExchange).1).settle } := by
  unfold State.frame
  rw [State.act_eq s _ h]
  simp [Device.frame]

/-- A frame that is judged on an UNCONFIGURED part too and voids a setup sequence (R196). -/
theorem State.frame_early (s : State) (tag : Nat) (judge : Device → Disposition × Device)
    (h : s.dev.resetLow = false) :
    s.frame tag false true judge
      = .next { s with dev := ((judge s.dev.completeExchange.leaveSetup).2.echo tag
          (judge s.dev.completeExchange.leaveSetup).1).settle } := by
  unfold State.frame
  rw [State.act_eq s _ h]
  simp [Device.frame]

/-- A frame that an UNCONFIGURED part refuses with NOT SET (R189). -/
theorem State.frame_notSet (s : State) (tag : Nat) (judge : Device → Disposition × Device)
    (h : s.dev.resetLow = false) (h2 : s.dev.ready = false) :
    s.frame tag false false judge
      = .next { s with dev := (s.dev.completeExchange.leaveSetup.echo tag .notSet).settle } := by
  have h3 : s.dev.completeExchange.leaveSetup.ready = false :=
    (congrArg Fixed.ready (Device.leaveSetup_fixed _)).trans (s.dev.completeExchange_ready.trans h2)
  unfold State.frame
  rw [State.act_eq s _ h]
  simp [Device.frame, h3]

end Sys2Proof.Machine
end

