-- ==== Sys2Proof/Laws/Room.lean ====
section
/-! SUPPORT. No operation takes a lane above its capacity or changes the number of slots and haul records: one lemma
per operation. -/

namespace Sys2Proof.Machine

theorem foldl_roomOk {α : Type} (f : Device → α → Device) (h : ∀ d x, d.roomOk = true → (f d x).roomOk = true)
    (l : List α) (d : Device) (h0 : d.roomOk = true) : (l.foldl f d).roomOk = true := by
  induction l generalizing d with
  | nil => exact h0
  | cons x r ih => exact ih _ (h d x h0)

theorem Device.orPending_roomOk (d : Device) (i : Nat) (k : Device → Device)
    (h1 : ∀ o, (d.endTransfer i o).roomOk = true) (h2 : (k d).roomOk = true) : (d.orPending i k).roomOk = true := by
  unfold Device.orPending
  split
  · exact h1 _
  · exact h2

@[simp] theorem modAt_length {α : Type} (l : List α) (i : Nat) (f : α → α) : (modAt l i f).length = l.length := by
  unfold modAt
  split
  · rfl
  · exact List.length_set

@[simp] theorem mapIf_length {α : Type} (p : α → Bool) (f : α → α) (l : List α) : (mapIf p f l).length = l.length :=
  List.length_map _

@[simp] theorem Device.mk_roomOk (a1 : Time) (a2 : Bool) (a3 : Nat) (a4 : Pins) (a5 : Setup) (a6 : Rx) (a7 : Option Tx)
    (a8 : RxCounts) (a9 : Access) (a10 : Protection) (a11 : LoopTest) (a12 : Store) (a13 : NeighTable)
    (a14 : List Wait) (a15 : Transfers) (a16 : DistressUnit) (a17 : WeatherStore) (a18 : CatchLog)
    (a19 : ReportBuilder) (a20 : Console) :
    Device.roomOk ⟨a1, a2, a3, a4, a5, a6, a7, a8, a9, a10, a11, a12, a13, a14, a15, a16, a17, a18, a19, a20⟩
      = Bounded.ok a20.distress.entries.length a20.general.entries.length a15.slots.length a18.hauls.length := rfl

@[simp] theorem Device.roomOk_eta (d : Device) :
    Bounded.ok d.console.distress.entries.length d.console.general.entries.length d.xfer.slots.length
      d.log.hauls.length = d.roomOk := rfl

@[simp] theorem Device.onConsole_roomOk (d : Device) (f : Console → Console)
    (h1 : (f d.console).distress.entries = d.console.distress.entries)
    (h2 : (f d.console).general.entries = d.console.general.entries) : (d.onConsole f).roomOk = d.roomOk := by
  simp only [Device.roomOk, Device.onConsole, h1, h2]

@[simp] theorem Device.onXfer_roomOk (d : Device) (f : Transfers → Transfers)
    (h1 : (f d.xfer).slots.length = d.xfer.slots.length) : (d.onXfer f).roomOk = d.roomOk := by
  simp only [Device.roomOk, Device.onXfer, h1]

@[simp] theorem Device.onLog_roomOk (d : Device) (f : CatchLog → CatchLog)
    (h1 : (f d.log).hauls.length = d.log.hauls.length) : (d.onLog f).roomOk = d.roomOk := by
  simp only [Device.roomOk, Device.onLog, h1]

@[simp] theorem Device.onLane_roomOk (d : Device) (n : LaneName) (f : Lane → Lane)
    (h1 : (f (d.lane n)).entries.length = (d.lane n).entries.length) : (d.onLane n f).roomOk = d.roomOk := by
  cases n <;> simp only [Device.lane] at h1 <;> simp only [Device.roomOk, Device.onLane, Device.onConsole, h1]

theorem Bounded.ok_iff (a b c e : Nat) : Bounded.ok a b c e = true ↔ a ≤ 8 ∧ b ≤ 24 ∧ c = 8 ∧ e = 4 := by
  simp [Bounded.ok, and_assoc]

/-- Entries taken off a lane. -/
theorem Device.onLane_roomOk_le (d : Device) (n : LaneName) (f : Lane → Lane)
    (h1 : (f (d.lane n)).entries.length ≤ (d.lane n).entries.length) (h0 : d.roomOk = true) :
    (d.onLane n f).roomOk = true := by
  obtain ⟨p, q, r⟩ := (Bounded.ok_iff _ _ _ _).1 h0
  cases n
  · exact (Bounded.ok_iff _ _ _ _).2 ⟨Nat.le_trans h1 p, q, r⟩
  · exact (Bounded.ok_iff _ _ _ _).2 ⟨p, Nat.le_trans h1 q, r⟩

/-- An entry queued. -/
@[simp] theorem Device.queueEntry_roomOk (d : Device) (n : LaneName) (e : Entry) (h0 : d.roomOk = true) :
    (d.queueEntry n e).roomOk = true := by
  unfold Device.queueEntry
  split
  · rename_i h
    obtain ⟨p, q, r⟩ := (Bounded.ok_iff _ _ _ _).1 h0
    cases n
    · refine (Bounded.ok_iff _ _ _ _).2 ⟨?_, q, r⟩
      have h1 : d.console.distress.entries.length < 8 := of_decide_eq_true h
      simp [Device.onLane, Device.onConsole]
      omega
    · refine (Bounded.ok_iff _ _ _ _).2 ⟨p, ?_, r⟩
      have h1 : d.console.general.entries.length < 24 := of_decide_eq_true h
      simp [Device.onLane, Device.onConsole]
      omega
  · exact h0

@[simp] theorem Device.reserve_roomOk (d : Device) (h : Holder) (size : Nat) :
    (d.reserve h size).2.roomOk = d.roomOk := rfl

@[simp] theorem Device.writeText_roomOk (d : Device) (id i : Nat) (syms : List Nat) :
    (d.writeText id i syms).roomOk = d.roomOk := rfl

theorem Device.reserve_eq_roomOk {d e : Device} {h : Holder} {size : Nat} {r : Reserved}
    (h1 : d.reserve h size = (r, e)) (h0 : d.roomOk = true) : e.roomOk = true := by
  have h2 := Device.reserve_roomOk d h size
  rw [h1, h0] at h2
  exact h2

@[simp] theorem Device.onStore_roomOk (d : Device) (f : Store → Store) : (d.onStore f).roomOk = d.roomOk := rfl
@[simp] theorem Device.onAccess_roomOk (d : Device) (f : Access → Access) : (d.onAccess f).roomOk = d.roomOk := rfl
@[simp] theorem Device.onProt_roomOk (d : Device) (f : Protection → Protection) : (d.onProt f).roomOk = d.roomOk := rfl
@[simp] theorem Device.onLoop_roomOk (d : Device) (f : LoopTest → LoopTest) : (d.onLoop f).roomOk = d.roomOk := rfl
@[simp] theorem Device.onRx_roomOk (d : Device) (f : Rx → Rx) : (d.onRx f).roomOk = d.roomOk := rfl
@[simp] theorem Device.onRxCounts_roomOk (d : Device) (f : RxCounts → RxCounts) : (d.onRxCounts f).roomOk = d.roomOk := rfl
@[simp] theorem Device.onNeigh_roomOk (d : Device) (f : NeighTable → NeighTable) : (d.onNeigh f).roomOk = d.roomOk := rfl
@[simp] theorem Device.onDistress_roomOk (d : Device) (f : DistressUnit → DistressUnit) : (d.onDistress f).roomOk = d.roomOk := rfl
@[simp] theorem Device.onWeather_roomOk (d : Device) (f : WeatherStore → WeatherStore) : (d.onWeather f).roomOk = d.roomOk := rfl
@[simp] theorem Device.onRep_roomOk (d : Device) (f : ReportBuilder → ReportBuilder) : (d.onRep f).roomOk = d.roomOk := rfl

@[simp] theorem Device.reach_roomOk (d : Device) (t : Time) (h0 : d.roomOk = true) :
    (Device.reach d t).roomOk = true := by
  unfold Device.reach
  simp [h0]

@[simp] theorem Device.draw_roomOk (d : Device) (lo hi : Nat) (h0 : d.roomOk = true) :
    (Device.draw d lo hi).2.roomOk = true := by
  unfold Device.draw
  simp [h0]

@[simp] theorem Device.addMark_roomOk (d : Device) (n : LaneName) (r : OwedRef) (h0 : d.roomOk = true) :
    (Device.addMark d n r).roomOk = true := by
  unfold Device.addMark
  simp [h0]

@[simp] theorem Device.dropMark_roomOk (d : Device) (n : LaneName) (r : OwedRef) (h0 : d.roomOk = true) :
    (Device.dropMark d n r).roomOk = true := by
  unfold Device.dropMark
  simp [h0]

@[simp] theorem Device.passMark_roomOk (d : Device) (n : LaneName) (old new : OwedRef) (h0 : d.roomOk = true) :
    (Device.passMark d n old new).roomOk = true := by
  unfold Device.passMark
  rw [Device.onLane_roomOk]
  · exact h0
  · split <;> rfl

@[simp] theorem Device.reportTagged_roomOk (d : Device) (kind : ReportKind) (tag : Nat) (r : OwedRef) (data : List Datum) (h0 : d.roomOk = true) :
    (Device.reportTagged d kind tag r data).roomOk = true := by
  unfold Device.reportTagged
  try dsimp only
  repeat' split
  all_goals first
    | simp (maxDischargeDepth := 16) [*]
    | (have h2 := congrArg (fun x => x.2.roomOk) ‹_ = (_, _)›
       simp (maxDischargeDepth := 16) [h0] at h2
       simp (maxDischargeDepth := 16) [*])
    | (have h2 := congrArg (fun x => x.1.roomOk) ‹_ = (_, _)›
       simp (maxDischargeDepth := 16) [h0] at h2
       simp (maxDischargeDepth := 16) [*])
    | (have h2 := congrArg (fun x => x.2.2.roomOk) ‹_ = (_, _, _)›
       simp (maxDischargeDepth := 16) [h0] at h2
       simp (maxDischargeDepth := 16) [*])

@[simp] theorem Device.report_roomOk (d : Device) (kind : ReportKind) (r : OwedRef) (data : List Datum) (h0 : d.roomOk = true) :
    (Device.report d kind r data).roomOk = true := by
  unfold Device.report
  simp [h0]

@[simp] theorem Device.reportOrLose_roomOk (d : Device) (kind : ReportKind) (tag : Nat) (data : List Datum) (h0 : d.roomOk = true) :
    (Device.reportOrLose d kind tag data).2.roomOk = true := by
  unfold Device.reportOrLose
  try dsimp only
  repeat' split
  all_goals first
    | simp (maxDischargeDepth := 16) [*]
    | (have h2 := congrArg (fun x => x.2.roomOk) ‹_ = (_, _)›
       simp (maxDischargeDepth := 16) [h0] at h2
       simp (maxDischargeDepth := 16) [*])
    | (have h2 := congrArg (fun x => x.1.roomOk) ‹_ = (_, _)›
       simp (maxDischargeDepth := 16) [h0] at h2
       simp (maxDischargeDepth := 16) [*])
    | (have h2 := congrArg (fun x => x.2.2.roomOk) ‹_ = (_, _, _)›
       simp (maxDischargeDepth := 16) [h0] at h2
       simp (maxDischargeDepth := 16) [*])

@[simp] theorem Device.offer_roomOk (d : Device) (it : Item) (h0 : d.roomOk = true) :
    (Device.offer d it).roomOk = true := by
  unfold Device.offer
  simp [h0]

@[simp] theorem Device.withdraw_roomOk (d : Device) (c : AccessClass) (p : Item → Bool) (h0 : d.roomOk = true) :
    (Device.withdraw d c p).roomOk = true := by
  unfold Device.withdraw
  simp [h0]

@[simp] theorem Device.bumpAcksDropped_roomOk (d : Device) (h0 : d.roomOk = true) :
    (Device.bumpAcksDropped d).roomOk = true := by
  unfold Device.bumpAcksDropped
  simp [h0]

@[simp] theorem Device.offerAck_roomOk (d : Device) (dest : Station) (num idx answer : Nat) (endTime : Time) (h0 : d.roomOk = true) :
    (Device.offerAck d dest num idx answer endTime).roomOk = true := by
  unfold Device.offerAck
  try dsimp only
  repeat' split
  all_goals first
    | simp (maxDischargeDepth := 16) [*]
    | (have h2 := congrArg (fun x => x.2.roomOk) ‹_ = (_, _)›
       simp (maxDischargeDepth := 16) [h0] at h2
       simp (maxDischargeDepth := 16) [*])
    | (have h2 := congrArg (fun x => x.1.roomOk) ‹_ = (_, _)›
       simp (maxDischargeDepth := 16) [h0] at h2
       simp (maxDischargeDepth := 16) [*])
    | (have h2 := congrArg (fun x => x.2.2.roomOk) ‹_ = (_, _, _)›
       simp (maxDischargeDepth := 16) [h0] at h2
       simp (maxDischargeDepth := 16) [*])

@[simp] theorem Device.enterClear_roomOk (d : Device) (h0 : d.roomOk = true) :
    (Device.enterClear d).roomOk = true := by
  unfold Device.enterClear
  repeat' (first | with_reducible exact h0 | simp [h0] | split)

@[simp] theorem Device.leaveClear_roomOk (d : Device) (ch : Channel) (h0 : d.roomOk = true) :
    (Device.leaveClear d ch).roomOk = true := by
  unfold Device.leaveClear
  simp [h0]

@[simp] theorem Device.settleChannel_roomOk (d : Device) (h0 : d.roomOk = true) :
    (Device.settleChannel d).roomOk = true := by
  unfold Device.settleChannel
  repeat' (first | with_reducible exact h0 | simp [h0] | split)

@[simp] theorem Device.makeContender_roomOk (d : Device) (c : AccessClass) (it : Item) (h0 : d.roomOk = true) :
    (Device.makeContender d c it).roomOk = true := by
  unfold Device.makeContender
  repeat' (first | with_reducible exact h0 | simp [h0] | split)

@[simp] theorem Device.selectContender_roomOk (d : Device) (c : AccessClass) (h0 : d.roomOk = true) :
    (Device.selectContender d c).roomOk = true := by
  unfold Device.selectContender
  repeat' (first | with_reducible exact h0 | simp [h0] | split)

@[simp] theorem Device.selectAll_roomOk (d : Device) (h0 : d.roomOk = true) :
    (Device.selectAll d).roomOk = true := by
  unfold Device.selectAll
  exact foldl_roomOk _ (fun _ _ h => by simp (maxDischargeDepth := 16) [h]) _ _ (by simp (maxDischargeDepth := 16) [h0])

@[simp] theorem Device.refreshEligible_roomOk (d : Device) (h0 : d.roomOk = true) :
    (Device.refreshEligible d).roomOk = true := by
  unfold Device.refreshEligible
  exact foldl_roomOk _ (fun _ _ h => by simp (maxDischargeDepth := 16) [h]) _ _ (by simp (maxDischargeDepth := 16) [h0])

@[simp] theorem Device.countSlots_roomOk (d : Device) (h0 : d.roomOk = true) :
    (Device.countSlots d).roomOk = true := by
  unfold Device.countSlots
  exact foldl_roomOk _ (fun _ _ h => by simp (maxDischargeDepth := 16) [h]) _ _ (by simp (maxDischargeDepth := 16) [h0])

@[simp] theorem Device.onNeighbour_roomOk (d : Device) (st : Station) (f : Neigh → Neigh) (h0 : d.roomOk = true) :
    (Device.onNeighbour d st f).roomOk = true := by
  unfold Device.onNeighbour
  simp [h0]

@[simp] theorem Device.removeNeighbour_roomOk (d : Device) (st : Station) (h0 : d.roomOk = true) :
    (Device.removeNeighbour d st).roomOk = true := by
  unfold Device.removeNeighbour
  simp [h0]

@[simp] theorem Device.onNeighCounts_roomOk (d : Device) (f : NeighCounts → NeighCounts) (h0 : d.roomOk = true) :
    (Device.onNeighCounts d f).roomOk = true := by
  unfold Device.onNeighCounts
  simp [h0]

@[simp] theorem Device.headerFacts_roomOk (d : Device) (st : Station) (score : Nat) (endTime : Time) (h0 : d.roomOk = true) :
    (Device.headerFacts d st score endTime).1.roomOk = true := by
  unfold Device.headerFacts
  repeat' (first | with_reducible exact h0 | simp [h0] | split)

@[simp] theorem Device.goStale_roomOk (d : Device) (st : Station) (h0 : d.roomOk = true) :
    (Device.goStale d st).1.roomOk = true := by
  unfold Device.goStale
  repeat' (first | with_reducible exact h0 | simp [h0] | split)

@[simp] theorem Device.removeAtTime_roomOk (d : Device) (st : Station) (h0 : d.roomOk = true) :
    (Device.removeAtTime d st).roomOk = true := by
  unfold Device.removeAtTime
  split <;> simp [h0]

@[simp] theorem Device.removeUnpinned_roomOk (d : Device) (h0 : d.roomOk = true) :
    (Device.removeUnpinned d).roomOk = true := by
  unfold Device.removeUnpinned
  simp [h0]

@[simp] theorem Device.charge_roomOk (d : Device) (st : Station) (h0 : d.roomOk = true) :
    (Device.charge d st).roomOk = true := by
  unfold Device.charge
  simp [h0]

@[simp] theorem Device.avoid_roomOk (d : Device) (st : Station) (h0 : d.roomOk = true) :
    (Device.avoid d st).roomOk = true := by
  unfold Device.avoid
  simp [h0]

@[simp] theorem Device.avoidPassed_roomOk (d : Device) (st : Station) (h0 : d.roomOk = true) :
    (Device.avoidPassed d st).1.roomOk = true := by
  unfold Device.avoidPassed
  simp [h0]

@[simp] theorem Device.clearWilling_roomOk (d : Device) (st : Station) (h0 : d.roomOk = true) :
    (Device.clearWilling d st).1.roomOk = true := by
  unfold Device.clearWilling
  repeat' (first | with_reducible exact h0 | simp [h0] | split)

@[simp] theorem Device.beaconFacts_roomOk (d : Device) (b : Burst) (h0 : d.roomOk = true) :
    (Device.beaconFacts d b).1.roomOk = true := by
  unfold Device.beaconFacts
  repeat' (first | with_reducible exact h0 | simp [h0] | split)

@[simp] theorem Device.skipBeacon_roomOk (d : Device) (h0 : d.roomOk = true) :
    (Device.skipBeacon d).roomOk = true := by
  unfold Device.skipBeacon
  simp [h0]

@[simp] theorem Device.dropBeacon_roomOk (d : Device) (h0 : d.roomOk = true) :
    (Device.dropBeacon d).roomOk = true := by
  unfold Device.dropBeacon
  split <;> simp [h0]

@[simp] theorem Device.beaconFalls_roomOk (d : Device) (due : Time) (h0 : d.roomOk = true) :
    (Device.beaconFalls d due).roomOk = true := by
  unfold Device.beaconFalls
  dsimp only
  repeat' (first
    | with_reducible assumption
    | simp (maxDischargeDepth := 16) [*]
    | (refine foldl_roomOk _ ?_ _ _ ?_; intro _ _ _)
    | (refine Device.orPending_roomOk _ _ _ ?_ ?_; intro _)
    | split)

@[simp] theorem Device.removeWait_roomOk (d : Device) (k : WaitKind) (st num : Nat) (h0 : d.roomOk = true) :
    (Device.removeWait d k st num).roomOk = true := by
  unfold Device.removeWait
  simp [h0]

@[simp] theorem Device.refuseWait_roomOk (d : Device) (h0 : d.roomOk = true) :
    (Device.refuseWait d).roomOk = true := by
  unfold Device.refuseWait
  simp [h0]

@[simp] theorem Device.addWait_roomOk (d : Device) (k : WaitKind) (st num : Nat) (h0 : d.roomOk = true) :
    (Device.addWait d k st num).roomOk = true := by
  unfold Device.addWait
  repeat' (first | with_reducible exact h0 | simp [h0] | split)

@[simp] theorem Device.startWait_roomOk (d : Device) (k : WaitKind) (st num : Nat) (h0 : d.roomOk = true) :
    (Device.startWait d k st num).2.2.roomOk = true := by
  unfold Device.startWait
  try dsimp only
  repeat' split
  all_goals first
    | simp (maxDischargeDepth := 16) [*]
    | (have h2 := congrArg (fun x => x.2.roomOk) ‹_ = (_, _)›
       simp (maxDischargeDepth := 16) [h0] at h2
       simp (maxDischargeDepth := 16) [*])
    | (have h2 := congrArg (fun x => x.1.roomOk) ‹_ = (_, _)›
       simp (maxDischargeDepth := 16) [h0] at h2
       simp (maxDischargeDepth := 16) [*])
    | (have h2 := congrArg (fun x => x.2.2.roomOk) ‹_ = (_, _, _)›
       simp (maxDischargeDepth := 16) [h0] at h2
       simp (maxDischargeDepth := 16) [*])

@[simp] theorem Device.onSlot_roomOk (d : Device) (i : Nat) (f : Slot → Slot) (h0 : d.roomOk = true) :
    (Device.onSlot d i f).roomOk = true := by
  unfold Device.onSlot
  simp [h0]

@[simp] theorem Device.onXferCounts_roomOk (d : Device) (f : XferCounts → XferCounts) (h0 : d.roomOk = true) :
    (Device.onXferCounts d f).roomOk = true := by
  unfold Device.onXferCounts
  simp [h0]

@[simp] theorem Device.takeSlot_roomOk (d : Device) (i : Nat) (st : SlotState) (origin : Origin) (tag : Nat) (cls : MsgClass) (dest orig : Station) (grant : Option Nat) (len : Nat) (h0 : d.roomOk = true) :
    (Device.takeSlot d i st origin tag cls dest orig grant len).roomOk = true := by
  unfold Device.takeSlot
  simp [h0]

@[simp] theorem Device.withdrawData_roomOk (d : Device) (i : Nat) (h0 : d.roomOk = true) :
    (Device.withdrawData d i).roomOk = true := by
  unfold Device.withdrawData
  simp [h0]

@[simp] theorem Device.goReady_roomOk (d : Device) (i : Nat) (h0 : d.roomOk = true) :
    (Device.goReady d i).roomOk = true := by
  unfold Device.goReady
  split <;> simp [h0]

@[simp] theorem Device.takeAnswer_roomOk (d : Device) (i : Nat) (ans : Option Station) (h0 : d.roomOk = true) :
    (Device.takeAnswer d i ans).roomOk = true := by
  unfold Device.takeAnswer
  dsimp only
  repeat' (first
    | with_reducible assumption
    | simp (maxDischargeDepth := 16) [*]
    | (refine foldl_roomOk _ ?_ _ _ ?_; intro _ _ _)
    | (refine Device.orPending_roomOk _ _ _ ?_ ?_; intro _)
    | split)

@[simp] theorem Device.askRoute_roomOk (d : Device) (i : Nat) (h0 : d.roomOk = true) :
    (Device.askRoute d i).roomOk = true := by
  unfold Device.askRoute
  simp [h0]

@[simp] theorem Device.startRoute_roomOk (d : Device) (i : Nat) (h0 : d.roomOk = true) :
    (Device.startRoute d i).roomOk = true := by
  unfold Device.startRoute
  simp [h0]

@[simp] theorem Device.routeEvent_roomOk (d : Device) (st : Station) (h0 : d.roomOk = true) :
    (Device.routeEvent d st).roomOk = true := by
  unfold Device.routeEvent
  exact foldl_roomOk _ (fun _ _ h => by split <;> simp (maxDischargeDepth := 16) [h]) _ _ (by simp (maxDischargeDepth := 16) [h0])

@[simp] theorem Device.routeEvents_roomOk (d : Device) (sts : List Station) (h0 : d.roomOk = true) :
    (Device.routeEvents d sts).roomOk = true := by
  unfold Device.routeEvents
  exact foldl_roomOk _ (fun _ _ h => by simp (maxDischargeDepth := 16) [h]) _ _ (by simp (maxDischargeDepth := 16) [h0])

@[simp] theorem Device.refreshData_roomOk (d : Device) (h0 : d.roomOk = true) :
    (Device.refreshData d).roomOk = true := by
  unfold Device.refreshData
  repeat' (first | with_reducible exact h0 | simp [h0] | split)

@[simp] theorem Device.onLogCounts_roomOk (d : Device) (f : LogCounts → LogCounts) (h0 : d.roomOk = true) :
    (Device.onLogCounts d f).roomOk = true := by
  unfold Device.onLogCounts
  simp [h0]

@[simp] theorem Device.onHaul_roomOk (d : Device) (i : Nat) (f : Haul → Haul) (h0 : d.roomOk = true) :
    (Device.onHaul d i f).roomOk = true := by
  unfold Device.onHaul
  simp [h0]

@[simp] theorem Device.onCell_roomOk (d : Device) (rect : Nat) (sp : Species) (f : TallyCell → TallyCell) (h0 : d.roomOk = true) :
    (Device.onCell d rect sp f).roomOk = true := by
  unfold Device.onCell
  split <;> simp [h0]

@[simp] theorem Device.onQuota_roomOk (d : Device) (sp : Species) (f : QuotaEntry → QuotaEntry) (h0 : d.roomOk = true) :
    (Device.onQuota d sp f).roomOk = true := by
  unfold Device.onQuota
  simp [h0]

@[simp] theorem Device.reportQuota_roomOk (d : Device) (sp : Species) (prev : Option QuotaState) (cause : Nat) (h0 : d.roomOk = true) :
    (Device.reportQuota d sp prev cause).roomOk = true := by
  unfold Device.reportQuota
  repeat' (first | with_reducible exact h0 | simp [h0] | split)

@[simp] theorem Device.evaluateQuota_roomOk (d : Device) (sp : Species) (cause : Nat) (h0 : d.roomOk = true) :
    (Device.evaluateQuota d sp cause).2.roomOk = true := by
  unfold Device.evaluateQuota
  repeat' (first | with_reducible exact h0 | simp [h0] | split)

@[simp] theorem Device.onRepCounts_roomOk (d : Device) (f : RepCounts → RepCounts) (h0 : d.roomOk = true) :
    (Device.onRepCounts d f).roomOk = true := by
  unfold Device.onRepCounts
  simp [h0]

@[simp] theorem Device.reportCatchState_roomOk (d : Device) (e : RepEvent) (minutes : Option Nat) (h0 : d.roomOk = true) :
    (Device.reportCatchState d e minutes).roomOk = true := by
  unfold Device.reportCatchState
  simp [h0]

@[simp] theorem Device.reportCatchKind_roomOk (d : Device) (e : RepEvent) (kind : ReportReason) (h0 : d.roomOk = true) :
    (Device.reportCatchKind d e kind).roomOk = true := by
  unfold Device.reportCatchKind
  simp [h0]

@[simp] theorem Device.enterPending_roomOk (d : Device) (kind : ReportReason) (h0 : d.roomOk = true) :
    (Device.enterPending d kind).roomOk = true := by
  unfold Device.enterPending
  split <;> simp [h0]

@[simp] theorem Device.build_roomOk (d : Device) (kind : ReportReason) (i : Nat) (h0 : d.roomOk = true) :
    (Device.build d kind i).roomOk = true := by
  unfold Device.build
  try dsimp only
  repeat' split
  all_goals first
    | simp (maxDischargeDepth := 16) [*]
    | (have h2 := congrArg (fun x => x.2.roomOk) ‹_ = (_, _)›
       simp (maxDischargeDepth := 16) [h0] at h2
       simp (maxDischargeDepth := 16) [*])
    | (have h2 := congrArg (fun x => x.1.roomOk) ‹_ = (_, _)›
       simp (maxDischargeDepth := 16) [h0] at h2
       simp (maxDischargeDepth := 16) [*])
    | (have h2 := congrArg (fun x => x.2.2.roomOk) ‹_ = (_, _, _)›
       simp (maxDischargeDepth := 16) [h0] at h2
       simp (maxDischargeDepth := 16) [*])

@[simp] theorem Device.tryBuild_roomOk (d : Device) (kind : ReportReason) (h0 : d.roomOk = true) :
    (Device.tryBuild d kind).roomOk = true := by
  unfold Device.tryBuild
  try dsimp only
  repeat' split
  all_goals first
    | simp (maxDischargeDepth := 16) [*]
    | (have h2 := congrArg (fun x => x.2.roomOk) ‹_ = (_, _)›
       simp (maxDischargeDepth := 16) [h0] at h2
       simp (maxDischargeDepth := 16) [*])
    | (have h2 := congrArg (fun x => x.1.roomOk) ‹_ = (_, _)›
       simp (maxDischargeDepth := 16) [h0] at h2
       simp (maxDischargeDepth := 16) [*])
    | (have h2 := congrArg (fun x => x.2.2.roomOk) ‹_ = (_, _, _)›
       simp (maxDischargeDepth := 16) [h0] at h2
       simp (maxDischargeDepth := 16) [*])

@[simp] theorem Device.trigger_roomOk (d : Device) (kind : ReportReason) (h0 : d.roomOk = true) :
    (Device.trigger d kind).roomOk = true := by
  unfold Device.trigger
  split <;> simp [h0]

@[simp] theorem Device.buildPending_roomOk (d : Device) (h0 : d.roomOk = true) :
    (Device.buildPending d).roomOk = true := by
  unfold Device.buildPending
  split <;> simp [h0]

@[simp] theorem Device.slotFreed_roomOk (d : Device) (h0 : d.roomOk = true) :
    (Device.slotFreed d).roomOk = true := by
  unfold Device.slotFreed
  split <;> simp [h0]

@[simp] theorem Device.closeReport_roomOk (d : Device) (e : Ending) (h0 : d.roomOk = true) :
    (Device.closeReport d e).roomOk = true := by
  unfold Device.closeReport
  repeat' (first | with_reducible exact h0 | simp [h0] | split)

@[simp] theorem Device.countEnding_roomOk (d : Device) (e : Ending) (h0 : d.roomOk = true) :
    (Device.countEnding d e).roomOk = true := by
  unfold Device.countEnding
  simp [h0]

@[simp] theorem Device.endReport_roomOk (d : Device) (e : Ending) (cause : Option LostCause) (h0 : d.roomOk = true) :
    (Device.endReport d e cause).roomOk = true := by
  unfold Device.endReport
  simp (maxDischargeDepth := 16) [h0]

@[simp] theorem Device.catchOutcome_roomOk (d : Device) (o : Outcome) (h0 : d.roomOk = true) :
    (Device.catchOutcome d o).roomOk = true := by
  unfold Device.catchOutcome
  repeat' (first | with_reducible exact h0 | simp [h0] | split)

@[simp] theorem Device.removeReasm_roomOk (d : Device) (src num : Nat) (h0 : d.roomOk = true) :
    (Device.removeReasm d src num).roomOk = true := by
  unfold Device.removeReasm
  simp [h0]

@[simp] theorem Device.onReasm_roomOk (d : Device) (src num : Nat) (f : Reasm → Reasm) (h0 : d.roomOk = true) :
    (Device.onReasm d src num f).roomOk = true := by
  unfold Device.onReasm
  simp [h0]

@[simp] theorem Device.startRelay_roomOk (d : Device) (i : Nat) (e : Reasm) (h0 : d.roomOk = true) :
    (Device.startRelay d i e).roomOk = true := by
  unfold Device.startRelay
  simp [h0]

@[simp] theorem Device.handOverRelay_roomOk (d : Device) (e : Reasm) (h0 : d.roomOk = true) :
    (Device.handOverRelay d e).roomOk = true := by
  unfold Device.handOverRelay
  repeat' (first | with_reducible exact h0 | simp [h0] | split)

@[simp] theorem Device.retryHandOvers_roomOk (d : Device) (h0 : d.roomOk = true) :
    (Device.retryHandOvers d).roomOk = true := by
  unfold Device.retryHandOvers
  exact foldl_roomOk _ (fun _ _ h => by simp (maxDischargeDepth := 16) [h]) _ _ (by simp (maxDischargeDepth := 16) [h0])

@[simp] theorem Device.releaseOutbound_roomOk (d : Device) (id : Nat) (h0 : d.roomOk = true) :
    (Device.releaseOutbound d id).roomOk = true := by
  unfold Device.releaseOutbound
  simp [h0]

@[simp] theorem Device.releaseGrant_roomOk (d : Device) (id : Nat) (h0 : d.roomOk = true) :
    (Device.releaseGrant d id).roomOk = true := by
  unfold Device.releaseGrant
  simp [h0]

@[simp] theorem Device.freeSlot_roomOk (d : Device) (i : Nat) (h0 : d.roomOk = true) :
    (Device.freeSlot d i).roomOk = true := by
  unfold Device.freeSlot
  simp [h0]

@[simp] theorem Device.discardReasm_roomOk (d : Device) (e : Reasm) (h0 : d.roomOk = true) :
    (Device.discardReasm d e).roomOk = true := by
  unfold Device.discardReasm
  split <;> simp (maxDischargeDepth := 16) [h0]

@[simp] theorem Device.countOutcome_roomOk (d : Device) (o : Outcome) (h0 : d.roomOk = true) :
    (Device.countOutcome d o).roomOk = true := by
  unfold Device.countOutcome
  simp [h0]

@[simp] theorem Device.endTransfer_roomOk (d : Device) (i : Nat) (o : Outcome) (h0 : d.roomOk = true) :
    (Device.endTransfer d i o).roomOk = true := by
  unfold Device.endTransfer
  try dsimp only
  repeat' split
  all_goals first
    | simp (maxDischargeDepth := 16) [*]
    | (have h2 := congrArg (fun x => x.2.roomOk) ‹_ = (_, _)›
       simp (maxDischargeDepth := 16) [h0] at h2
       simp (maxDischargeDepth := 16) [*])
    | (have h2 := congrArg (fun x => x.1.roomOk) ‹_ = (_, _)›
       simp (maxDischargeDepth := 16) [h0] at h2
       simp (maxDischargeDepth := 16) [*])
    | (have h2 := congrArg (fun x => x.2.2.roomOk) ‹_ = (_, _, _)›
       simp (maxDischargeDepth := 16) [h0] at h2
       simp (maxDischargeDepth := 16) [*])

@[simp] theorem Device.startConsole_roomOk (d : Device) (i : Nat) (h0 : d.roomOk = true) :
    (Device.startConsole d i).roomOk = true := by
  unfold Device.startConsole
  try dsimp only
  repeat' split
  all_goals first
    | simp (maxDischargeDepth := 16) [*]
    | (have h2 := congrArg (fun x => x.2.roomOk) ‹_ = (_, _)›
       simp (maxDischargeDepth := 16) [h0] at h2
       simp (maxDischargeDepth := 16) [*])
    | (have h2 := congrArg (fun x => x.1.roomOk) ‹_ = (_, _)›
       simp (maxDischargeDepth := 16) [h0] at h2
       simp (maxDischargeDepth := 16) [*])
    | (have h2 := congrArg (fun x => x.2.2.roomOk) ‹_ = (_, _, _)›
       simp (maxDischargeDepth := 16) [h0] at h2
       simp (maxDischargeDepth := 16) [*])

@[simp] theorem Device.hopFails_roomOk (d : Device) (i : Nat) (h0 : d.roomOk = true) :
    (Device.hopFails d i).roomOk = true := by
  unfold Device.hopFails
  try dsimp only
  repeat' split
  all_goals first
    | simp (maxDischargeDepth := 16) [*]
    | (have h2 := congrArg (fun x => x.2.roomOk) ‹_ = (_, _)›
       simp (maxDischargeDepth := 16) [h0] at h2
       simp (maxDischargeDepth := 16) [*])
    | (have h2 := congrArg (fun x => x.1.roomOk) ‹_ = (_, _)›
       simp (maxDischargeDepth := 16) [h0] at h2
       simp (maxDischargeDepth := 16) [*])
    | (have h2 := congrArg (fun x => x.2.2.roomOk) ‹_ = (_, _, _)›
       simp (maxDischargeDepth := 16) [h0] at h2
       simp (maxDischargeDepth := 16) [*])

@[simp] theorem Device.leaveAck_roomOk (d : Device) (i : Nat) (h0 : d.roomOk = true) :
    (Device.leaveAck d i).roomOk = true := by
  unfold Device.leaveAck
  simp [h0]

@[simp] theorem Device.takeTimeout_roomOk (d : Device) (i : Nat) (h0 : d.roomOk = true) :
    (Device.takeTimeout d i).roomOk = true := by
  unfold Device.takeTimeout
  dsimp only
  refine Device.orPending_roomOk _ _ _ (fun _ => ?_) ?_
  all_goals (try dsimp only)
  all_goals repeat' split
  all_goals simp (maxDischargeDepth := 16) [h0]

@[simp] theorem Device.takeAccepted_roomOk (d : Device) (i : Nat) (h0 : d.roomOk = true) :
    (Device.takeAccepted d i).roomOk = true := by
  unfold Device.takeAccepted
  dsimp only
  split
  · simp (maxDischargeDepth := 16) [h0]
  · refine Device.orPending_roomOk _ _ _ (fun _ => ?_) ?_ <;> simp (maxDischargeDepth := 16) [h0]

@[simp] theorem Device.takeFull_roomOk (d : Device) (i : Nat) (h0 : d.roomOk = true) :
    (Device.takeFull d i).roomOk = true := by
  unfold Device.takeFull
  dsimp only
  refine Device.orPending_roomOk _ _ _ (fun _ => ?_) ?_
  all_goals (try dsimp only)
  all_goals repeat' split
  all_goals simp (maxDischargeDepth := 16) [h0]

@[simp] theorem Device.takeNoRelay_roomOk (d : Device) (i : Nat) (h0 : d.roomOk = true) :
    (Device.takeNoRelay d i).roomOk = true := by
  unfold Device.takeNoRelay
  dsimp only
  repeat' split
  all_goals first
    | (simp (maxDischargeDepth := 16) [h0]; done)
    | (refine Device.orPending_roomOk _ _ _ (fun _ => ?_) ?_ <;> simp (maxDischargeDepth := 16) [h0])

@[simp] theorem Device.takeUnknown_roomOk (d : Device) (i : Nat) (h0 : d.roomOk = true) :
    (Device.takeUnknown d i).roomOk = true := by
  unfold Device.takeUnknown
  dsimp only
  refine Device.orPending_roomOk _ _ _ (fun _ => ?_) ?_
  all_goals (try dsimp only)
  all_goals repeat' split
  all_goals simp (maxDischargeDepth := 16) [h0]

@[simp] theorem Device.receiveAck_roomOk (d : Device) (b : Burst) (h0 : d.roomOk = true) :
    (Device.receiveAck d b).roomOk = true := by
  unfold Device.receiveAck
  try dsimp only
  repeat' split
  all_goals first
    | simp (maxDischargeDepth := 16) [*]
    | (have h2 := congrArg (fun x => x.2.roomOk) ‹_ = (_, _)›
       simp (maxDischargeDepth := 16) [h0] at h2
       simp (maxDischargeDepth := 16) [*])
    | (have h2 := congrArg (fun x => x.1.roomOk) ‹_ = (_, _)›
       simp (maxDischargeDepth := 16) [h0] at h2
       simp (maxDischargeDepth := 16) [*])
    | (have h2 := congrArg (fun x => x.2.2.roomOk) ‹_ = (_, _, _)›
       simp (maxDischargeDepth := 16) [h0] at h2
       simp (maxDischargeDepth := 16) [*])

@[simp] theorem Device.takeWaitingTimeout_roomOk (d : Device) (h0 : d.roomOk = true) :
    (Device.takeWaitingTimeout d).roomOk = true := by
  unfold Device.takeWaitingTimeout
  repeat' (first | with_reducible exact h0 | simp [h0] | split)

@[simp] theorem Device.dataKeyed_roomOk (d : Device) (i : Nat) (h0 : d.roomOk = true) :
    (Device.dataKeyed d i).roomOk = true := by
  unfold Device.dataKeyed
  simp [h0]

@[simp] theorem Device.goHeld_roomOk (d : Device) (i : Nat) (from' : SlotState) (h0 : d.roomOk = true) :
    (Device.goHeld d i from').roomOk = true := by
  unfold Device.goHeld
  refine Device.orPending_roomOk _ _ _ (fun _ => ?_) ?_ <;> simp (maxDischargeDepth := 16) [h0]

@[simp] theorem Device.dataSent_roomOk (d : Device) (i : Nat) (h0 : d.roomOk = true) :
    (Device.dataSent d i).roomOk = true := by
  unfold Device.dataSent
  repeat' (first | with_reducible exact h0 | simp [h0] | split)

@[simp] theorem Device.dataAborted_roomOk (d : Device) (i : Nat) (h0 : d.roomOk = true) :
    (Device.dataAborted d i).roomOk = true := by
  unfold Device.dataAborted
  repeat' split
  all_goals first
    | (simp (maxDischargeDepth := 16) [h0]; done)
    | (refine Device.orPending_roomOk _ _ _ (fun _ => ?_) ?_ <;> simp (maxDischargeDepth := 16) [h0])

@[simp] theorem Device.askEnding_roomOk (d : Device) (i : Nat) (o : Outcome) (h0 : d.roomOk = true) :
    (Device.askEnding d i o).roomOk = true := by
  unfold Device.askEnding
  try dsimp only
  repeat' split
  all_goals first
    | simp (maxDischargeDepth := 16) [*]
    | (have h2 := congrArg (fun x => x.2.roomOk) ‹_ = (_, _)›
       simp (maxDischargeDepth := 16) [h0] at h2
       simp (maxDischargeDepth := 16) [*])
    | (have h2 := congrArg (fun x => x.1.roomOk) ‹_ = (_, _)›
       simp (maxDischargeDepth := 16) [h0] at h2
       simp (maxDischargeDepth := 16) [*])
    | (have h2 := congrArg (fun x => x.2.2.roomOk) ‹_ = (_, _, _)›
       simp (maxDischargeDepth := 16) [h0] at h2
       simp (maxDischargeDepth := 16) [*])

@[simp] theorem Device.voidSubmit_roomOk (d : Device) (h0 : d.roomOk = true) :
    (Device.voidSubmit d).roomOk = true := by
  unfold Device.voidSubmit
  split <;> simp (maxDischargeDepth := 16) [h0]

@[simp] theorem Device.holdTransfers_roomOk (d : Device) (h0 : d.roomOk = true) :
    (Device.holdTransfers d).roomOk = true := by
  unfold Device.holdTransfers
  refine foldl_roomOk _ (fun _ _ h => ?_) _ _ (by simp (maxDischargeDepth := 16) [h0])
  dsimp only
  split
  · exact Device.goHeld_roomOk _ _ _ (by simp (maxDischargeDepth := 16) [h])
  · exact h

@[simp] theorem Device.unhold_roomOk (d : Device) (i : Nat) (h0 : d.roomOk = true) :
    (Device.unhold d i).roomOk = true := by
  unfold Device.unhold
  repeat' (first | with_reducible exact h0 | simp [h0] | split)

@[simp] theorem Device.unholdTransfers_roomOk (d : Device) (h0 : d.roomOk = true) :
    (Device.unholdTransfers d).roomOk = true := by
  unfold Device.unholdTransfers
  exact foldl_roomOk _ (fun _ _ h => by simp (maxDischargeDepth := 16) [h]) _ _ (by simp (maxDischargeDepth := 16) [h0])

@[simp] theorem Device.flushTransfers_roomOk (d : Device) (h0 : d.roomOk = true) :
    (Device.flushTransfers d).roomOk = true := by
  unfold Device.flushTransfers
  refine foldl_roomOk _ (fun _ _ h => ?_) _ _ (foldl_roomOk _ (fun _ _ h => ?_) _ _ h0)
  · simp (maxDischargeDepth := 16) [h]
  · dsimp only
    split <;> simp (maxDischargeDepth := 16) [h]

@[simp] theorem Device.onWeatherCounts_roomOk (d : Device) (f : WeatherCounts → WeatherCounts) (h0 : d.roomOk = true) :
    (Device.onWeatherCounts d f).roomOk = true := by
  unfold Device.onWeatherCounts
  simp [h0]

@[simp] theorem Device.onForecast_roomOk (d : Device) (area : Nat) (complete : Bool) (f : Forecast → Forecast) (h0 : d.roomOk = true) :
    (Device.onForecast d area complete f).roomOk = true := by
  unfold Device.onForecast
  simp [h0]

@[simp] theorem Device.freeForecast_roomOk (d : Device) (f : Forecast) (h0 : d.roomOk = true) :
    (Device.freeForecast d f).roomOk = true := by
  unfold Device.freeForecast
  simp [h0]

@[simp] theorem Device.forecastRoom_roomOk (d : Device) (area size : Nat) (a0 : Nat) (h0 : d.roomOk = true) :
    (Device.forecastRoom d area size a0).2.roomOk = true := by
  induction a0 generalizing d with
  | zero => exact h0
  | succ n ih =>
    unfold Device.forecastRoom
    split <;> rename_i r e h
    have h2 : e.roomOk = true := by
      have h3 := congrArg (fun x => x.2.roomOk) h
      dsimp only at h3
      rw [← h3]
      split <;> simp (maxDischargeDepth := 16) [h0]
    split
    · exact h2
    · split
      · exact h2
      · exact ih _ (by simp (maxDischargeDepth := 16) [h2])

@[simp] theorem Device.storePart_roomOk (d : Device) (f : Forecast) (h : ForecastHeader) (b : Burst) (h0 : d.roomOk = true) :
    (Device.storePart d f h b).roomOk = true := by
  unfold Device.storePart
  simp [h0]

@[simp] theorem Device.completeForecast_roomOk (d : Device) (area : Nat) (h0 : d.roomOk = true) :
    (Device.completeForecast d area).roomOk = true := by
  unfold Device.completeForecast
  try dsimp only
  repeat' split
  all_goals first
    | simp (maxDischargeDepth := 16) [*]
    | (have h2 := congrArg (fun x => x.2.roomOk) ‹_ = (_, _)›
       simp (maxDischargeDepth := 16) [h0] at h2
       simp (maxDischargeDepth := 16) [*])
    | (have h2 := congrArg (fun x => x.1.roomOk) ‹_ = (_, _)›
       simp (maxDischargeDepth := 16) [h0] at h2
       simp (maxDischargeDepth := 16) [*])
    | (have h2 := congrArg (fun x => x.2.2.roomOk) ‹_ = (_, _, _)›
       simp (maxDischargeDepth := 16) [h0] at h2
       simp (maxDischargeDepth := 16) [*])

@[simp] theorem Device.countNotBetter_roomOk (d : Device) (h0 : d.roomOk = true) :
    (Device.countNotBetter d).roomOk = true := by
  unfold Device.countNotBetter
  simp [h0]

@[simp] theorem Device.partToCollecting_roomOk (d : Device) (f : Forecast) (h : ForecastHeader) (b : Burst) (h0 : d.roomOk = true) :
    (Device.partToCollecting d f h b).roomOk = true := by
  unfold Device.partToCollecting
  try dsimp only
  repeat' split
  all_goals first
    | simp (maxDischargeDepth := 16) [*]
    | (have h2 := congrArg (fun x => x.2.roomOk) ‹_ = (_, _)›
       simp (maxDischargeDepth := 16) [h0] at h2
       simp (maxDischargeDepth := 16) [*])
    | (have h2 := congrArg (fun x => x.1.roomOk) ‹_ = (_, _)›
       simp (maxDischargeDepth := 16) [h0] at h2
       simp (maxDischargeDepth := 16) [*])
    | (have h2 := congrArg (fun x => x.2.2.roomOk) ‹_ = (_, _, _)›
       simp (maxDischargeDepth := 16) [h0] at h2
       simp (maxDischargeDepth := 16) [*])

@[simp] theorem Device.partToComplete_roomOk (d : Device) (f : Forecast) (h : ForecastHeader) (b : Burst) (h0 : d.roomOk = true) :
    (Device.partToComplete d f h b).roomOk = true := by
  unfold Device.partToComplete
  try dsimp only
  repeat' split
  all_goals first
    | simp (maxDischargeDepth := 16) [*]
    | (have h2 := congrArg (fun x => x.2.roomOk) ‹_ = (_, _)›
       simp (maxDischargeDepth := 16) [h0] at h2
       simp (maxDischargeDepth := 16) [*])
    | (have h2 := congrArg (fun x => x.1.roomOk) ‹_ = (_, _)›
       simp (maxDischargeDepth := 16) [h0] at h2
       simp (maxDischargeDepth := 16) [*])
    | (have h2 := congrArg (fun x => x.2.2.roomOk) ‹_ = (_, _, _)›
       simp (maxDischargeDepth := 16) [h0] at h2
       simp (maxDischargeDepth := 16) [*])

@[simp] theorem Device.partTo_roomOk (d : Device) (f : Forecast) (h : ForecastHeader) (b : Burst) (h0 : d.roomOk = true) :
    (Device.partTo d f h b).roomOk = true := by
  unfold Device.partTo
  try dsimp only
  repeat' split
  all_goals first
    | simp (maxDischargeDepth := 16) [*]
    | (have h2 := congrArg (fun x => x.2.roomOk) ‹_ = (_, _)›
       simp (maxDischargeDepth := 16) [h0] at h2
       simp (maxDischargeDepth := 16) [*])
    | (have h2 := congrArg (fun x => x.1.roomOk) ‹_ = (_, _)›
       simp (maxDischargeDepth := 16) [h0] at h2
       simp (maxDischargeDepth := 16) [*])
    | (have h2 := congrArg (fun x => x.2.2.roomOk) ‹_ = (_, _, _)›
       simp (maxDischargeDepth := 16) [h0] at h2
       simp (maxDischargeDepth := 16) [*])

@[simp] theorem Device.countStale_roomOk (d : Device) (h0 : d.roomOk = true) :
    (Device.countStale d).roomOk = true := by
  unfold Device.countStale
  simp [h0]

@[simp] theorem Device.openCollection_roomOk (d : Device) (h : ForecastHeader) (b : Burst) (old : Option Forecast) (h0 : d.roomOk = true) :
    (Device.openCollection d h b old).roomOk = true := by
  unfold Device.openCollection
  split
  · exact h0
  · dsimp only
    split
    all_goals
      rename_i h
      have h2 := congrArg (fun x => x.2.roomOk) h
      dsimp only at h2
      rw [Device.forecastRoom_roomOk _ _ _ _ (by split <;> simp (maxDischargeDepth := 16) [h0])] at h2
    · simp (maxDischargeDepth := 16) [← h2]
    · simp (maxDischargeDepth := 16) [← h2]

@[simp] theorem Device.placePart_roomOk (d : Device) (h : ForecastHeader) (b : Burst) (h0 : d.roomOk = true) :
    (Device.placePart d h b).roomOk = true := by
  unfold Device.placePart
  repeat' (first | with_reducible exact h0 | simp [h0] | split)

@[simp] theorem Device.countMalformed_roomOk (d : Device) (h0 : d.roomOk = true) :
    (Device.countMalformed d).roomOk = true := by
  unfold Device.countMalformed
  simp [h0]

@[simp] theorem Device.countHeaderErasure_roomOk (d : Device) (h0 : d.roomOk = true) :
    (Device.countHeaderErasure d).roomOk = true := by
  unfold Device.countHeaderErasure
  simp [h0]

@[simp] theorem Device.countForeign_roomOk (d : Device) (h0 : d.roomOk = true) :
    (Device.countForeign d).roomOk = true := by
  unfold Device.countForeign
  simp [h0]

@[simp] theorem Device.receiveForecast_roomOk (d : Device) (b : Burst) (h0 : d.roomOk = true) :
    (Device.receiveForecast d b).roomOk = true := by
  unfold Device.receiveForecast
  repeat' (first | with_reducible exact h0 | simp [h0] | split)

@[simp] theorem Device.expireForecast_roomOk (d : Device) (f : Forecast) (h0 : d.roomOk = true) :
    (Device.expireForecast d f).roomOk = true := by
  unfold Device.expireForecast
  simp (maxDischargeDepth := 16) [h0]

@[simp] theorem Device.discardForecast_roomOk (d : Device) (f : Forecast) (h0 : d.roomOk = true) :
    (Device.discardForecast d f).roomOk = true := by
  unfold Device.discardForecast
  simp [h0]

@[simp] theorem Device.onWarning_roomOk (d : Device) (issuer issue : Nat) (f : Warning → Warning) (h0 : d.roomOk = true) :
    (Device.onWarning d issuer issue f).roomOk = true := by
  unfold Device.onWarning
  simp [h0]

@[simp] theorem Device.lostWeatherReport_roomOk (d : Device) (h0 : d.roomOk = true) :
    (Device.lostWeatherReport d).roomOk = true := by
  unfold Device.lostWeatherReport
  simp [h0]

@[simp] theorem Device.freeWarning_roomOk (d : Device) (w : Warning) (h0 : d.roomOk = true) :
    (Device.freeWarning d w).roomOk = true := by
  unfold Device.freeWarning
  try dsimp only
  repeat' split
  all_goals first
    | simp (maxDischargeDepth := 16) [*]
    | (have h2 := congrArg (fun x => x.2.roomOk) ‹_ = (_, _)›
       simp (maxDischargeDepth := 16) [h0] at h2
       simp (maxDischargeDepth := 16) [*])
    | (have h2 := congrArg (fun x => x.1.roomOk) ‹_ = (_, _)›
       simp (maxDischargeDepth := 16) [h0] at h2
       simp (maxDischargeDepth := 16) [*])
    | (have h2 := congrArg (fun x => x.2.2.roomOk) ‹_ = (_, _, _)›
       simp (maxDischargeDepth := 16) [h0] at h2
       simp (maxDischargeDepth := 16) [*])

@[simp] theorem Device.reportWarning_roomOk (d : Device) (w : Warning) (event : Nat) (h0 : d.roomOk = true) :
    (Device.reportWarning d w event).roomOk = true := by
  unfold Device.reportWarning
  simp [h0]

@[simp] theorem Device.warningNotStored_roomOk (d : Device) (w : Warning) (h0 : d.roomOk = true) :
    (Device.warningNotStored d w).roomOk = true := by
  unfold Device.warningNotStored
  try dsimp only
  repeat' split
  all_goals first
    | exact h0
    | simp (maxDischargeDepth := 16) [h0]
    | (rename_i h
       have h2 := congrArg (fun x => x.2.roomOk) h
       dsimp only at h2
       rw [Device.reserve_roomOk _ _ _ h0] at h2
       simp (maxDischargeDepth := 16) [h2.symm])
    | (rename_i h
       have h2 := congrArg (fun x => x.2.roomOk) h
       simp (maxDischargeDepth := 16) [h0] at h2
       simp (maxDischargeDepth := 16) [h2])
    | (rename_i h _
       have h2 := congrArg (fun x => x.2.roomOk) h
       simp (maxDischargeDepth := 16) [h0] at h2
       simp (maxDischargeDepth := 16) [h2])
    | (rename_i h
       have h2 := congrArg (fun x => x.2.2.roomOk) h
       simp (maxDischargeDepth := 16) [h0] at h2
       simp (maxDischargeDepth := 16) [h2])

@[simp] theorem Device.storeWarning_roomOk (d : Device) (h : WarningHeader) (sev : Severity) (b : Burst) (h0 : d.roomOk = true) :
    (Device.storeWarning d h sev b).roomOk = true := by
  unfold Device.storeWarning
  try dsimp only
  repeat' split
  all_goals first
    | exact h0
    | (have h2 := Device.reserve_eq_roomOk ‹Device.reserve _ _ _ = _› (by simp (maxDischargeDepth := 16) [h0])
       simp (maxDischargeDepth := 16) [h2]
       done)
    | simp (maxDischargeDepth := 16) [h0]

@[simp] theorem Device.improveWarning_roomOk (d : Device) (old : Warning) (h : WarningHeader) (sev : Severity) (b : Burst) (h0 : d.roomOk = true) :
    (Device.improveWarning d old h sev b).roomOk = true := by
  unfold Device.improveWarning
  dsimp only
  split
  · simp (maxDischargeDepth := 16) [h0]
  · split <;>
      (have h2 := Device.reserve_eq_roomOk ‹Device.reserve _ _ _ = _› (by simp (maxDischargeDepth := 16) [h0])
       simp (maxDischargeDepth := 16) [h2])
  

@[simp] theorem Device.newWarning_roomOk (d : Device) (h : WarningHeader) (sev : Severity) (b : Burst) (h0 : d.roomOk = true) :
    (Device.newWarning d h sev b).roomOk = true := by
  unfold Device.newWarning
  repeat' (first | with_reducible exact h0 | simp [h0] | split)

@[simp] theorem Device.examineWarning_roomOk (d : Device) (issuer issue : Nat) (b : Burst) (h0 : d.roomOk = true) :
    (Device.examineWarning d issuer issue b).roomOk = true := by
  unfold Device.examineWarning
  try dsimp only
  repeat' split
  all_goals first
    | exact h0
    | simp (maxDischargeDepth := 16) [h0]
    | (rename_i h
       have h2 := congrArg (fun x => x.2.roomOk) h
       dsimp only at h2
       rw [Device.reserve_roomOk _ _ _ h0] at h2
       simp (maxDischargeDepth := 16) [h2.symm])
    | (rename_i h
       have h2 := congrArg (fun x => x.2.roomOk) h
       simp (maxDischargeDepth := 16) [h0] at h2
       simp (maxDischargeDepth := 16) [h2])
    | (rename_i h _
       have h2 := congrArg (fun x => x.2.roomOk) h
       simp (maxDischargeDepth := 16) [h0] at h2
       simp (maxDischargeDepth := 16) [h2])
    | (rename_i h
       have h2 := congrArg (fun x => x.2.2.roomOk) h
       simp (maxDischargeDepth := 16) [h0] at h2
       simp (maxDischargeDepth := 16) [h2])

@[simp] theorem Device.suppressWarning_roomOk (d : Device) (issuer issue : Nat) (h0 : d.roomOk = true) :
    (Device.suppressWarning d issuer issue).roomOk = true := by
  unfold Device.suppressWarning
  repeat' (first | with_reducible exact h0 | simp [h0] | split)

@[simp] theorem Device.warningRelayHeard_roomOk (d : Device) (issuer issue : Nat) (h0 : d.roomOk = true) :
    (Device.warningRelayHeard d issuer issue).roomOk = true := by
  unfold Device.warningRelayHeard
  split <;> simp [h0]

@[simp] theorem Device.applyWarning_roomOk (d : Device) (h : WarningHeader) (sev : Severity) (b : Burst) (h0 : d.roomOk = true) :
    (Device.applyWarning d h sev b).roomOk = true := by
  unfold Device.applyWarning
  repeat' (first | with_reducible exact h0 | simp [h0] | split)

@[simp] theorem Device.receiveWarning_roomOk (d : Device) (b : Burst) (h0 : d.roomOk = true) :
    (Device.receiveWarning d b).roomOk = true := by
  unfold Device.receiveWarning
  try dsimp only
  repeat' split
  all_goals first
    | simp (maxDischargeDepth := 16) [*]
    | (have h2 := congrArg (fun x => x.2.roomOk) ‹_ = (_, _)›
       simp (maxDischargeDepth := 16) [h0] at h2
       simp (maxDischargeDepth := 16) [*])
    | (have h2 := congrArg (fun x => x.1.roomOk) ‹_ = (_, _)›
       simp (maxDischargeDepth := 16) [h0] at h2
       simp (maxDischargeDepth := 16) [*])
    | (have h2 := congrArg (fun x => x.2.2.roomOk) ‹_ = (_, _, _)›
       simp (maxDischargeDepth := 16) [h0] at h2
       simp (maxDischargeDepth := 16) [*])

@[simp] theorem Device.offerWarning_roomOk (d : Device) (issuer issue : Nat) (h0 : d.roomOk = true) :
    (Device.offerWarning d issuer issue).roomOk = true := by
  unfold Device.offerWarning
  split <;> simp [h0]

@[simp] theorem Device.warningSent_roomOk (d : Device) (issuer issue : Nat) (h0 : d.roomOk = true) :
    (Device.warningSent d issuer issue).roomOk = true := by
  unfold Device.warningSent
  simp [h0]

@[simp] theorem Device.warningAborted_roomOk (d : Device) (it : Item) (issuer issue : Nat) (h0 : d.roomOk = true) :
    (Device.warningAborted d it issuer issue).roomOk = true := by
  unfold Device.warningAborted
  repeat' (first | with_reducible exact h0 | simp [h0] | split)

@[simp] theorem Device.computeTimes_roomOk (d : Device) (h0 : d.roomOk = true) :
    (Device.computeTimes d).roomOk = true := by
  unfold Device.computeTimes
  simp [h0]

@[simp] theorem Device.reachValidity_roomOk (d : Device) (h0 : d.roomOk = true) :
    (Device.reachValidity d).roomOk = true := by
  unfold Device.reachValidity
  refine foldl_roomOk _ (fun _ _ h => ?_) _ _ (foldl_roomOk _ (fun _ _ h => ?_) _ _ h0)
  all_goals
    repeat' split
    all_goals simp (maxDischargeDepth := 16) [h]

@[simp] theorem Device.onMonitor_roomOk (d : Device) (m : MonitorId) (f : Monitor → Monitor) (h0 : d.roomOk = true) :
    (Device.onMonitor d m f).roomOk = true := by
  unfold Device.onMonitor
  simp [h0]

@[simp] theorem Device.reportMonitor_roomOk (d : Device) (m : MonitorId) (prev : MonState) (cause : ProtCause) (keyTime : Nat) (h0 : d.roomOk = true) :
    (Device.reportMonitor d m prev cause keyTime).roomOk = true := by
  unfold Device.reportMonitor
  repeat' (first | with_reducible exact h0 | simp [h0] | split)

@[simp] theorem Device.moveMonitor_roomOk (d : Device) (m : MonitorId) (st : MonState) (run : Nat) (cause : ProtCause) (keyTime : Nat) (h0 : d.roomOk = true) :
    (Device.moveMonitor d m st run cause keyTime).roomOk = true := by
  unfold Device.moveMonitor
  simp [h0]

@[simp] theorem Device.tripMonitor_roomOk (d : Device) (m : MonitorId) (h0 : d.roomOk = true) :
    (Device.tripMonitor d m).roomOk = true := by
  unfold Device.tripMonitor
  repeat' (first | with_reducible exact h0 | simp [h0] | split)

@[simp] theorem Device.sampleMonitor_roomOk (d : Device) (m : MonitorId) (active : Bool) (h0 : d.roomOk = true) :
    (Device.sampleMonitor d m active).2.roomOk = true := by
  unfold Device.sampleMonitor
  repeat' (first | with_reducible exact h0 | simp [h0] | split)

@[simp] theorem Device.sampleKeytime_roomOk (d : Device) (h0 : d.roomOk = true) :
    (Device.sampleKeytime d).roomOk = true := by
  unfold Device.sampleKeytime
  split <;> simp [h0]

@[simp] theorem Device.afterInhibit_roomOk (before : Bool) (d : Device) (h0 : d.roomOk = true) :
    (Device.afterInhibit before d).roomOk = true := by
  unfold Device.afterInhibit
  split <;> simp [h0]

@[simp] theorem Device.tripKeytime_roomOk (d : Device) (keyTime : Nat) (h0 : d.roomOk = true) :
    (Device.tripKeytime d keyTime).roomOk = true := by
  unfold Device.tripKeytime
  repeat' (first | with_reducible exact h0 | simp [h0] | split)

@[simp] theorem Device.recoverMonitor_roomOk (d : Device) (m : MonitorId) (h0 : d.roomOk = true) :
    (Device.recoverMonitor d m).roomOk = true := by
  unfold Device.recoverMonitor
  simp [h0]

@[simp] theorem Device.recoverAll_roomOk (d : Device) (h0 : d.roomOk = true) :
    (Device.recoverAll d).roomOk = true := by
  unfold Device.recoverAll
  exact foldl_roomOk _ (fun _ _ h => by split <;> simp (maxDischargeDepth := 16) [h]) _ _ (by simp (maxDischargeDepth := 16) [h0])

@[simp] theorem Device.endAlerts_roomOk (d : Device) (keyTime : Nat) (limit : Bool) (h0 : d.roomOk = true) :
    (Device.endAlerts d keyTime limit).roomOk = true := by
  unfold Device.endAlerts
  exact foldl_roomOk _ (fun _ _ h => by split <;> simp (maxDischargeDepth := 16) [h]) _ _ (by simp (maxDischargeDepth := 16) [h0])

@[simp] theorem Device.endRests_roomOk (d : Device) (h0 : d.roomOk = true) :
    (Device.endRests d).roomOk = true := by
  unfold Device.endRests
  simp [h0]

@[simp] theorem Device.dropKey_roomOk (d : Device) (limit : Bool) (h0 : d.roomOk = true) :
    (Device.dropKey d limit).roomOk = true := by
  unfold Device.dropKey
  simp (maxDischargeDepth := 16) [h0]

@[simp] theorem Device.reportLoop_roomOk (d : Device) (k : LoopKept) (h0 : d.roomOk = true) :
    (Device.reportLoop d k).roomOk = true := by
  unfold Device.reportLoop
  simp [h0]

@[simp] theorem Device.leaveLoop_roomOk (d : Device) (h0 : d.roomOk = true) :
    (Device.leaveLoop d).roomOk = true := by
  unfold Device.leaveLoop
  split <;> simp [h0]

@[simp] theorem Device.abandonLoop_roomOk (d : Device) (h0 : d.roomOk = true) :
    (Device.abandonLoop d).roomOk = true := by
  unfold Device.abandonLoop
  split <;> simp [h0]

@[simp] theorem Device.startLoop_roomOk (d : Device) (h0 : d.roomOk = true) :
    (Device.startLoop d).roomOk = true := by
  unfold Device.startLoop
  simp [h0]

@[simp] theorem Device.onDistressCounts_roomOk (d : Device) (f : DistressCounts → DistressCounts) (h0 : d.roomOk = true) :
    (Device.onDistressCounts d f).roomOk = true := by
  unfold Device.onDistressCounts
  simp [h0]

@[simp] theorem Device.onOwn_roomOk (d : Device) (f : OwnAlert → OwnAlert) (h0 : d.roomOk = true) :
    (Device.onOwn d f).roomOk = true := by
  unfold Device.onOwn
  simp [h0]

@[simp] theorem Device.startHold_roomOk (d : Device) (cause : Nat) (st : Station) (h0 : d.roomOk = true) :
    (Device.startHold d cause st).roomOk = true := by
  unfold Device.startHold
  try dsimp only
  repeat' split
  all_goals first
    | simp (maxDischargeDepth := 16) [*]
    | (have h2 := congrArg (fun x => x.2.roomOk) ‹_ = (_, _)›
       simp (maxDischargeDepth := 16) [h0] at h2
       simp (maxDischargeDepth := 16) [*])
    | (have h2 := congrArg (fun x => x.1.roomOk) ‹_ = (_, _)›
       simp (maxDischargeDepth := 16) [h0] at h2
       simp (maxDischargeDepth := 16) [*])
    | (have h2 := congrArg (fun x => x.2.2.roomOk) ‹_ = (_, _, _)›
       simp (maxDischargeDepth := 16) [h0] at h2
       simp (maxDischargeDepth := 16) [*])

@[simp] theorem Device.restartHold_roomOk (d : Device) (cause : Nat) (st : Station) (h0 : d.roomOk = true) :
    (Device.restartHold d cause st).roomOk = true := by
  unfold Device.restartHold
  repeat' (first | with_reducible exact h0 | simp [h0] | split)

@[simp] theorem Device.cutHold_roomOk (d : Device) (h0 : d.roomOk = true) :
    (Device.cutHold d).roomOk = true := by
  unfold Device.cutHold
  simp [h0]

@[simp] theorem Device.releaseHeldWaits_roomOk (d : Device) (h0 : d.roomOk = true) :
    (Device.releaseHeldWaits d).roomOk = true := by
  unfold Device.releaseHeldWaits
  exact foldl_roomOk _ (fun _ _ h => by simp (maxDischargeDepth := 16) [h]) _ _ (by simp (maxDischargeDepth := 16) [h0])

@[simp] theorem Device.resumeDeadline_roomOk (d : Device) (h0 : d.roomOk = true) :
    (Device.resumeDeadline d).roomOk = true := by
  unfold Device.resumeDeadline
  repeat' (first | with_reducible exact h0 | simp [h0] | split)

@[simp] theorem Device.endHold_roomOk (d : Device) (h0 : d.roomOk = true) :
    (Device.endHold d).roomOk = true := by
  unfold Device.endHold
  simp (maxDischargeDepth := 16) [h0]

@[simp] theorem Device.placeOwn_roomOk (d : Device) (h0 : d.roomOk = true) :
    (Device.placeOwn d).roomOk = true := by
  unfold Device.placeOwn
  simp [h0]

@[simp] theorem Device.onCase_roomOk (d : Device) (st : Station) (f : Case → Case) (h0 : d.roomOk = true) :
    (Device.onCase d st f).roomOk = true := by
  unfold Device.onCase
  simp [h0]

@[simp] theorem Device.accountAbort_roomOk (d : Device) (it : Item) (r : AbortReason) (h0 : d.roomOk = true) :
    (Device.accountAbort d it r).roomOk = true := by
  unfold Device.accountAbort
  repeat' (first | with_reducible exact h0 | simp [h0] | split)

@[simp] theorem Device.abortBurst_roomOk (d : Device) (r : AbortReason) (h0 : d.roomOk = true) :
    (Device.abortBurst d r).roomOk = true := by
  unfold Device.abortBurst
  split <;> simp [h0]

@[simp] theorem Device.reportOwn_roomOk (d : Device) (e : OwnEvent) (h0 : d.roomOk = true) :
    (Device.reportOwn d e).roomOk = true := by
  unfold Device.reportOwn
  simp [h0]

@[simp] theorem Device.reportOwnHeard_roomOk (d : Device) (e : OwnEvent) (num : Nat) (st : Station) (h0 : d.roomOk = true) :
    (Device.reportOwnHeard d e num st).roomOk = true := by
  unfold Device.reportOwnHeard
  simp [h0]

@[simp] theorem Device.offerOwn_roomOk (d : Device) (h0 : d.roomOk = true) :
    (Device.offerOwn d).roomOk = true := by
  unfold Device.offerOwn
  try dsimp only
  repeat' split
  all_goals first
    | simp (maxDischargeDepth := 16) [*]
    | (have h2 := congrArg (fun x => x.2.roomOk) ‹_ = (_, _)›
       simp (maxDischargeDepth := 16) [h0] at h2
       simp (maxDischargeDepth := 16) [*])
    | (have h2 := congrArg (fun x => x.1.roomOk) ‹_ = (_, _)›
       simp (maxDischargeDepth := 16) [h0] at h2
       simp (maxDischargeDepth := 16) [*])
    | (have h2 := congrArg (fun x => x.2.2.roomOk) ‹_ = (_, _, _)›
       simp (maxDischargeDepth := 16) [h0] at h2
       simp (maxDischargeDepth := 16) [*])

@[simp] theorem Device.cutIfQuiet_roomOk (d : Device) (h0 : d.roomOk = true) :
    (Device.cutIfQuiet d).roomOk = true := by
  unfold Device.cutIfQuiet
  split <;> simp [h0]

@[simp] theorem Device.ownDistressSent_roomOk (d : Device) (h0 : d.roomOk = true) :
    (Device.ownDistressSent d).roomOk = true := by
  unfold Device.ownDistressSent
  try dsimp only
  repeat' split
  all_goals first
    | simp (maxDischargeDepth := 16) [*]
    | (have h2 := congrArg (fun x => x.2.roomOk) ‹_ = (_, _)›
       simp (maxDischargeDepth := 16) [h0] at h2
       simp (maxDischargeDepth := 16) [*])
    | (have h2 := congrArg (fun x => x.1.roomOk) ‹_ = (_, _)›
       simp (maxDischargeDepth := 16) [h0] at h2
       simp (maxDischargeDepth := 16) [*])
    | (have h2 := congrArg (fun x => x.2.2.roomOk) ‹_ = (_, _, _)›
       simp (maxDischargeDepth := 16) [h0] at h2
       simp (maxDischargeDepth := 16) [*])

@[simp] theorem Device.ownCancelSent_roomOk (d : Device) (h0 : d.roomOk = true) :
    (Device.ownCancelSent d).roomOk = true := by
  unfold Device.ownCancelSent
  try dsimp only
  repeat' split
  all_goals first
    | simp (maxDischargeDepth := 16) [*]
    | (have h2 := congrArg (fun x => x.2.roomOk) ‹_ = (_, _)›
       simp (maxDischargeDepth := 16) [h0] at h2
       simp (maxDischargeDepth := 16) [*])
    | (have h2 := congrArg (fun x => x.1.roomOk) ‹_ = (_, _)›
       simp (maxDischargeDepth := 16) [h0] at h2
       simp (maxDischargeDepth := 16) [*])
    | (have h2 := congrArg (fun x => x.2.2.roomOk) ‹_ = (_, _, _)›
       simp (maxDischargeDepth := 16) [h0] at h2
       simp (maxDischargeDepth := 16) [*])

@[simp] theorem Device.ownAcknowledged_roomOk (d : Device) (b : Burst) (h0 : d.roomOk = true) :
    (Device.ownAcknowledged d b).roomOk = true := by
  unfold Device.ownAcknowledged
  dsimp only
  repeat' (first
    | with_reducible assumption
    | simp (maxDischargeDepth := 16) [*]
    | (refine foldl_roomOk _ ?_ _ _ ?_; intro _ _ _)
    | (refine Device.orPending_roomOk _ _ _ ?_ ?_; intro _)
    | split)

@[simp] theorem Device.reportCase_roomOk (d : Device) (st : Station) (e : CaseEvent) (h0 : d.roomOk = true) :
    (Device.reportCase d st e).roomOk = true := by
  unfold Device.reportCase
  split <;> simp [h0]

@[simp] theorem Device.dropCaseTraffic_roomOk (d : Device) (st alert : Nat) (h0 : d.roomOk = true) :
    (Device.dropCaseTraffic d st alert).roomOk = true := by
  unfold Device.dropCaseTraffic
  try dsimp only
  repeat' split
  all_goals first
    | simp (maxDischargeDepth := 16) [*]
    | (have h2 := congrArg (fun x => x.2.roomOk) ‹_ = (_, _)›
       simp (maxDischargeDepth := 16) [h0] at h2
       simp (maxDischargeDepth := 16) [*])
    | (have h2 := congrArg (fun x => x.1.roomOk) ‹_ = (_, _)›
       simp (maxDischargeDepth := 16) [h0] at h2
       simp (maxDischargeDepth := 16) [*])
    | (have h2 := congrArg (fun x => x.2.2.roomOk) ‹_ = (_, _, _)›
       simp (maxDischargeDepth := 16) [h0] at h2
       simp (maxDischargeDepth := 16) [*])

@[simp] theorem Device.closeCase_roomOk (d : Device) (c : Case) (r : CloseReason) (h0 : d.roomOk = true) :
    (Device.closeCase d c r).roomOk = true := by
  unfold Device.closeCase
  simp (maxDischargeDepth := 16) [h0]

@[simp] theorem Device.freeCase_roomOk (d : Device) (c : Case) (new : Station) (h0 : d.roomOk = true) :
    (Device.freeCase d c new).roomOk = true := by
  unfold Device.freeCase
  split <;> simp (maxDischargeDepth := 16) [h0]

@[simp] theorem Device.distressHeard_roomOk (d : Device) (st alert : Nat) (facts : Option DistressFacts) (via : Option Station) (h0 : d.roomOk = true) :
    (Device.distressHeard d st alert facts via).roomOk = true := by
  unfold Device.distressHeard
  simp [h0]

@[simp] theorem Device.applyAlert_roomOk (d : Device) (st alert : Nat) (facts : Option DistressFacts) (via : Option Station) (h0 : d.roomOk = true) :
    (Device.applyAlert d st alert facts via).roomOk = true := by
  unfold Device.applyAlert
  try dsimp only
  repeat' split
  all_goals first
    | exact h0
    | simp (maxDischargeDepth := 16) [h0]
    | (rename_i h
       have h2 := congrArg (fun x => x.2.roomOk) h
       dsimp only at h2
       rw [Device.reserve_roomOk _ _ _ h0] at h2
       simp (maxDischargeDepth := 16) [h2.symm])
    | (rename_i h
       have h2 := congrArg (fun x => x.2.roomOk) h
       simp (maxDischargeDepth := 16) [h0] at h2
       simp (maxDischargeDepth := 16) [h2])
    | (rename_i h _
       have h2 := congrArg (fun x => x.2.roomOk) h
       simp (maxDischargeDepth := 16) [h0] at h2
       simp (maxDischargeDepth := 16) [h2])
    | (rename_i h
       have h2 := congrArg (fun x => x.2.2.roomOk) h
       simp (maxDischargeDepth := 16) [h0] at h2
       simp (maxDischargeDepth := 16) [h2])

@[simp] theorem Device.examineCase_roomOk (d : Device) (st : Station) (h0 : d.roomOk = true) :
    (Device.examineCase d st).roomOk = true := by
  unfold Device.examineCase
  try dsimp only
  repeat' split
  all_goals first
    | simp (maxDischargeDepth := 16) [*]
    | (have h2 := congrArg (fun x => x.2.roomOk) ‹_ = (_, _)›
       simp (maxDischargeDepth := 16) [h0] at h2
       simp (maxDischargeDepth := 16) [*])
    | (have h2 := congrArg (fun x => x.1.roomOk) ‹_ = (_, _)›
       simp (maxDischargeDepth := 16) [h0] at h2
       simp (maxDischargeDepth := 16) [*])
    | (have h2 := congrArg (fun x => x.2.2.roomOk) ‹_ = (_, _, _)›
       simp (maxDischargeDepth := 16) [h0] at h2
       simp (maxDischargeDepth := 16) [*])

@[simp] theorem Device.settledFull_roomOk (d : Device) (h0 : d.roomOk = true) :
    (Device.settledFull d).roomOk = true := by
  unfold Device.settledFull
  simp [h0]

@[simp] theorem Device.enterSettled_roomOk (d : Device) (st alert : Nat) (h0 : d.roomOk = true) :
    (Device.enterSettled d st alert).roomOk = true := by
  unfold Device.enterSettled
  repeat' (first | with_reducible exact h0 | simp [h0] | split)

@[simp] theorem Device.suppressRelay_roomOk (d : Device) (st alert : Nat) (h0 : d.roomOk = true) :
    (Device.suppressRelay d st alert).roomOk = true := by
  unfold Device.suppressRelay
  simp [h0]

@[simp] theorem Device.distressRelayHeard_roomOk (d : Device) (st alert : Nat) (h0 : d.roomOk = true) :
    (Device.distressRelayHeard d st alert).roomOk = true := by
  unfold Device.distressRelayHeard
  repeat' (first | with_reducible exact h0 | simp [h0] | split)

@[simp] theorem Device.distressAckHeard_roomOk (d : Device) (st : Station) (b : Burst) (h0 : d.roomOk = true) :
    (Device.distressAckHeard d st b).roomOk = true := by
  unfold Device.distressAckHeard
  try dsimp only
  repeat' split
  all_goals first
    | simp (maxDischargeDepth := 16) [*]
    | (have h2 := congrArg (fun x => x.2.roomOk) ‹_ = (_, _)›
       simp (maxDischargeDepth := 16) [h0] at h2
       simp (maxDischargeDepth := 16) [*])
    | (have h2 := congrArg (fun x => x.1.roomOk) ‹_ = (_, _)›
       simp (maxDischargeDepth := 16) [h0] at h2
       simp (maxDischargeDepth := 16) [*])
    | (have h2 := congrArg (fun x => x.2.2.roomOk) ‹_ = (_, _, _)›
       simp (maxDischargeDepth := 16) [h0] at h2
       simp (maxDischargeDepth := 16) [*])

@[simp] theorem Device.cancelHeard_roomOk (d : Device) (b : Burst) (readable : Bool) (h0 : d.roomOk = true) :
    (Device.cancelHeard d b readable).roomOk = true := by
  unfold Device.cancelHeard
  repeat' (first | with_reducible exact h0 | simp [h0] | split)

@[simp] theorem Device.acknowledgeCase_roomOk (d : Device) (c : Case) (h0 : d.roomOk = true) :
    (Device.acknowledgeCase d c).roomOk = true := by
  unfold Device.acknowledgeCase
  split <;> simp (maxDischargeDepth := 16) [h0]

@[simp] theorem Device.caseAckSent_roomOk (d : Device) (st alert : Nat) (h0 : d.roomOk = true) :
    (Device.caseAckSent d st alert).roomOk = true := by
  unfold Device.caseAckSent
  simp (maxDischargeDepth := 16) [h0]

@[simp] theorem Device.caseRelayKeyed_roomOk (d : Device) (st alert : Nat) (h0 : d.roomOk = true) :
    (Device.caseRelayKeyed d st alert).roomOk = true := by
  unfold Device.caseRelayKeyed
  simp (maxDischargeDepth := 16) [h0]

@[simp] theorem Device.caseRelaySent_roomOk (d : Device) (st alert : Nat) (h0 : d.roomOk = true) :
    (Device.caseRelaySent d st alert).roomOk = true := by
  unfold Device.caseRelaySent
  repeat' (first | with_reducible exact h0 | simp [h0] | split)

@[simp] theorem Device.offerRelay_roomOk (d : Device) (st alert : Nat) (h0 : d.roomOk = true) :
    (Device.offerRelay d st alert).roomOk = true := by
  unfold Device.offerRelay
  repeat' (first | with_reducible exact h0 | simp [h0] | split)

@[simp] theorem Device.ownNamed_roomOk (d : Device) (b : Burst) (h0 : d.roomOk = true) :
    (Device.ownNamed d b).roomOk = true := by
  unfold Device.ownNamed
  try dsimp only
  repeat' split
  all_goals first
    | simp (maxDischargeDepth := 16) [*]
    | (have h2 := congrArg (fun x => x.2.roomOk) ‹_ = (_, _)›
       simp (maxDischargeDepth := 16) [h0] at h2
       simp (maxDischargeDepth := 16) [*])
    | (have h2 := congrArg (fun x => x.1.roomOk) ‹_ = (_, _)›
       simp (maxDischargeDepth := 16) [h0] at h2
       simp (maxDischargeDepth := 16) [*])
    | (have h2 := congrArg (fun x => x.2.2.roomOk) ‹_ = (_, _, _)›
       simp (maxDischargeDepth := 16) [h0] at h2
       simp (maxDischargeDepth := 16) [*])

@[simp] theorem Device.receiveDistress_roomOk (d : Device) (b : Burst) (h0 : d.roomOk = true) :
    (Device.receiveDistress d b).roomOk = true := by
  unfold Device.receiveDistress
  dsimp only
  repeat' split
  all_goals simp (maxDischargeDepth := 16) [h0]

@[simp] theorem Device.burstSent_roomOk (d : Device) (it : Item) (h0 : d.roomOk = true) :
    (Device.burstSent d it).roomOk = true := by
  unfold Device.burstSent
  repeat' (first | with_reducible exact h0 | simp [h0] | split)

@[simp] theorem Device.burstKeyed_roomOk (d : Device) (it : Item) (h0 : d.roomOk = true) :
    (Device.burstKeyed d it).roomOk = true := by
  unfold Device.burstKeyed
  split <;> simp [h0]

@[simp] theorem Device.lostRepReport_roomOk (d : Device) (h0 : d.roomOk = true) :
    (Device.lostRepReport d).roomOk = true := by
  unfold Device.lostRepReport
  simp [h0]

@[simp] theorem Device.reportNotice_roomOk (d : Device) (k : ReportKind) (data : List Datum) (h0 : d.roomOk = true) :
    (Device.reportNotice d k data).roomOk = true := by
  unfold Device.reportNotice
  try dsimp only
  repeat' split
  all_goals first
    | exact h0
    | simp (maxDischargeDepth := 16) [h0]
    | (rename_i h
       have h2 := congrArg (fun x => x.2.roomOk) h
       dsimp only at h2
       rw [Device.reserve_roomOk _ _ _ h0] at h2
       simp (maxDischargeDepth := 16) [h2.symm])
    | (rename_i h
       have h2 := congrArg (fun x => x.2.roomOk) h
       simp (maxDischargeDepth := 16) [h0] at h2
       simp (maxDischargeDepth := 16) [h2])
    | (rename_i h _
       have h2 := congrArg (fun x => x.2.roomOk) h
       simp (maxDischargeDepth := 16) [h0] at h2
       simp (maxDischargeDepth := 16) [h2])
    | (rename_i h
       have h2 := congrArg (fun x => x.2.2.roomOk) h
       simp (maxDischargeDepth := 16) [h0] at h2
       simp (maxDischargeDepth := 16) [h2])

@[simp] theorem Device.rejectNotice_roomOk (d : Device) (cls : Nat) (orig : Station) (reason : Nat) (h0 : d.roomOk = true) :
    (Device.rejectNotice d cls orig reason).roomOk = true := by
  unfold Device.rejectNotice
  simp [h0]

@[simp] theorem Device.lateReceipt_roomOk (d : Device) (num result : Nat) (h0 : d.roomOk = true) :
    (Device.lateReceipt d num result).roomOk = true := by
  unfold Device.lateReceipt
  simp [h0]

@[simp] theorem Device.judgeReceipt_roomOk (d : Device) (num result : Nat) (h0 : d.roomOk = true) :
    (Device.judgeReceipt d num result).roomOk = true := by
  unfold Device.judgeReceipt
  repeat' (first | with_reducible exact h0 | simp [h0] | split)

@[simp] theorem Device.receipt_roomOk (d : Device) (m : Message) (h0 : d.roomOk = true) :
    (Device.receipt d m).roomOk = true := by
  unfold Device.receipt
  repeat' (first | with_reducible exact h0 | simp [h0] | split)

@[simp] theorem Device.removeQuota_roomOk (d : Device) (q : QuotaEntry) (h0 : d.roomOk = true) :
    (Device.removeQuota d q).roomOk = true := by
  unfold Device.removeQuota
  try dsimp only
  repeat' split
  all_goals first
    | exact h0
    | simp (maxDischargeDepth := 16) [h0]
    | (rename_i h
       have h2 := congrArg (fun x => x.2.roomOk) h
       dsimp only at h2
       rw [Device.reserve_roomOk _ _ _ h0] at h2
       simp (maxDischargeDepth := 16) [h2.symm])
    | (rename_i h
       have h2 := congrArg (fun x => x.2.roomOk) h
       simp (maxDischargeDepth := 16) [h0] at h2
       simp (maxDischargeDepth := 16) [h2])
    | (rename_i h _
       have h2 := congrArg (fun x => x.2.roomOk) h
       simp (maxDischargeDepth := 16) [h0] at h2
       simp (maxDischargeDepth := 16) [h2])
    | (rename_i h
       have h2 := congrArg (fun x => x.2.2.roomOk) h
       simp (maxDischargeDepth := 16) [h0] at h2
       simp (maxDischargeDepth := 16) [h2])

@[simp] theorem Device.applyEntry_roomOk (x : Device × NoticeTally) (e : NoticeEntry) (h0 : x.1.roomOk = true) :
    (Device.applyEntry x e).1.roomOk = true := by
  unfold Device.applyEntry
  repeat' (first | with_reducible exact h0 | simp [h0] | split)

@[simp] theorem Device.applyNotice_roomOk (d : Device) (num : Nat) (es : List NoticeEntry) (h0 : d.roomOk = true) :
    (Device.applyNotice d num es).roomOk = true := by
  unfold Device.applyNotice
  split
  rename_i e t h
  have h2 : e.roomOk = true := by
    have h3 : ∀ (l : List NoticeEntry) (x : Device × NoticeTally), x.1.roomOk = true →
        (l.foldl Device.applyEntry x).1.roomOk = true := by
      intro l
      induction l with
      | nil => intro x hx; exact hx
      | cons y r ih => intro x hx; rw [List.foldl_cons]; exact ih _ (by simp (maxDischargeDepth := 16) [hx])
    have h4 := h3 es (d, ⟨0, 0, 0, 0, false⟩) h0
    rw [h] at h4
    exact h4
  dsimp only
  repeat' split
  all_goals simp (maxDischargeDepth := 16) [h2]

@[simp] theorem Device.quotaNotice_roomOk (d : Device) (m : Message) (h0 : d.roomOk = true) :
    (Device.quotaNotice d m).roomOk = true := by
  unfold Device.quotaNotice
  try dsimp only
  repeat' split
  all_goals first
    | simp (maxDischargeDepth := 16) [*]
    | (have h2 := congrArg (fun x => x.2.roomOk) ‹_ = (_, _)›
       simp (maxDischargeDepth := 16) [h0] at h2
       simp (maxDischargeDepth := 16) [*])
    | (have h2 := congrArg (fun x => x.1.roomOk) ‹_ = (_, _)›
       simp (maxDischargeDepth := 16) [h0] at h2
       simp (maxDischargeDepth := 16) [*])
    | (have h2 := congrArg (fun x => x.2.2.roomOk) ‹_ = (_, _, _)›
       simp (maxDischargeDepth := 16) [h0] at h2
       simp (maxDischargeDepth := 16) [*])

@[simp] theorem Device.deliver_roomOk (d : Device) (m : Message) (h0 : d.roomOk = true) :
    (Device.deliver d m).roomOk = true := by
  unfold Device.deliver
  try dsimp only
  repeat' split
  all_goals first
    | simp (maxDischargeDepth := 16) [*]
    | (have h2 := congrArg (fun x => x.2.roomOk) ‹_ = (_, _)›
       simp (maxDischargeDepth := 16) [h0] at h2
       simp (maxDischargeDepth := 16) [*])
    | (have h2 := congrArg (fun x => x.1.roomOk) ‹_ = (_, _)›
       simp (maxDischargeDepth := 16) [h0] at h2
       simp (maxDischargeDepth := 16) [*])
    | (have h2 := congrArg (fun x => x.2.2.roomOk) ‹_ = (_, _, _)›
       simp (maxDischargeDepth := 16) [h0] at h2
       simp (maxDischargeDepth := 16) [*])

@[simp] theorem Device.enterRecent_roomOk (d : Device) (src num : Nat) (h0 : d.roomOk = true) :
    (Device.enterRecent d src num).roomOk = true := by
  unfold Device.enterRecent
  repeat' (first | with_reducible exact h0 | simp [h0] | split)

@[simp] theorem Device.completeMessage_roomOk (d : Device) (src num : Nat) (h0 : d.roomOk = true) :
    (Device.completeMessage d src num).roomOk = true := by
  unfold Device.completeMessage
  try dsimp only
  repeat' split
  all_goals first
    | simp (maxDischargeDepth := 16) [*]
    | (have h2 := congrArg (fun x => x.2.roomOk) ‹_ = (_, _)›
       simp (maxDischargeDepth := 16) [h0] at h2
       simp (maxDischargeDepth := 16) [*])
    | (have h2 := congrArg (fun x => x.1.roomOk) ‹_ = (_, _)›
       simp (maxDischargeDepth := 16) [h0] at h2
       simp (maxDischargeDepth := 16) [*])
    | (have h2 := congrArg (fun x => x.2.2.roomOk) ‹_ = (_, _, _)›
       simp (maxDischargeDepth := 16) [h0] at h2
       simp (maxDischargeDepth := 16) [*])

@[simp] theorem Device.answerData_roomOk (d : Device) (b : Burst) (idx : Nat) (a : AckAnswer) (h0 : d.roomOk = true) :
    (Device.answerData d b idx a).roomOk = true := by
  unfold Device.answerData
  simp [h0]

@[simp] theorem Device.openReasm_roomOk (d : Device) (b : Burst) (h : DataHeader) (text : List Nat) (h0 : d.roomOk = true) :
    (Device.openReasm d b h text).roomOk = true := by
  unfold Device.openReasm
  dsimp only
  split
  · simp (maxDischargeDepth := 16) [h0]
  · split
    · simp (maxDischargeDepth := 16) [h0]
    · split
      · have h2 := Device.reserve_eq_roomOk ‹Device.reserve _ _ _ = _› h0
        repeat' split
        all_goals simp (maxDischargeDepth := 16) [h2]
      · have h2 := Device.reserve_eq_roomOk ‹Device.reserve _ _ _ = _› h0
        simp (maxDischargeDepth := 16) [h2]

@[simp] theorem Device.touch_roomOk (d : Device) (b : Burst) (h0 : d.roomOk = true) :
    (Device.touch d b).roomOk = true := by
  unfold Device.touch
  simp [h0]

@[simp] theorem Device.nextFragment_roomOk (d : Device) (b : Burst) (h : DataHeader) (text : List Nat) (e : Reasm) (h0 : d.roomOk = true) :
    (Device.nextFragment d b h text e).roomOk = true := by
  unfold Device.nextFragment
  try dsimp only
  repeat' split
  all_goals first
    | simp (maxDischargeDepth := 16) [*]
    | (have h2 := congrArg (fun x => x.2.roomOk) ‹_ = (_, _)›
       simp (maxDischargeDepth := 16) [h0] at h2
       simp (maxDischargeDepth := 16) [*])
    | (have h2 := congrArg (fun x => x.1.roomOk) ‹_ = (_, _)›
       simp (maxDischargeDepth := 16) [h0] at h2
       simp (maxDischargeDepth := 16) [*])
    | (have h2 := congrArg (fun x => x.2.2.roomOk) ‹_ = (_, _, _)›
       simp (maxDischargeDepth := 16) [h0] at h2
       simp (maxDischargeDepth := 16) [*])

@[simp] theorem Device.receiveData_roomOk (d : Device) (b : Burst) (h0 : d.roomOk = true) :
    (Device.receiveData d b).roomOk = true := by
  unfold Device.receiveData
  try dsimp only
  repeat' split
  all_goals first
    | simp (maxDischargeDepth := 16) [*]
    | (have h2 := congrArg (fun x => x.2.roomOk) ‹_ = (_, _)›
       simp (maxDischargeDepth := 16) [h0] at h2
       simp (maxDischargeDepth := 16) [*])
    | (have h2 := congrArg (fun x => x.1.roomOk) ‹_ = (_, _)›
       simp (maxDischargeDepth := 16) [h0] at h2
       simp (maxDischargeDepth := 16) [*])
    | (have h2 := congrArg (fun x => x.2.2.roomOk) ‹_ = (_, _, _)›
       simp (maxDischargeDepth := 16) [h0] at h2
       simp (maxDischargeDepth := 16) [*])

@[simp] theorem Device.reasmExpires_roomOk (d : Device) (e : Reasm) (h0 : d.roomOk = true) :
    (Device.reasmExpires d e).roomOk = true := by
  unfold Device.reasmExpires
  simp [h0]

@[simp] theorem Device.handOn_roomOk (d : Device) (b : Burst) (h0 : d.roomOk = true) :
    (Device.handOn d b).roomOk = true := by
  unfold Device.handOn
  try dsimp only
  repeat' split
  all_goals first
    | simp (maxDischargeDepth := 16) [*]
    | (have h2 := congrArg (fun x => x.2.roomOk) ‹_ = (_, _)›
       simp (maxDischargeDepth := 16) [h0] at h2
       simp (maxDischargeDepth := 16) [*])
    | (have h2 := congrArg (fun x => x.1.roomOk) ‹_ = (_, _)›
       simp (maxDischargeDepth := 16) [h0] at h2
       simp (maxDischargeDepth := 16) [*])
    | (have h2 := congrArg (fun x => x.2.2.roomOk) ‹_ = (_, _, _)›
       simp (maxDischargeDepth := 16) [h0] at h2
       simp (maxDischargeDepth := 16) [*])

@[simp] theorem Device.takeBurst_roomOk (d : Device) (r : Rx) (linked pass : Bool) (h0 : d.roomOk = true) :
    (Device.takeBurst d r linked pass).roomOk = true := by
  unfold Device.takeBurst
  try dsimp only
  repeat' split
  all_goals first
    | simp (maxDischargeDepth := 16) [*]
    | (have h2 := congrArg (fun x => x.2.roomOk) ‹_ = (_, _)›
       simp (maxDischargeDepth := 16) [h0] at h2
       simp (maxDischargeDepth := 16) [*])
    | (have h2 := congrArg (fun x => x.1.roomOk) ‹_ = (_, _)›
       simp (maxDischargeDepth := 16) [h0] at h2
       simp (maxDischargeDepth := 16) [*])
    | (have h2 := congrArg (fun x => x.2.2.roomOk) ‹_ = (_, _, _)›
       simp (maxDischargeDepth := 16) [h0] at h2
       simp (maxDischargeDepth := 16) [*])

@[simp] theorem Device.headerDiscard_roomOk (d : Device) (h0 : d.roomOk = true) :
    (Device.headerDiscard d).roomOk = true := by
  unfold Device.headerDiscard
  simp [h0]

@[simp] theorem Device.damagedDiscard_roomOk (d : Device) (h0 : d.roomOk = true) :
    (Device.damagedDiscard d).roomOk = true := by
  unfold Device.damagedDiscard
  simp [h0]

@[simp] theorem Device.abandonReception_roomOk (d : Device) (st : RxState) (h0 : d.roomOk = true) :
    (Device.abandonReception d st).roomOk = true := by
  unfold Device.abandonReception
  simp [h0]

@[simp] theorem Device.syncingChar_roomOk (d : Device) (p : Pattern) (q : Nat) (h0 : d.roomOk = true) :
    (Device.syncingChar d p q).roomOk = true := by
  unfold Device.syncingChar
  repeat' (first | with_reducible exact h0 | simp [h0] | split)

@[simp] theorem Device.linkedChar_roomOk (d : Device) (p : Pattern) (q : Nat) (h0 : d.roomOk = true) :
    (Device.linkedChar d p q).roomOk = true := by
  unfold Device.linkedChar
  repeat' (first | with_reducible exact h0 | simp [h0] | split)

@[simp] theorem Device.broadcastPosition_roomOk (d : Device) (pos : Nat) (x y : Pattern × Nat) (h0 : d.roomOk = true) :
    (Device.broadcastPosition d pos x y).roomOk = true := by
  unfold Device.broadcastPosition
  repeat' (first | with_reducible exact h0 | simp [h0] | split)

@[simp] theorem Device.broadcastChar_roomOk (d : Device) (p : Pattern) (q : Nat) (h0 : d.roomOk = true) :
    (Device.broadcastChar d p q).roomOk = true := by
  unfold Device.broadcastChar
  repeat' (first | with_reducible exact h0 | simp [h0] | split)

@[simp] theorem Device.takeCharacter_roomOk (d : Device) (p : Pattern) (q : Nat) (h0 : d.roomOk = true) :
    (Device.takeCharacter d p q).roomOk = true := by
  unfold Device.takeCharacter
  repeat' (first | with_reducible exact h0 | simp [h0] | split)

@[simp] theorem Device.findSync_roomOk (d : Device) (quality : Nat) (h0 : d.roomOk = true) :
    (Device.findSync d quality).roomOk = true := by
  unfold Device.findSync
  split <;> simp [h0]

@[simp] theorem Device.carrierFalls_roomOk (d : Device) (h0 : d.roomOk = true) :
    (Device.carrierFalls d).roomOk = true := by
  unfold Device.carrierFalls
  split <;> simp [h0]

@[simp] theorem Device.closeRx_roomOk (d : Device) (h0 : d.roomOk = true) :
    (Device.closeRx d).roomOk = true := by
  unfold Device.closeRx
  split <;> simp [h0]

@[simp] theorem Device.keyItem_roomOk (d : Device) (c : AccessClass) (it : Item) (blind : Bool) (h0 : d.roomOk = true) :
    (Device.keyItem d c it blind).roomOk = true := by
  unfold Device.keyItem
  simp (maxDischargeDepth := 16) [h0]

@[simp] theorem Device.raiseKey_roomOk (d : Device) (c : AccessClass) (blind : Bool) (h0 : d.roomOk = true) :
    (Device.raiseKey d c blind).roomOk = true := by
  unfold Device.raiseKey
  split <;> simp [h0]

@[simp] theorem Device.arbitrate_roomOk (d : Device) (h0 : d.roomOk = true) :
    (Device.arbitrate d).roomOk = true := by
  unfold Device.arbitrate
  repeat' (first | with_reducible exact h0 | simp [h0] | split)

@[simp] theorem Device.arbiterInstant_roomOk (d : Device) (h0 : d.roomOk = true) :
    (Device.arbiterInstant d).roomOk = true := by
  unfold Device.arbiterInstant
  split <;> simp [h0]

@[simp] theorem Device.settle_roomOk (d : Device) (h0 : d.roomOk = true) :
    (Device.settle d).roomOk = true := by
  unfold Device.settle
  simp (maxDischargeDepth := 16) [h0]

@[simp] theorem Device.gapEnds_roomOk (d : Device) (c : AccessClass) (h0 : d.roomOk = true) :
    (Device.gapEnds d c).roomOk = true := by
  unfold Device.gapEnds
  repeat' (first | with_reducible exact h0 | simp [h0] | split)

@[simp] theorem Device.slotEnds_roomOk (d : Device) (c : AccessClass) (h0 : d.roomOk = true) :
    (Device.slotEnds d c).roomOk = true := by
  unfold Device.slotEnds
  split <;> simp [h0]

@[simp] theorem Device.settleEnds_roomOk (d : Device) (h0 : d.roomOk = true) :
    (Device.settleEnds d).roomOk = true := by
  unfold Device.settleEnds
  repeat' (first | with_reducible exact h0 | simp [h0] | split)

@[simp] theorem Device.burstEnds_roomOk (d : Device) (h0 : d.roomOk = true) :
    (Device.burstEnds d).roomOk = true := by
  unfold Device.burstEnds
  split <;> simp (maxDischargeDepth := 16) [h0]

@[simp] theorem Device.keyLimit_roomOk (d : Device) (h0 : d.roomOk = true) :
    (Device.keyLimit d).roomOk = true := by
  unfold Device.keyLimit
  split <;> simp (maxDischargeDepth := 16) [h0]

@[simp] theorem Device.ackLimit_roomOk (d : Device) (h0 : d.roomOk = true) :
    (Device.ackLimit d).roomOk = true := by
  unfold Device.ackLimit
  split <;> simp (maxDischargeDepth := 16) [h0]

@[simp] theorem Device.blindReached_roomOk (d : Device) (h0 : d.roomOk = true) :
    (Device.blindReached d).roomOk = true := by
  unfold Device.blindReached
  split <;> simp [h0]

@[simp] theorem Device.channelBlocks_roomOk (d : Device) (h0 : d.roomOk = true) :
    (Device.channelBlocks d).roomOk = true := by
  unfold Device.channelBlocks
  repeat' (first | with_reducible exact h0 | simp [h0] | split)

@[simp] theorem Device.debounce_roomOk (d : Device) (h0 : d.roomOk = true) :
    (Device.debounce d).roomOk = true := by
  unfold Device.debounce
  repeat' (first | with_reducible exact h0 | simp [h0] | split)

@[simp] theorem Device.rawChange_roomOk (d : Device) (up : Bool) (h0 : d.roomOk = true) :
    (Device.rawChange d up).roomOk = true := by
  unfold Device.rawChange
  split <;> simp [h0]

@[simp] theorem Device.protectionCheck_roomOk (d : Device) (tuneF refl supLo : Bool) (h0 : d.roomOk = true) :
    (Device.protectionCheck d tuneF refl supLo).roomOk = true := by
  unfold Device.protectionCheck
  try dsimp only
  repeat' split
  all_goals first
    | simp (maxDischargeDepth := 16) [*]
    | (have h2 := congrArg (fun x => x.2.roomOk) ‹_ = (_, _)›
       simp (maxDischargeDepth := 16) [h0] at h2
       simp (maxDischargeDepth := 16) [*])
    | (have h2 := congrArg (fun x => x.1.roomOk) ‹_ = (_, _)›
       simp (maxDischargeDepth := 16) [h0] at h2
       simp (maxDischargeDepth := 16) [*])
    | (have h2 := congrArg (fun x => x.2.2.roomOk) ‹_ = (_, _, _)›
       simp (maxDischargeDepth := 16) [h0] at h2
       simp (maxDischargeDepth := 16) [*])

@[simp] theorem Device.serveMark_roomOk (d : Device) (r : OwedRef) (h0 : d.roomOk = true) : (Device.serveMark d r).roomOk = true := by
  unfold Device.serveMark
  split
  all_goals (try dsimp only)
  all_goals repeat' split
  all_goals first
    | (simp (maxDischargeDepth := 16) [h0]; done)
    | exact h0

@[simp] theorem Device.serveOwed_roomOk (d : Device) (n : LaneName) (a0 : Nat) (h0 : d.roomOk = true) :
    (Device.serveOwed d n a0).roomOk = true := by
  induction a0 generalizing d with
  | zero => exact h0
  | succ fuel ih =>
    unfold Device.serveOwed
    split
    · exact h0
    · split
      · rename_i r rest h1 h2
        refine ih _ (Device.serveMark_roomOk _ r ?_)
        rw [Device.onLane_roomOk _ _ _ rfl]
        exact h0
      · exact h0

@[simp] theorem Device.freeDelivery_roomOk (d : Device) (id : Nat) (h0 : d.roomOk = true) :
    (Device.freeDelivery d id).roomOk = true := by
  unfold Device.freeDelivery
  split <;> simp [h0]

@[simp] theorem Device.drainLane_roomOk (d : Device) (n : LaneName) (h0 : d.roomOk = true) :
    (Device.drainLane d n).roomOk = true := by
  unfold Device.drainLane
  split
  · exact h0
  · rename_i e rest h1
    split
    · rw [Device.onLane_roomOk]
      · exact h0
      · rw [h1]; rfl
    · refine Device.serveOwed_roomOk _ _ _ ?_
      have h2 := Device.onLane_roomOk_le d n (fun l => ⟨rest, l.owed⟩) (by rw [h1]; simp) h0
      split
      · exact Device.freeDelivery_roomOk _ _ h2
      · exact h2

@[simp] theorem Device.onConsoleCounts_roomOk (d : Device) (f : ConsoleCounts → ConsoleCounts) (h0 : d.roomOk = true) :
    (Device.onConsoleCounts d f).roomOk = true := by
  unfold Device.onConsoleCounts
  simp [h0]

@[simp] theorem Device.assertCsel_roomOk (d : Device) (h0 : d.roomOk = true) :
    (Device.assertCsel d).roomOk = true := by
  unfold Device.assertCsel
  simp [h0]

@[simp] theorem Device.releaseCsel_roomOk (d : Device) (h0 : d.roomOk = true) :
    (Device.releaseCsel d).roomOk = true := by
  unfold Device.releaseCsel
  split <;> simp [h0]

@[simp] theorem Device.running_roomOk (d : Device) (h0 : d.roomOk = true) :
    (Device.running d).2.roomOk = true := by
  unfold Device.running
  repeat' (first | with_reducible exact h0 | simp [h0] | split)

@[simp] theorem Device.completeExchange_roomOk (d : Device) (h0 : d.roomOk = true) :
    (Device.completeExchange d).roomOk = true := by
  unfold Device.completeExchange
  dsimp only
  repeat' (first
    | with_reducible assumption
    | simp (maxDischargeDepth := 16) [*]
    | (refine foldl_roomOk _ ?_ _ _ ?_; intro _ _ _)
    | (refine Device.orPending_roomOk _ _ _ ?_ ?_; intro _)
    | split)

@[simp] theorem Device.leaveSetup_roomOk (d : Device) (h0 : d.roomOk = true) :
    (Device.leaveSetup d).roomOk = true := by
  unfold Device.leaveSetup
  split <;> simp [h0]

@[simp] theorem Device.echo_roomOk (d : Device) (tag : Nat) (r : Disposition) (h0 : d.roomOk = true) :
    (Device.echo d tag r).roomOk = true := by
  unfold Device.echo
  split <;> simp [h0]

@[simp] theorem Device.voidSetup_roomOk (d : Device) (h0 : d.roomOk = true) :
    (Device.voidSetup d).roomOk = true := by
  unfold Device.voidSetup
  simp [h0]

@[simp] theorem Device.setupHead_roomOk (own port settle : Nat) (d : Device) (h0 : d.roomOk = true) :
    (Device.setupHead own port settle d).2.roomOk = true := by
  unfold Device.setupHead
  repeat' (first | with_reducible exact h0 | simp [h0] | split)

@[simp] theorem Device.completeSetup_roomOk (d : Device) (h0 : d.roomOk = true) :
    (Device.completeSetup d).roomOk = true := by
  unfold Device.completeSetup
  simp (maxDischargeDepth := 16) [h0]

@[simp] theorem Device.setTime_roomOk (year month day hour minute second : Nat) (d : Device) (h0 : d.roomOk = true) :
    (Device.setTime year month day hour minute second d).2.roomOk = true := by
  unfold Device.setTime
  try dsimp only
  repeat' split
  all_goals first
    | simp (maxDischargeDepth := 16) [*]
    | (have h2 := congrArg (fun x => x.2.roomOk) ‹_ = (_, _)›
       simp (maxDischargeDepth := 16) [h0] at h2
       simp (maxDischargeDepth := 16) [*])
    | (have h2 := congrArg (fun x => x.1.roomOk) ‹_ = (_, _)›
       simp (maxDischargeDepth := 16) [h0] at h2
       simp (maxDischargeDepth := 16) [*])
    | (have h2 := congrArg (fun x => x.2.2.roomOk) ‹_ = (_, _, _)›
       simp (maxDischargeDepth := 16) [h0] at h2
       simp (maxDischargeDepth := 16) [*])

@[simp] theorem Device.setFix_roomOk (lat lon : Int) (hour minute : Nat) (d : Device) (h0 : d.roomOk = true) :
    (Device.setFix lat lon hour minute d).2.roomOk = true := by
  unfold Device.setFix
  split <;> simp [h0]

@[simp] theorem Device.openSubmit_roomOk (tag dest len : Nat) (d : Device) (h0 : d.roomOk = true) :
    (Device.openSubmit tag dest len d).2.roomOk = true := by
  unfold Device.openSubmit
  try dsimp only
  repeat' split
  all_goals first
    | exact h0
    | (have h2 := Device.reserve_eq_roomOk ‹Device.reserve _ _ _ = _› (by simp (maxDischargeDepth := 16) [h0])
       simp (maxDischargeDepth := 16) [h2]
       done)
    | simp (maxDischargeDepth := 16) [h0]

@[simp] theorem Device.takeText_roomOk (tag : Nat) (symbols : List Nat) (d : Device) (h0 : d.roomOk = true) :
    (Device.takeText tag symbols d).2.roomOk = true := by
  unfold Device.takeText
  repeat' (first | with_reducible exact h0 | simp [h0] | split)

@[simp] theorem Device.withdrawTag_roomOk (consoleTag : Nat) (d : Device) (h0 : d.roomOk = true) :
    (Device.withdrawTag consoleTag d).2.roomOk = true := by
  unfold Device.withdrawTag
  dsimp only
  split
  all_goals
    split
    · exact h0
    · refine foldl_roomOk _ (fun _ _ h => by simp (maxDischargeDepth := 16) [h]) _ _ ?_
      first
      | exact h0
      | (split <;> simp (maxDischargeDepth := 16) [h0])

@[simp] theorem Device.submitTimesOut_roomOk (d : Device) (h0 : d.roomOk = true) :
    (Device.submitTimesOut d).roomOk = true := by
  unfold Device.submitTimesOut
  try dsimp only
  repeat' split
  all_goals first
    | exact h0
    | simp (maxDischargeDepth := 16) [h0]
    | (rename_i h
       have h2 := congrArg (fun x => x.2.roomOk) h
       dsimp only at h2
       rw [Device.reserve_roomOk _ _ _ h0] at h2
       simp (maxDischargeDepth := 16) [h2.symm])
    | (rename_i h
       have h2 := congrArg (fun x => x.2.roomOk) h
       simp (maxDischargeDepth := 16) [h0] at h2
       simp (maxDischargeDepth := 16) [h2])
    | (rename_i h _
       have h2 := congrArg (fun x => x.2.roomOk) h
       simp (maxDischargeDepth := 16) [h0] at h2
       simp (maxDischargeDepth := 16) [h2])
    | (rename_i h
       have h2 := congrArg (fun x => x.2.2.roomOk) h
       simp (maxDischargeDepth := 16) [h0] at h2
       simp (maxDischargeDepth := 16) [h2])

@[simp] theorem Device.restartAccess_roomOk (d : Device) (h0 : d.roomOk = true) :
    (Device.restartAccess d).roomOk = true := by
  unfold Device.restartAccess
  repeat' (first | with_reducible exact h0 | simp [h0] | split)

@[simp] theorem Device.offerAgain_roomOk (d : Device) (items : List Item) (h0 : d.roomOk = true) :
    (Device.offerAgain d items).roomOk = true := by
  unfold Device.offerAgain
  exact foldl_roomOk _ (fun _ _ h => by simp (maxDischargeDepth := 16) [h]) _ _ (by simp (maxDischargeDepth := 16) [h0])

@[simp] theorem Device.restartRecords_roomOk (d : Device) (h0 : d.roomOk = true) :
    (Device.restartRecords d).roomOk = true := by
  have h1 : ∀ (e : Device) (f : Transfers → Transfers), (f e.xfer).slots = List.replicate 8 Slot.free →
      e.roomOk = true → (e.onXfer f).roomOk = true := by
    intro e f h1 h2
    obtain ⟨p, q, _, r⟩ := (Bounded.ok_iff _ _ _ _).1 h2
    exact (Bounded.ok_iff _ _ _ _).2 ⟨p, q, by simp [Device.onXfer, h1], r⟩
  unfold Device.restartRecords
  dsimp only
  rw [Device.onLoop_roomOk]
  refine Device.leaveLoop_roomOk _ ?_
  rw [Device.onLog_roomOk _ _ rfl]
  refine foldl_roomOk _ (fun _ _ h => by simp (maxDischargeDepth := 16) [h]) _ _ ?_
  rw [Device.onWeather_roomOk, Device.onStore_roomOk]
  refine h1 _ _ rfl ?_
  rw [Device.onRep_roomOk]
  split <;> simp (maxDischargeDepth := 16) [h0]

@[simp] theorem Device.restartConsole_roomOk (d : Device) (h0 : d.roomOk = true) :
    (Device.restartConsole d).roomOk = true := by
  obtain ⟨_, _, r⟩ := (Bounded.ok_iff _ _ _ _).1 h0
  exact (Bounded.ok_iff _ _ _ _).2 ⟨Nat.zero_le 8, by simp [Device.restartConsole, Device.onConsole], r⟩

@[simp] theorem Device.restart_roomOk (d : Device) (h0 : d.roomOk = true) :
    (Device.restart d).2.roomOk = true := by
  unfold Device.restart
  simp (maxDischargeDepth := 16) [h0]

@[simp] theorem Device.answer_roomOk (tag selector : Nat) (data : List Datum) (d : Device) (h0 : d.roomOk = true) :
    (Device.answer tag selector data d).2.roomOk = true := by
  unfold Device.answer
  try dsimp only
  repeat' split
  all_goals first
    | simp (maxDischargeDepth := 16) [*]
    | (have h2 := congrArg (fun x => x.2.roomOk) ‹_ = (_, _)›
       simp (maxDischargeDepth := 16) [h0] at h2
       simp (maxDischargeDepth := 16) [*])
    | (have h2 := congrArg (fun x => x.1.roomOk) ‹_ = (_, _)›
       simp (maxDischargeDepth := 16) [h0] at h2
       simp (maxDischargeDepth := 16) [*])
    | (have h2 := congrArg (fun x => x.2.2.roomOk) ‹_ = (_, _, _)›
       simp (maxDischargeDepth := 16) [h0] at h2
       simp (maxDischargeDepth := 16) [*])

@[simp] theorem Device.startAlert_roomOk (nature : Nat) (persons : Option Nat) (d : Device) (h0 : d.roomOk = true) :
    (Device.startAlert nature persons d).roomOk = true := by
  unfold Device.startAlert
  try dsimp only
  repeat' split
  all_goals first
    | simp (maxDischargeDepth := 16) [*]
    | (have h2 := congrArg (fun x => x.2.roomOk) ‹_ = (_, _)›
       simp (maxDischargeDepth := 16) [h0] at h2
       simp (maxDischargeDepth := 16) [*])
    | (have h2 := congrArg (fun x => x.1.roomOk) ‹_ = (_, _)›
       simp (maxDischargeDepth := 16) [h0] at h2
       simp (maxDischargeDepth := 16) [*])
    | (have h2 := congrArg (fun x => x.2.2.roomOk) ‹_ = (_, _, _)›
       simp (maxDischargeDepth := 16) [h0] at h2
       simp (maxDischargeDepth := 16) [*])

@[simp] theorem Device.repeatNow_roomOk (d : Device) (h0 : d.roomOk = true) :
    (Device.repeatNow d).roomOk = true := by
  unfold Device.repeatNow
  repeat' (first | with_reducible exact h0 | simp [h0] | split)

@[simp] theorem Device.raiseAgain_roomOk (nature : Nat) (persons : Option Nat) (d : Device) (h0 : d.roomOk = true) :
    (Device.raiseAgain nature persons d).roomOk = true := by
  unfold Device.raiseAgain
  simp (maxDischargeDepth := 16) [h0]

@[simp] theorem Device.orderDistress_roomOk (nature persons : Nat) (d : Device) (h0 : d.roomOk = true) :
    (Device.orderDistress nature persons d).2.roomOk = true := by
  unfold Device.orderDistress
  repeat' (first | with_reducible exact h0 | simp [h0] | split)

@[simp] theorem Device.orderCancel_roomOk (d : Device) (h0 : d.roomOk = true) :
    (Device.orderCancel d).2.roomOk = true := by
  unfold Device.orderCancel
  try dsimp only
  repeat' split
  all_goals first
    | simp (maxDischargeDepth := 16) [*]
    | (have h2 := congrArg (fun x => x.2.roomOk) ‹_ = (_, _)›
       simp (maxDischargeDepth := 16) [h0] at h2
       simp (maxDischargeDepth := 16) [*])
    | (have h2 := congrArg (fun x => x.1.roomOk) ‹_ = (_, _)›
       simp (maxDischargeDepth := 16) [h0] at h2
       simp (maxDischargeDepth := 16) [*])
    | (have h2 := congrArg (fun x => x.2.2.roomOk) ‹_ = (_, _, _)›
       simp (maxDischargeDepth := 16) [h0] at h2
       simp (maxDischargeDepth := 16) [*])

@[simp] theorem Device.orderAck_roomOk (st : Nat) (d : Device) (h0 : d.roomOk = true) :
    (Device.orderAck st d).2.roomOk = true := by
  unfold Device.orderAck
  repeat' (first | with_reducible exact h0 | simp [h0] | split)

@[simp] theorem Device.orderClose_roomOk (st : Nat) (d : Device) (h0 : d.roomOk = true) :
    (Device.orderClose st d).2.roomOk = true := by
  unfold Device.orderClose
  repeat' (first | with_reducible exact h0 | simp [h0] | split)

@[simp] theorem Device.orderFlush_roomOk (d : Device) (h0 : d.roomOk = true) :
    (Device.orderFlush d).2.roomOk = true := by
  unfold Device.orderFlush
  split <;> simp (maxDischargeDepth := 16) [h0]

@[simp] theorem Device.orderLoop_roomOk (tag : Nat) (d : Device) (h0 : d.roomOk = true) :
    (Device.orderLoop tag d).2.roomOk = true := by
  unfold Device.orderLoop
  repeat' (first | with_reducible exact h0 | simp [h0] | split)

@[simp] theorem Device.openHaul_roomOk (tag : Nat) (d : Device) (h0 : d.roomOk = true) :
    (Device.openHaul tag d).2.roomOk = true := by
  unfold Device.openHaul
  repeat' split
  all_goals first
    | exact h0
    | (refine Device.queueEntry_roomOk _ _ _ ?_
       rw [Device.onLog_roomOk]
       · exact h0
       · exact List.length_set)

@[simp] theorem Device.closeHaul_roomOk (number : Nat) (d : Device) (h0 : d.roomOk = true) :
    (Device.closeHaul number d).2.roomOk = true := by
  unfold Device.closeHaul
  repeat' (first | with_reducible exact h0 | simp [h0] | split)

@[simp] theorem Device.catchLine_roomOk (number : Nat) (sp : Species) (disp weight : Nat) (d : Device) (h0 : d.roomOk = true) :
    (Device.catchLine number sp disp weight d).2.roomOk = true := by
  unfold Device.catchLine
  repeat' (first | with_reducible exact h0 | simp [h0] | split)

@[simp] theorem Device.discardHaul_roomOk (number : Nat) (d : Device) (h0 : d.roomOk = true) :
    (Device.discardHaul number d).2.roomOk = true := by
  unfold Device.discardHaul
  split <;> simp [h0]

@[simp] theorem Device.commitLine_roomOk (rect : Nat) (x : Device × Bool) (l : CatchLine) (h0 : x.1.roomOk = true) :
    (Device.commitLine rect x l).1.roomOk = true := by
  unfold Device.commitLine
  simp [h0]

@[simp] theorem Device.commitCell_roomOk (rect : Nat) (h : Haul) (x : Device × Bool) (sp : Species) (h0 : x.1.roomOk = true) :
    (Device.commitCell rect h x sp).1.roomOk = true := by
  unfold Device.commitCell
  simp [h0]

@[simp] theorem Device.commitQuotas_roomOk (d : Device) (lines : List CatchLine) (h0 : d.roomOk = true) :
    (Device.commitQuotas d lines).roomOk = true := by
  have h1 : ∀ (l : List Species) (e : Device), e.roomOk = true →
      (l.foldl (fun d sp => d.onQuota sp fun q => ⟨q.species, q.quota, d.consumedOf sp, q.st, q.owedFrom⟩) e).roomOk = true :=
    fun l e he => foldl_roomOk _ (fun _ _ h => by simp (maxDischargeDepth := 16) [h]) l e he
  have h3 : ∀ (l : List Species) (x : Bool × Device), x.2.roomOk = true →
      (l.foldl (fun x sp => (x.1 || (x.2.evaluateQuota sp 0).1, (x.2.evaluateQuota sp 0).2)) x).2.roomOk = true := by
    intro l
    induction l with
    | nil => intro x hx; exact hx
    | cons y r ih => intro x hx; rw [List.foldl_cons]; exact ih _ (by simp (maxDischargeDepth := 16) [hx])
  unfold Device.commitQuotas
  dsimp only
  split
  · exact Device.trigger_roomOk _ _ (h3 _ (false, _) (h1 _ _ h0))
  · exact h3 _ (false, _) (h1 _ _ h0)

@[simp] theorem Device.commitHaul_roomOk (tag i : Nat) (d : Device) (h0 : d.roomOk = true) :
    (Device.commitHaul tag i d).roomOk = true := by
  have h1 : ∀ (rect : Nat) (l : List CatchLine) (x : Device × Bool), x.1.roomOk = true →
      (l.foldl (Device.commitLine rect) x).1.roomOk = true := by
    intro rect l
    induction l with
    | nil => intro x hx; exact hx
    | cons y r ih => intro x hx; rw [List.foldl_cons]; exact ih _ (by simp (maxDischargeDepth := 16) [hx])
  have h2 : ∀ (rect : Nat) (h : Haul) (l : List Species) (x : Device × Bool), x.1.roomOk = true →
      (l.foldl (Device.commitCell rect h) x).1.roomOk = true := by
    intro rect h l
    induction l with
    | nil => intro x hx; exact hx
    | cons y r ih => intro x hx; rw [List.foldl_cons]; exact ih _ (by simp (maxDischargeDepth := 16) [hx])
  unfold Device.commitHaul
  dsimp only
  apply Device.commitQuotas_roomOk
  refine Device.onLogCounts_roomOk _ _ (Device.queueEntry_roomOk _ _ _ (Device.onHaul_roomOk _ _ _ ?_))
  exact h2 _ _ _ (_, _) (h1 _ _ (_, _) h0)

@[simp] theorem Device.orderCommit_roomOk (tag number : Nat) (d : Device) (h0 : d.roomOk = true) :
    (Device.orderCommit tag number d).2.roomOk = true := by
  unfold Device.orderCommit
  repeat' (first | with_reducible exact h0 | simp [h0] | split)

@[simp] theorem Device.hourReached_roomOk (d : Device) (h0 : d.roomOk = true) :
    (Device.hourReached d).roomOk = true := by
  unfold Device.hourReached
  split <;> simp [h0]

@[simp] theorem Device.deadlineReached_roomOk (d : Device) (h0 : d.roomOk = true) :
    (Device.deadlineReached d).roomOk = true := by
  unfold Device.deadlineReached
  split <;> simp [h0]

@[simp] theorem Device.recoveryTime_roomOk (m : MonitorId) (d : Device) (h0 : d.roomOk = true) :
    (Device.recoveryTime m d).roomOk = true := by
  unfold Device.recoveryTime
  split <;> simp [h0]

@[simp] theorem Device.quietTime_roomOk (d : Device) (h0 : d.roomOk = true) :
    (Device.quietTime d).roomOk = true := by
  unfold Device.quietTime
  split <;> simp [h0]

@[simp] theorem Device.loopDone_roomOk (received : List Pattern) (d : Device) (h0 : d.roomOk = true) :
    (Device.loopDone received d).roomOk = true := by
  unfold Device.loopDone
  split <;> simp (maxDischargeDepth := 16) [h0]

@[simp] theorem Device.staleTime_roomOk (st : Station) (d : Device) (h0 : d.roomOk = true) :
    (Device.staleTime st d).roomOk = true := by
  unfold Device.staleTime
  dsimp only
  repeat' (first
    | with_reducible assumption
    | simp (maxDischargeDepth := 16) [*]
    | (refine foldl_roomOk _ ?_ _ _ ?_; intro _ _ _)
    | (refine Device.orPending_roomOk _ _ _ ?_ ?_; intro _)
    | split)

@[simp] theorem Device.removalTime_roomOk (st : Station) (d : Device) (h0 : d.roomOk = true) :
    (Device.removalTime st d).roomOk = true := by
  unfold Device.removalTime
  repeat' (first | with_reducible exact h0 | simp [h0] | split)

@[simp] theorem Device.avoidTime_roomOk (st : Station) (d : Device) (h0 : d.roomOk = true) :
    (Device.avoidTime st d).roomOk = true := by
  unfold Device.avoidTime
  split <;> simp (maxDischargeDepth := 16) [h0]

@[simp] theorem Device.beaconTime_roomOk (d : Device) (h0 : d.roomOk = true) :
    (Device.beaconTime d).roomOk = true := by
  unfold Device.beaconTime
  split <;> simp [h0]

@[simp] theorem Device.waitTime_roomOk (k : WaitKind) (st num : Nat) (d : Device) (h0 : d.roomOk = true) :
    (Device.waitTime k st num d).roomOk = true := by
  unfold Device.waitTime
  try dsimp only
  repeat' split
  all_goals first
    | simp (maxDischargeDepth := 16) [*]
    | (have h2 := congrArg (fun x => x.2.roomOk) ‹_ = (_, _)›
       simp (maxDischargeDepth := 16) [h0] at h2
       simp (maxDischargeDepth := 16) [*])
    | (have h2 := congrArg (fun x => x.1.roomOk) ‹_ = (_, _)›
       simp (maxDischargeDepth := 16) [h0] at h2
       simp (maxDischargeDepth := 16) [*])
    | (have h2 := congrArg (fun x => x.2.2.roomOk) ‹_ = (_, _, _)›
       simp (maxDischargeDepth := 16) [h0] at h2
       simp (maxDischargeDepth := 16) [*])

@[simp] theorem Device.ackTime_roomOk (d : Device) (h0 : d.roomOk = true) :
    (Device.ackTime d).roomOk = true := by
  unfold Device.ackTime
  repeat' (first | with_reducible exact h0 | simp [h0] | split)

@[simp] theorem Device.refusalTime_roomOk (i : Nat) (d : Device) (h0 : d.roomOk = true) :
    (Device.refusalTime i d).roomOk = true := by
  unfold Device.refusalTime
  split <;> simp [h0]

@[simp] theorem Device.lifeTime_roomOk (i : Nat) (d : Device) (h0 : d.roomOk = true) :
    (Device.lifeTime i d).roomOk = true := by
  unfold Device.lifeTime
  repeat' (first | with_reducible exact h0 | simp [h0] | split)

@[simp] theorem Device.inactivityTime_roomOk (src num : Nat) (d : Device) (h0 : d.roomOk = true) :
    (Device.inactivityTime src num d).roomOk = true := by
  unfold Device.inactivityTime
  repeat' (first | with_reducible exact h0 | simp [h0] | split)

@[simp] theorem Device.recentTime_roomOk (src num : Nat) (d : Device) (h0 : d.roomOk = true) :
    (Device.recentTime src num d).roomOk = true := by
  unfold Device.recentTime
  repeat' (first | with_reducible exact h0 | simp [h0] | split)

@[simp] theorem Device.repeatTime_roomOk (d : Device) (h0 : d.roomOk = true) :
    (Device.repeatTime d).roomOk = true := by
  unfold Device.repeatTime
  split <;> simp (maxDischargeDepth := 16) [h0]

@[simp] theorem Device.cancelTime_roomOk (d : Device) (h0 : d.roomOk = true) :
    (Device.cancelTime d).roomOk = true := by
  unfold Device.cancelTime
  split <;> simp (maxDischargeDepth := 16) [h0]

@[simp] theorem Device.caseTime_roomOk (st : Station) (d : Device) (h0 : d.roomOk = true) :
    (Device.caseTime st d).roomOk = true := by
  unfold Device.caseTime
  repeat' (first | with_reducible exact h0 | simp [h0] | split)

@[simp] theorem Device.holdTime_roomOk (d : Device) (h0 : d.roomOk = true) :
    (Device.holdTime d).roomOk = true := by
  unfold Device.holdTime
  repeat' (first | with_reducible exact h0 | simp [h0] | split)

@[simp] theorem Device.collectionTime_roomOk (area : Nat) (d : Device) (h0 : d.roomOk = true) :
    (Device.collectionTime area d).roomOk = true := by
  unfold Device.collectionTime
  split <;> simp [h0]

@[simp] theorem Device.forecastTime_roomOk (area : Nat) (complete : Bool) (d : Device) (h0 : d.roomOk = true) :
    (Device.forecastTime area complete d).roomOk = true := by
  unfold Device.forecastTime
  repeat' (first | with_reducible exact h0 | simp [h0] | split)

@[simp] theorem Device.warningTime_roomOk (issuer issue : Nat) (d : Device) (h0 : d.roomOk = true) :
    (Device.warningTime issuer issue d).roomOk = true := by
  unfold Device.warningTime
  repeat' (first | with_reducible exact h0 | simp [h0] | split)

@[simp] theorem Device.tick_roomOk (d : Device) (h0 : d.roomOk = true) :
    (Device.tick d).roomOk = true := by
  unfold Device.tick
  simp [h0]

@[simp] theorem Device.takeDue_roomOk (d : Device) (h0 : d.roomOk = true) :
    (Device.takeDue d).2.roomOk = true := by
  unfold Device.takeDue
  repeat' (first | with_reducible exact h0 | simp [h0] | split)

theorem Device.setupPart_roomOk (k : Nat) (take : SetupRaw → Option SetupRaw) (finish : Device → Device) (d : Device)
    (h : ∀ e : Device, e.roomOk = true → (finish e).roomOk = true) (h0 : d.roomOk = true) :
    (Device.setupPart k take finish d).2.roomOk = true := by
  unfold Device.setupPart
  repeat' split
  all_goals first
    | exact h0
    | exact Device.voidSetup_roomOk _ h0
    | exact h _ h0

/-- A frame keeps what its judging keeps. -/
theorem Device.frame_roomOk (d : Device) (tag : Nat) (isSetup early : Bool) (judge : Device → Disposition × Device)
    (h : ∀ e : Device, e.roomOk = true → (judge e).2.roomOk = true) (h0 : d.roomOk = true) :
    (d.frame tag isSetup early judge).roomOk = true := by
  unfold Device.frame
  have h1 := Device.completeExchange_roomOk d h0
  have h2 := Device.leaveSetup_roomOk _ h1
  dsimp only
  refine Device.settle_roomOk _ (Device.echo_roomOk _ _ _ ?_)
  repeat' split
  all_goals first
    | exact h _ h1
    | exact h _ h2
    | exact h1
    | exact h2

theorem State.act_roomOk (s t : State) (f : Device → Device) (h : ∀ e : Device, e.roomOk = true → (f e).roomOk = true)
    (h0 : s.dev.roomOk = true) (ht : s.act f = .next t) : t.dev.roomOk = true := by
  unfold State.act at ht
  injection ht with ht
  subst ht
  dsimp only
  split
  · exact h0
  · exact h _ h0

theorem State.frame_roomOk (s t : State) (tag : Nat) (isSetup early : Bool) (judge : Device → Disposition × Device)
    (h : ∀ e : Device, e.roomOk = true → (judge e).2.roomOk = true) (h0 : s.dev.roomOk = true)
    (ht : s.frame tag isSetup early judge = .next t) : t.dev.roomOk = true :=
  State.act_roomOk s t _ (fun e he => Device.frame_roomOk e tag isSetup early judge h he) h0 ht

theorem State.event_roomOk (s t : State) (f : Device → Device) (h : ∀ e : Device, e.roomOk = true → (f e).roomOk = true)
    (h0 : s.dev.roomOk = true) (ht : s.event f = .next t) : t.dev.roomOk = true :=
  State.act_roomOk s t _ (fun e he => Device.settle_roomOk _ (h e he)) h0 ht

end Sys2Proof.Machine
end

