-- ==== Sys2Proof/Laws/State.lean ====
section
/-! SUPPORT. One lemma per field of the part for each update of a block, of the timebase and of the draws. -/

namespace Sys2Proof.Machine
namespace Device

variable (d : Device)

/-! ### onAccess -/

@[simp] theorem onAccess_now (f : Access → Access) : (d.onAccess f).now = d.now := rfl
@[simp] theorem onAccess_resetLow (f : Access → Access) : (d.onAccess f).resetLow = d.resetLow := rfl
@[simp] theorem onAccess_draws (f : Access → Access) : (d.onAccess f).draws = d.draws := rfl
@[simp] theorem onAccess_pins (f : Access → Access) : (d.onAccess f).pins = d.pins := rfl
@[simp] theorem onAccess_config (f : Access → Access) : (d.onAccess f).config = d.config := rfl
@[simp] theorem onAccess_rx (f : Access → Access) : (d.onAccess f).rx = d.rx := rfl
@[simp] theorem onAccess_tx (f : Access → Access) : (d.onAccess f).tx = d.tx := rfl
@[simp] theorem onAccess_rxCounts (f : Access → Access) : (d.onAccess f).rxCounts = d.rxCounts := rfl
@[simp] theorem onAccess_access (f : Access → Access) : (d.onAccess f).access = f d.access := rfl
@[simp] theorem onAccess_prot (f : Access → Access) : (d.onAccess f).prot = d.prot := rfl
@[simp] theorem onAccess_loop (f : Access → Access) : (d.onAccess f).loop = d.loop := rfl
@[simp] theorem onAccess_store (f : Access → Access) : (d.onAccess f).store = d.store := rfl
@[simp] theorem onAccess_neigh (f : Access → Access) : (d.onAccess f).neigh = d.neigh := rfl
@[simp] theorem onAccess_waits (f : Access → Access) : (d.onAccess f).waits = d.waits := rfl
@[simp] theorem onAccess_xfer (f : Access → Access) : (d.onAccess f).xfer = d.xfer := rfl
@[simp] theorem onAccess_distress (f : Access → Access) : (d.onAccess f).distress = d.distress := rfl
@[simp] theorem onAccess_weather (f : Access → Access) : (d.onAccess f).weather = d.weather := rfl
@[simp] theorem onAccess_log (f : Access → Access) : (d.onAccess f).log = d.log := rfl
@[simp] theorem onAccess_rep (f : Access → Access) : (d.onAccess f).rep = d.rep := rfl
@[simp] theorem onAccess_console (f : Access → Access) : (d.onAccess f).console = d.console := rfl

/-! ### onProt -/

@[simp] theorem onProt_now (f : Protection → Protection) : (d.onProt f).now = d.now := rfl
@[simp] theorem onProt_resetLow (f : Protection → Protection) : (d.onProt f).resetLow = d.resetLow := rfl
@[simp] theorem onProt_draws (f : Protection → Protection) : (d.onProt f).draws = d.draws := rfl
@[simp] theorem onProt_pins (f : Protection → Protection) : (d.onProt f).pins = d.pins := rfl
@[simp] theorem onProt_config (f : Protection → Protection) : (d.onProt f).config = d.config := rfl
@[simp] theorem onProt_rx (f : Protection → Protection) : (d.onProt f).rx = d.rx := rfl
@[simp] theorem onProt_tx (f : Protection → Protection) : (d.onProt f).tx = d.tx := rfl
@[simp] theorem onProt_rxCounts (f : Protection → Protection) : (d.onProt f).rxCounts = d.rxCounts := rfl
@[simp] theorem onProt_access (f : Protection → Protection) : (d.onProt f).access = d.access := rfl
@[simp] theorem onProt_prot (f : Protection → Protection) : (d.onProt f).prot = f d.prot := rfl
@[simp] theorem onProt_loop (f : Protection → Protection) : (d.onProt f).loop = d.loop := rfl
@[simp] theorem onProt_store (f : Protection → Protection) : (d.onProt f).store = d.store := rfl
@[simp] theorem onProt_neigh (f : Protection → Protection) : (d.onProt f).neigh = d.neigh := rfl
@[simp] theorem onProt_waits (f : Protection → Protection) : (d.onProt f).waits = d.waits := rfl
@[simp] theorem onProt_xfer (f : Protection → Protection) : (d.onProt f).xfer = d.xfer := rfl
@[simp] theorem onProt_distress (f : Protection → Protection) : (d.onProt f).distress = d.distress := rfl
@[simp] theorem onProt_weather (f : Protection → Protection) : (d.onProt f).weather = d.weather := rfl
@[simp] theorem onProt_log (f : Protection → Protection) : (d.onProt f).log = d.log := rfl
@[simp] theorem onProt_rep (f : Protection → Protection) : (d.onProt f).rep = d.rep := rfl
@[simp] theorem onProt_console (f : Protection → Protection) : (d.onProt f).console = d.console := rfl

/-! ### onLoop -/

@[simp] theorem onLoop_now (f : LoopTest → LoopTest) : (d.onLoop f).now = d.now := rfl
@[simp] theorem onLoop_resetLow (f : LoopTest → LoopTest) : (d.onLoop f).resetLow = d.resetLow := rfl
@[simp] theorem onLoop_draws (f : LoopTest → LoopTest) : (d.onLoop f).draws = d.draws := rfl
@[simp] theorem onLoop_pins (f : LoopTest → LoopTest) : (d.onLoop f).pins = d.pins := rfl
@[simp] theorem onLoop_config (f : LoopTest → LoopTest) : (d.onLoop f).config = d.config := rfl
@[simp] theorem onLoop_rx (f : LoopTest → LoopTest) : (d.onLoop f).rx = d.rx := rfl
@[simp] theorem onLoop_tx (f : LoopTest → LoopTest) : (d.onLoop f).tx = d.tx := rfl
@[simp] theorem onLoop_rxCounts (f : LoopTest → LoopTest) : (d.onLoop f).rxCounts = d.rxCounts := rfl
@[simp] theorem onLoop_access (f : LoopTest → LoopTest) : (d.onLoop f).access = d.access := rfl
@[simp] theorem onLoop_prot (f : LoopTest → LoopTest) : (d.onLoop f).prot = d.prot := rfl
@[simp] theorem onLoop_loop (f : LoopTest → LoopTest) : (d.onLoop f).loop = f d.loop := rfl
@[simp] theorem onLoop_store (f : LoopTest → LoopTest) : (d.onLoop f).store = d.store := rfl
@[simp] theorem onLoop_neigh (f : LoopTest → LoopTest) : (d.onLoop f).neigh = d.neigh := rfl
@[simp] theorem onLoop_waits (f : LoopTest → LoopTest) : (d.onLoop f).waits = d.waits := rfl
@[simp] theorem onLoop_xfer (f : LoopTest → LoopTest) : (d.onLoop f).xfer = d.xfer := rfl
@[simp] theorem onLoop_distress (f : LoopTest → LoopTest) : (d.onLoop f).distress = d.distress := rfl
@[simp] theorem onLoop_weather (f : LoopTest → LoopTest) : (d.onLoop f).weather = d.weather := rfl
@[simp] theorem onLoop_log (f : LoopTest → LoopTest) : (d.onLoop f).log = d.log := rfl
@[simp] theorem onLoop_rep (f : LoopTest → LoopTest) : (d.onLoop f).rep = d.rep := rfl
@[simp] theorem onLoop_console (f : LoopTest → LoopTest) : (d.onLoop f).console = d.console := rfl

/-! ### onRx -/

@[simp] theorem onRx_now (f : Rx → Rx) : (d.onRx f).now = d.now := rfl
@[simp] theorem onRx_resetLow (f : Rx → Rx) : (d.onRx f).resetLow = d.resetLow := rfl
@[simp] theorem onRx_draws (f : Rx → Rx) : (d.onRx f).draws = d.draws := rfl
@[simp] theorem onRx_pins (f : Rx → Rx) : (d.onRx f).pins = d.pins := rfl
@[simp] theorem onRx_config (f : Rx → Rx) : (d.onRx f).config = d.config := rfl
@[simp] theorem onRx_rx (f : Rx → Rx) : (d.onRx f).rx = f d.rx := rfl
@[simp] theorem onRx_tx (f : Rx → Rx) : (d.onRx f).tx = d.tx := rfl
@[simp] theorem onRx_rxCounts (f : Rx → Rx) : (d.onRx f).rxCounts = d.rxCounts := rfl
@[simp] theorem onRx_access (f : Rx → Rx) : (d.onRx f).access = d.access := rfl
@[simp] theorem onRx_prot (f : Rx → Rx) : (d.onRx f).prot = d.prot := rfl
@[simp] theorem onRx_loop (f : Rx → Rx) : (d.onRx f).loop = d.loop := rfl
@[simp] theorem onRx_store (f : Rx → Rx) : (d.onRx f).store = d.store := rfl
@[simp] theorem onRx_neigh (f : Rx → Rx) : (d.onRx f).neigh = d.neigh := rfl
@[simp] theorem onRx_waits (f : Rx → Rx) : (d.onRx f).waits = d.waits := rfl
@[simp] theorem onRx_xfer (f : Rx → Rx) : (d.onRx f).xfer = d.xfer := rfl
@[simp] theorem onRx_distress (f : Rx → Rx) : (d.onRx f).distress = d.distress := rfl
@[simp] theorem onRx_weather (f : Rx → Rx) : (d.onRx f).weather = d.weather := rfl
@[simp] theorem onRx_log (f : Rx → Rx) : (d.onRx f).log = d.log := rfl
@[simp] theorem onRx_rep (f : Rx → Rx) : (d.onRx f).rep = d.rep := rfl
@[simp] theorem onRx_console (f : Rx → Rx) : (d.onRx f).console = d.console := rfl

/-! ### onRxCounts -/

@[simp] theorem onRxCounts_now (f : RxCounts → RxCounts) : (d.onRxCounts f).now = d.now := rfl
@[simp] theorem onRxCounts_resetLow (f : RxCounts → RxCounts) : (d.onRxCounts f).resetLow = d.resetLow := rfl
@[simp] theorem onRxCounts_draws (f : RxCounts → RxCounts) : (d.onRxCounts f).draws = d.draws := rfl
@[simp] theorem onRxCounts_pins (f : RxCounts → RxCounts) : (d.onRxCounts f).pins = d.pins := rfl
@[simp] theorem onRxCounts_config (f : RxCounts → RxCounts) : (d.onRxCounts f).config = d.config := rfl
@[simp] theorem onRxCounts_rx (f : RxCounts → RxCounts) : (d.onRxCounts f).rx = d.rx := rfl
@[simp] theorem onRxCounts_tx (f : RxCounts → RxCounts) : (d.onRxCounts f).tx = d.tx := rfl
@[simp] theorem onRxCounts_rxCounts (f : RxCounts → RxCounts) : (d.onRxCounts f).rxCounts = f d.rxCounts := rfl
@[simp] theorem onRxCounts_access (f : RxCounts → RxCounts) : (d.onRxCounts f).access = d.access := rfl
@[simp] theorem onRxCounts_prot (f : RxCounts → RxCounts) : (d.onRxCounts f).prot = d.prot := rfl
@[simp] theorem onRxCounts_loop (f : RxCounts → RxCounts) : (d.onRxCounts f).loop = d.loop := rfl
@[simp] theorem onRxCounts_store (f : RxCounts → RxCounts) : (d.onRxCounts f).store = d.store := rfl
@[simp] theorem onRxCounts_neigh (f : RxCounts → RxCounts) : (d.onRxCounts f).neigh = d.neigh := rfl
@[simp] theorem onRxCounts_waits (f : RxCounts → RxCounts) : (d.onRxCounts f).waits = d.waits := rfl
@[simp] theorem onRxCounts_xfer (f : RxCounts → RxCounts) : (d.onRxCounts f).xfer = d.xfer := rfl
@[simp] theorem onRxCounts_distress (f : RxCounts → RxCounts) : (d.onRxCounts f).distress = d.distress := rfl
@[simp] theorem onRxCounts_weather (f : RxCounts → RxCounts) : (d.onRxCounts f).weather = d.weather := rfl
@[simp] theorem onRxCounts_log (f : RxCounts → RxCounts) : (d.onRxCounts f).log = d.log := rfl
@[simp] theorem onRxCounts_rep (f : RxCounts → RxCounts) : (d.onRxCounts f).rep = d.rep := rfl
@[simp] theorem onRxCounts_console (f : RxCounts → RxCounts) : (d.onRxCounts f).console = d.console := rfl

/-! ### onStore -/

@[simp] theorem onStore_now (f : Store → Store) : (d.onStore f).now = d.now := rfl
@[simp] theorem onStore_resetLow (f : Store → Store) : (d.onStore f).resetLow = d.resetLow := rfl
@[simp] theorem onStore_draws (f : Store → Store) : (d.onStore f).draws = d.draws := rfl
@[simp] theorem onStore_pins (f : Store → Store) : (d.onStore f).pins = d.pins := rfl
@[simp] theorem onStore_config (f : Store → Store) : (d.onStore f).config = d.config := rfl
@[simp] theorem onStore_rx (f : Store → Store) : (d.onStore f).rx = d.rx := rfl
@[simp] theorem onStore_tx (f : Store → Store) : (d.onStore f).tx = d.tx := rfl
@[simp] theorem onStore_rxCounts (f : Store → Store) : (d.onStore f).rxCounts = d.rxCounts := rfl
@[simp] theorem onStore_access (f : Store → Store) : (d.onStore f).access = d.access := rfl
@[simp] theorem onStore_prot (f : Store → Store) : (d.onStore f).prot = d.prot := rfl
@[simp] theorem onStore_loop (f : Store → Store) : (d.onStore f).loop = d.loop := rfl
@[simp] theorem onStore_store (f : Store → Store) : (d.onStore f).store = f d.store := rfl
@[simp] theorem onStore_neigh (f : Store → Store) : (d.onStore f).neigh = d.neigh := rfl
@[simp] theorem onStore_waits (f : Store → Store) : (d.onStore f).waits = d.waits := rfl
@[simp] theorem onStore_xfer (f : Store → Store) : (d.onStore f).xfer = d.xfer := rfl
@[simp] theorem onStore_distress (f : Store → Store) : (d.onStore f).distress = d.distress := rfl
@[simp] theorem onStore_weather (f : Store → Store) : (d.onStore f).weather = d.weather := rfl
@[simp] theorem onStore_log (f : Store → Store) : (d.onStore f).log = d.log := rfl
@[simp] theorem onStore_rep (f : Store → Store) : (d.onStore f).rep = d.rep := rfl
@[simp] theorem onStore_console (f : Store → Store) : (d.onStore f).console = d.console := rfl

/-! ### onNeigh -/

@[simp] theorem onNeigh_now (f : NeighTable → NeighTable) : (d.onNeigh f).now = d.now := rfl
@[simp] theorem onNeigh_resetLow (f : NeighTable → NeighTable) : (d.onNeigh f).resetLow = d.resetLow := rfl
@[simp] theorem onNeigh_draws (f : NeighTable → NeighTable) : (d.onNeigh f).draws = d.draws := rfl
@[simp] theorem onNeigh_pins (f : NeighTable → NeighTable) : (d.onNeigh f).pins = d.pins := rfl
@[simp] theorem onNeigh_config (f : NeighTable → NeighTable) : (d.onNeigh f).config = d.config := rfl
@[simp] theorem onNeigh_rx (f : NeighTable → NeighTable) : (d.onNeigh f).rx = d.rx := rfl
@[simp] theorem onNeigh_tx (f : NeighTable → NeighTable) : (d.onNeigh f).tx = d.tx := rfl
@[simp] theorem onNeigh_rxCounts (f : NeighTable → NeighTable) : (d.onNeigh f).rxCounts = d.rxCounts := rfl
@[simp] theorem onNeigh_access (f : NeighTable → NeighTable) : (d.onNeigh f).access = d.access := rfl
@[simp] theorem onNeigh_prot (f : NeighTable → NeighTable) : (d.onNeigh f).prot = d.prot := rfl
@[simp] theorem onNeigh_loop (f : NeighTable → NeighTable) : (d.onNeigh f).loop = d.loop := rfl
@[simp] theorem onNeigh_store (f : NeighTable → NeighTable) : (d.onNeigh f).store = d.store := rfl
@[simp] theorem onNeigh_neigh (f : NeighTable → NeighTable) : (d.onNeigh f).neigh = f d.neigh := rfl
@[simp] theorem onNeigh_waits (f : NeighTable → NeighTable) : (d.onNeigh f).waits = d.waits := rfl
@[simp] theorem onNeigh_xfer (f : NeighTable → NeighTable) : (d.onNeigh f).xfer = d.xfer := rfl
@[simp] theorem onNeigh_distress (f : NeighTable → NeighTable) : (d.onNeigh f).distress = d.distress := rfl
@[simp] theorem onNeigh_weather (f : NeighTable → NeighTable) : (d.onNeigh f).weather = d.weather := rfl
@[simp] theorem onNeigh_log (f : NeighTable → NeighTable) : (d.onNeigh f).log = d.log := rfl
@[simp] theorem onNeigh_rep (f : NeighTable → NeighTable) : (d.onNeigh f).rep = d.rep := rfl
@[simp] theorem onNeigh_console (f : NeighTable → NeighTable) : (d.onNeigh f).console = d.console := rfl

/-! ### onXfer -/

@[simp] theorem onXfer_now (f : Transfers → Transfers) : (d.onXfer f).now = d.now := rfl
@[simp] theorem onXfer_resetLow (f : Transfers → Transfers) : (d.onXfer f).resetLow = d.resetLow := rfl
@[simp] theorem onXfer_draws (f : Transfers → Transfers) : (d.onXfer f).draws = d.draws := rfl
@[simp] theorem onXfer_pins (f : Transfers → Transfers) : (d.onXfer f).pins = d.pins := rfl
@[simp] theorem onXfer_config (f : Transfers → Transfers) : (d.onXfer f).config = d.config := rfl
@[simp] theorem onXfer_rx (f : Transfers → Transfers) : (d.onXfer f).rx = d.rx := rfl
@[simp] theorem onXfer_tx (f : Transfers → Transfers) : (d.onXfer f).tx = d.tx := rfl
@[simp] theorem onXfer_rxCounts (f : Transfers → Transfers) : (d.onXfer f).rxCounts = d.rxCounts := rfl
@[simp] theorem onXfer_access (f : Transfers → Transfers) : (d.onXfer f).access = d.access := rfl
@[simp] theorem onXfer_prot (f : Transfers → Transfers) : (d.onXfer f).prot = d.prot := rfl
@[simp] theorem onXfer_loop (f : Transfers → Transfers) : (d.onXfer f).loop = d.loop := rfl
@[simp] theorem onXfer_store (f : Transfers → Transfers) : (d.onXfer f).store = d.store := rfl
@[simp] theorem onXfer_neigh (f : Transfers → Transfers) : (d.onXfer f).neigh = d.neigh := rfl
@[simp] theorem onXfer_waits (f : Transfers → Transfers) : (d.onXfer f).waits = d.waits := rfl
@[simp] theorem onXfer_xfer (f : Transfers → Transfers) : (d.onXfer f).xfer = f d.xfer := rfl
@[simp] theorem onXfer_distress (f : Transfers → Transfers) : (d.onXfer f).distress = d.distress := rfl
@[simp] theorem onXfer_weather (f : Transfers → Transfers) : (d.onXfer f).weather = d.weather := rfl
@[simp] theorem onXfer_log (f : Transfers → Transfers) : (d.onXfer f).log = d.log := rfl
@[simp] theorem onXfer_rep (f : Transfers → Transfers) : (d.onXfer f).rep = d.rep := rfl
@[simp] theorem onXfer_console (f : Transfers → Transfers) : (d.onXfer f).console = d.console := rfl

/-! ### onDistress -/

@[simp] theorem onDistress_now (f : DistressUnit → DistressUnit) : (d.onDistress f).now = d.now := rfl
@[simp] theorem onDistress_resetLow (f : DistressUnit → DistressUnit) : (d.onDistress f).resetLow = d.resetLow := rfl
@[simp] theorem onDistress_draws (f : DistressUnit → DistressUnit) : (d.onDistress f).draws = d.draws := rfl
@[simp] theorem onDistress_pins (f : DistressUnit → DistressUnit) : (d.onDistress f).pins = d.pins := rfl
@[simp] theorem onDistress_config (f : DistressUnit → DistressUnit) : (d.onDistress f).config = d.config := rfl
@[simp] theorem onDistress_rx (f : DistressUnit → DistressUnit) : (d.onDistress f).rx = d.rx := rfl
@[simp] theorem onDistress_tx (f : DistressUnit → DistressUnit) : (d.onDistress f).tx = d.tx := rfl
@[simp] theorem onDistress_rxCounts (f : DistressUnit → DistressUnit) : (d.onDistress f).rxCounts = d.rxCounts := rfl
@[simp] theorem onDistress_access (f : DistressUnit → DistressUnit) : (d.onDistress f).access = d.access := rfl
@[simp] theorem onDistress_prot (f : DistressUnit → DistressUnit) : (d.onDistress f).prot = d.prot := rfl
@[simp] theorem onDistress_loop (f : DistressUnit → DistressUnit) : (d.onDistress f).loop = d.loop := rfl
@[simp] theorem onDistress_store (f : DistressUnit → DistressUnit) : (d.onDistress f).store = d.store := rfl
@[simp] theorem onDistress_neigh (f : DistressUnit → DistressUnit) : (d.onDistress f).neigh = d.neigh := rfl
@[simp] theorem onDistress_waits (f : DistressUnit → DistressUnit) : (d.onDistress f).waits = d.waits := rfl
@[simp] theorem onDistress_xfer (f : DistressUnit → DistressUnit) : (d.onDistress f).xfer = d.xfer := rfl
@[simp] theorem onDistress_distress (f : DistressUnit → DistressUnit) : (d.onDistress f).distress = f d.distress := rfl
@[simp] theorem onDistress_weather (f : DistressUnit → DistressUnit) : (d.onDistress f).weather = d.weather := rfl
@[simp] theorem onDistress_log (f : DistressUnit → DistressUnit) : (d.onDistress f).log = d.log := rfl
@[simp] theorem onDistress_rep (f : DistressUnit → DistressUnit) : (d.onDistress f).rep = d.rep := rfl
@[simp] theorem onDistress_console (f : DistressUnit → DistressUnit) : (d.onDistress f).console = d.console := rfl

/-! ### onWeather -/

@[simp] theorem onWeather_now (f : WeatherStore → WeatherStore) : (d.onWeather f).now = d.now := rfl
@[simp] theorem onWeather_resetLow (f : WeatherStore → WeatherStore) : (d.onWeather f).resetLow = d.resetLow := rfl
@[simp] theorem onWeather_draws (f : WeatherStore → WeatherStore) : (d.onWeather f).draws = d.draws := rfl
@[simp] theorem onWeather_pins (f : WeatherStore → WeatherStore) : (d.onWeather f).pins = d.pins := rfl
@[simp] theorem onWeather_config (f : WeatherStore → WeatherStore) : (d.onWeather f).config = d.config := rfl
@[simp] theorem onWeather_rx (f : WeatherStore → WeatherStore) : (d.onWeather f).rx = d.rx := rfl
@[simp] theorem onWeather_tx (f : WeatherStore → WeatherStore) : (d.onWeather f).tx = d.tx := rfl
@[simp] theorem onWeather_rxCounts (f : WeatherStore → WeatherStore) : (d.onWeather f).rxCounts = d.rxCounts := rfl
@[simp] theorem onWeather_access (f : WeatherStore → WeatherStore) : (d.onWeather f).access = d.access := rfl
@[simp] theorem onWeather_prot (f : WeatherStore → WeatherStore) : (d.onWeather f).prot = d.prot := rfl
@[simp] theorem onWeather_loop (f : WeatherStore → WeatherStore) : (d.onWeather f).loop = d.loop := rfl
@[simp] theorem onWeather_store (f : WeatherStore → WeatherStore) : (d.onWeather f).store = d.store := rfl
@[simp] theorem onWeather_neigh (f : WeatherStore → WeatherStore) : (d.onWeather f).neigh = d.neigh := rfl
@[simp] theorem onWeather_waits (f : WeatherStore → WeatherStore) : (d.onWeather f).waits = d.waits := rfl
@[simp] theorem onWeather_xfer (f : WeatherStore → WeatherStore) : (d.onWeather f).xfer = d.xfer := rfl
@[simp] theorem onWeather_distress (f : WeatherStore → WeatherStore) : (d.onWeather f).distress = d.distress := rfl
@[simp] theorem onWeather_weather (f : WeatherStore → WeatherStore) : (d.onWeather f).weather = f d.weather := rfl
@[simp] theorem onWeather_log (f : WeatherStore → WeatherStore) : (d.onWeather f).log = d.log := rfl
@[simp] theorem onWeather_rep (f : WeatherStore → WeatherStore) : (d.onWeather f).rep = d.rep := rfl
@[simp] theorem onWeather_console (f : WeatherStore → WeatherStore) : (d.onWeather f).console = d.console := rfl

/-! ### onLog -/

@[simp] theorem onLog_now (f : CatchLog → CatchLog) : (d.onLog f).now = d.now := rfl
@[simp] theorem onLog_resetLow (f : CatchLog → CatchLog) : (d.onLog f).resetLow = d.resetLow := rfl
@[simp] theorem onLog_draws (f : CatchLog → CatchLog) : (d.onLog f).draws = d.draws := rfl
@[simp] theorem onLog_pins (f : CatchLog → CatchLog) : (d.onLog f).pins = d.pins := rfl
@[simp] theorem onLog_config (f : CatchLog → CatchLog) : (d.onLog f).config = d.config := rfl
@[simp] theorem onLog_rx (f : CatchLog → CatchLog) : (d.onLog f).rx = d.rx := rfl
@[simp] theorem onLog_tx (f : CatchLog → CatchLog) : (d.onLog f).tx = d.tx := rfl
@[simp] theorem onLog_rxCounts (f : CatchLog → CatchLog) : (d.onLog f).rxCounts = d.rxCounts := rfl
@[simp] theorem onLog_access (f : CatchLog → CatchLog) : (d.onLog f).access = d.access := rfl
@[simp] theorem onLog_prot (f : CatchLog → CatchLog) : (d.onLog f).prot = d.prot := rfl
@[simp] theorem onLog_loop (f : CatchLog → CatchLog) : (d.onLog f).loop = d.loop := rfl
@[simp] theorem onLog_store (f : CatchLog → CatchLog) : (d.onLog f).store = d.store := rfl
@[simp] theorem onLog_neigh (f : CatchLog → CatchLog) : (d.onLog f).neigh = d.neigh := rfl
@[simp] theorem onLog_waits (f : CatchLog → CatchLog) : (d.onLog f).waits = d.waits := rfl
@[simp] theorem onLog_xfer (f : CatchLog → CatchLog) : (d.onLog f).xfer = d.xfer := rfl
@[simp] theorem onLog_distress (f : CatchLog → CatchLog) : (d.onLog f).distress = d.distress := rfl
@[simp] theorem onLog_weather (f : CatchLog → CatchLog) : (d.onLog f).weather = d.weather := rfl
@[simp] theorem onLog_log (f : CatchLog → CatchLog) : (d.onLog f).log = f d.log := rfl
@[simp] theorem onLog_rep (f : CatchLog → CatchLog) : (d.onLog f).rep = d.rep := rfl
@[simp] theorem onLog_console (f : CatchLog → CatchLog) : (d.onLog f).console = d.console := rfl

/-! ### onRep -/

@[simp] theorem onRep_now (f : ReportBuilder → ReportBuilder) : (d.onRep f).now = d.now := rfl
@[simp] theorem onRep_resetLow (f : ReportBuilder → ReportBuilder) : (d.onRep f).resetLow = d.resetLow := rfl
@[simp] theorem onRep_draws (f : ReportBuilder → ReportBuilder) : (d.onRep f).draws = d.draws := rfl
@[simp] theorem onRep_pins (f : ReportBuilder → ReportBuilder) : (d.onRep f).pins = d.pins := rfl
@[simp] theorem onRep_config (f : ReportBuilder → ReportBuilder) : (d.onRep f).config = d.config := rfl
@[simp] theorem onRep_rx (f : ReportBuilder → ReportBuilder) : (d.onRep f).rx = d.rx := rfl
@[simp] theorem onRep_tx (f : ReportBuilder → ReportBuilder) : (d.onRep f).tx = d.tx := rfl
@[simp] theorem onRep_rxCounts (f : ReportBuilder → ReportBuilder) : (d.onRep f).rxCounts = d.rxCounts := rfl
@[simp] theorem onRep_access (f : ReportBuilder → ReportBuilder) : (d.onRep f).access = d.access := rfl
@[simp] theorem onRep_prot (f : ReportBuilder → ReportBuilder) : (d.onRep f).prot = d.prot := rfl
@[simp] theorem onRep_loop (f : ReportBuilder → ReportBuilder) : (d.onRep f).loop = d.loop := rfl
@[simp] theorem onRep_store (f : ReportBuilder → ReportBuilder) : (d.onRep f).store = d.store := rfl
@[simp] theorem onRep_neigh (f : ReportBuilder → ReportBuilder) : (d.onRep f).neigh = d.neigh := rfl
@[simp] theorem onRep_waits (f : ReportBuilder → ReportBuilder) : (d.onRep f).waits = d.waits := rfl
@[simp] theorem onRep_xfer (f : ReportBuilder → ReportBuilder) : (d.onRep f).xfer = d.xfer := rfl
@[simp] theorem onRep_distress (f : ReportBuilder → ReportBuilder) : (d.onRep f).distress = d.distress := rfl
@[simp] theorem onRep_weather (f : ReportBuilder → ReportBuilder) : (d.onRep f).weather = d.weather := rfl
@[simp] theorem onRep_log (f : ReportBuilder → ReportBuilder) : (d.onRep f).log = d.log := rfl
@[simp] theorem onRep_rep (f : ReportBuilder → ReportBuilder) : (d.onRep f).rep = f d.rep := rfl
@[simp] theorem onRep_console (f : ReportBuilder → ReportBuilder) : (d.onRep f).console = d.console := rfl

/-! ### onConsole -/

@[simp] theorem onConsole_now (f : Console → Console) : (d.onConsole f).now = d.now := rfl
@[simp] theorem onConsole_resetLow (f : Console → Console) : (d.onConsole f).resetLow = d.resetLow := rfl
@[simp] theorem onConsole_draws (f : Console → Console) : (d.onConsole f).draws = d.draws := rfl
@[simp] theorem onConsole_pins (f : Console → Console) : (d.onConsole f).pins = d.pins := rfl
@[simp] theorem onConsole_config (f : Console → Console) : (d.onConsole f).config = d.config := rfl
@[simp] theorem onConsole_rx (f : Console → Console) : (d.onConsole f).rx = d.rx := rfl
@[simp] theorem onConsole_tx (f : Console → Console) : (d.onConsole f).tx = d.tx := rfl
@[simp] theorem onConsole_rxCounts (f : Console → Console) : (d.onConsole f).rxCounts = d.rxCounts := rfl
@[simp] theorem onConsole_access (f : Console → Console) : (d.onConsole f).access = d.access := rfl
@[simp] theorem onConsole_prot (f : Console → Console) : (d.onConsole f).prot = d.prot := rfl
@[simp] theorem onConsole_loop (f : Console → Console) : (d.onConsole f).loop = d.loop := rfl
@[simp] theorem onConsole_store (f : Console → Console) : (d.onConsole f).store = d.store := rfl
@[simp] theorem onConsole_neigh (f : Console → Console) : (d.onConsole f).neigh = d.neigh := rfl
@[simp] theorem onConsole_waits (f : Console → Console) : (d.onConsole f).waits = d.waits := rfl
@[simp] theorem onConsole_xfer (f : Console → Console) : (d.onConsole f).xfer = d.xfer := rfl
@[simp] theorem onConsole_distress (f : Console → Console) : (d.onConsole f).distress = d.distress := rfl
@[simp] theorem onConsole_weather (f : Console → Console) : (d.onConsole f).weather = d.weather := rfl
@[simp] theorem onConsole_log (f : Console → Console) : (d.onConsole f).log = d.log := rfl
@[simp] theorem onConsole_rep (f : Console → Console) : (d.onConsole f).rep = d.rep := rfl
@[simp] theorem onConsole_console (f : Console → Console) : (d.onConsole f).console = f d.console := rfl

/-! ### reach and draw -/

@[simp] theorem reach_now (t : Time) : (d.reach t).now = max d.now t := rfl
@[simp] theorem reach_resetLow (t : Time) : (d.reach t).resetLow = d.resetLow := rfl
@[simp] theorem reach_draws (t : Time) : (d.reach t).draws = d.draws := rfl
@[simp] theorem reach_pins (t : Time) : (d.reach t).pins = d.pins := rfl
@[simp] theorem reach_config (t : Time) : (d.reach t).config = d.config := rfl
@[simp] theorem reach_rx (t : Time) : (d.reach t).rx = d.rx := rfl
@[simp] theorem reach_tx (t : Time) : (d.reach t).tx = d.tx := rfl
@[simp] theorem reach_rxCounts (t : Time) : (d.reach t).rxCounts = d.rxCounts := rfl
@[simp] theorem reach_access (t : Time) : (d.reach t).access = d.access := rfl
@[simp] theorem reach_prot (t : Time) : (d.reach t).prot = d.prot := rfl
@[simp] theorem reach_loop (t : Time) : (d.reach t).loop = d.loop := rfl
@[simp] theorem reach_store (t : Time) : (d.reach t).store = d.store := rfl
@[simp] theorem reach_neigh (t : Time) : (d.reach t).neigh = d.neigh := rfl
@[simp] theorem reach_waits (t : Time) : (d.reach t).waits = d.waits := rfl
@[simp] theorem reach_xfer (t : Time) : (d.reach t).xfer = d.xfer := rfl
@[simp] theorem reach_distress (t : Time) : (d.reach t).distress = d.distress := rfl
@[simp] theorem reach_weather (t : Time) : (d.reach t).weather = d.weather := rfl
@[simp] theorem reach_log (t : Time) : (d.reach t).log = d.log := rfl
@[simp] theorem reach_rep (t : Time) : (d.reach t).rep = d.rep := rfl
@[simp] theorem reach_console (t : Time) : (d.reach t).console = d.console := rfl
@[simp] theorem draw_now (lo hi : Nat) : (d.draw lo hi).2.now = d.now := rfl
@[simp] theorem draw_resetLow (lo hi : Nat) : (d.draw lo hi).2.resetLow = d.resetLow := rfl
@[simp] theorem draw_draws (lo hi : Nat) : (d.draw lo hi).2.draws = d.draws + 1 := rfl
@[simp] theorem draw_pins (lo hi : Nat) : (d.draw lo hi).2.pins = d.pins := rfl
@[simp] theorem draw_config (lo hi : Nat) : (d.draw lo hi).2.config = d.config := rfl
@[simp] theorem draw_rx (lo hi : Nat) : (d.draw lo hi).2.rx = d.rx := rfl
@[simp] theorem draw_tx (lo hi : Nat) : (d.draw lo hi).2.tx = d.tx := rfl
@[simp] theorem draw_rxCounts (lo hi : Nat) : (d.draw lo hi).2.rxCounts = d.rxCounts := rfl
@[simp] theorem draw_access (lo hi : Nat) : (d.draw lo hi).2.access = d.access := rfl
@[simp] theorem draw_prot (lo hi : Nat) : (d.draw lo hi).2.prot = d.prot := rfl
@[simp] theorem draw_loop (lo hi : Nat) : (d.draw lo hi).2.loop = d.loop := rfl
@[simp] theorem draw_store (lo hi : Nat) : (d.draw lo hi).2.store = d.store := rfl
@[simp] theorem draw_neigh (lo hi : Nat) : (d.draw lo hi).2.neigh = d.neigh := rfl
@[simp] theorem draw_waits (lo hi : Nat) : (d.draw lo hi).2.waits = d.waits := rfl
@[simp] theorem draw_xfer (lo hi : Nat) : (d.draw lo hi).2.xfer = d.xfer := rfl
@[simp] theorem draw_distress (lo hi : Nat) : (d.draw lo hi).2.distress = d.distress := rfl
@[simp] theorem draw_weather (lo hi : Nat) : (d.draw lo hi).2.weather = d.weather := rfl
@[simp] theorem draw_log (lo hi : Nat) : (d.draw lo hi).2.log = d.log := rfl
@[simp] theorem draw_rep (lo hi : Nat) : (d.draw lo hi).2.rep = d.rep := rfl
@[simp] theorem draw_console (lo hi : Nat) : (d.draw lo hi).2.console = d.console := rfl

theorem reach_of_le (t : Time) (h : t ≤ d.now) : d.reach t = d := by
  simp [reach, Nat.max_eq_left h]

/-- A draw lies between its bounds (00, Random draws). -/
theorem draw_range (lo hi : Nat) (h : lo ≤ hi) : lo ≤ (d.draw lo hi).1 ∧ (d.draw lo hi).1 ≤ hi := by
  have : Config.draw d.draws % (hi - lo + 1) < hi - lo + 1 := Nat.mod_lt _ (Nat.succ_pos _)
  simp only [draw]; omega

end Device
end Sys2Proof.Machine
end

