-- ==== Sys2Proof/Laws/Steady.lean ====
section
/-! SUPPORT. What `Device.settle` and the operations it is made of leave as it is: one lemma per operation. -/

namespace Sys2Proof.Machine

theorem foldl_steady {α : Type} (f : Device → α → Device) (h : ∀ d x, (f d x).steady = d.steady) (l : List α)
    (d : Device) : (l.foldl f d).steady = d.steady := by
  induction l generalizing d with
  | nil => rfl
  | cons x r ih => rw [List.foldl_cons, ih, h]

theorem Device.orPending_steady (d : Device) (i : Nat) (k : Device → Device)
    (h1 : ∀ o, (d.endTransfer i o).steady = d.steady) (h2 : (k d).steady = d.steady) :
    (d.orPending i k).steady = d.steady := by
  unfold Device.orPending
  split
  · exact h1 _
  · exact h2

@[simp] theorem Device.onLane_steady (d : Device) (f : Lane → Lane) : (d.onLane .general f).steady = d.steady := rfl
@[simp] theorem Device.queueEntry_steady (d : Device) (e : Entry) : (d.queueEntry .general e).steady = d.steady := by
  unfold Device.queueEntry
  split <;> rfl

@[simp] theorem Device.addMark_steady (d : Device) (r : OwedRef) : (d.addMark .general r).steady = d.steady := rfl

theorem Device.reportTagged_steady (d : Device) (kind : ReportKind) (tag : Nat) (r : OwedRef) (data : List Datum)
    (h : kind.lane = .general) : (d.reportTagged kind tag r data).steady = d.steady := by
  unfold Device.reportTagged
  rw [h]
  repeat' split
  all_goals first
    | rfl
    | exact Device.queueEntry_steady _ _

theorem Device.report_steady (d : Device) (kind : ReportKind) (r : OwedRef) (data : List Datum)
    (h : kind.lane = .general) : (d.report kind r data).steady = d.steady :=
  Device.reportTagged_steady d kind 0 r data h

@[simp] theorem Device.onLog_steady (d : Device) (f : CatchLog → CatchLog) (h1 : (f d.log).hauls = d.log.hauls)
    (h2 : (f d.log).counter = d.log.counter) (h3 : (f d.log).quotas = d.log.quotas)
    (h4 : (f d.log).counts = d.log.counts) : (d.onLog f).steady = d.steady := by
  simp only [Device.steady, Device.onLog, h1, h2, h3, h4]

@[simp] theorem Device.onNeigh_steady (d : Device) (f : NeighTable → NeighTable)
    (h1 : (f d.neigh).counts = d.neigh.counts) (h2 : (f d.neigh).beaconDue = d.neigh.beaconDue) :
    (d.onNeigh f).steady = d.steady := by
  simp only [Device.steady, Device.onNeigh, h1, h2]

@[simp] theorem Device.onDistress_steady (d : Device) (f : DistressUnit → DistressUnit)
    (h1 : (f d.distress).own = d.distress.own) (h2 : (f d.distress).holdTimer = d.distress.holdTimer)
    (h3 : (f d.distress).holdSince = d.distress.holdSince) (h4 : (f d.distress).holdCause = d.distress.holdCause)
    (h5 : (f d.distress).holdStation = d.distress.holdStation)
    (h6 : (f d.distress).lastHold = d.distress.lastHold) : (d.onDistress f).steady = d.steady := by
  simp only [Device.steady, Device.onDistress, h1, h2, h3, h4, h5, h6]

@[simp] theorem Device.onAccess_steady (d : Device) (f : Access → Access) : (d.onAccess f).steady = d.steady := rfl
@[simp] theorem Device.onRx_steady (d : Device) (f : Rx → Rx) : (d.onRx f).steady = d.steady := rfl
@[simp] theorem Device.onRxCounts_steady (d : Device) (f : RxCounts → RxCounts) : (d.onRxCounts f).steady = d.steady := rfl
@[simp] theorem Device.onStore_steady (d : Device) (f : Store → Store) : (d.onStore f).steady = d.steady := rfl
@[simp] theorem Device.onXfer_steady (d : Device) (f : Transfers → Transfers) : (d.onXfer f).steady = d.steady := rfl
@[simp] theorem Device.onRep_steady (d : Device) (f : ReportBuilder → ReportBuilder) : (d.onRep f).steady = d.steady := rfl
@[simp] theorem Device.set_draws_steady (d : Device) (x : Nat) :
    Device.steady { d with draws := x } = d.steady := rfl
@[simp] theorem Device.set_rx_steady (d : Device) (x : Rx) :
    Device.steady { d with rx := x } = d.steady := rfl
@[simp] theorem Device.set_tx_steady (d : Device) (x : Option Tx) :
    Device.steady { d with tx := x } = d.steady := rfl
@[simp] theorem Device.set_access_steady (d : Device) (x : Access) :
    Device.steady { d with access := x } = d.steady := rfl
@[simp] theorem Device.set_store_steady (d : Device) (x : Store) :
    Device.steady { d with store := x } = d.steady := rfl
@[simp] theorem Device.set_waits_steady (d : Device) (x : List Wait) :
    Device.steady { d with waits := x } = d.steady := rfl

@[simp] theorem Device.draw_steady (d : Device) (lo hi : Nat) :
    (Device.draw d lo hi).2.steady = d.steady := by
  unfold Device.draw
  simp

@[simp] theorem Device.reserve_steady (d : Device) (h : Holder) (size : Nat) :
    (Device.reserve d h size).2.steady = d.steady := by
  unfold Device.reserve
  simp

@[simp] theorem Device.writeText_steady (d : Device) (id i : Nat) (syms : List Nat) :
    (Device.writeText d id i syms).steady = d.steady := by
  unfold Device.writeText
  simp

@[simp] theorem Device.offer_steady (d : Device) (it : Item) :
    (Device.offer d it).steady = d.steady := by
  unfold Device.offer
  simp

@[simp] theorem Device.withdraw_steady (d : Device) (c : AccessClass) (p : Item → Bool) :
    (Device.withdraw d c p).steady = d.steady := by
  unfold Device.withdraw
  simp

@[simp] theorem Device.enterClear_steady (d : Device) :
    (Device.enterClear d).steady = d.steady := by
  unfold Device.enterClear
  dsimp only
  split
  · exact (Device.report_steady _ _ _ _ rfl).trans rfl
  · rfl

@[simp] theorem Device.leaveClear_steady (d : Device) (ch : Channel) :
    (Device.leaveClear d ch).steady = d.steady := by
  unfold Device.leaveClear
  simp

@[simp] theorem Device.settleChannel_steady (d : Device) :
    (Device.settleChannel d).steady = d.steady := by
  unfold Device.settleChannel
  repeat' (first | with_reducible rfl | simp | split)

@[simp] theorem Device.makeContender_steady (d : Device) (c : AccessClass) (it : Item) :
    (Device.makeContender d c it).steady = d.steady := by
  unfold Device.makeContender
  repeat' (first | with_reducible rfl | simp | split)

@[simp] theorem Device.selectContender_steady (d : Device) (c : AccessClass) :
    (Device.selectContender d c).steady = d.steady := by
  unfold Device.selectContender
  repeat' (first | with_reducible rfl | simp | split)

@[simp] theorem Device.selectAll_steady (d : Device) :
    (Device.selectAll d).steady = d.steady := by
  unfold Device.selectAll
  exact foldl_steady _ (fun _ _ => by simp) _ _

@[simp] theorem Device.refreshEligible_steady (d : Device) :
    (Device.refreshEligible d).steady = d.steady := by
  unfold Device.refreshEligible
  exact foldl_steady _ (fun _ _ => by simp) _ _

@[simp] theorem Device.countSlots_steady (d : Device) :
    (Device.countSlots d).steady = d.steady := by
  unfold Device.countSlots
  exact foldl_steady _ (fun _ _ => by simp) _ _

@[simp] theorem Device.onNeighbour_steady (d : Device) (st : Station) (f : Neigh → Neigh) :
    (Device.onNeighbour d st f).steady = d.steady := by
  unfold Device.onNeighbour
  simp

@[simp] theorem Device.removeNeighbour_steady (d : Device) (st : Station) :
    (Device.removeNeighbour d st).steady = d.steady := by
  unfold Device.removeNeighbour
  simp

@[simp] theorem Device.removeUnpinned_steady (d : Device) :
    (Device.removeUnpinned d).steady = d.steady := by
  unfold Device.removeUnpinned
  simp

@[simp] theorem Device.charge_steady (d : Device) (st : Station) :
    (Device.charge d st).steady = d.steady := by
  unfold Device.charge
  simp

@[simp] theorem Device.avoid_steady (d : Device) (st : Station) :
    (Device.avoid d st).steady = d.steady := by
  unfold Device.avoid
  simp

@[simp] theorem Device.onSlot_steady (d : Device) (i : Nat) (f : Slot → Slot) :
    (Device.onSlot d i f).steady = d.steady := by
  unfold Device.onSlot
  simp

@[simp] theorem Device.onXferCounts_steady (d : Device) (f : XferCounts → XferCounts) :
    (Device.onXferCounts d f).steady = d.steady := by
  unfold Device.onXferCounts
  simp

@[simp] theorem Device.takeSlot_steady (d : Device) (i : Nat) (st : SlotState) (origin : Origin) (tag : Nat) (cls : MsgClass) (dest orig : Station) (grant : Option Nat) (len : Nat) :
    (Device.takeSlot d i st origin tag cls dest orig grant len).steady = d.steady := by
  unfold Device.takeSlot
  simp

@[simp] theorem Device.withdrawData_steady (d : Device) (i : Nat) :
    (Device.withdrawData d i).steady = d.steady := by
  unfold Device.withdrawData
  simp

@[simp] theorem Device.goReady_steady (d : Device) (i : Nat) :
    (Device.goReady d i).steady = d.steady := by
  unfold Device.goReady
  split <;> simp

@[simp] theorem Device.takeAnswer_steady (d : Device) (i : Nat) (ans : Option Station) :
    (Device.takeAnswer d i ans).steady = d.steady := by
  unfold Device.takeAnswer
  repeat' (first | with_reducible rfl | simp | split)

@[simp] theorem Device.askRoute_steady (d : Device) (i : Nat) :
    (Device.askRoute d i).steady = d.steady := by
  unfold Device.askRoute
  simp

@[simp] theorem Device.startRoute_steady (d : Device) (i : Nat) :
    (Device.startRoute d i).steady = d.steady := by
  unfold Device.startRoute
  simp

@[simp] theorem Device.refreshData_steady (d : Device) :
    (Device.refreshData d).steady = d.steady := by
  unfold Device.refreshData
  repeat' (first | with_reducible rfl | simp | split)

@[simp] theorem Device.onRepCounts_steady (d : Device) (f : RepCounts → RepCounts) :
    (Device.onRepCounts d f).steady = d.steady := by
  unfold Device.onRepCounts
  simp

@[simp] theorem Device.reportCatchState_steady (d : Device) (e : RepEvent) (minutes : Option Nat) :
    (Device.reportCatchState d e minutes).steady = d.steady := by
  exact Device.report_steady _ _ _ _ rfl

@[simp] theorem Device.reportCatchKind_steady (d : Device) (e : RepEvent) (kind : ReportReason) :
    (Device.reportCatchKind d e kind).steady = d.steady := by
  exact Device.report_steady _ _ _ _ rfl

@[simp] theorem Device.enterPending_steady (d : Device) (kind : ReportReason) :
    (Device.enterPending d kind).steady = d.steady := by
  unfold Device.enterPending
  split <;> simp

@[simp] theorem Device.build_steady (d : Device) (kind : ReportReason) (i : Nat) :
    (Device.build d kind i).steady = d.steady := by
  unfold Device.build
  repeat' (first | with_reducible rfl | simp | split)

@[simp] theorem Device.tryBuild_steady (d : Device) (kind : ReportReason) :
    (Device.tryBuild d kind).steady = d.steady := by
  unfold Device.tryBuild
  repeat' (first | with_reducible rfl | simp | split)

@[simp] theorem Device.buildPending_steady (d : Device) :
    (Device.buildPending d).steady = d.steady := by
  unfold Device.buildPending
  split <;> simp

@[simp] theorem Device.slotFreed_steady (d : Device) :
    (Device.slotFreed d).steady = d.steady := by
  unfold Device.slotFreed
  split <;> simp

@[simp] theorem Device.closeReport_steady (d : Device) (e : Ending) :
    (Device.closeReport d e).steady = d.steady := by
  unfold Device.closeReport
  repeat' (first | with_reducible rfl | simp | split)

@[simp] theorem Device.countEnding_steady (d : Device) (e : Ending) :
    (Device.countEnding d e).steady = d.steady := by
  unfold Device.countEnding
  simp

@[simp] theorem Device.endReport_steady (d : Device) (e : Ending) (cause : Option LostCause) :
    (Device.endReport d e cause).steady = d.steady := by
  unfold Device.endReport
  rw [Device.buildPending_steady, Device.countEnding_steady, Device.report_steady _ _ _ _ rfl, Device.closeReport_steady]

@[simp] theorem Device.catchOutcome_steady (d : Device) (o : Outcome) :
    (Device.catchOutcome d o).steady = d.steady := by
  unfold Device.catchOutcome
  repeat' (first | with_reducible rfl | simp | split)

@[simp] theorem Device.removeReasm_steady (d : Device) (src num : Nat) :
    (Device.removeReasm d src num).steady = d.steady := by
  unfold Device.removeReasm
  simp

@[simp] theorem Device.onReasm_steady (d : Device) (src num : Nat) (f : Reasm → Reasm) :
    (Device.onReasm d src num f).steady = d.steady := by
  unfold Device.onReasm
  simp

@[simp] theorem Device.startRelay_steady (d : Device) (i : Nat) (e : Reasm) :
    (Device.startRelay d i e).steady = d.steady := by
  unfold Device.startRelay
  simp

@[simp] theorem Device.handOverRelay_steady (d : Device) (e : Reasm) :
    (Device.handOverRelay d e).steady = d.steady := by
  unfold Device.handOverRelay
  repeat' (first | with_reducible rfl | simp | split)

@[simp] theorem Device.retryHandOvers_steady (d : Device) :
    (Device.retryHandOvers d).steady = d.steady := by
  unfold Device.retryHandOvers
  exact foldl_steady _ (fun _ _ => by simp) _ _

@[simp] theorem Device.releaseOutbound_steady (d : Device) (id : Nat) :
    (Device.releaseOutbound d id).steady = d.steady := by
  unfold Device.releaseOutbound
  simp

@[simp] theorem Device.releaseGrant_steady (d : Device) (id : Nat) :
    (Device.releaseGrant d id).steady = d.steady := by
  unfold Device.releaseGrant
  simp

@[simp] theorem Device.freeSlot_steady (d : Device) (i : Nat) :
    (Device.freeSlot d i).steady = d.steady := by
  unfold Device.freeSlot
  simp

@[simp] theorem Device.countOutcome_steady (d : Device) (o : Outcome) :
    (Device.countOutcome d o).steady = d.steady := by
  unfold Device.countOutcome
  simp

@[simp] theorem Device.endTransfer_steady (d : Device) (i : Nat) (o : Outcome) :
    (Device.endTransfer d i o).steady = d.steady := by
  unfold Device.endTransfer
  repeat' (first | with_reducible rfl | simp | split)

@[simp] theorem Device.hopFails_steady (d : Device) (i : Nat) :
    (Device.hopFails d i).steady = d.steady := by
  unfold Device.hopFails
  repeat' (first | with_reducible rfl | simp | split)

@[simp] theorem Device.leaveAck_steady (d : Device) (i : Nat) :
    (Device.leaveAck d i).steady = d.steady := by
  unfold Device.leaveAck
  simp

@[simp] theorem Device.takeTimeout_steady (d : Device) (i : Nat) :
    (Device.takeTimeout d i).steady = d.steady := by
  unfold Device.takeTimeout
  dsimp only
  refine (Device.orPending_steady _ _ _ (fun _ => by simp) ?_).trans ?_
  · repeat' split
    all_goals simp
  · rw [Device.onXferCounts_steady, Device.onSlot_steady]
    split <;> simp

@[simp] theorem Device.takeWaitingTimeout_steady (d : Device) :
    (Device.takeWaitingTimeout d).steady = d.steady := by
  unfold Device.takeWaitingTimeout
  repeat' (first | with_reducible rfl | simp | split)

@[simp] theorem Device.dataKeyed_steady (d : Device) (i : Nat) :
    (Device.dataKeyed d i).steady = d.steady := by
  unfold Device.dataKeyed
  simp

@[simp] theorem Device.onDistressCounts_steady (d : Device) (f : DistressCounts → DistressCounts) :
    (Device.onDistressCounts d f).steady = d.steady := by
  unfold Device.onDistressCounts
  simp

@[simp] theorem Device.onCase_steady (d : Device) (st : Station) (f : Case → Case) :
    (Device.onCase d st f).steady = d.steady := by
  unfold Device.onCase
  simp

@[simp] theorem Device.settledFull_steady (d : Device) :
    (Device.settledFull d).steady = d.steady := by
  unfold Device.settledFull
  simp

@[simp] theorem Device.enterSettled_steady (d : Device) (st alert : Nat) :
    (Device.enterSettled d st alert).steady = d.steady := by
  unfold Device.enterSettled
  repeat' (first | with_reducible rfl | simp | split)

@[simp] theorem Device.caseRelayKeyed_steady (d : Device) (st alert : Nat) :
    (Device.caseRelayKeyed d st alert).steady = d.steady := by
  unfold Device.caseRelayKeyed
  simp

@[simp] theorem Device.burstKeyed_steady (d : Device) (it : Item) :
    (Device.burstKeyed d it).steady = d.steady := by
  unfold Device.burstKeyed
  split <;> simp

@[simp] theorem Device.abandonReception_steady (d : Device) (st : RxState) :
    (Device.abandonReception d st).steady = d.steady := by
  unfold Device.abandonReception
  simp

@[simp] theorem Device.closeRx_steady (d : Device) :
    (Device.closeRx d).steady = d.steady := by
  unfold Device.closeRx
  split <;> simp

@[simp] theorem Device.keyItem_steady (d : Device) (c : AccessClass) (it : Item) (blind : Bool) :
    (Device.keyItem d c it blind).steady = d.steady :=
  (Device.burstKeyed_steady _ it).trans ((Device.leaveClear_steady d.closeRx .own).trans (Device.closeRx_steady d))

@[simp] theorem Device.raiseKey_steady (d : Device) (c : AccessClass) (blind : Bool) :
    (Device.raiseKey d c blind).steady = d.steady := by
  unfold Device.raiseKey
  split <;> simp

@[simp] theorem Device.arbitrate_steady (d : Device) :
    (Device.arbitrate d).steady = d.steady := by
  unfold Device.arbitrate
  repeat' (first | with_reducible rfl | simp | split)

end Sys2Proof.Machine
end

