-- ==== Sys2Proof/Laws/Reported.lean ====
section
/-! SUPPORT. What a command answers once its own effect is known, and what queueing a report leaves as it is. -/

open Sys2Proof Sys2Proof.Machine

namespace Sys2Proof.Machine
/-- What a radio or timed row answers, from its own effect. -/
theorem exec_of_event {i : Instr} {s : State} (F : Device → Device) (hx : exec i s = s.event F) (h : s.dev.resetLow = false) {X : Device}
    (hF : F s.dev = X) : exec i s = .next { s with dev := X.settle } := by
  rw [hx, State.event_eq _ _ h, hF]

/-- What a frame row answers on a READY part, from its judging. -/
theorem exec_of_frame {i : Instr} {s : State} {tag : Nat} {a b} (J : Device → Disposition × Device) (hx : exec i s = s.frame tag a b J) (h : s.dev.live = true) {X : Device} {r}
    (hF : J s.dev.completeExchange = (r, X)) : exec i s = .next { s with dev := (X.echo tag r).settle } := by
  rw [hx, State.frame_live _ _ _ _ _ h, hF]

/-- What a setup frame row answers, from its judging. -/
theorem exec_of_setupFrame {i : Instr} {s : State} {tag : Nat}  (J : Device → Disposition × Device) (hx : exec i s = s.frame tag true true J) (h : s.dev.resetLow = false) {X : Device} {r}
    (hF : J s.dev.completeExchange = (r, X)) : exec i s = .next { s with dev := (X.echo tag r).settle } := by
  rw [hx, State.frame_setup _ _ _ h, hF]
end Sys2Proof.Machine

namespace Sys2Proof.Machine.Device
variable (d : Device)
theorem onLane_eq (n) (f) : d.onLane n f = { d with console := (d.onLane n f).console } := by cases n <;> rfl

/-- Queueing a report changes the console alone. -/
theorem report_eq (k r x) : d.report k r x = { d with console := (d.report k r x).console } := by
  unfold report reportTagged queueEntry addMark
  split
  · rfl
  · split <;> (try simp only [*, if_true]) <;> exact onLane_eq _ _ _

theorem reportTagged_eq (k t r x) : d.reportTagged k t r x = { d with console := (d.reportTagged k t r x).console } := by
  unfold  reportTagged queueEntry addMark
  split
  · rfl
  · split <;> (try simp only [*, if_true]) <;> exact onLane_eq _ _ _

@[simp] theorem report_now (k r x) : (d.report k r x).now = d.now := by rw [report_eq]
@[simp] theorem report_access (k r x) : (d.report k r x).access = d.access := by rw [report_eq]
@[simp] theorem report_rx (k r x) : (d.report k r x).rx = d.rx := by rw [report_eq]
@[simp] theorem report_tx (k r x) : (d.report k r x).tx = d.tx := by rw [report_eq]
@[simp] theorem report_prot (k r x) : (d.report k r x).prot = d.prot := by rw [report_eq]
@[simp] theorem report_loop (k r x) : (d.report k r x).loop = d.loop := by rw [report_eq]
@[simp] theorem report_store (k r x) : (d.report k r x).store = d.store := by rw [report_eq]
@[simp] theorem report_neigh (k r x) : (d.report k r x).neigh = d.neigh := by rw [report_eq]
@[simp] theorem report_waits (k r x) : (d.report k r x).waits = d.waits := by rw [report_eq]
@[simp] theorem report_xfer (k r x) : (d.report k r x).xfer = d.xfer := by rw [report_eq]
@[simp] theorem report_distress (k r x) : (d.report k r x).distress = d.distress := by rw [report_eq]
@[simp] theorem report_weather (k r x) : (d.report k r x).weather = d.weather := by rw [report_eq]
@[simp] theorem report_log (k r x) : (d.report k r x).log = d.log := by rw [report_eq]
@[simp] theorem report_rep (k r x) : (d.report k r x).rep = d.rep := by rw [report_eq]
@[simp] theorem report_config (k r x) : (d.report k r x).config = d.config := by rw [report_eq]
@[simp] theorem reportTagged_now (k t r x) : (d.reportTagged k t r x).now = d.now := by rw [reportTagged_eq]
@[simp] theorem reportTagged_access (k t r x) : (d.reportTagged k t r x).access = d.access := by rw [reportTagged_eq]
@[simp] theorem reportTagged_rx (k t r x) : (d.reportTagged k t r x).rx = d.rx := by rw [reportTagged_eq]
@[simp] theorem reportTagged_tx (k t r x) : (d.reportTagged k t r x).tx = d.tx := by rw [reportTagged_eq]
@[simp] theorem reportTagged_prot (k t r x) : (d.reportTagged k t r x).prot = d.prot := by rw [reportTagged_eq]
@[simp] theorem reportTagged_loop (k t r x) : (d.reportTagged k t r x).loop = d.loop := by rw [reportTagged_eq]
@[simp] theorem reportTagged_store (k t r x) : (d.reportTagged k t r x).store = d.store := by rw [reportTagged_eq]
@[simp] theorem reportTagged_neigh (k t r x) : (d.reportTagged k t r x).neigh = d.neigh := by rw [reportTagged_eq]
@[simp] theorem reportTagged_waits (k t r x) : (d.reportTagged k t r x).waits = d.waits := by rw [reportTagged_eq]
@[simp] theorem reportTagged_xfer (k t r x) : (d.reportTagged k t r x).xfer = d.xfer := by rw [reportTagged_eq]
@[simp] theorem reportTagged_distress (k t r x) : (d.reportTagged k t r x).distress = d.distress := by rw [reportTagged_eq]
@[simp] theorem reportTagged_weather (k t r x) : (d.reportTagged k t r x).weather = d.weather := by rw [reportTagged_eq]
@[simp] theorem reportTagged_log (k t r x) : (d.reportTagged k t r x).log = d.log := by rw [reportTagged_eq]
@[simp] theorem reportTagged_rep (k t r x) : (d.reportTagged k t r x).rep = d.rep := by rw [reportTagged_eq]
@[simp] theorem reportTagged_config (k t r x) : (d.reportTagged k t r x).config = d.config := by rw [reportTagged_eq]
@[simp] theorem report_holdInForce (k r x) : (d.report k r x).holdInForce = d.holdInForce := by rw [report_eq]; rfl
end Sys2Proof.Machine.Device
end

