-- ==== Sys2Proof/Laws/Monitors.lean ====
section
/-! SUPPORT. What a sample and a trip do to a fault monitor, and what dropping the key and aborting a burst leave as they are. -/

open Sys2Proof Sys2Proof.Machine

namespace Sys2Proof.Machine.Device
/-- The second part differs from the first in the monitors and the console at most. -/
def sameBut (d e : Device) : Prop := e = { d with prot := e.prot, console := e.console }

theorem sameBut.refl (d : Device) : sameBut d d := rfl

theorem sameBut.trans {d e f : Device} (h : sameBut d e) (g : sameBut e f) : sameBut d f := by
  unfold sameBut at *; rw [g, h]

theorem onMonitor_same (d : Device) (m f) : sameBut d (d.onMonitor m f) := rfl

theorem report_same (d : Device) (k r x) : sameBut d (d.report k r x) := by
  unfold sameBut; rw [report_eq]

theorem reportMonitor_same (d : Device) (m p c k) : sameBut d (d.reportMonitor m p c k) := by
  unfold reportMonitor; dsimp only; split
  · exact (report_same _ _ _ _).trans (onMonitor_same _ _ _)
  · exact report_same _ _ _ _

theorem moveMonitor_same (d : Device) (m s r c k) : sameBut d (d.moveMonitor m s r c k) :=
  (onMonitor_same _ _ _).trans (reportMonitor_same _ _ _ _ _)

theorem onProt_same (d : Device) (f) : sameBut d (d.onProt f) := rfl

theorem tripMonitor_same (d : Device) (m) : sameBut d (d.tripMonitor m) := by
  unfold tripMonitor; dsimp only; split
  · exact (onProt_same _ _).trans (moveMonitor_same _ _ _ _ _ _)
  · exact (onProt_same _ _).trans ((onMonitor_same _ _ _).trans (moveMonitor_same _ _ _ _ _ _))

theorem sampleMonitor_same (d : Device) (m x) : sameBut d (d.sampleMonitor m x).2 := by
  unfold sampleMonitor; dsimp only
  repeat' split
  all_goals first
    | exact sameBut.refl _
    | exact onMonitor_same _ _ _
    | exact tripMonitor_same _ _
    | exact moveMonitor_same _ _ _ _ _ _

theorem sampleKeytime_same (d : Device) : sameBut d d.sampleKeytime := by
  unfold sampleKeytime; split
  · exact moveMonitor_same _ _ _ _ _ _
  · exact sameBut.refl _

theorem endRests_same (d : Device) : sameBut d d.endRests := rfl

theorem foldl_same {α} (f : Device → α → Device) (h : ∀ d x, sameBut d (f d x)) (l : List α) (d) : sameBut d (l.foldl f d) := by
  induction l generalizing d with
  | nil => exact sameBut.refl _
  | cons x r ih => exact (h d x).trans (ih _)

theorem endAlerts_same (d : Device) (k l) : sameBut d (d.endAlerts k l) := by
  unfold endAlerts
  exact foldl_same _ (fun d m => by split; exact moveMonitor_same _ _ _ _ _ _; exact sameBut.refl _) _ _

theorem monitor_reportMonitor (d : Device) (m m' : MonitorId) (p c k) : ((d.reportMonitor m p c k).monitor m').st = (d.monitor m').st ∧ ((d.reportMonitor m p c k).monitor m').run = (d.monitor m').run ∧ ((d.reportMonitor m p c k).monitor m').recoverAt = (d.monitor m').recoverAt ∧ ((d.reportMonitor m p c k).monitor m').resting = (d.monitor m').resting ∧ (d.reportMonitor m p c k).prot.trips = d.prot.trips ∧ (d.reportMonitor m p c k).prot.quietEnd = d.prot.quietEnd := by
  unfold Device.reportMonitor
  dsimp only
  split
  · cases m <;> cases m' <;> simp [Device.monitor, Device.onMonitor, Device.onProt]
  · cases m' <;> simp [Device.monitor]

theorem monitor_onMonitor (d : Device) (m m' : MonitorId) (f) : (d.onMonitor m f).monitor m' = if m' = m then f (d.monitor m) else d.monitor m' := by
  cases m <;> cases m' <;> rfl

theorem monitor_moveMonitor (d : Device) (m m' : MonitorId) (st r c k) : ((d.moveMonitor m st r c k).monitor m').st = (if m' = m then st else (d.monitor m').st) ∧ ((d.moveMonitor m st r c k).monitor m').run = (if m' = m then r else (d.monitor m').run) ∧ ((d.moveMonitor m st r c k).monitor m').recoverAt = (d.monitor m').recoverAt ∧ ((d.moveMonitor m st r c k).monitor m').resting = (d.monitor m').resting ∧ (d.moveMonitor m st r c k).prot.trips = d.prot.trips ∧ (d.moveMonitor m st r c k).prot.quietEnd = d.prot.quietEnd := by
  unfold Device.moveMonitor
  have h := monitor_reportMonitor (d.onMonitor m fun x => { x with st := st, run := r }) m m' (d.monitor m).st c k
  rw [monitor_onMonitor] at h
  dsimp only
  obtain ⟨h1,h2,h3,h6,h4,h5⟩ := h
  rw [h1,h2,h3,h4,h5,h6]
  refine ⟨?_,?_,?_,?_,?_,?_⟩
  · split <;> rfl
  · split <;> rfl
  · split
    · rename_i e; rw [e]
    · rfl
  · split
    · rename_i e; rw [e]
    · rfl
  · cases m <;> rfl
  · cases m <;> rfl

theorem moveMonitor_trips (d : Device) (m) (st r c k) : (d.moveMonitor m st r c k).prot.trips = d.prot.trips := (monitor_moveMonitor d m m st r c k).2.2.2.2.1

theorem moveMonitor_quietEnd (d : Device) (m) (st r c k) : (d.moveMonitor m st r c k).prot.quietEnd = d.prot.quietEnd := (monitor_moveMonitor d m m st r c k).2.2.2.2.2

theorem tripMonitor_other (d : Device) (m m' : MonitorId) (h : m' ≠ m) :
    ((d.tripMonitor m).monitor m').st = (d.monitor m').st ∧ ((d.tripMonitor m).monitor m').run = (d.monitor m').run ∧ ((d.tripMonitor m).monitor m').resting = (d.monitor m').resting := by
  have mo : ∀ t q, (d.onProt fun p => { p with trips := t, quietEnd := q }).monitor m' = d.monitor m' := by intro t q; cases m' <;> rfl
  unfold Device.tripMonitor
  dsimp only
  split <;> refine ⟨?_, ?_, ?_⟩ <;> simp only [monitor_moveMonitor, monitor_onMonitor, h, if_false, mo]

theorem sampleMonitor_other (d : Device) (m m' : MonitorId) (x) (h : m' ≠ m) :
    ((d.sampleMonitor m x).2.monitor m').st = (d.monitor m').st ∧ ((d.sampleMonitor m x).2.monitor m').run = (d.monitor m').run ∧ ((d.sampleMonitor m x).2.monitor m').resting = (d.monitor m').resting := by
  unfold sampleMonitor; dsimp only
  repeat' split
  all_goals first
    | exact ⟨rfl, rfl, rfl⟩
    | exact tripMonitor_other _ _ _ h
    | (refine ⟨?_, ?_, ?_⟩ <;> simp only [monitor_moveMonitor, monitor_onMonitor, h, if_false])

/-- The sample trips the monitor (R40). -/
def willTrip (d : Device) (m : MonitorId) (x : Bool) : Prop :=
  x = true ∧ (d.monitor m).resting = false ∧ ((d.monitor m).st = .normal ∧ d.tripDelay m ≤ 1 ∨ (d.monitor m).st = .alert ∧ d.tripDelay m ≤ (d.monitor m).run + 1)

theorem sampleMonitor_trips (d : Device) (m x) : (d.willTrip m x ↔ (d.sampleMonitor m x).1 = true) ∧ (d.willTrip m x → (d.sampleMonitor m x).2 = d.tripMonitor m) := by
  unfold willTrip sampleMonitor
  cases h : (d.monitor m).resting <;> cases hs : (d.monitor m).st <;> cases x <;> simp [h, hs] <;> split <;> simp_all

theorem sampleMonitor_keeps_trips (d : Device) (m x) (h : ¬ d.willTrip m x) : (d.sampleMonitor m x).2.prot.trips = d.prot.trips ∧ (d.sampleMonitor m x).2.prot.quietEnd = d.prot.quietEnd
   ∧ ((d.monitor m).resting = false →
     ((d.monitor m).st = .normal → x = false → ((d.sampleMonitor m x).2.monitor m).st = .normal ∧ ((d.sampleMonitor m x).2.monitor m).run = 0) ∧
     ((d.monitor m).st = .normal → x = true → ((d.sampleMonitor m x).2.monitor m).st = .alert ∧ ((d.sampleMonitor m x).2.monitor m).run = 1) ∧
     ((d.monitor m).st = .alert → x = false → ((d.sampleMonitor m x).2.monitor m).st = .normal ∧ ((d.sampleMonitor m x).2.monitor m).run = 0) ∧
     ((d.monitor m).st = .alert → x = true → ((d.sampleMonitor m x).2.monitor m).st = .alert ∧ ((d.sampleMonitor m x).2.monitor m).run = min 255 ((d.monitor m).run + 1)) ∧
     (inhibits (d.monitor m) = true → ((d.sampleMonitor m x).2.monitor m).st = (d.monitor m).st)) := by
  have q : ∀ f, (d.onMonitor m f).prot.trips = d.prot.trips ∧ (d.onMonitor m f).prot.quietEnd = d.prot.quietEnd := by intro f; cases m <;> exact ⟨rfl, rfl⟩
  unfold willTrip at h
  cases hr : (d.monitor m).resting <;> cases hs : (d.monitor m).st <;> cases x <;> simp_all [sampleMonitor, inhibits, monitor_moveMonitor, monitor_onMonitor, moveMonitor_trips, moveMonitor_quietEnd, Nat.not_le.2]

theorem sampleMonitor_keeps_rest (d : Device) (m x)  (h : ¬ d.willTrip m x) : ((d.sampleMonitor m x).2.monitor m).resting = (d.monitor m).resting ∧ (inhibits ((d.sampleMonitor m x).2.monitor m) = inhibits (d.monitor m)) := by
  unfold willTrip at h
  cases hr : (d.monitor m).resting <;> cases hs : (d.monitor m).st <;> cases x <;> simp_all [sampleMonitor, inhibits, monitor_moveMonitor, monitor_onMonitor, moveMonitor_trips, moveMonitor_quietEnd, Nat.not_le.2] <;> rfl
end Sys2Proof.Machine.Device

namespace Sys2Proof.Machine.Device
theorem enterClear_eq (d : Device) : ∃ c, d.enterClear = { d with console := c, access := { d.access with chan := .clear, clearSince := some d.now, notClearSince := none, blocked := false, lastBlocked := d.enterClear.access.lastBlocked } } := by
  unfold enterClear
  dsimp only
  split
  · rw [report_eq]; exact ⟨_, rfl⟩
  · exact ⟨_, rfl⟩

theorem monitor_endAlerts (d : Device) (k l) (m : MonitorId) :
    ((d.endAlerts k l).monitor m).st = (if (d.monitor m).st = .alert ∧ ¬(l = true ∧ m = .keytime) then .normal else (d.monitor m).st)
    ∧ ((d.endAlerts k l).monitor m).resting = (d.monitor m).resting ∧ (d.endAlerts k l).prot.trips = d.prot.trips ∧ (d.endAlerts k l).prot.quietEnd = d.prot.quietEnd := by
  obtain ⟨al, hal⟩ : ∃ al : Device → MonitorId → Device, al = fun d m => if (d.monitor m).st = .alert ∧ ¬(l = true ∧ m = .keytime)
    then d.moveMonitor m .normal 0 .keyDropped k else d := ⟨_, rfl⟩
  have step : ∀ (e : Device) (x m : MonitorId),
    ((al e x).monitor m).st = (if m = x ∧ (e.monitor m).st = .alert ∧ ¬(l = true ∧ m = .keytime) then .normal else (e.monitor m).st) ∧ ((al e x).monitor m).resting = (e.monitor m).resting ∧ (al e x).prot.trips = e.prot.trips ∧ (al e x).prot.quietEnd = e.prot.quietEnd := by
    intro e x m
    rw [hal]
    dsimp only
    split
    · rename_i h
      refine ⟨?_, (monitor_moveMonitor _ _ _ _ _ _ _).2.2.2.1, moveMonitor_trips _ _ _ _ _ _, moveMonitor_quietEnd _ _ _ _ _ _⟩
      rw [(monitor_moveMonitor _ _ _ _ _ _ _).1]
      by_cases hm : m = x
      · subst hm; rw [if_pos rfl, if_pos ⟨rfl, h⟩]
      · simp [hm]
    · rename_i h
      refine ⟨?_, rfl, rfl, rfl⟩
      by_cases hm : m = x
      · subst hm; rw [if_neg (fun z => h z.2)]
      · simp [hm]
  have hu : d.endAlerts k l = al (al (al (al d .tune) .reflect) .supply) .keytime := by rw [hal]; rfl
  rw [hu]
  refine ⟨?_, ?_, ?_, ?_⟩
  · simp only [(step _ _ _).1]
    cases m <;> simp
  · simp only [(step _ _ _).2.1]
  · simp only [(step _ _ m).2.2.1]
  · simp only [(step _ _ m).2.2.2]

theorem dropKey_eq (d : Device) (l) : ∃ D : Device, D.prot.trips = d.prot.trips ∧ D.prot.quietEnd = d.prot.quietEnd ∧ (∀ m, (D.monitor m).resting = false ∧ (D.monitor m).st = (if (d.monitor m).st = .alert ∧ ¬(l = true ∧ m = .keytime) then .normal else (d.monitor m).st)) ∧
   ∃ lb, d.dropKey l = { d with tx := none, rx := Rx.blank .hunting, prot := D.prot, console := D.console, access := { d.access with onAir := none, keyTime := d.keyTime, filterFrom := d.now, chan := .clear, clearSince := some d.now, notClearSince := none, blocked := false, lastBlocked := lb } } := by
  refine ⟨d.dropKey l, ?_⟩
  unfold dropKey
  dsimp only
  generalize hk : d.keyTime = k
  generalize hD : ({ d with tx := none, rx := Rx.blank .hunting } : Device).onAccess (fun a => { a with onAir := none, keyTime := k, filterFrom := d.now }) = D
  have e1 := endAlerts_same D.enterClear.endRests k l
  have hm := fun m => monitor_endAlerts D.enterClear.endRests k l m
  obtain ⟨c, e2⟩ := enterClear_eq D
  have q : ∀ m, (D.enterClear.endRests.monitor m).resting = false ∧ (D.enterClear.endRests.monitor m).st = (d.monitor m).st := by
    intro m; rw [e2, ← hD]; cases m <;> exact ⟨rfl, rfl⟩
  have p : D.enterClear.endRests.prot.trips = d.prot.trips ∧ D.enterClear.endRests.prot.quietEnd = d.prot.quietEnd := by
    rw [e2, ← hD]; exact ⟨rfl, rfl⟩
  refine ⟨(hm .tune).2.2.1.trans p.1, (hm .tune).2.2.2.trans p.2, fun m => ⟨(hm m).2.1.trans (q m).1, ?_⟩, D.enterClear.access.lastBlocked, ?_⟩
  · rw [(hm m).1, (q m).2]
  · unfold sameBut at e1
    refine e1.trans ?_
    have e3 : D.enterClear.endRests = { D with console := D.enterClear.endRests.console, prot := D.enterClear.endRests.prot, access := { D.access with chan := .clear, clearSince := some D.now, notClearSince := none, blocked := false, lastBlocked := D.enterClear.access.lastBlocked } } := by
      unfold endRests onProt
      rw [e2]
    rw [e3, ← hD]
    rfl

theorem dropKey_keeps (d : Device) (l) :
    (d.dropKey l).access.onAir = none ∧ (d.dropKey l).tx = none ∧ (d.dropKey l).rx = Rx.blank .hunting ∧ (d.dropKey l).access.chan = .clear ∧
    (d.dropKey l).access.clearSince = some d.now ∧ (d.dropKey l).now = d.now ∧ (d.dropKey l).access.counts = d.access.counts ∧
    (d.dropKey l).loop = d.loop ∧
    (d.dropKey l).prot.trips = d.prot.trips ∧ (d.dropKey l).prot.quietEnd = d.prot.quietEnd ∧
    (∀ m, ((d.dropKey l).monitor m).resting = false ∧ ((d.dropKey l).monitor m).st = (if (d.monitor m).st = .alert ∧ ¬(l = true ∧ m = .keytime) then .normal else (d.monitor m).st)) := by
  obtain ⟨D, h1, h2, h3, lb, h4⟩ := dropKey_eq d l
  have h5 : ∀ m, (d.dropKey l).monitor m = D.monitor m := by intro m; rw [h4]; cases m <;> rfl
  simp only [h5]
  rw [h4]
  exact ⟨rfl, rfl, rfl, rfl, rfl, rfl, rfl, rfl, h1, h2, h3⟩

theorem offer_facts (d : Device) (it) : (d.offer it).prot = d.prot ∧ (d.offer it).tx = d.tx ∧ (d.offer it).rx = d.rx ∧ (d.offer it).access.onAir = d.access.onAir ∧ (d.offer it).access.chan = d.access.chan ∧ (d.offer it).access.counts = d.access.counts ∧ (d.offer it).now = d.now ∧ (d.offer it).access.clearSince = d.access.clearSince ∧ (d.offer it).loop = d.loop := by
  unfold offer; cases it.kind.cls <;> exact ⟨rfl, rfl, rfl, rfl, rfl, rfl, rfl, rfl, rfl⟩

theorem facts_of_aside {d e : Device} (h : e.aside = d.aside) : e.prot = d.prot ∧ e.tx = d.tx ∧ e.rx = d.rx ∧ e.access.onAir = d.access.onAir ∧ e.access.chan = d.access.chan ∧ e.access.counts = d.access.counts ∧ e.now = d.now ∧ e.access.clearSince = d.access.clearSince ∧ e.loop = d.loop :=
  ⟨congrArg (fun x => x.prot) h, congrArg (fun x => x.tx) h, congrArg (fun x => x.rx) h, congrArg (fun x => x.access.onAir) h, congrArg (fun x => x.access.chan) h, congrArg (fun x => x.access.counts) h, congrArg (fun x => x.now) h, congrArg (fun x => x.access.clearSince) h, congrArg (fun x => x.loop) h⟩

theorem accountAbort_facts (d : Device) (it r) : (d.accountAbort it r).prot = d.prot ∧ (d.accountAbort it r).tx = d.tx ∧ (d.accountAbort it r).rx = d.rx ∧ (d.accountAbort it r).access.onAir = d.access.onAir ∧ (d.accountAbort it r).access.chan = d.access.chan ∧ (d.accountAbort it r).access.counts = d.access.counts ∧ (d.accountAbort it r).now = d.now ∧ (d.accountAbort it r).access.clearSince = d.access.clearSince ∧ (d.accountAbort it r).loop = d.loop := by
  have z : ∀ e : Device, e.prot = e.prot ∧ e.tx = e.tx ∧ e.rx = e.rx ∧ e.access.onAir = e.access.onAir ∧ e.access.chan = e.access.chan ∧ e.access.counts = e.access.counts ∧ e.now = e.now ∧ e.access.clearSince = e.access.clearSince ∧ e.loop = e.loop := fun e => ⟨rfl, rfl, rfl, rfl, rfl, rfl, rfl, rfl, rfl⟩
  unfold accountAbort
  split
  · exact z _
  · exact facts_of_aside (dataAborted_aside _ _)
  · exact z _
  · exact ⟨rfl, rfl, rfl, rfl, rfl, rfl, rfl, rfl, rfl⟩
  · unfold warningAborted
    split
    · exact z _
    · split
      · exact offer_facts _ _
      · exact z _
  · exact offer_facts _ _
  · exact z _
  · exact offer_facts _ _

/-- What aborting a burst does to the blocks of the radio side. -/
theorem abortBurst_facts (d : Device) (a : OnAir) (r) (h : d.access.onAir = some a) :
    (d.abortBurst r).access.onAir = none ∧ (d.abortBurst r).tx = none ∧ (d.abortBurst r).rx = Rx.blank .hunting ∧ (d.abortBurst r).access.chan = .clear ∧ (d.abortBurst r).access.clearSince = some d.now ∧ (d.abortBurst r).now = d.now ∧ (d.abortBurst r).access.counts.aborts = bump d.access.counts.aborts ∧
    (d.abortBurst r).access.counts.preemptions = (if r = .preempted then bump d.access.counts.preemptions else d.access.counts.preemptions) ∧ (d.abortBurst r).loop = d.loop ∧
    (d.abortBurst r).prot.trips = d.prot.trips ∧ (d.abortBurst r).prot.quietEnd = d.prot.quietEnd ∧
    (∀ m, ((d.abortBurst r).monitor m).resting = false ∧ ((d.abortBurst r).monitor m).st = (if (d.monitor m).st = .alert ∧ ¬((r == .keytime) = true ∧ m = .keytime) then .normal else (d.monitor m).st)) := by
  unfold abortBurst
  simp only [h]
  have gg := dropKey_keeps d (r == AbortReason.keytime)
  generalize d.dropKey (r == AbortReason.keytime) = D at *
  generalize hE : (D.onAccess fun x =>
      { x with counts := { x.counts with aborts := bump x.counts.aborts, preemptions := if r = .preempted then bump x.counts.preemptions else x.counts.preemptions } }) = E
  obtain ⟨f1, f2, f3, f4, f5, f6, f7, f8, f9⟩ := accountAbort_facts E a.item r
  obtain ⟨g1, g2, g3, g4, g5, g6, g7, g14, g10, g11, g23⟩ := gg
  have mm : ∀ m, ((E.accountAbort a.item r).monitor m) = D.monitor m := by
    intro m
    have : E.prot = D.prot := by rw [← hE]; rfl
    unfold monitor; cases m <;> simp only [f1, this]
  refine ⟨?_, ?_, ?_, ?_, ?_, ?_, ?_, ?_, ?_, ?_, ?_, fun m => ?_⟩
  · rw [f4, ← hE]; exact g1
  · rw [f2, ← hE]; exact g2
  · rw [f3, ← hE]; exact g3
  · rw [f5, ← hE]; exact g4
  · rw [f8, ← hE]; exact g5
  · rw [f7, ← hE]; exact g6
  · rw [f6, ← hE]; simp [g7]
  · rw [f6, ← hE]; simp [g7]
  · rw [f9, ← hE]; exact g14
  · rw [f1, ← hE]; exact g10
  · rw [f1, ← hE]; exact g11
  · rw [mm]; exact g23 m
end Sys2Proof.Machine.Device

namespace Sys2Proof.Machine.Device
/-- What a trip does to its monitor and the shared counts (R44, R45). -/
theorem tripMonitor_self (d : Device) (m) : (d.tripMonitor m).prot.trips = min 255 (d.prot.trips + 1) ∧ (d.tripMonitor m).prot.quietEnd = none ∧ (((d.tripMonitor m).monitor m).st = .tripped ∨ ((d.tripMonitor m).monitor m).st = .latched) := by
  have b : ∀ (e : Device) f, (e.onMonitor m f).prot.trips = e.prot.trips := by intro e f; cases m <;> rfl
  have b2 : ∀ (e : Device) f, (e.onMonitor m f).prot.quietEnd = e.prot.quietEnd := by intro e f; cases m <;> rfl
  unfold Device.tripMonitor
  dsimp only
  split
  · refine ⟨moveMonitor_trips _ _ _ _ _ _, moveMonitor_quietEnd _ _ _ _ _ _, Or.inr ?_⟩
    rw [(monitor_moveMonitor _ _ _ _ _ _ _).1]; simp
  · refine ⟨(moveMonitor_trips _ _ _ _ _ _).trans (b _ _), (moveMonitor_quietEnd _ _ _ _ _ _).trans (b2 _ _), Or.inl ?_⟩
    rw [(monitor_moveMonitor _ _ _ _ _ _ _).1]; simp

theorem sameBut.delay {d e : Device} (h : sameBut d e) (m) : e.tripDelay m = d.tripDelay m := by rw [h]; cases m <;> rfl

theorem inhibit_of (d : Device) (m) (h : (d.monitor m).st = .tripped ∨ (d.monitor m).st = .latched) : d.inhibit = true := by
  unfold inhibit inhibits
  cases m <;> simp only [monitor] at h <;> rcases h with h | h <;> simp [h]

theorem sampleMonitor_facts (d : Device) (m x) :
   (d.willTrip m x → (d.sampleMonitor m x).1 = true ∧ (d.sampleMonitor m x).2.prot.trips = min 255 (d.prot.trips + 1) ∧ (d.sampleMonitor m x).2.prot.quietEnd = none ∧ (((d.sampleMonitor m x).2.monitor m).st = .tripped ∨ ((d.sampleMonitor m x).2.monitor m).st = .latched)) ∧
   (¬ d.willTrip m x → (d.sampleMonitor m x).1 = false ∧ (d.sampleMonitor m x).2.prot.trips = d.prot.trips ∧ (d.sampleMonitor m x).2.prot.quietEnd = d.prot.quietEnd) := by
  constructor
  · intro h
    have := (sampleMonitor_trips d m x).2 h
    rw [this]
    exact ⟨(sampleMonitor_trips d m x).1.1 h, tripMonitor_self d m⟩
  · intro h
    refine ⟨?_, (sampleMonitor_keeps_trips d m x h).1, (sampleMonitor_keeps_trips d m x h).2.1⟩
    have := (sampleMonitor_trips d m x).1
    cases hh : (d.sampleMonitor m x).1
    · rfl
    · exact absurd (this.2 hh) h

/-- R40's table, for a sample that trips nothing. -/
theorem sampleMonitor_table (d : Device) (m x) (h : ¬ d.willTrip m x) (y : Monitor) (h1 : (d.monitor m).st = y.st) (h2 : (d.monitor m).run = y.run) (h3 : (d.monitor m).resting = y.resting) :
    (y.st = .tripped ∨ y.st = .latched → ((d.sampleMonitor m x).2.monitor m).st = y.st) ∧
    (y.resting = false → (y.st = .normal ∨ y.st = .alert → x = false →
              ((d.sampleMonitor m x).2.monitor m).st = .normal ∧ ((d.sampleMonitor m x).2.monitor m).run = 0) ∧
            (y.st = .normal → x = true →
              ((d.sampleMonitor m x).2.monitor m).st = .alert ∧ ((d.sampleMonitor m x).2.monitor m).run = 1) ∧
            (y.st = .alert → x = true →
              ((d.sampleMonitor m x).2.monitor m).st = .alert ∧ ((d.sampleMonitor m x).2.monitor m).run = min 255 (y.run + 1))) := by
  obtain ⟨-, -, n⟩ := sampleMonitor_keeps_trips d m x h
  rw [h1, h2, h3] at n
  constructor
  · intro ht
    have : d.sampleMonitor m x = (false, d) := by
      unfold sampleMonitor; dsimp only
      rcases ht with ht | ht <;> rw [h1, ht] <;> simp
    rw [this]; exact h1
  · intro hr
    obtain ⟨n1, n2, n3, n4, -⟩ := n hr
    exact ⟨fun ht hx => ht.elim (fun z => n1 z hx) (fun z => n3 z hx), n2, n4⟩

theorem sampleKeytime_facts (d : Device) : (∀ m, m ≠ .keytime → (d.sampleKeytime.monitor m).st = (d.monitor m).st ∧ (d.sampleKeytime.monitor m).run = (d.monitor m).run) ∧ d.sampleKeytime.prot.trips = d.prot.trips ∧ d.sampleKeytime.prot.quietEnd = d.prot.quietEnd ∧
   (d.prot.keytime.st = .normal → d.sampleKeytime.prot.keytime.st = if d.warningPoint ≤ d.keyTime then .alert else .normal) := by
  unfold sampleKeytime
  split
  · rename_i h
    refine ⟨fun m hm => ?_, moveMonitor_trips _ _ _ _ _ _, moveMonitor_quietEnd _ _ _ _ _ _, fun _ => ?_⟩
    · rw [(monitor_moveMonitor _ _ _ _ _ _ _).1, (monitor_moveMonitor _ _ _ _ _ _ _).2.1]; simp [hm]
    · have := (monitor_moveMonitor d .keytime .keytime .alert 0 .activeSample d.reportKeyTime).1
      simp only [monitor] at this
      rw [this]; simp [h.2]
  · rename_i h
    refine ⟨fun m hm => ⟨rfl, rfl⟩, rfl, rfl, fun hn => ?_⟩
    have : ¬ d.warningPoint ≤ d.keyTime := fun z => h ⟨hn, z⟩
    rw [if_neg this]; exact hn

theorem afterInhibit_facts (b) (d : Device) : (afterInhibit b d).prot = d.prot ∧ (afterInhibit b d).tx = d.tx ∧ (afterInhibit b d).now = d.now ∧ (afterInhibit b d).pins = d.pins ∧ (afterInhibit b d).access.onAir = d.access.onAir ∧ (afterInhibit b d).access.counts = d.access.counts := by
  unfold afterInhibit dropBeacon
  repeat' split
  all_goals exact ⟨rfl, rfl, rfl, rfl, rfl, rfl⟩

theorem abortBurst_pins (d : Device) (a : OnAir) (r) (h : d.access.onAir = some a) : (d.abortBurst r).pins = d.pins := by
  unfold abortBurst
  simp only [h]
  obtain ⟨D, -, -, -, lb, h4⟩ := dropKey_eq d (r == AbortReason.keytime)
  have : ∀ (e : Device) it r, (e.accountAbort it r).pins = e.pins := by
    intro e it r
    unfold accountAbort
    split
    · rfl
    · exact congrArg (fun x => x.pins) (dataAborted_aside _ _)
    · rfl
    · rfl
    · unfold warningAborted
      repeat' split
      all_goals rfl
    · rfl
    · rfl
    · rfl
  rw [this, h4]; rfl
end Sys2Proof.Machine.Device
end

