-- ==== Sys2Proof/Laws/OwnAlert.lean ====
section
/-! SUPPORT. What abandoning a loop test, an own distress request and the beginning of the hold do, block by block. -/

open Sys2Proof Sys2Proof.Machine

namespace Sys2Proof.Machine.Device
theorem reportLoop_eq (d : Device) (k) : d.reportLoop k = { d with loop := (d.reportLoop k).loop, console := (d.reportLoop k).console } := by
  unfold reportLoop
  dsimp only
  rw [reportTagged_eq]; rfl

theorem reportLoop_st (d : Device) (k) : (d.reportLoop k).loop.st = d.loop.st ∧ (d.reportLoop k).console.fix = d.console.fix ∧ (d.reportLoop k).console.distress = d.console.distress := by
  unfold reportLoop
  refine ⟨?_, ?_, ?_⟩
  · simp
  all_goals
    simp only [onLoop_console]
    unfold reportTagged queueEntry addMark
    repeat' split
    all_goals rfl

theorem abandonLoop_eq (d : Device) : ∃ r l c, d.abandonLoop = { d with rx := r, loop := l, console := c } ∧ l.st = .idle ∧ c.fix = d.console.fix ∧ c.distress = d.console.distress := by
  unfold abandonLoop
  split
  · exact ⟨d.rx, d.loop, d.console, rfl, ‹_›, rfl, rfl⟩
  · have e : ∃ r, d.leaveLoop = { d with rx := r, loop := { d.loop with st := .idle } } := by
      unfold leaveLoop; dsimp only; split
      · exact ⟨_, rfl⟩
      · exact ⟨_, rfl⟩
    obtain ⟨r, e⟩ := e
    have h := reportLoop_st d.leaveLoop ⟨.abandoned, 0, false, d.loopTag⟩
    refine ⟨r, (d.leaveLoop.reportLoop ⟨.abandoned, 0, false, d.loopTag⟩).loop, (d.leaveLoop.reportLoop ⟨.abandoned, 0, false, d.loopTag⟩).console, ?_, ?_, ?_, ?_⟩
    · rw [reportLoop_eq, e]
    · rw [h.1, e]
    · rw [h.2.1, e]
    · rw [h.2.2, e]

theorem abandonLoop_room (d : Device) (h : d.loop.st ≠ .idle) (hm : OwedRef.loop ∉ d.console.general.owed) (hr : d.console.general.entries.length < 24) :
    d.abandonLoop = { d with
      rx := if d.loop.st = .looping then Rx.blank .hunting else d.rx, loop := { d.loop with st := .idle },
      console := { d.console with general := { d.console.general with
        entries := d.console.general.entries ++ [⟨.loopResult, d.loopTag, .report [.num 1 2, count16 0, .num 1 1], 0⟩] } } } := by
  unfold abandonLoop
  rw [if_neg h]
  have e : d.leaveLoop = { d with rx := if d.loop.st = .looping then Rx.blank .hunting else d.rx, loop := { d.loop with st := .idle } } := by
    unfold leaveLoop; dsimp only; split <;> rfl
  rw [e]
  have hm' : d.console.general.owed.contains OwedRef.loop = false := by simpa using hm
  simp [reportLoop, reportTagged, marked, lane, ReportKind.lane, laneRoom, queueEntry, hm', hr, hm, LaneName.capacity, onLane, onConsole, onLoop]
  rfl

theorem accountAbort_distressQueue (d : Device) (it r) (h : it.owner ≠ .own) (hc : it.kind.cls = .routine ∨ it.kind.cls = .priority) : (d.accountAbort it r).access.distress = d.access.distress := by
  have ho : (d.offer it).access.distress = d.access.distress := by
    unfold offer; rcases hc with hc | hc <;> rw [hc] <;> rfl
  unfold accountAbort
  split
  · rfl
  · exact congrArg (fun x => x.access.distress) (dataAborted_aside _ _)
  · rfl
  · rfl
  · unfold warningAborted
    repeat' split
    all_goals first | rfl | exact ho
  · exact ho
  · rfl
  · exact absurd ‹_› h

theorem accountAbort_own (d : Device) (it r) (h : it.owner ≠ .own): (d.accountAbort it r).distress.own = d.distress.own ∧ (d.accountAbort it r).console.fix = d.console.fix ∧ (d.accountAbort it r).console.distress = d.console.distress ∧ (d.accountAbort it r).distress.holdSince = d.distress.holdSince ∧ (d.accountAbort it r).distress.holdTimer = d.distress.holdTimer := by
  unfold accountAbort
  split
  · exact ⟨rfl, rfl, rfl, rfl, rfl⟩
  · have := dataAborted_aside d ‹_›
    exact ⟨congrArg (fun x => x.distress.own) this, congrArg (fun x => x.console.fix) this, congrArg (fun x => x.console.distress) this, congrArg (fun x => x.distress.holdSince) this, congrArg (fun x => x.distress.holdTimer) this⟩
  · exact ⟨rfl, rfl, rfl, rfl, rfl⟩
  · exact ⟨rfl, rfl, rfl, rfl, rfl⟩
  · unfold warningAborted
    repeat' split
    all_goals exact ⟨rfl, rfl, rfl, rfl, rfl⟩
  · exact ⟨rfl, rfl, rfl, rfl, rfl⟩
  · exact ⟨rfl, rfl, rfl, rfl, rfl⟩
  · exact absurd ‹_› h

theorem report_fix (d : Device) (k r x) (h : k.lane = .general) : (d.report k r x).console.fix = d.console.fix ∧ (d.report k r x).console.distress = d.console.distress := by
  unfold report reportTagged queueEntry addMark
  rw [h]
  repeat' split
  all_goals exact ⟨rfl, rfl⟩

theorem enterClear_fix (d : Device) : d.enterClear.console.fix = d.console.fix ∧ d.enterClear.console.distress = d.console.distress := by
  unfold enterClear
  dsimp only
  split
  · have := report_fix (d.onAccess fun a =>
    { a with chan := .clear, clearSince := some d.now, notClearSince := none, blocked := false,
             lastBlocked := if a.blocked then (match d.access.notClearSince with
    | none => 0
    | some t => sat16 ((d.now - t) / 1000)) else a.lastBlocked }) .channelCleared .blocked (clearedData (match d.access.notClearSince with
    | none => 0
    | some t => sat16 ((d.now - t) / 1000))) rfl
    exact this
  · exact ⟨rfl, rfl⟩

theorem moveMonitor_fix (d : Device) (m s r c k) : (d.moveMonitor m s r c k).console.fix = d.console.fix ∧ (d.moveMonitor m s r c k).console.distress = d.console.distress := by
  unfold moveMonitor reportMonitor
  dsimp only
  split
  · exact report_fix _ _ _ _ rfl
  · exact report_fix _ _ _ _ rfl

theorem dropKey_fix (d : Device) (l) : (d.dropKey l).console.fix = d.console.fix ∧ (d.dropKey l).console.distress = d.console.distress := by
  have al : ∀ (L : List MonitorId) (e : Device) k, ((L.foldl (fun d m =>
    if (d.monitor m).st = .alert ∧ ¬(l = true ∧ m = .keytime)
    then d.moveMonitor m .normal 0 .keyDropped k else d) e).console.fix = e.console.fix) ∧ ((L.foldl (fun d m =>
    if (d.monitor m).st = .alert ∧ ¬(l = true ∧ m = .keytime)
    then d.moveMonitor m .normal 0 .keyDropped k else d) e).console.distress = e.console.distress) := by
    intro L
    induction L with
    | nil => intro e k; exact ⟨rfl, rfl⟩
    | cons x r ih =>
      intro e k
      simp only [List.foldl_cons]
      rw [(ih _ _).1, (ih _ _).2]
      split
      · exact moveMonitor_fix _ _ _ _ _ _
      · exact ⟨rfl, rfl⟩
  unfold dropKey endAlerts
  dsimp only
  rw [(al _ _ _).1, (al _ _ _).2]
  exact enterClear_fix _

theorem abortBurst_preempted (d : Device) (a : OnAir) (r) (h : d.access.onAir = some a) (ho : a.item.owner ≠ .own) :
    (d.abortBurst r).distress.own = d.distress.own ∧ (d.abortBurst r).console.fix = d.console.fix ∧ (d.abortBurst r).console.distress = d.console.distress ∧ (d.abortBurst r).distress.holdSince = d.distress.holdSince ∧ (d.abortBurst r).distress.holdTimer = d.distress.holdTimer ∧
    ((a.item.kind.cls = .routine ∨ a.item.kind.cls = .priority) → (d.abortBurst r).access.distress = d.access.distress) := by
  unfold abortBurst
  simp only [h]
  obtain ⟨D, -, -, -, lb, h4⟩ := dropKey_eq d (r == AbortReason.keytime)
  have hf := dropKey_fix d (r == AbortReason.keytime)
  generalize d.dropKey (r == AbortReason.keytime) = E at *
  have q := accountAbort_own (E.onAccess fun x =>
      { x with counts := { x.counts with aborts := bump x.counts.aborts, preemptions := if r = .preempted then bump x.counts.preemptions else x.counts.preemptions } }) a.item r ho
  refine ⟨q.1.trans ?_, q.2.1.trans ?_, q.2.2.1.trans ?_, q.2.2.2.1.trans ?_, q.2.2.2.2.trans ?_, fun hc => (accountAbort_distressQueue _ _ _ ho hc).trans ?_⟩
  · rw [h4]; rfl
  · exact hf.1
  · exact hf.2
  · rw [h4]; rfl
  · rw [h4]; rfl
  · rw [h4]; rfl
end Sys2Proof.Machine.Device

namespace Sys2Proof.Machine.Device
/-- Two own alerts that differ in the mark of a repeat asked for at most. -/
def ownSame (a b : OwnAlert) : Prop := a = { b with repeatAsked := a.repeatAsked }

theorem accountAbort_ownSame (d : Device) (it r) : ownSame (d.accountAbort it r).distress.own d.distress.own ∧ (d.accountAbort it r).console.fix = d.console.fix ∧ (d.accountAbort it r).console.distress = d.console.distress ∧ (d.accountAbort it r).distress.holdSince = d.distress.holdSince ∧ (d.accountAbort it r).distress.holdTimer = d.distress.holdTimer := by
  by_cases h : it.owner = .own
  · unfold accountAbort
    split
    · exact ⟨rfl, rfl, rfl, rfl, rfl⟩
    all_goals first
      | (rename_i q; rw [h] at q; cases q)
      | skip
    unfold placeOwn offer
    exact ⟨rfl, rfl, rfl, rfl, rfl⟩
  · have := accountAbort_own d it r h
    refine ⟨?_, this.2⟩
    unfold ownSame; rw [this.1]

theorem abortBurst_ownSame (d : Device) (a : OnAir) (r) (h : d.access.onAir = some a) :
    ownSame (d.abortBurst r).distress.own d.distress.own ∧ (d.abortBurst r).console.fix = d.console.fix ∧ (d.abortBurst r).console.distress = d.console.distress ∧ (d.abortBurst r).distress.holdSince = d.distress.holdSince ∧ (d.abortBurst r).distress.holdTimer = d.distress.holdTimer ∧ (d.abortBurst r).config = d.config := by
  unfold abortBurst
  simp only [h]
  obtain ⟨D, -, -, -, lb, h4⟩ := dropKey_eq d (r == AbortReason.keytime)
  have hf := dropKey_fix d (r == AbortReason.keytime)
  have hfx := Device.accountAbort_fixed ((d.dropKey (r == AbortReason.keytime)).onAccess fun x =>
      { x with counts := { x.counts with aborts := bump x.counts.aborts, preemptions := if r = .preempted then bump x.counts.preemptions else x.counts.preemptions } }) a.item r
  generalize d.dropKey (r == AbortReason.keytime) = E at *
  have q := accountAbort_ownSame (E.onAccess fun x =>
      { x with counts := { x.counts with aborts := bump x.counts.aborts, preemptions := if r = .preempted then bump x.counts.preemptions else x.counts.preemptions } }) a.item r
  have e1 : E.distress = d.distress := by rw [h4]
  refine ⟨?_, q.2.1.trans hf.1, q.2.2.1.trans hf.2, q.2.2.2.1.trans ?_, q.2.2.2.2.trans ?_, ?_⟩
  · have := q.1; simp only [onAccess_distress, e1] at this; exact this
  · simp [e1]
  · simp [e1]
  · refine (congrArg Fixed.config hfx).trans ?_
    have : E.config = d.config := by rw [h4]
    exact this

/-- A burst on air that an own distress request preempts (R32). -/
def preempts (d : Device) : Prop := ∃ a, d.access.onAir = some a ∧ (a.item.kind.cls = .routine ∨ a.item.kind.cls = .priority)

/-- An own distress request, block by block. -/
theorem offerOwn_form (d : Device) : ∃ e : Device, d.offerOwn = e.placeOwn ∧ ownSame e.distress.own d.distress.own ∧ e.console.fix = d.console.fix ∧ e.console.distress = d.console.distress ∧ e.distress.holdSince = d.distress.holdSince ∧ e.distress.holdTimer = d.distress.holdTimer ∧ e.now = d.now ∧ e.config = d.config ∧ e.loop.st = .idle ∧
    (d.preempts → e.access.onAir = none ∧ e.tx = none ∧ e.access.chan = .clear ∧ e.access.clearSince = some d.now ∧ e.access.counts.preemptions = bump d.access.counts.preemptions ∧ e.access.counts.aborts = bump d.access.counts.aborts) ∧
    (¬ d.preempts → e.access = d.access ∧ e.tx = d.tx ∧ e.store = d.store ∧ e.log = d.log ∧ e.xfer = d.xfer) ∧
    (d.ownOnAir = false → e.access.distress = d.access.distress ∧ e.distress.own = d.distress.own) := by
  obtain ⟨r, l, c, h1, h2, h3, h4⟩ := abandonLoop_eq d
  unfold offerOwn
  dsimp only
  have ha : d.abandonLoop.onAirKind = d.onAirKind := by rw [h1]; rfl
  have hb : d.abandonLoop.access = d.access := by rw [h1]
  have hl : d.abandonLoop.loop.st = .idle := by rw [h1]; exact h2
  have hn : d.abandonLoop.now = d.now := by rw [h1]
  have ho : d.abandonLoop.distress = d.distress := by rw [h1]
  have hf : d.abandonLoop.console.fix = d.console.fix := by rw [h1]; exact h3
  have hdl : d.abandonLoop.console.distress = d.console.distress := by rw [h1]; exact h4
  have hc : d.abandonLoop.config = d.config := by rw [h1]
  have hrest : d.abandonLoop.tx = d.tx ∧ d.abandonLoop.store = d.store ∧ d.abandonLoop.log = d.log ∧ d.abandonLoop.xfer = d.xfer := by rw [h1]; exact ⟨rfl, rfl, rfl, rfl⟩
  clear h1
  generalize d.abandonLoop = E at *
  have none_case : ¬ d.preempts → E.placeOwn = E.placeOwn ∧ ownSame E.distress.own d.distress.own ∧ E.console.fix = d.console.fix ∧ E.console.distress = d.console.distress ∧ E.distress.holdSince = d.distress.holdSince ∧ E.distress.holdTimer = d.distress.holdTimer ∧ E.now = d.now ∧ E.config = d.config ∧ E.loop.st = .idle ∧
    (d.preempts → E.access.onAir = none ∧ E.tx = none ∧ E.access.chan = .clear ∧ E.access.clearSince = some d.now ∧ E.access.counts.preemptions = bump d.access.counts.preemptions ∧ E.access.counts.aborts = bump d.access.counts.aborts) ∧
    (¬ d.preempts → E.access = d.access ∧ E.tx = d.tx ∧ E.store = d.store ∧ E.log = d.log ∧ E.xfer = d.xfer) ∧
    (d.ownOnAir = false → E.access.distress = d.access.distress ∧ E.distress.own = d.distress.own) := by
    intro hp
    exact ⟨rfl, by unfold ownSame; rw [ho], hf, hdl, by rw [ho], by rw [ho], hn, hc, hl, fun h => absurd h hp, fun _ => ⟨hb, hrest⟩, fun _ => ⟨by rw [hb], by rw [ho]⟩⟩
  rw [ha]
  unfold onAirKind
  cases hair : d.access.onAir with
  | none =>
    refine ⟨E, none_case ?_⟩
    rintro ⟨a, h, -⟩; rw [hair] at h; cases h
  | some a =>
    simp only [Option.map_some]
    by_cases hk : a.item.kind.cls = .routine ∨ a.item.kind.cls = .priority
    · rw [if_pos hk]
      have hE : E.access.onAir = some a := by rw [hb, hair]
      have f := abortBurst_facts E a .preempted hE
      have g := abortBurst_ownSame E a .preempted hE
      refine ⟨E.abortBurst .preempted, rfl, by have := g.1; rw [ho] at this; exact this, by rw [g.2.1, hf], by rw [g.2.2.1, hdl], by rw [g.2.2.2.1, ho], by rw [g.2.2.2.2.1, ho], by rw [f.2.2.2.2.2.1, hn], by rw [g.2.2.2.2.2, hc], by rw [f.2.2.2.2.2.2.2.2.1, hl], fun _ => ⟨f.1, f.2.1, f.2.2.2.1, by rw [f.2.2.2.2.1, hn], by rw [f.2.2.2.2.2.2.2.1, hb]; simp, by rw [f.2.2.2.2.2.2.1, hb]⟩, fun h => absurd ⟨a, hair, hk⟩ h, fun h => ?_⟩
      have hno : a.item.owner ≠ .own := by
        intro z; simp [ownOnAir, hair, z] at h
      have p := abortBurst_preempted E a .preempted hE hno
      exact ⟨by rw [p.2.2.2.2.2 hk, hb], by rw [p.1, ho]⟩
    · rw [if_neg hk]
      refine ⟨E, none_case ?_⟩
      rintro ⟨b, h, hb'⟩; rw [hair] at h; cases h; exact hk hb'
end Sys2Proof.Machine.Device

namespace Sys2Proof.Machine.Device
/-- What the beginning of the hold leaves as it is. -/
theorem startHold_keeps (d : Device) (cause st) :
    (d.startHold cause st).distress.own = d.distress.own ∧ (d.startHold cause st).console.fix = d.console.fix ∧ (d.startHold cause st).access.onAir = d.access.onAir ∧
    (d.startHold cause st).access.counts = d.access.counts ∧ (d.startHold cause st).access.distress = d.access.distress ∧ (d.startHold cause st).tx = d.tx ∧ (d.startHold cause st).now = d.now ∧
    (d.startHold cause st).distress.holdSince = some d.now ∧ (d.startHold cause st).distress.holdTimer = d.distress.holdTimer ∧ (d.startHold cause st).config = d.config ∧
    (d.startHold cause st).loop.st = (if d.loop.st = .waiting then .idle else d.loop.st) ∧
    (∃ l, (d.startHold cause st).console.distress.entries = d.console.distress.entries ++ l) := by
  have h0 := holdTransfers_aside (d.onDistress fun u => { u with holdSince := some d.now, holdCause := cause, holdStation := st })
  unfold startHold
  dsimp only
  generalize ((d.onDistress fun u => { u with holdSince := some d.now, holdCause := cause, holdStation := st }).holdTransfers) = E at *
  have a1 : E.distress = { d.distress with holdSince := some d.now, holdCause := cause, holdStation := st } := congrArg (fun x => x.distress) h0
  have a2 : E.console.fix = d.console.fix := congrArg (fun x => x.console.fix) h0
  have a3 : E.access.onAir = d.access.onAir := congrArg (fun x => x.access.onAir) h0
  have a4 : E.access.counts = d.access.counts := congrArg (fun x => x.access.counts) h0
  have a5 : E.access.distress = d.access.distress := congrArg (fun x => x.access.distress) h0
  have a6 : E.tx = d.tx := congrArg (fun x => x.tx) h0
  have a7 : E.now = d.now := congrArg (fun x => x.now) h0
  have a8 : E.config = d.config := congrArg (fun x => x.config) h0
  have a9 : E.loop = d.loop := congrArg (fun x => x.loop) h0
  have a10 : E.console.distress = d.console.distress := congrArg (fun x => x.console.distress) h0
  clear h0
  have hb : ∃ n q, E.dropBeacon = { E with neigh := n, access := { E.access with routine := q } } := by
    unfold dropBeacon; split
    · exact ⟨_, _, rfl⟩
    · exact ⟨_, _, rfl⟩
  obtain ⟨n, q, hb⟩ := hb
  have b9 : E.dropBeacon.loop = d.loop := by rw [hb]; exact a9
  have hl : ∃ r l c, (if E.dropBeacon.loop.st = .waiting then E.dropBeacon.abandonLoop else E.dropBeacon) = { E.dropBeacon with rx := r, loop := l, console := c } ∧ l.st = (if d.loop.st = .waiting then .idle else d.loop.st) ∧ c.fix = d.console.fix ∧ c.distress = d.console.distress := by
    rw [b9]
    split
    · obtain ⟨r, l, c, h1, h2, h3, h4⟩ := abandonLoop_eq E.dropBeacon
      refine ⟨r, l, c, h1, h2, ?_, ?_⟩
      · rw [h3, hb]; exact a2
      · rw [h4, hb]; exact a10
    · exact ⟨E.dropBeacon.rx, E.dropBeacon.loop, E.dropBeacon.console, rfl, by rw [b9], by rw [hb]; exact a2, by rw [hb]; exact a10⟩
  obtain ⟨r, l, c, h1, h2, h3, h4⟩ := hl
  rw [h1, hb]
  have hrep : ∀ (F : Device) x, (F.report .holdStarted .hold x).console.fix = F.console.fix ∧ ∃ l, (F.report .holdStarted .hold x).console.distress.entries = F.console.distress.entries ++ l := by
    intro F x
    have hk : ReportKind.lane .holdStarted = .distress := rfl
    unfold report reportTagged queueEntry addMark
    rw [hk]
    cases F.marked .distress OwedRef.hold <;> cases F.laneRoom .distress
    all_goals first | exact ⟨rfl, [], (List.append_nil _).symm⟩ | exact ⟨rfl, [_], rfl⟩
  refine ⟨?_, ?_, ?_, ?_, ?_, ?_, ?_, ?_, ?_, ?_, ?_, ?_⟩
  · simp; rw [a1]
  · rw [(hrep _ _).1]; exact h3
  · simp; exact a3
  · simp; exact a4
  · simp; exact a5
  · simp; exact a6
  · simp; exact a7
  · simp; rw [a1]
  · simp; rw [a1]
  · simp; exact a8
  · simp; exact h2
  · obtain ⟨l', h'⟩ := (hrep _ _).2
    refine ⟨l', h'.trans ?_⟩
    simp [h4]

theorem placeOwn_eq (d : Device) : d.placeOwn = { d with access := { d.access with distress := { d.access.distress with waiting := d.access.distress.waiting ++ [{ d.newItem d.ownKind allStations d.distress.own.num d.ownBody .own with order := d.access.nextOffer }] }, nextOffer := d.access.nextOffer + 1 } } := by
  unfold placeOwn offer
  have : (d.newItem d.ownKind allStations d.distress.own.num d.ownBody .own).kind.cls = .distress := by
    unfold newItem ownKind; split <;> rfl
  rw [this]; rfl

theorem reportOwn_eq (d : Device) (e) : d.reportOwn e = { d with console := (d.reportOwn e).console } ∧ (d.reportOwn e).console.fix = d.console.fix := by
  refine ⟨report_eq _ _ _ _, ?_⟩
  have hk : ReportKind.lane .ownAlertState = .distress := rfl
  unfold reportOwn report reportTagged queueEntry addMark
  rw [hk]
  cases d.marked .distress OwedRef.ownAlert <;> cases d.laneRoom .distress <;> rfl

theorem reportOwn_room (d : Device) (e) (h : d.console.distress.entries.length < 8) (hm : OwedRef.ownAlert ∉ d.console.distress.owed) : (d.reportOwn e).console.distress.entries = d.console.distress.entries ++ [⟨.ownAlertState, 0, .report (d.ownAlertData e d.distress.own.num (d.distress.own.ackedBy.getD 0)), 0⟩] := by
  have hm' : d.console.distress.owed.contains OwedRef.ownAlert = false := by simpa using hm
  simp [reportOwn, report, reportTagged, ReportKind.lane, marked, lane, hm', hm, laneRoom, LaneName.capacity, h, queueEntry, onLane, onConsole]
end Sys2Proof.Machine.Device

namespace Sys2Proof.Machine.Device
theorem mem_items_withdraw (q : ClassQueue) (p) (it : Item) : it ∈ (q.withdraw p).items ↔ it ∈ q.items ∧ p it = false := by
  unfold ClassQueue.items ClassQueue.withdraw
  simp only [List.mem_append, List.mem_filter]
  cases hc : q.contender with
  | none => simp
  | some k =>
    by_cases hk : p k.item = true
    · simp [hk]; intro h e; rw [e, hk] at h; cases h
    · simp [hk]
      constructor
      · rintro (h | h)
        · exact ⟨Or.inl h.1, h.2⟩
        · subst h; exact ⟨Or.inr rfl, by simpa using hk⟩
      · rintro ⟨h | h, g⟩
        · exact Or.inl ⟨h, g⟩
        · exact Or.inr h

theorem slot_onSlot (d : Device) (i j f) : (d.onSlot i f).slot j = if j = i ∧ i < d.xfer.slots.length then f (d.slot i) else d.slot j := by
  unfold slot onSlot onXfer modAt
  simp only [List.getD_eq_getElem?_getD]
  split
  · rename_i hx
    rw [if_neg]
    rintro ⟨-, h⟩; rw [List.getElem?_eq_none_iff] at hx; omega
  · rename_i x hx
    have hlt : i < d.xfer.slots.length := (List.getElem?_eq_some_iff.1 hx).1
    rw [List.getElem?_set]
    by_cases hj : j = i
    · subst hj
      rw [if_pos rfl, if_pos hlt, if_pos ⟨rfl, hlt⟩]; simp [hlt, hx]; rw [(List.getElem?_eq_some_iff.1 hx).2]
    · rw [if_neg (fun h => hj h.symm), if_neg (fun h => hj h.1)]

theorem slots_onSlot (d : Device) (i f) : (d.onSlot i f).xfer.slots.length = d.xfer.slots.length := by
  unfold onSlot onXfer; simp

theorem slot_withdraw (d : Device) (c p j) : (d.withdraw c p).slot j = d.slot j := rfl

/-- A slot as the beginning of the hold leaves it (R101). -/
def holdOne (now : Time) (s : Slot) : Slot :=
  { s with st := .held, heldFrom := s.st, onAir := false, ackDue := none, ackWaiting := false,
           heldRefusal := (match s.refusalEnd with | none => 0 | some t => t - now), refusalEnd := none }

/-- The slots that the beginning of the hold takes to HELD (R101). -/
def holdTest (s : Slot) : Bool := (s.st == .ready && !s.onAir) || s.st == .awaitingAck || s.st == .refusalWait

/-- One slot of `Device.holdTransfers`. -/
def holdStep (d : Device) (i : Nat) : Device :=
    let s := d.slot i
    if (s.st == .ready && !s.onAir) || s.st == .awaitingAck || s.st == .refusalWait then
      (d.withdrawData i).goHeld i s.st
    else d

theorem holdStep_slot (d : Device) (i j : Nat) (hl : i < d.xfer.slots.length) (hp : (d.slot i).pendingEnd = none) :
    (d.holdStep i).slot j = (if j = i ∧ holdTest (d.slot i) = true then holdOne d.now (d.slot i) else d.slot j) ∧ (d.holdStep i).xfer.slots.length = d.xfer.slots.length ∧ (d.holdStep i).now = d.now
    ∧ (d.holdStep i).xfer.reasms = d.xfer.reasms ∧ (d.holdStep i).xfer.recents = d.xfer.recents ∧ (d.holdStep i).rep = d.rep ∧ (d.holdStep i).console = d.console ∧ (d.holdStep i).loop = d.loop
    ∧ (∀ it ∈ (d.holdStep i).access.routine.items, it ∈ d.access.routine.items) := by
  have hu : d.holdStep i = if holdTest (d.slot i) = true then (d.withdrawData i).goHeld i (d.slot i).st else d := rfl
  rw [hu]
  by_cases h : holdTest (d.slot i) = true
  · rw [if_pos h]
    unfold goHeld orPending
    have e1 : (d.withdrawData i).slot i = d.slot i := rfl
    rw [e1, hp]
    dsimp only
    refine ⟨?_, ?_, rfl, rfl, rfl, rfl, rfl, rfl, ?_⟩
    · rw [slot_onSlot]
      have e3 : (d.withdrawData i).xfer = d.xfer := rfl
      rw [e3]
      by_cases hj : j = i
      · rw [if_pos ⟨hj, hl⟩, if_pos ⟨hj, h⟩]; rfl
      · rw [if_neg (fun z => hj z.1), if_neg (fun z => hj z.1)]; rfl
    · rw [slots_onSlot]; rfl
    · intro it hi
      exact ((mem_items_withdraw d.access.routine (isDataOf i) it).1 hi).1
  · rw [if_neg h]
    refine ⟨by rw [if_neg (fun z => h z.2)], rfl, rfl, rfl, rfl, rfl, rfl, rfl, fun it hi => hi⟩

theorem holdTransfers_foldl (L : List Nat) (hn : L.Nodup) (d : Device) (hl : ∀ i ∈ L, i < d.xfer.slots.length) (hp : ∀ i ∈ L, (d.slot i).pendingEnd = none) :
    (∀ j, (L.foldl holdStep d).slot j = (if j ∈ L ∧ holdTest (d.slot j) = true then holdOne d.now (d.slot j) else d.slot j)) ∧ (L.foldl holdStep d).now = d.now
    ∧ (L.foldl holdStep d).xfer.reasms = d.xfer.reasms ∧ (L.foldl holdStep d).xfer.recents = d.xfer.recents ∧ (L.foldl holdStep d).rep = d.rep ∧ (L.foldl holdStep d).console = d.console ∧ (L.foldl holdStep d).loop = d.loop
    ∧ (∀ it ∈ (L.foldl holdStep d).access.routine.items, it ∈ d.access.routine.items) := by
  induction L generalizing d with
  | nil => exact ⟨fun j => by simp, rfl, rfl, rfl, rfl, rfl, rfl, fun _ h => h⟩
  | cons x r ih =>
    obtain ⟨q1, q2, q3, q4, q5, q6, q7, q8, q9⟩ := (forall_and.1 fun j => holdStep_slot d x j (hl x (List.mem_cons_self)) (hp x List.mem_cons_self)) |>.imp_right (fun h => h 0)
    rw [List.nodup_cons] at hn
    have k := ih hn.2 (d.holdStep x) (by intro i hi; rw [q2]; exact hl i (List.mem_cons_of_mem _ hi)) (by
      intro i hi; rw [q1, if_neg]
      · exact hp i (List.mem_cons_of_mem _ hi)
      · rintro ⟨e, -⟩; subst e; exact hn.1 hi)
    obtain ⟨k1, k2, k3, k4, k5, k6, k7, k8⟩ := k
    rw [List.foldl_cons]
    refine ⟨fun j => ?_, k2.trans q3, k3.trans q4, k4.trans q5, k5.trans q6, k6.trans q7, k7.trans q8, fun it h => q9 it (k8 it h)⟩
    rw [k1, q1, q3]
    by_cases hj : j = x
    · subst hj
      rw [if_neg (fun z => hn.1 z.1)]
      simp
    · simp [hj]

/-- The transfer tables with their paused times stopped. -/
def holdPaused (d : Device) : Device := d.onXfer fun t =>
    { t with reasms := t.reasms.map fun e => { e with timer := e.timer.pause d.now },
             recents := t.recents.map fun r => { r with timer := r.timer.pause d.now } }

/-- The beginning of the hold, slot by slot. -/
theorem holdTransfers_fold (d : Device) : d.holdTransfers = slotOrder.foldl holdStep d.holdPaused := by
  unfold holdTransfers holdPaused
  have : (fun (d : Device) (i : Nat) =>
    let s := d.slot i
    if (s.st == .ready && !s.onAir) || s.st == .awaitingAck || s.st == .refusalWait then
      (d.withdrawData i).goHeld i s.st
    else d) = holdStep := by funext d i; rfl
  rw [← this]

theorem holdTransfers_distress (d : Device) : d.holdTransfers.distress = d.distress := by
  have h := holdTransfers_aside d
  generalize d.holdTransfers = E at *
  exact congrArg (fun x => x.distress) h
end Sys2Proof.Machine.Device
end

