-- ==== Sys2Proof/Laws/Tally.lean ====
section
/-! SUPPORT. What committing a haul does to the tally cells, and an evaluation to the quota entries. -/

open Sys2Proof Sys2Proof.Machine

namespace Sys2Proof.Machine.Device
theorem find_insertBy {α} (key : α → Nat) (p : α → Bool) (x : α) (l : List α) (h : ∀ y ∈ l, p y = true → p x = false) :
    (insertBy key x l).find? p = if p x = true then some x else l.find? p := by
  induction l with
  | nil => simp only [insertBy, List.find?_cons, List.find?_nil]; cases p x <;> rfl
  | cons y r ih =>
    unfold insertBy
    split
    · rw [List.find?_cons]; cases hx : p x <;> simp
    · rw [List.find?_cons, ih (fun z hz => h z (List.mem_cons_of_mem _ hz))]
      cases hy : p y with
      | true => rw [h y List.mem_cons_self hy]; simp [List.find?_cons, hy]
      | false => simp [List.find?_cons, hy]

theorem find_mapIf_same {α} (p : α → Bool) (f : α → α) (l : List α) (hf : ∀ x, p x = true → p (f x) = true) :
    (mapIf p f l).find? p = (l.find? p).map f := by
  unfold mapIf
  induction l with
  | nil => rfl
  | cons y r ih =>
    simp only [List.map_cons, List.find?_cons]
    cases hy : p y with
    | true => simp [hf y hy]
    | false => simp [hy, ih]

theorem find_mapIf_other {α} (p q : α → Bool) (f : α → α) (l : List α) (hf : ∀ x, p x = true → q (f x) = q x) (hn : ∀ x, p x = true → q x = false) :
    (mapIf p f l).find? q = l.find? q := by
  unfold mapIf
  induction l with
  | nil => rfl
  | cons y r ih =>
    simp only [List.map_cons, List.find?_cons]
    cases hy : p y with
    | true => simp [hf y hy, hn y hy, ih]
    | false => simp [ih]

/-- The update keeps a cell's rectangle and species. -/
def keepsKey (f : TallyCell → TallyCell) : Prop := ∀ x, (f x).rect = x.rect ∧ (f x).species = x.species

theorem onCell_cell (d : Device) (rect sp f) (hf : keepsKey f) (r s) :
    (d.onCell rect sp f).cell? r s = if r = rect ∧ s = sp then some (f (d.cellOrEmpty rect sp)) else d.cell? r s := by
  unfold onCell cellOrEmpty
  cases hc : d.cell? rect sp with
  | none =>
    simp only [Option.getD_none]
    show (insertBy cellKey (f (.empty rect sp)) d.log.cells).find? _ = _
    rw [find_insertBy]
    · rw [(hf _).1, (hf _).2]
      simp only [TallyCell.empty, Bool.and_eq_true, beq_iff_eq]
      by_cases h : r = rect ∧ s = sp
      · rw [if_pos ⟨h.1.symm, h.2.symm⟩, if_pos h]
      · rw [if_neg (fun z => h ⟨z.1.symm, z.2.symm⟩), if_neg h]; rfl
    · intro y hy hp
      rw [(hf _).1, (hf _).2]
      simp only [TallyCell.empty, Bool.and_eq_true, beq_iff_eq] at hp ⊢
      by_contra hh
      simp only [Bool.not_eq_false, Bool.and_eq_true, beq_iff_eq] at hh
      unfold cell? at hc
      rw [List.find?_eq_none] at hc
      apply hc y hy
      rw [hp.1, hp.2, ← hh.1, ← hh.2]; simp
  | some x =>
    simp only [Option.getD_some]
    show (mapIf _ f d.log.cells).find? _ = _
    by_cases h : r = rect ∧ s = sp
    · rw [if_pos h, h.1, h.2, find_mapIf_same]
      · have : d.log.cells.find? (fun c => c.rect == rect && c.species == sp) = some x := hc
        rw [this]; rfl
      · intro y hy; rw [(hf _).1, (hf _).2]; exact hy
    · rw [if_neg h, find_mapIf_other]
      · rfl
      · intro y _; rw [(hf _).1, (hf _).2]
      · intro y hy
        simp only [Bool.and_eq_true, beq_iff_eq] at hy
        by_contra hh
        simp only [Bool.not_eq_false, Bool.and_eq_true, beq_iff_eq] at hh
        exact h ⟨hh.1.symm.trans hy.1, hh.2.symm.trans hy.2⟩

theorem onCell_aside (d : Device) (rect sp f) : d.onCell rect sp f = { d with log := { d.log with cells := (d.onCell rect sp f).log.cells } } := by
  unfold onCell; split <;> rfl

theorem addLine_key (l : CatchLine) : keepsKey (fun c => c.addLine l) := by
  intro x; unfold TallyCell.addLine; dsimp only; split <;> exact ⟨rfl, rfl⟩

theorem addHaul_key (h : Haul) : keepsKey (fun c => c.addHaul h) := fun x => ⟨rfl, rfl⟩

/-- The second part differs from the first in the tally cells at most. -/
def cellsOnly (d e : Device) : Prop := e = { d with log := { d.log with cells := e.log.cells } }

theorem cellsOnly.trans {d e f : Device} (h : cellsOnly d e) (g : cellsOnly e f) : cellsOnly d f := by
  unfold cellsOnly at *; rw [g, h]

/-- The line's weight takes the cell's total beyond the limit. -/
def overLimit (x : TallyCell) (l : CatchLine) : Bool := decide (9999999 < (if l.retained then x.retained.total else x.discarded.total) + l.weight)

/-- The line's weight is cut at the limit. -/
def cutsAtLimit (x : TallyCell) (l : CatchLine) : Bool := (if l.retained then x.retained else x.discarded).cuts l.weight kgLimit

theorem addLine_eq (x : TallyCell) (l : CatchLine) : x.addLine l = { x with
    retained := if l.retained then { x.retained with total := min 9999999 (x.retained.total + l.weight) } else x.retained,
    discarded := if l.retained then x.discarded else { x.discarded with total := min 9999999 (x.discarded.total + l.weight) },
    saturated := x.saturated || overLimit x l } := by
  unfold TallyCell.addLine overLimit Amount.add kgLimit
  cases hr : l.retained
  · simp only [Bool.false_eq_true, if_false]
    split
    · rw [min_eq_left (by omega)]; simp [*]
    · rw [min_eq_right (by omega)]; simp [*]
  · simp only [if_true]
    split
    · rw [min_eq_left (by omega)]; simp [*]
    · rw [min_eq_right (by omega)]; simp [*]

theorem cellOrEmpty_of (d e : Device) (r s) (h : e.cell? r s = d.cell? r s) : e.cellOrEmpty r s = d.cellOrEmpty r s := by
  unfold cellOrEmpty; rw [h]

/-- What tells two lines of a haul apart: species and disposition (R154). -/
def lineKey (l : CatchLine) : Species × Bool := (l.species, l.retained)

/-- What the lines of a haul do to the tally cells (R157, R158). -/
theorem commitLines_foldl (rect : Nat) (L : List CatchLine) (hn : (L.map fun l => (l.species, l.retained)).Nodup) (d : Device) (m : Bool) :
    let e := (L.foldl (commitLine rect) (d, m)).1
    cellsOnly d e ∧
    (∀ l ∈ L, l.retained = true → (e.cellOrEmpty rect l.species).retained = { (d.cellOrEmpty rect l.species).retained with total := min 9999999 ((d.cellOrEmpty rect l.species).retained.total + l.weight) }) ∧
    (∀ l ∈ L, l.retained = false → (e.cellOrEmpty rect l.species).discarded = { (d.cellOrEmpty rect l.species).discarded with total := min 9999999 ((d.cellOrEmpty rect l.species).discarded.total + l.weight) }) ∧
    (∀ sp, (∀ l ∈ L, l.species = sp → l.retained = false) → (e.cellOrEmpty rect sp).retained = (d.cellOrEmpty rect sp).retained) ∧
    (∀ sp, (∀ l ∈ L, l.species = sp → l.retained = true) → (e.cellOrEmpty rect sp).discarded = (d.cellOrEmpty rect sp).discarded) ∧
    (∀ sp, (e.cellOrEmpty rect sp).hauls = (d.cellOrEmpty rect sp).hauls ∧ (e.cellOrEmpty rect sp).estimated = (d.cellOrEmpty rect sp).estimated ∧ (e.cellOrEmpty rect sp).longTow = (d.cellOrEmpty rect sp).longTow) ∧
    (∀ sp, (e.cellOrEmpty rect sp).saturated = true ↔ (d.cellOrEmpty rect sp).saturated = true ∨ ∃ l ∈ L, l.species = sp ∧ overLimit (d.cellOrEmpty rect sp) l = true) ∧
    (∀ r sp, (r ≠ rect ∨ ∀ l ∈ L, l.species ≠ sp) → e.cell? r sp = d.cell? r sp) ∧
    ((L.foldl (commitLine rect) (d, m)).2 = true ↔ m = true ∨ ∃ l ∈ L, cutsAtLimit (d.cellOrEmpty rect l.species) l = true) := by
  induction L generalizing d m with
  | nil => simp [cellsOnly]
  | cons l r ih =>
    rw [List.map_cons, List.nodup_cons] at hn
    dsimp only
    rw [List.foldl_cons]
    obtain ⟨d1, hd1⟩ : ∃ d1, d1 = d.onCell rect l.species fun c => c.addLine l := ⟨_, rfl⟩
    have h1 : commitLine rect (d, m) l = (d1, m || cutsAtLimit (d.cellOrEmpty rect l.species) l) := by rw [hd1]; rfl
    rw [h1]
    obtain ⟨i1, i2, i3, i4, i5, i6, i7, i8, i9⟩ := ih hn.2 d1 (m || cutsAtLimit (d.cellOrEmpty rect l.species) l)
    generalize ((r.foldl (commitLine rect) (d1, m || cutsAtLimit (d.cellOrEmpty rect l.species) l))) = X at *
    have hc1 : ∀ r s, d1.cell? r s = if r = rect ∧ s = l.species then some ((d.cellOrEmpty rect l.species).addLine l) else d.cell? r s := by
      intro r s; rw [hd1, onCell_cell _ _ _ _ (addLine_key l)]
    have hs : d1.cellOrEmpty rect l.species = (d.cellOrEmpty rect l.species).addLine l := by
      unfold cellOrEmpty; rw [hc1, if_pos ⟨rfl, rfl⟩]; rfl
    have ho : ∀ s, s ≠ l.species → d1.cellOrEmpty rect s = d.cellOrEmpty rect s := by
      intro s hs; apply cellOrEmpty_of; rw [hc1, if_neg (fun z => hs z.2)]
    have hno : ∀ l' ∈ r, l'.species = l.species → l'.retained ≠ l.retained := by
      intro l' hl' e1 e2
      exact hn.1 (List.mem_map.2 ⟨l', hl', by rw [e1, e2]⟩)
    rw [addLine_eq] at hs
    have c0 : cellsOnly d d1 := by rw [hd1]; exact onCell_aside _ _ _ _
    refine ⟨c0.trans i1, ?_, ?_, ?_, ?_, ?_, ?_, ?_, ?_⟩
    · intro x hx hr
      rcases List.mem_cons.1 hx with rfl | hx
      · rw [i4 x.species (fun y hy e => by have := hno y hy e; rw [hr] at this; simpa using this), hs]; simp [hr]
      · rw [i2 x hx hr]
        by_cases e : x.species = l.species
        · have := hno x hx e
          rw [e, hs]
          have hl : l.retained = false := by rw [hr] at this; simpa using this.symm
          simp [hl]
        · rw [ho _ e]
    · intro x hx hr
      rcases List.mem_cons.1 hx with rfl | hx
      · rw [i5 x.species (fun y hy e => by have := hno y hy e; rw [hr] at this; simpa using this), hs]; simp [hr]
      · rw [i3 x hx hr]
        by_cases e : x.species = l.species
        · have := hno x hx e
          rw [e, hs]
          have hl : l.retained = true := by rw [hr] at this; simpa using this.symm
          simp [hl]
        · rw [ho _ e]
    · intro sp h
      rw [i4 sp (fun y hy => h y (List.mem_cons_of_mem _ hy))]
      by_cases e : sp = l.species
      · rw [e, hs, h l List.mem_cons_self e.symm]; rfl
      · rw [ho _ e]
    · intro sp h
      rw [i5 sp (fun y hy => h y (List.mem_cons_of_mem _ hy))]
      by_cases e : sp = l.species
      · rw [e, hs, h l List.mem_cons_self e.symm]; rfl
      · rw [ho _ e]
    · intro sp
      rw [(i6 sp).1, (i6 sp).2.1, (i6 sp).2.2]
      by_cases e : sp = l.species
      · rw [e, hs]; exact ⟨rfl, rfl, rfl⟩
      · rw [ho _ e]; exact ⟨rfl, rfl, rfl⟩
    · intro sp
      rw [i7 sp]
      by_cases e : sp = l.species
      · subst e
        rw [hs]
        simp only [Bool.or_eq_true, List.mem_cons, exists_eq_or_imp, or_assoc]
        have : ∀ x ∈ r, x.species = l.species → (overLimit { d.cellOrEmpty rect l.species with
    retained := if l.retained then { (d.cellOrEmpty rect l.species).retained with total := min 9999999 ((d.cellOrEmpty rect l.species).retained.total + l.weight) } else (d.cellOrEmpty rect l.species).retained,
    discarded := if l.retained then (d.cellOrEmpty rect l.species).discarded else { (d.cellOrEmpty rect l.species).discarded with total := min 9999999 ((d.cellOrEmpty rect l.species).discarded.total + l.weight) },
    saturated := (d.cellOrEmpty rect l.species).saturated || overLimit (d.cellOrEmpty rect l.species) l } x = overLimit (d.cellOrEmpty rect l.species) x) := by
          intro x hx e
          have := hno x hx e
          unfold overLimit
          cases hl : l.retained <;> cases hxr : x.retained <;> simp [hl, hxr] at this ⊢
        constructor
        · rintro (h | h | ⟨x, hx, e, h⟩)
          · exact Or.inl h
          · exact Or.inr (Or.inl ⟨trivial, h⟩)
          · exact Or.inr (Or.inr ⟨x, hx, e, by rw [← this x hx e]; exact h⟩)
        · rintro (h | ⟨-, h⟩ | ⟨x, hx, e, h⟩)
          · exact Or.inl h
          · exact Or.inr (Or.inl h)
          · exact Or.inr (Or.inr ⟨x, hx, e, by rw [this x hx e]; exact h⟩)
      · rw [ho _ e]
        simp only [List.mem_cons, exists_eq_or_imp]
        have e' : ¬ l.species = sp := fun z => e z.symm
        simp [e']
    · intro r' sp h
      rw [i8 r' sp (h.imp id (fun h l hl => h l (List.mem_cons_of_mem _ hl))), hc1, if_neg]
      rintro ⟨e1, e2⟩
      rcases h with h | h
      · exact h e1
      · exact h l List.mem_cons_self e2.symm
    · rw [i9]
      simp only [Bool.or_eq_true, List.mem_cons, exists_eq_or_imp, or_assoc]
      have : ∀ x ∈ r, cutsAtLimit (d1.cellOrEmpty rect x.species) x = cutsAtLimit (d.cellOrEmpty rect x.species) x := by
        intro x hx
        by_cases e : x.species = l.species
        · have := hno x hx e
          rw [e, hs]
          unfold cutsAtLimit
          cases hl : l.retained <;> cases hxr : x.retained <;> simp [hl, hxr] at this ⊢
        · rw [ho _ e]
      constructor
      · rintro (h | h | ⟨x, hx, h⟩)
        · exact Or.inl h
        · exact Or.inr (Or.inl h)
        · exact Or.inr (Or.inr ⟨x, hx, by rw [← this x hx]; exact h⟩)
      · rintro (h | h | ⟨x, hx, h⟩)
        · exact Or.inl h
        · exact Or.inr (Or.inl h)
        · exact Or.inr (Or.inr ⟨x, hx, by rw [this x hx]; exact h⟩)

theorem addHaul_eq (x : TallyCell) (h : Haul) : x.addHaul h = { x with
    hauls := { x.hauls with total := min 65535 (x.hauls.total + 1) }, saturated := x.saturated || decide (65535 < x.hauls.total + 1), estimated := x.estimated || h.estimated, longTow := x.longTow || h.longTow } := by
  unfold TallyCell.addHaul Amount.add
  dsimp only
  split
  · rw [min_eq_left (by omega)]; simp [*]
  · rw [min_eq_right (by omega)]; simp [*]

/-- What a haul does to the cells of its species (R157). -/
theorem commitCells_foldl (rect : Nat) (h : Haul) (L : List Species) (hn : L.Nodup) (d : Device) (m : Bool) :
    let e := (L.foldl (commitCell rect h) (d, m)).1
    cellsOnly d e ∧
    (∀ r sp, e.cell? r sp = if r = rect ∧ sp ∈ L then some ((d.cellOrEmpty rect sp).addHaul h) else d.cell? r sp) ∧
    ((L.foldl (commitCell rect h) (d, m)).2 = true ↔ m = true ∨ ∃ sp ∈ L, 65535 ≤ (d.cellOrEmpty rect sp).hauls.total) := by
  induction L generalizing d m with
  | nil => simp [cellsOnly]
  | cons l r ih =>
    rw [List.nodup_cons] at hn
    dsimp only
    rw [List.foldl_cons]
    obtain ⟨d1, hd1⟩ : ∃ d1, d1 = d.onCell rect l fun c => c.addHaul h := ⟨_, rfl⟩
    have h1 : commitCell rect h (d, m) l = (d1, m || (d.cellOrEmpty rect l).hauls.cuts 1 65535) := by rw [hd1]; rfl
    rw [h1]
    obtain ⟨i1, i2, i3⟩ := ih hn.2 d1 (m || (d.cellOrEmpty rect l).hauls.cuts 1 65535)
    generalize ((r.foldl (commitCell rect h) (d1, m || (d.cellOrEmpty rect l).hauls.cuts 1 65535))) = X at *
    have hc1 : ∀ r s, d1.cell? r s = if r = rect ∧ s = l then some ((d.cellOrEmpty rect l).addHaul h) else d.cell? r s := by
      intro r s; rw [hd1, onCell_cell _ _ _ _ (addHaul_key h)]
    have ho : ∀ s, s ≠ l → d1.cellOrEmpty rect s = d.cellOrEmpty rect s := by
      intro s hs; apply cellOrEmpty_of; rw [hc1, if_neg (fun z => hs z.2)]
    have c0 : cellsOnly d d1 := by rw [hd1]; exact onCell_aside _ _ _ _
    refine ⟨c0.trans i1, fun r' sp => ?_, ?_⟩
    · rw [i2]
      by_cases e : sp = l
      · subst e
        simp only [List.mem_cons, true_or, and_true, hn.1, and_false, if_false]
        rw [hc1]; simp
      · rw [ho _ e, hc1]; simp [e]
    · rw [i3]
      simp only [Bool.or_eq_true, List.mem_cons, exists_eq_or_imp, or_assoc]
      have : ((d.cellOrEmpty rect l).hauls.cuts 1 65535 = true) ↔ 65535 ≤ (d.cellOrEmpty rect l).hauls.total := by
        unfold Amount.cuts; simp; omega
      rw [this]
      have : (∃ sp ∈ r, 65535 ≤ (d1.cellOrEmpty rect sp).hauls.total) ↔ (∃ sp ∈ r, 65535 ≤ (d.cellOrEmpty rect sp).hauls.total) := by
        constructor
        · rintro ⟨sp, hs, h⟩; rw [ho sp (fun z => hn.1 (z ▸ hs))] at h; exact ⟨sp, hs, h⟩
        · rintro ⟨sp, hs, h⟩; rw [← ho sp (fun z => hn.1 (z ▸ hs))] at h; exact ⟨sp, hs, h⟩
      rw [this]
end Sys2Proof.Machine.Device

namespace Sys2Proof.Machine.Device
theorem insertBy_perm {α} (key : α → Nat) (x : α) (l : List α) : (insertBy key x l).Perm (x :: l) := by
  induction l with
  | nil => exact List.Perm.refl _
  | cons y r ih =>
    unfold insertBy; split
    · exact List.Perm.refl _
    · exact (List.Perm.cons y ih).trans (List.Perm.swap x y r)

theorem sortBy_perm {α} (key : α → Nat) (l : List α) : (sortBy key l).Perm l := by
  have : ∀ acc : List α, (l.foldl (fun acc x => insertBy key x acc) acc).Perm (l ++ acc) := by
    induction l with
    | nil => intro acc; exact List.Perm.refl _
    | cons x r ih =>
      intro acc
      rw [List.foldl_cons]
      refine (ih _).trans ?_
      refine (List.Perm.append_left r (insertBy_perm key x acc)).trans ?_
      exact List.perm_middle
  have h := this []
  rwa [List.append_nil] at h

theorem eraseDups_nodup' {α} [BEq α] [LawfulBEq α] (l : List α) : l.eraseDups.Nodup := by
  have key : ∀ (n : Nat) (l : List α), l.length ≤ n → l.eraseDups.Nodup := by
    intro n
    induction n with
    | zero => intro l h; have : l = [] := List.length_eq_zero_iff.1 (by omega); subst this; simp
    | succ n ih =>
      intro l h
      cases l with
      | nil => simp
      | cons a r =>
        rw [List.eraseDups_cons, List.nodup_cons]
        refine ⟨?_, ih _ ?_⟩
        · intro hm
          rw [List.mem_eraseDups, List.mem_filter] at hm
          simp at hm
        · refine le_trans (List.length_filter_le _ _) ?_
          simp at h; omega
  exact key _ l le_rfl

theorem quota_onQuota (d : Device) (sp f) (hf : ∀ q, (f q).species = q.species) (s) : (d.onQuota sp f).quota? s = if s = sp then (d.quota? s).map f else d.quota? s := by
  unfold onQuota quota?
  show (mapIf _ f d.log.quotas).find? _ = _
  by_cases h : s = sp
  · subst h; rw [if_pos rfl, find_mapIf_same]
    intro x hx; rw [hf]; exact hx
  · rw [if_neg h, find_mapIf_other]
    · intro x _; rw [hf]
    · intro x hx; simp only [beq_iff_eq] at hx; simp only [hx, beq_eq_false_iff_ne]; exact fun z => h z.symm

theorem quota_setOwed (d : Device) (sp p s) : (d.onQuota sp fun q => { q with owedFrom := p }).quota? s = if s = sp then (d.quota? s).map fun q => { q with owedFrom := p } else d.quota? s := quota_onQuota d sp (fun q => { q with owedFrom := p }) (fun _ => rfl) s

theorem quota_setState (d : Device) (sp p s) : (d.onQuota sp fun q => { q with st := p }).quota? s = if s = sp then (d.quota? s).map fun q => { q with st := p } else d.quota? s := quota_onQuota d sp (fun q => { q with st := p }) (fun _ => rfl) s

theorem quota_setConsumed (d : Device) (sp p s) : (d.onQuota sp fun q => { q with consumed := p }).quota? s = if s = sp then (d.quota? s).map fun q => { q with consumed := p } else d.quota? s := quota_onQuota d sp (fun q => { q with consumed := p }) (fun _ => rfl) s

/-- The second part differs from the first in the quota entries and the console at most. -/
def quotasOnly (d e : Device) : Prop := e = { d with log := { d.log with quotas := e.log.quotas }, console := e.console }

theorem quotasOnly.trans {d e f : Device} (h : quotasOnly d e) (g : quotasOnly e f) : quotasOnly d f := by
  unfold quotasOnly at *; rw [g, h]

theorem quotasOnly.refl (d : Device) : quotasOnly d d := rfl

theorem report_quotasOnly (d : Device) (k r x) : quotasOnly d (d.report k r x) := by
  unfold quotasOnly; rw [report_eq]

theorem reportQuota_only (d : Device) (sp p c) : quotasOnly d (d.reportQuota sp p c) := by
  unfold reportQuota; dsimp only; split
  · exact quotasOnly.refl _
  · split
    · exact (report_quotasOnly _ _ _ _).trans rfl
    · exact report_quotasOnly _ _ _ _

theorem evaluateQuota_only (d : Device) (sp c) : quotasOnly d (d.evaluateQuota sp c).2 := by
  unfold evaluateQuota; split
  · exact quotasOnly.refl _
  · dsimp only; split
    · exact quotasOnly.refl _
    · exact quotasOnly.trans (e := d.onQuota sp _) rfl (reportQuota_only _ _ _ _)

theorem quota_report (d : Device) (k r x s) : (d.report k r x).quota? s = d.quota? s := by
  unfold quota?; rw [report_log]

/-- Two quota entries that differ in the owed state at most. -/
def qSame (a b : QuotaEntry) : Prop := a = { b with owedFrom := a.owedFrom }

theorem quota_reportQuota (d : Device) (sp p c s) : (s ≠ sp → (d.reportQuota sp p c).quota? s = d.quota? s) ∧ ∀ q, d.quota? s = some q → ∃ q', (d.reportQuota sp p c).quota? s = some q' ∧ qSame q' q := by
  unfold reportQuota; dsimp only; split
  · exact ⟨fun _ => rfl, fun q h => ⟨q, h, rfl⟩⟩
  · split
    · refine ⟨fun h => ?_, fun q h => ?_⟩
      · rw [quota_setOwed, if_neg h, quota_report]
      · rw [quota_setOwed, quota_report, h]
        split
        · exact ⟨_, rfl, rfl⟩
        · exact ⟨_, rfl, rfl⟩
    · refine ⟨fun h => ?_, fun q h => ?_⟩
      · rw [quota_report]
      · rw [quota_report, h]; exact ⟨_, rfl, rfl⟩

theorem quota_evaluateQuota (d : Device) (sp c s) : (s ≠ sp → (d.evaluateQuota sp c).2.quota? s = d.quota? s) ∧ ∀ q, d.quota? sp = some q → (∃ q', (d.evaluateQuota sp c).2.quota? sp = some q' ∧ q'.quota = q.quota ∧ q'.consumed = q.consumed ∧ q'.st = quotaState q.consumed q.quota) ∧ ((d.evaluateQuota sp c).1 = true ↔ q.st ≠ .reached ∧ q.quota ≤ q.consumed) := by
  unfold evaluateQuota; split
  · rename_i h; exact ⟨fun _ => rfl, fun q h' => by rw [h] at h'; cases h'⟩
  · rename_i q hq
    have hr : quotaState q.consumed q.quota = .reached ↔ q.quota ≤ q.consumed := by
      unfold quotaState; split
      · simp [*]
      · split <;> simp [*]
    dsimp only; split
    · rename_i he
      refine ⟨fun _ => rfl, fun q' h' => ?_⟩
      rw [hq] at h'; cases h'
      refine ⟨⟨q, hq, rfl, rfl, he.symm⟩, ?_⟩
      rw [he] at hr
      simp only [Bool.false_eq_true, false_iff, not_and, hr.symm]
      exact fun a b => a b
    · rename_i he
      refine ⟨fun h => ?_, fun q' h' => ?_⟩
      · rw [(quota_reportQuota _ _ _ _ _).1 h, quota_setState, if_neg h]
      · rw [hq] at h'; cases h'
        have := (quota_reportQuota (d.onQuota sp fun x => { x with st := quotaState q.consumed q.quota }) sp (some q.st) c sp).2 { q with st := quotaState q.consumed q.quota } (by rw [quota_setState, if_pos rfl, hq]; rfl)
        obtain ⟨q', h1, h2⟩ := this
        refine ⟨⟨q', h1, by rw [h2], by rw [h2], by rw [h2]⟩, ?_⟩
        simp only [beq_iff_eq, hr]
        constructor
        · intro h; exact ⟨fun z => he (by rw [z]; exact hr.2 h), h⟩
        · exact fun h => h.2

theorem consumed_foldl (n : Species → Nat) (L : List Species) (hn : L.Nodup) (d : Device) :
   quotasOnly d (L.foldl (fun d sp => d.onQuota sp fun q => { q with consumed := n sp }) d) ∧ (L.foldl (fun d sp => d.onQuota sp fun q => { q with consumed := n sp }) d).console = d.console ∧
   ∀ s, (L.foldl (fun d sp => d.onQuota sp fun q => { q with consumed := n sp }) d).quota? s = if s ∈ L then (d.quota? s).map fun q => { q with consumed := n s } else d.quota? s := by
  induction L generalizing d with
  | nil => exact ⟨rfl, rfl, fun s => by simp⟩
  | cons x r ih =>
    rw [List.nodup_cons] at hn
    obtain ⟨i1, i2, i3⟩ := ih hn.2 (d.onQuota x fun q => { q with consumed := n x })
    rw [List.foldl_cons]
    refine ⟨quotasOnly.trans (e := d.onQuota x fun q => { q with consumed := n x }) rfl i1, i2, fun s => ?_⟩
    rw [i3, quota_setConsumed]
    by_cases h : s = x
    · subst h; simp [hn.1]
    · simp [h]

/-- What the evaluations after a commit do to the quota entries (R164 to R167). -/
theorem evaluate_foldl (L : List Species) (hn : L.Nodup) (d : Device) (b : Bool) :
   let X := L.foldl (fun (x : Bool × Device) sp => (x.1 || (x.2.evaluateQuota sp 0).1, (x.2.evaluateQuota sp 0).2)) (b, d)
   quotasOnly d X.2 ∧ (∀ s, s ∉ L → X.2.quota? s = d.quota? s) ∧ (∀ s ∈ L, ∀ q, d.quota? s = some q → ∃ q', X.2.quota? s = some q' ∧ q'.quota = q.quota ∧ q'.consumed = q.consumed ∧ q'.st = quotaState q.consumed q.quota) ∧
   ((∀ s ∈ L, (d.quota? s).isSome = true) → (X.1 = true ↔ b = true ∨ ∃ s ∈ L, ∃ q, d.quota? s = some q ∧ q.st ≠ .reached ∧ q.quota ≤ q.consumed)) := by
  induction L generalizing d b with
  | nil =>
    refine ⟨rfl, fun _ _ => rfl, fun s h => ?_, fun _ => ?_⟩
    · cases h
    · simp
  | cons x r ih =>
    rw [List.nodup_cons] at hn
    dsimp only
    rw [List.foldl_cons]
    obtain ⟨i1, i2, i3, i4⟩ := ih hn.2 (d.evaluateQuota x 0).2 (b || (d.evaluateQuota x 0).1)
    have e := fun s => quota_evaluateQuota d x 0 s
    have eo := evaluateQuota_only d x 0
    generalize List.foldl (fun (x : Bool × Device) sp => (x.1 || (x.2.evaluateQuota sp 0).1, (x.2.evaluateQuota sp 0).2)) (b || (d.evaluateQuota x 0).1, (d.evaluateQuota x 0).2) r = X at *
    generalize d.evaluateQuota x 0 = Y at *
    refine ⟨eo.trans i1, fun s hs => ?_, fun s hs q hq => ?_, fun hs => ?_⟩
    · rw [i2 s (fun h => hs (List.mem_cons_of_mem _ h)), (e s).1 (fun h => hs (h ▸ List.mem_cons_self))]
    · by_cases h : s = x
      · subst h
        rw [i2 s hn.1]
        exact ((e s).2 q hq).1
      · have hs' : s ∈ r := by rcases List.mem_cons.1 hs with h' | h'; exact absurd h' h; exact h'
        exact i3 s hs' q (by rw [(e s).1 h]; exact hq)
    · have hne : ∀ s ∈ r, s ≠ x := fun s h z => hn.1 (z ▸ h)
      rw [i4 (fun s h => by rw [(e s).1 (hne s h)]; exact hs s (List.mem_cons_of_mem _ h))]
      obtain ⟨q, hq⟩ := Option.isSome_iff_exists.1 (hs x List.mem_cons_self)
      have := ((e x).2 q hq).2
      simp only [Bool.or_eq_true, this, List.mem_cons, exists_eq_or_imp, or_assoc, hq, Option.some.injEq, exists_eq_left']
      have : (∃ s ∈ r, ∃ q, Y.2.quota? s = some q ∧ q.st ≠ .reached ∧ q.quota ≤ q.consumed) ↔ (∃ s ∈ r, ∃ q, d.quota? s = some q ∧ q.st ≠ .reached ∧ q.quota ≤ q.consumed) := by
        constructor
        · rintro ⟨s, h, q, h1⟩; rw [(e s).1 (hne s h)] at h1; exact ⟨s, h, q, h1⟩
        · rintro ⟨s, h, q, h1⟩; rw [← (e s).1 (hne s h)] at h1; exact ⟨s, h, q, h1⟩
      rw [this]
end Sys2Proof.Machine.Device
end

