-- ==== Sys2Proof/Laws/Slots.lean ====
section
/-! SUPPORT. What the operations on transfer slots and on cases do to the slot or case named and to the others; the sorting by a key; the end of the hold. -/

open Sys2Proof Sys2Proof.Machine

namespace Sys2Proof.Machine.Device
theorem onSlot_set (d : Device) (i f) (h : i < d.xfer.slots.length) : d.onSlot i f = { d with xfer := { d.xfer with slots := d.xfer.slots.set i (f (d.slot i)) } } := by
  unfold onSlot onXfer slot
  have : modAt d.xfer.slots i f = d.xfer.slots.set i (f (d.xfer.slots.getD i Slot.free)) := by
    unfold modAt
    rw [List.getElem?_eq_getElem h, List.getD_eq_getElem?_getD, List.getElem?_eq_getElem h]; rfl
  dsimp only
  rw [this]

theorem slot_set (d : Device) (i : Nat) (x : Slot) (X : Transfers) (h : i < X.slots.length) : Device.slot { d with xfer := { X with slots := X.slots.set i x } } i = x := by
  unfold slot; simp [h]

/-- A freed slot, with no catch report pending. -/
theorem slotFreed_none (d : Device) (h : d.rep.pending = none) : d.slotFreed = d := by
  unfold slotFreed buildPending; rw [h]; simp

theorem retryHandOvers_none (d : Device) (h : ∀ e ∈ d.xfer.reasms, e.waiting = false) : d.retryHandOvers = d := by
  unfold retryHandOvers
  rw [List.filter_eq_nil_iff.2 (by intro a ha; simp [h a ha])]; rfl

theorem askRoute_slot (d : Device) (i j : Nat) (h : j ≠ i) : (d.askRoute i).slot j = d.slot j := by
  unfold askRoute takeAnswer
  dsimp only
  split
  · rw [slot_onSlot, if_neg (by simp [h]), withdrawData, slot_withdraw]
  · split
    · rfl
    · unfold goReady
      split <;> rw [slot_onSlot, if_neg (by simp [h]), slot_onSlot, if_neg (by simp [h]), withdrawData, slot_withdraw]

theorem routeEvent_slot (d : Device) (st : Station) (i : Nat) (h : (d.slot i).st = .awaitingAck) : (d.routeEvent st).slot i = d.slot i := by
  unfold routeEvent
  suffices ∀ (L : List Nat) (e : Device), e.slot i = d.slot i → (L.foldl (fun d i => if d.asksAt st (d.slot i) then d.askRoute i else d) e).slot i = d.slot i from this _ d rfl
  intro L
  induction L with
  | nil => intro e he; exact he
  | cons j r ih =>
    intro e he
    rw [List.foldl_cons]
    apply ih
    split
    · rename_i ha
      rcases eq_or_ne i j with rfl | hn
      · rw [he] at ha; simp [asksAt, h] at ha
      · rw [askRoute_slot _ _ _ hn, he]
    · exact he

/-- What asking for a route leaves as it is. -/
theorem askRoute_keeps (d : Device) (i : Nat) : (d.askRoute i).xfer.slots.length = d.xfer.slots.length ∧ (d.askRoute i).holdInForce = d.holdInForce ∧ (d.askRoute i).now = d.now := by
  unfold askRoute takeAnswer
  dsimp only
  split
  · exact ⟨slots_onSlot _ _ _, rfl, rfl⟩
  · split
    · exact ⟨rfl, rfl, rfl⟩
    · unfold goReady
      split <;> exact ⟨(slots_onSlot _ _ _).trans (slots_onSlot _ _ _), rfl, rfl⟩

/-- What a route event leaves as it is. -/
theorem routeEvent_all (d : Device) (st : Station) : (d.routeEvent st).xfer.slots.length = d.xfer.slots.length ∧ (d.routeEvent st).holdInForce = d.holdInForce ∧ (d.routeEvent st).now = d.now := by
  unfold routeEvent
  generalize slotOrder = L
  induction L generalizing d with
  | nil => exact ⟨rfl, rfl, rfl⟩
  | cons j r ih =>
    rw [List.foldl_cons]
    have h := ih (if d.asksAt st (d.slot j) then d.askRoute j else d)
    split at h
    · rename_i hc; rw [if_pos hc]; have := askRoute_keeps d j; exact ⟨h.1.trans this.1, h.2.1.trans this.2.1, h.2.2.trans this.2.2⟩
    · rename_i hc; rw [if_neg hc]; exact h

theorem routeEvent_len (d : Device) (st : Station) : (d.routeEvent st).xfer.slots.length = d.xfer.slots.length := (routeEvent_all d st).1

theorem routeEvent_keeps (d : Device) (st : Station) : (d.routeEvent st).holdInForce = d.holdInForce ∧ (d.routeEvent st).now = d.now := (routeEvent_all d st).2

theorem mapIf_station (l : List Neigh) (st : Station) (f : Neigh → Neigh) : mapIf (fun n => n.station == st) f l = l.map fun n => if n.station = st then f n else n := by
  unfold mapIf; simp

theorem takeNoRelay_of_parts (E M T : Device) (i : Nat) (s : Slot) (h : Station) (hE : E.onXferCounts (fun c => { c with gotNoRelay := bump c.gotNoRelay }) = M)
    (hM : M.slot i = s) (hh : s.hop = some h) (hc : (M.clearWilling h).1.routeEvents (M.clearWilling h).2 = T) :
    E.takeNoRelay i = T.orPending i fun d => if h = s.dest then d.hopFails i else (d.goReady i).askRoute i := by
  unfold takeNoRelay
  dsimp only
  rw [hE, hM, hh]
  dsimp only
  rw [hc]
end Sys2Proof.Machine.Device

namespace Sys2Proof.Machine.Device
theorem report_distress_room (d : Device) (k : ReportKind) (r : OwedRef) (x : List Datum) (hk : k.lane = .distress) (h : d.console.distress.entries.length < 8) (hm : r ∉ d.console.distress.owed) :
    d.report k r x = { d with console := { d.console with distress := { d.console.distress with entries := d.console.distress.entries ++ [⟨k, 0, .report x, 0⟩] } } } := by
  unfold report reportTagged queueEntry
  rw [hk]
  have h1 : d.marked .distress r = false := by simpa [marked, lane] using hm
  have h2 : d.laneRoom .distress = true := decide_eq_true h
  rw [if_neg (by simp [h1]), if_pos h2, if_pos h2]; rfl

theorem enterSettled_console (d : Device) (st a) : (d.enterSettled st a).console = d.console ∧ (d.enterSettled st a).distress.own = d.distress.own ∧ (d.enterSettled st a).now = d.now ∧ (d.enterSettled st a).config = d.config := by
  unfold enterSettled
  dsimp only
  split
  · exact ⟨rfl, rfl, rfl, rfl⟩
  · split <;> exact ⟨rfl, rfl, rfl, rfl⟩
end Sys2Proof.Machine.Device

namespace Sys2Proof.Machine.Device
theorem case_onCase (d : Device) (st : Station) (f : Case → Case) (hf : ∀ x, x.station = st → (f x).station = st) (s : Station) :
    (d.onCase st f).case? s = if s = st then (d.case? s).map f else d.case? s := by
  unfold case? onCase onDistress
  dsimp only
  split
  · rename_i h; subst h
    rw [find_mapIf_same]
    intro x hx; simp only [beq_iff_eq] at hx ⊢; exact hf x hx
  · rename_i h
    rw [find_mapIf_other]
    · intro x hx
      simp only [beq_iff_eq] at hx
      rw [hf x hx, hx]
    · intro x hx
      simp only [beq_iff_eq] at hx
      rw [hx]; simpa using fun e => h e.symm

theorem onCase_map (d : Device) (st : Station) (f : Case → Case) : d.onCase st f = { d with distress := { d.distress with cases := d.distress.cases.map fun x => if x.station = st then f x else x } } := by
  unfold onCase onDistress mapIf; simp

theorem case_station (d : Device) (st c) (h : d.case? st = some c) : c.station = st := by
  have := List.find?_some h; simpa using this

theorem case_mem (d : Device) (st c) (h : d.case? st = some c) : c ∈ d.distress.cases := List.mem_of_find?_eq_some h

theorem wait_removeWait (d : Device) (k st n) : (d.removeWait k st n).wait? k st n = none := by
  unfold wait? removeWait
  dsimp only
  rw [List.find?_eq_none]
  intro x hx
  rw [List.mem_filter] at hx
  have := hx.2
  simp only [Bool.not_eq_true', Bool.eq_false_iff] at this
  exact this

/-- What dropping a case does (R116, R120). -/
theorem dropCase_facts (d : Device) (st alert : Nat) :
    let e := d.dropCaseTraffic st alert
    e.wait? .distress st alert = none ∧
    (∀ it ∈ e.access.distress.items, it.owner ≠ .caseAck st alert ∧ it.owner ≠ .caseRelay st alert) ∧
    e.console = d.console ∧ e.store = d.store ∧ e.xfer = d.xfer ∧ e.now = d.now ∧ e.config = d.config ∧
    e.distress.settled = d.distress.settled ∧ e.distress.own = d.distress.own ∧ e.distress.holdTimer = d.distress.holdTimer ∧ e.distress.counts = d.distress.counts ∧
    (∀ s, s ≠ st → e.case? s = d.case? s) ∧ (∀ c, d.case? st = some c → ∃ o, e.case? st = some { c with ownAck := o }) ∧
    (∀ x ∈ e.distress.cases, ∃ y ∈ d.distress.cases, x.station = y.station ∧ x.st = y.st) ∧
    (∀ x ∈ d.distress.cases, ∃ y ∈ e.distress.cases, x.station = y.station ∧ x.st = y.st) := by
  intro e
  have hk : ∀ x : Case, x.station = st → ({ x with ownAck := .none } : Case).station = st := fun x h => h
  let m := (d.removeWait .distress st alert).withdraw .distress fun it => isAckItem st alert it || isRelayItem st alert it
  have he : e = if d.hasItem .distress (isAckItem st alert) then m.onCase st fun c => { c with ownAck := .none } else m := rfl
  have hi : ∀ it ∈ m.access.distress.items, it.owner ≠ .caseAck st alert ∧ it.owner ≠ .caseRelay st alert := by
    intro it hi
    have := (mem_items_withdraw d.access.distress (fun it => isAckItem st alert it || isRelayItem st alert it) it).1 hi
    have h2 := this.2
    simp only [isAckItem, isRelayItem, Bool.or_eq_false_iff, beq_eq_false_iff_ne] at h2
    exact h2
  have hw : m.wait? .distress st alert = none := wait_removeWait d .distress st alert
  rw [he]
  split
  · refine ⟨hw, hi, rfl, rfl, rfl, rfl, rfl, rfl, rfl, rfl, rfl, ?_, ?_, ?_, ?_⟩
    · intro s hs
      rw [case_onCase _ _ _ hk, if_neg hs]; rfl
    · intro c hc
      refine ⟨.none, ?_⟩
      rw [case_onCase _ _ _ hk, if_pos rfl]
      show (d.case? st).map _ = _
      rw [hc]; rfl
    · intro x hx
      rw [onCase_map] at hx
      obtain ⟨y, hy, rfl⟩ := List.mem_map.1 hx
      refine ⟨y, hy, ?_, ?_⟩ <;> split <;> rfl
    · intro x hx
      rw [onCase_map]
      refine ⟨_, List.mem_map.2 ⟨x, hx, rfl⟩, ?_, ?_⟩ <;> split <;> rfl
  · refine ⟨hw, hi, rfl, rfl, rfl, rfl, rfl, rfl, rfl, rfl, rfl, fun _ _ => rfl, fun c hc => ⟨c.ownAck, hc⟩, fun x hx => ⟨x, hx, rfl, rfl⟩, fun x hx => ⟨x, hx, rfl, rfl⟩⟩

theorem freshCase_eq (d : Device) (st alert facts via) : d.freshCase st alert facts via =
      { station := st, alert := alert, nature := (facts.map fun f => f.nature).getD 0,
        pos := facts.bind fun f => f.pos, posTime := facts.bind fun f => f.posTime,
        persons := facts.bind fun f => f.persons, firstHeard := d.now, lastHeard := d.now, via := via,
        readable := facts.isSome, st := .unacked, ackedBy := none, closeReason := none,
        relay := if (st, alert) ∈ d.distress.settled then .suppressed else .none, ownAck := .none } := by
  unfold freshCase
  cases facts <;> simp
end Sys2Proof.Machine.Device

namespace Sys2Proof.Machine
theorem insertBy_sorted {α} (key : α → Nat) (x : α) (l : List α) (h : l.Pairwise fun a b => key a ≤ key b) : (insertBy key x l).Pairwise fun a b => key a ≤ key b := by
  induction l with
  | nil => exact List.pairwise_singleton _ _
  | cons y r ih =>
    rw [List.pairwise_cons] at h
    unfold insertBy
    split
    · rename_i hxy
      rw [List.pairwise_cons]
      refine ⟨fun z hz => ?_, List.pairwise_cons.2 h⟩
      rcases List.mem_cons.1 hz with rfl | hz
      · omega
      · have := h.1 z hz; omega
    · rename_i hxy
      rw [List.pairwise_cons]
      refine ⟨fun z hz => ?_, ih h.2⟩
      rcases List.mem_cons.1 ((Device.insertBy_perm key x r).mem_iff.1 hz) with rfl | hz
      · omega
      · exact h.1 z hz

theorem sortBy_sorted {α} (key : α → Nat) (l : List α) : (sortBy key l).Pairwise fun a b => key a ≤ key b := by
  unfold sortBy
  suffices ∀ acc : List α, acc.Pairwise (fun a b => key a ≤ key b) → (l.foldl (fun acc x => insertBy key x acc) acc).Pairwise fun a b => key a ≤ key b from this [] List.Pairwise.nil
  induction l with
  | nil => intro acc h; exact h
  | cons x r ih => intro acc h; exact ih _ (insertBy_sorted key x acc h)

/-- The least of a list by a key. -/
theorem minBy_spec {α} (key : α → Nat) (R : α → α → Prop) (hR : ∀ a, R a a) (l : List α) (hl : l.Pairwise R) :
    (∀ x, minBy? key l = some x → x ∈ l ∧ ∀ y ∈ l, key x < key y ∨ key x = key y ∧ R x y) ∧ (minBy? key l = none ↔ l = []) := by
  induction l with
  | nil => exact ⟨fun x h => (by cases h), (by simp [minBy?])⟩
  | cons a r ih =>
    rw [List.pairwise_cons] at hl
    obtain ⟨i1, i2⟩ := ih hl.2
    unfold minBy?
    cases h : minBy? key r with
    | none =>
      have := i2.1 h
      subst this
      refine ⟨fun x hx => ?_, by simp⟩
      cases hx
      exact ⟨List.mem_singleton_self _, fun y hy => by rw [List.mem_singleton] at hy; rw [hy]; exact .inr ⟨rfl, hR _⟩⟩
    | some y =>
      obtain ⟨h1, h2⟩ := i1 y h
      dsimp only
      split
      · rename_i hk
        refine ⟨fun x hx => ?_, by simp⟩
        cases hx
        refine ⟨List.mem_cons_of_mem _ h1, fun z hz => ?_⟩
        rcases List.mem_cons.1 hz with rfl | hz
        · exact .inl hk
        · exact h2 z hz
      · rename_i hk
        refine ⟨fun x hx => ?_, by simp⟩
        cases hx
        refine ⟨List.mem_cons_self, fun z hz => ?_⟩
        rcases List.mem_cons.1 hz with rfl | hz
        · exact .inr ⟨rfl, hR _⟩
        · have := h2 z hz
          by_cases hlt : key a < key z
          · exact .inl hlt
          · exact .inr ⟨by omega, hl.1 z hz⟩
end Sys2Proof.Machine

namespace Sys2Proof.Machine.Device
/-- A slot that goes to READY now. -/
def readyAt (d : Device) (s : Slot) : Slot := { s with st := .ready, readySince := d.now, onAir := false, refusalEnd := none }

/-- The next hop that the route answer gives the slot's transfer. -/
def hopFor (d : Device) (s : Slot) : Option Station := if s.origin = .relay
      then (if (d.neighbour? s.dest).any fun n => n.fresh && !d.avoided n then some s.dest else none) else d.route

theorem routeFor_hop (d : Device) (s : Slot) : d.routeFor s = d.hopFor s := by
  unfold routeFor hopFor
  cases s.origin with
  | relay =>
    rw [if_pos rfl]
    cases d.neighbour? s.dest <;> rfl
  | console => rfl
  | catchReport => rfl

/-- A slot as the end of the hold leaves it (R102). -/
def unheld (d : Device) (s : Slot) : Slot :=
  if s.st = .held then
    if s.heldFrom = .refusalWait then { s with st := .refusalWait, refusalEnd := some (d.now + s.heldRefusal) }
    else if d.portBound s = true then
      match d.hopFor s with
      | none => { d.readyAt s with hop := none, st := .awaitingRoute }
      | some h => if s.hop = some h then d.readyAt s else
          { d.readyAt s with hop := some h, lastHop := h, idx := 0, retries := 0, refusals := 0, restarts := 0, cw := 8 }
    else d.readyAt s
  else s

theorem slots_set_self (d : Device) (i : Nat) (h : i < d.xfer.slots.length) : d.xfer.slots.set i (d.slot i) = d.xfer.slots := by
  unfold slot
  rw [List.getD_eq_getElem?_getD, List.getElem?_eq_getElem h]
  simp

theorem goReady_no (d : Device) (i : Nat) (hh : d.holdInForce = false) (h : i < d.xfer.slots.length) :
    d.goReady i = { d with xfer := { d.xfer with slots := d.xfer.slots.set i (d.readyAt (d.slot i)) } } := by
  unfold goReady
  rw [if_neg (by simp [hh]), onSlot_set _ _ _ h]; rfl

theorem unhold_eq (d : Device) (i : Nat) (hh : d.holdInForce = false) (h : i < d.xfer.slots.length) :
    ∃ r, d.unhold i = { d with access := { d.access with routine := r }, xfer := { d.xfer with slots := d.xfer.slots.set i (d.unheld (d.slot i)) } } := by
  unfold unhold unheld
  dsimp only
  split
  · split
    · exact ⟨d.access.routine, by rw [onSlot_set _ _ _ h]⟩
    · rw [goReady_no d i hh h]
      have hl : i < ({ d with xfer := { d.xfer with slots := d.xfer.slots.set i (d.readyAt (d.slot i)) } } : Device).xfer.slots.length := by simpa using h
      have hs : Device.slot { d with xfer := { d.xfer with slots := d.xfer.slots.set i (d.readyAt (d.slot i)) } } i = d.readyAt (d.slot i) := slot_set d _ _ d.xfer h
      have hp : ∀ s, Device.portBound { d with xfer := { d.xfer with slots := d.xfer.slots.set i (d.readyAt (d.slot i)) } } s = d.portBound s := fun _ => rfl
      rw [hp]
      split
      · unfold askRoute takeAnswer
        rw [hs, routeFor_hop]
        have e1 : Device.hopFor { d with xfer := { d.xfer with slots := d.xfer.slots.set i (d.readyAt (d.slot i)) } } (d.readyAt (d.slot i)) = d.hopFor (d.slot i) := rfl
        rw [e1]
        cases d.hopFor (d.slot i) with
        | none =>
          dsimp only
          refine ⟨d.access.routine.withdraw (isDataOf i), ?_⟩
          rw [onSlot_set (withdrawData _ i) _ _ hl]
          have : Device.slot (withdrawData { d with xfer := { d.xfer with slots := d.xfer.slots.set i (d.readyAt (d.slot i)) } } i) i = d.readyAt (d.slot i) := hs
          rw [this]
          unfold withdrawData withdraw onAccess
          simp only [Access.onQueue, List.set_set, readyAt]
        | some k =>
          dsimp only
          have e2 : (d.readyAt (d.slot i)).hop = (d.slot i).hop := rfl
          rw [e2]
          split
          · exact ⟨d.access.routine, rfl⟩
          · refine ⟨d.access.routine.withdraw (isDataOf i), ?_⟩
            have gen : ∀ W : Device, W.holdInForce = false → i < W.xfer.slots.length → W.slot i = d.readyAt (d.slot i) → (W.onSlot i fun s => afresh s k).goReady i = { W with xfer := { W.xfer with slots := W.xfer.slots.set i (W.readyAt (afresh (d.readyAt (d.slot i)) k)) } } := by
              intro W w1 w2 w3
              have w4 : (W.onSlot i fun s => afresh s k).slot i = afresh (d.readyAt (d.slot i)) k := by
                rw [slot_onSlot, if_pos ⟨rfl, w2⟩, w3]
              rw [goReady_no (W.onSlot i fun s => afresh s k) i w1 (by rw [slots_onSlot]; exact w2), w4, onSlot_set _ _ _ w2]
              simp only [List.set_set]; rfl
            rw [gen (withdrawData { d with xfer := { d.xfer with slots := d.xfer.slots.set i (d.readyAt (d.slot i)) } } i) hh hl hs]
            unfold withdrawData withdraw onAccess
            simp only [Access.onQueue, List.set_set, readyAt, afresh]
      · exact ⟨d.access.routine, rfl⟩
  · exact ⟨d.access.routine, by rw [slots_set_self d i h]⟩

theorem unheld_of (d e : Device) (h1 : e.neigh = d.neigh) (h2 : e.config = d.config) (h3 : e.now = d.now) (s : Slot) : e.unheld s = d.unheld s := by
  have r1 : e.route = d.route := by
    unfold route bestCandidate candidateScore usable avoided neighbour?
    rw [h1, h2, h3]
  have r2 : e.hopFor s = d.hopFor s := by
    unfold hopFor neighbour? avoided; rw [r1, h1, h3]
  unfold unheld portBound readyAt
  rw [r2, h2, h3]

/-- The end of the hold, slot by slot (R102). -/
theorem unhold_foldl (L : List Nat) (hn : L.Nodup) (d : Device) (hh : d.holdInForce = false) (hl : ∀ i ∈ L, i < d.xfer.slots.length) :
    (∃ r sl, L.foldl unhold d = { d with access := { d.access with routine := r }, xfer := { d.xfer with slots := sl } }) ∧
    ∀ j, (L.foldl unhold d).slot j = if j ∈ L then d.unheld (d.slot j) else d.slot j := by
  induction L generalizing d with
  | nil => exact ⟨⟨d.access.routine, d.xfer.slots, rfl⟩, fun j => by simp⟩
  | cons i r ih =>
    rw [List.nodup_cons] at hn
    have hi := hl i List.mem_cons_self
    obtain ⟨q, hq⟩ := unhold_eq d i hh hi
    have := ih hn.2 (d.unhold i) (by rw [hq]; exact hh) (by intro k hk; rw [hq]; simpa using hl k (List.mem_cons_of_mem _ hk))
    obtain ⟨⟨r', sl, e1⟩, e2⟩ := this
    rw [List.foldl_cons]
    refine ⟨⟨r', sl, by rw [e1, hq]⟩, fun j => ?_⟩
    rw [e2]
    have hu : ∀ s, (d.unhold i).unheld s = d.unheld s := fun s => unheld_of _ _ (by rw [hq]) (by rw [hq]) (by rw [hq]) s
    have hs : (d.unhold i).slot j = if j = i then d.unheld (d.slot i) else d.slot j := by
      rw [hq]
      unfold slot
      dsimp only
      by_cases hji : j = i
      · subst hji; simp [hi]
      · rw [if_neg hji]
        simp [List.getD_eq_getElem?_getD, List.getElem?_set, Ne.symm hji]
    rw [hu, hs]
    by_cases hji : j = i
    · subst hji; rw [if_neg hn.1, if_pos rfl, if_pos List.mem_cons_self]
    · rw [if_neg hji]
      simp [hji]
end Sys2Proof.Machine.Device
end

