-- ==== Sys2Proof/Laws/Records.lean ====
section
/-! SUPPORT. What the Weather Store's operations do to the forecast or warning record named and to the others. -/

open Sys2Proof Sys2Proof.Machine

namespace Sys2Proof.Machine.Device
/-- A report of a record to the general lane: nothing while its mark stands, the last entry with room, its mark last else. -/
theorem reportTagged_generalLane (d : Device) (k : ReportKind) (t : Nat) (r : OwedRef) (x : List Datum) (hk : k.lane = .general) :
    d.reportTagged k t r x = if r ∈ d.console.general.owed then d
      else if d.console.general.entries.length < 24 then
        { d with console := { d.console with general := { d.console.general with entries := d.console.general.entries ++ [⟨k, t, .report x, 0⟩] } } }
      else { d with console := { d.console with general := { d.console.general with owed := d.console.general.owed ++ [r] } } } := by
  have h1 : (d.marked .general r = true) ↔ r ∈ d.console.general.owed := by simp [marked, lane]
  have h2 : (d.laneRoom .general = true) ↔ d.console.general.entries.length < 24 := by unfold laneRoom lane LaneName.capacity; exact decide_eq_true_iff
  unfold reportTagged queueEntry
  rw [hk]
  simp only [h1, h2]
  split
  · rfl
  · split <;> rfl

/-- A report of a record to the distress lane, which holds 8 entries: the same. -/
theorem reportTagged_distressLane (d : Device) (k : ReportKind) (t : Nat) (r : OwedRef) (x : List Datum) (hk : k.lane = .distress) :
    d.reportTagged k t r x = if r ∈ d.console.distress.owed then d
      else if d.console.distress.entries.length < 8 then
        { d with console := { d.console with distress := { d.console.distress with entries := d.console.distress.entries ++ [⟨k, t, .report x, 0⟩] } } }
      else { d with console := { d.console with distress := { d.console.distress with owed := d.console.distress.owed ++ [r] } } } := by
  have h1 : (d.marked .distress r = true) ↔ r ∈ d.console.distress.owed := by simp [marked, lane]
  have h2 : (d.laneRoom .distress = true) ↔ d.console.distress.entries.length < 8 := by unfold laneRoom lane LaneName.capacity; exact decide_eq_true_iff
  unfold reportTagged queueEntry
  rw [hk]
  simp only [h1, h2]
  split
  · rfl
  · split <;> rfl

theorem report_general_room (d : Device) (k : ReportKind) (r : OwedRef) (x : List Datum) (hk : k.lane = .general) (h : d.console.general.entries.length < 24) (hm : r ∉ d.console.general.owed) :
    d.report k r x = { d with console := { d.console with general := { d.console.general with entries := d.console.general.entries ++ [⟨k, 0, .report x, 0⟩] } } } := by
  unfold report reportTagged queueEntry
  rw [hk]
  have h1 : d.marked .general r = false := by simpa [marked, lane] using hm
  have h2 : d.laneRoom .general = true := decide_eq_true h
  rw [if_neg (by simp [h1]), if_pos h2, if_pos h2]; rfl

theorem forecast_onForecast (d : Device) (a : Nat) (c : Bool) (F : Forecast → Forecast) (hF : ∀ x, (F x).area = x.area ∧ (F x).complete = x.complete) (a' : Nat) (c' : Bool) :
    (d.onForecast a c F).forecast? a' c' = if a' = a ∧ c' = c then (d.forecast? a c).map F else d.forecast? a' c' := by
  unfold onForecast forecast? onWeather
  split
  · rename_i h; obtain ⟨rfl, rfl⟩ := h
    exact find_mapIf_same _ _ _ (fun x hx => by simpa [hF x] using hx)
  · rename_i h
    refine find_mapIf_other _ _ _ _ (fun x _ => by simp [hF x]) (fun x hx => ?_)
    simp only [Bool.and_eq_true, beq_iff_eq] at hx
    rw [Bool.eq_false_iff]; intro hy
    simp only [Bool.and_eq_true, beq_iff_eq] at hy
    exact h ⟨by omega, by rw [← hy.2, hx.2]⟩

theorem find_filter_not {α} (p q : α → Bool) (l : List α) (hn : ∀ x, p x = true → q x = false) :
    (l.filter fun x => !p x).find? q = l.find? q := by
  induction l with
  | nil => rfl
  | cons x r ih =>
    rw [List.filter_cons]
    cases hp : p x with
    | true => simp only [Bool.not_true, Bool.false_eq_true, if_false]; rw [ih, List.find?_cons, hn x hp]
    | false => simp only [Bool.not_false, if_true]; rw [List.find?_cons, List.find?_cons, ih]

theorem forecast_freeForecast (d : Device) (f : Forecast) (a : Nat) (c : Bool) :
    (d.freeForecast f).forecast? a c = if a = f.area ∧ c = f.complete then none else d.forecast? a c := by
  have he : (d.freeForecast f).forecast? a c = (d.weather.forecasts.filter fun x => !(x.area == f.area && x.complete == f.complete)).find? (fun f => f.area == a && f.complete == c) := rfl
  rw [he]
  split
  · rename_i h
    rw [List.find?_eq_none]; intro x hx
    have := (List.mem_filter.1 hx).2
    rw [h.1, h.2]
    intro hc; rw [hc] at this; cases this
  · rename_i h
    refine find_filter_not (fun x : Forecast => x.area == f.area && x.complete == f.complete) _ _ (fun x hx => ?_)
    simp only [Bool.and_eq_true, beq_iff_eq] at hx
    rw [Bool.eq_false_iff]; intro hy
    simp only [Bool.and_eq_true, beq_iff_eq] at hy
    exact h ⟨by omega, by rw [← hy.2, hx.2]⟩

theorem find_complete (a : Nat) (F : Forecast → Forecast) (hF : ∀ x, (F x).area = x.area ∧ (F x).complete = true) (l : List Forecast)
    (hn : ∀ x ∈ l, x.area = a → x.complete = false) (a' : Nat) (c' : Bool) :
    (mapIf (fun x => x.area == a && x.complete == false) F l).find? (fun f => f.area == a' && f.complete == c') =
      if a' = a then (if c' = true then (l.find? (fun f => f.area == a && f.complete == false)).map F else none) else l.find? (fun f => f.area == a' && f.complete == c') := by
  unfold mapIf
  induction l with
  | nil => simp
  | cons x r ih =>
    have ih := ih (fun y hy => hn y (List.mem_cons_of_mem _ hy))
    have hx := hn x (List.mem_cons_self ..)
    rw [List.map_cons, List.find?_cons, ih, List.find?_cons, List.find?_cons]
    by_cases ha : x.area = a
    · have hc := hx ha
      have e1 : (x.area == a && x.complete == false) = true := by simp [ha, hc]
      rw [if_pos e1, e1, (hF x).1, (hF x).2, hc, ha]
      by_cases h2 : a' = a
      · subst h2
        cases c'
        · simp
        · simp
      · have : (a == a') = false := by simpa using fun h => h2 h.symm
        rw [if_neg h2, if_neg h2]; simp only [this, Bool.false_and]
    · have e1 : (x.area == a && x.complete == false) = false := by simp [ha]
      rw [if_neg (by simp [ha]), e1]
      by_cases h2 : a' = a
      · subst h2
        have : (x.area == a') = false := by simpa using ha
        simp [this]
      · simp [if_neg h2]

theorem forecast_completed (d : Device) (a : Nat) (hn : d.forecast? a true = none) (a' : Nat) (c' : Bool) :
    (d.onForecast a false fun f => { f with complete := true }).forecast? a' c' =
      if a' = a then (if c' = true then (d.forecast? a false).map (fun f => { f with complete := true }) else none) else d.forecast? a' c' := by
  refine find_complete a (fun f => { f with complete := true }) (fun _ => ⟨rfl, rfl⟩) _ (fun x hx h1 => ?_) a' c'
  have := List.find?_eq_none.1 hn x hx
  simpa [h1] using this

/-- Storing a forecast part (R136). -/
theorem storePart_eq (d : Device) (f : Forecast) (h b) : ∃ G : Forecast → Forecast, d.storePart f h b = ({ d with store := d.store.writeSyms f.grant (102 * h.idx) (b.body.drop 12) }).onForecast f.area f.complete G ∧
    (∀ x, (G x).area = x.area ∧ (G x).complete = x.complete) ∧
    ((∀ p, f.parts.getD f.headerPart none = some p → copyScore b < p.score) → ∀ x, G x = { x with parts := x.parts.set h.idx (some ⟨copyScore b, b.erasures, b.pass, (b.body.drop 12).length⟩), headerPart := h.idx, day := h.day, hour := h.hour, minute := h.minute, validFor := h.validFor, issued := (issueTimes d.utcNow h.day h.hour h.minute h.validFor).1, validUntil := (issueTimes d.utcNow h.day h.hour h.minute h.validFor).2 }) ∧
    (¬ (∀ p, f.parts.getD f.headerPart none = some p → copyScore b < p.score) → ∀ x, G x = { x with parts := x.parts.set h.idx (some ⟨copyScore b, b.erasures, b.pass, (b.body.drop 12).length⟩) }) := by
  refine ⟨_, rfl, ?_, ?_, ?_⟩
  · intro x; dsimp only; split <;> (try split) <;> exact ⟨rfl, rfl⟩
  · intro hl x
    dsimp only
    rw [if_pos]
    · rfl
    · unfold headerScore
      cases hh : f.parts.getD f.headerPart none with
      | none => rfl
      | some p => exact decide_eq_true (hl p hh)
  · intro hl x
    dsimp only
    rw [if_neg]
    unfold headerScore
    cases hh : f.parts.getD f.headerPart none with
    | none => exact absurd (fun p hp => by rw [hh] at hp; cases hp) hl
    | some p => simp only [decide_eq_true_eq]; intro hc; exact hl (fun q hq => by rw [hh] at hq; cases hq; exact hc)

/-- A forecast that gets its last part (R137). -/
theorem complete_eq (X Y : Device) (a : Nat) (g : Forecast) (hxf : X.forecast? a false = some g) (hal : g.parts.all Option.isSome = true)
    (h1 : X.forecast? a true = none → Y = X) (h2 : ∀ c, X.forecast? a true = some c → Y = X.freeForecast c) (y1 : Y.forecast? a true = none) (y2 : Y.forecast? a false = some g) :
    X.completeForecast a = ((Y.onForecast a false fun f => { f with complete := true }).onWeatherCounts (fun c => { c with completed := bump c.completed })).report .forecastReady (.forecast a) (forecastData { g with complete := true } 0 none) := by
  have z : ((Y.onForecast a false fun f => { f with complete := true }).onWeatherCounts (fun c => { c with completed := bump c.completed })).forecast? a true = some { g with complete := true } := by
    have := forecast_completed Y a y1 a true
    rw [if_pos rfl, if_pos rfl, y2] at this
    exact this
  unfold completeForecast; rw [hxf]; dsimp only; rw [hal, if_pos rfl]
  cases hc : X.forecast? a true with
  | none => rw [← h1 hc]; dsimp only; rw [z]
  | some c => dsimp only; rw [← h2 c hc]; rw [z]
end Sys2Proof.Machine.Device

namespace Sys2Proof.Machine.Device
theorem warning_onWarning (d : Device) (i n : Nat) (F : Warning → Warning) (hF : ∀ x, x.issuer = i → x.issue = n → (F x).issuer = i ∧ (F x).issue = n) (i' n' : Nat) :
    (d.onWarning i n F).warning? i' n' = if i' = i ∧ n' = n then (d.warning? i n).map F else d.warning? i' n' := by
  unfold onWarning warning? onWeather
  split
  · rename_i h; obtain ⟨rfl, rfl⟩ := h
    exact find_mapIf_same _ _ _ (fun x hx => by
      simp only [Bool.and_eq_true, beq_iff_eq] at hx ⊢; exact hF x hx.1 hx.2)
  · rename_i h
    refine find_mapIf_other _ _ _ _ (fun x hx => ?_) (fun x hx => ?_)
    · simp only [Bool.and_eq_true, beq_iff_eq] at hx
      rw [(hF x hx.1 hx.2).1, (hF x hx.1 hx.2).2, hx.1, hx.2]
    · simp only [Bool.and_eq_true, beq_iff_eq] at hx
      rw [Bool.eq_false_iff]; intro hy
      simp only [Bool.and_eq_true, beq_iff_eq] at hy
      exact h ⟨hy.1.symm.trans hx.1, hy.2.symm.trans hx.2⟩

/-- The least of a list by four keys in turn. -/
theorem minBy_lex {α} (k1 k2 k3 k4 : α → Nat) (l : List α) :
    (minBy? k1 (sortBy k2 (sortBy k3 (sortBy k4 l))) = none ↔ l = []) ∧
    ∀ x, minBy? k1 (sortBy k2 (sortBy k3 (sortBy k4 l))) = some x → x ∈ l ∧
      ∀ y ∈ l, k1 x < k1 y ∨ k1 x = k1 y ∧ (k2 x < k2 y ∨ k2 x = k2 y ∧ (k3 x < k3 y ∨ k3 x = k3 y ∧ k4 x ≤ k4 y)) := by
  have ins : ∀ (key : α → Nat) (R : α → α → Prop) (x : α) (l : List α), l.Pairwise (fun a b => key a < key b ∨ key a = key b ∧ R a b) →
      (∀ y ∈ l, R y x) → (insertBy key x l).Pairwise (fun a b => key a < key b ∨ key a = key b ∧ R a b) := by
    intro key R x l
    induction l with
    | nil => intro _ _; exact List.pairwise_singleton _ _
    | cons y r ih =>
      intro hp hr
      rw [List.pairwise_cons] at hp
      unfold insertBy
      split
      · rename_i hlt
        rw [List.pairwise_cons, List.pairwise_cons]
        refine ⟨fun z hz => ?_, hp⟩
        rcases List.mem_cons.1 hz with rfl | hz
        · exact .inl hlt
        · rcases hp.1 z hz with h | h
          · exact .inl (by omega)
          · exact .inl (by omega)
      · rename_i hlt
        rw [List.pairwise_cons]
        refine ⟨fun z hz => ?_, ih hp.2 (fun w hw => hr w (List.mem_cons_of_mem _ hw))⟩
        rcases List.mem_cons.1 ((insertBy_perm key x r).mem_iff.1 hz) with rfl | hz
        · rcases Nat.lt_or_ge (key y) (key z) with h | h
          · exact .inl h
          · exact .inr ⟨by omega, hr y (List.mem_cons_self ..)⟩
        · exact hp.1 z hz
  have srt : ∀ (key : α → Nat) (R : α → α → Prop) (l : List α), l.Pairwise R → (sortBy key l).Pairwise (fun a b => key a < key b ∨ key a = key b ∧ R a b) := by
    intro key R l hl
    unfold sortBy
    suffices ∀ acc : List α, acc.Pairwise (fun a b => key a < key b ∨ key a = key b ∧ R a b) → (∀ a ∈ acc, ∀ b ∈ l, R a b) → (l.foldl (fun acc x => insertBy key x acc) acc).Pairwise (fun a b => key a < key b ∨ key a = key b ∧ R a b) from this [] List.Pairwise.nil (fun a h => by cases h)
    induction l with
    | nil => intro acc h _; exact h
    | cons x r ih =>
      rw [List.pairwise_cons] at hl
      intro acc h h2
      refine ih hl.2 _ (ins key R x acc h (fun y hy => h2 y hy x (List.mem_cons_self ..))) ?_
      intro a ha b hb
      rcases List.mem_cons.1 ((insertBy_perm key x acc).mem_iff.1 ha) with rfl | ha
      · exact hl.1 b hb
      · exact h2 a ha b (List.mem_cons_of_mem _ hb)
  have h4 : (sortBy k4 l).Pairwise (fun a b => k4 a ≤ k4 b) := sortBy_sorted k4 l
  have h3 := srt k3 _ _ h4
  have h2 := srt k2 _ _ h3
  obtain ⟨m1, m2⟩ := minBy_spec k1 _ (fun a => .inr ⟨rfl, .inr ⟨rfl, Nat.le_refl _⟩⟩) _ h2
  have hm : ∀ x, x ∈ sortBy k2 (sortBy k3 (sortBy k4 l)) ↔ x ∈ l := by
    intro x; rw [(sortBy_perm _ _).mem_iff, (sortBy_perm _ _).mem_iff, (sortBy_perm _ _).mem_iff]
  refine ⟨⟨fun h => ?_, fun h => ?_⟩, fun x hx => ?_⟩
  · have := m2.1 h
    rcases l with _ | ⟨a, r⟩
    · rfl
    · have : a ∈ ([] : List α) := by rw [← this, hm]; exact List.mem_cons_self ..
      cases this
  · subst h; rfl
  · obtain ⟨a, b⟩ := m1 x hx
    exact ⟨(hm x).1 a, fun y hy => b y ((hm y).2 hy)⟩
end Sys2Proof.Machine.Device
end

