-- ==== Sys2Proof/Laws/Endings.lean ====
section
/-! SUPPORT. What route answers, report endings, the freeing of entries, askings to end and void submits do, and what eligibility, the
count of slots and RESTART leave as they are; then what a route event does to every slot, what the fields of a BEACON read
back as, and which wait is of the latest expiry. -/

open Sys2Proof Sys2Proof.Machine

namespace Sys2Proof.Machine.Device
theorem takeAnswer_only (d : Device) (i ans) : d.takeAnswer i ans = { d with access := (d.takeAnswer i ans).access, xfer := (d.takeAnswer i ans).xfer } := by
  unfold takeAnswer
  dsimp only
  split
  · rfl
  · split
    · rfl
    · unfold goReady; split <;> rfl

/-- Two slots that hold the same transfer: all that a route answer leaves as it is. -/
def sameXfer (a b : Slot) : Prop := a.origin = b.origin ∧ a.cls = b.cls ∧ a.dest = b.dest ∧ a.orig = b.orig ∧ a.grant = b.grant ∧ a.len = b.len ∧ a.cnt = b.cnt ∧ a.lifetimeEnd = b.lifetimeEnd

/-- A route answer changes its own slot alone, and not its transfer. -/
theorem takeAnswer_slot (d : Device) (i ans j) : (j ≠ i → (d.takeAnswer i ans).slot j = d.slot j) ∧ sameXfer ((d.takeAnswer i ans).slot i) (d.slot i) := by
  refine ⟨fun h => ?_, ?_⟩
  · unfold takeAnswer
    dsimp only
    split
    · rw [slot_onSlot, if_neg (by simp [h]), withdrawData, slot_withdraw]
    · split
      · rfl
      · unfold goReady
        split <;> rw [slot_onSlot, if_neg (by simp [h]), slot_onSlot, if_neg (by simp [h]), withdrawData, slot_withdraw]
  · unfold takeAnswer
    dsimp only
    split
    · rw [slot_onSlot]; split <;> exact ⟨rfl, rfl, rfl, rfl, rfl, rfl, rfl, rfl⟩
    · split
      · exact ⟨rfl, rfl, rfl, rfl, rfl, rfl, rfl, rfl⟩
      · unfold goReady
        split <;> (rw [slot_onSlot]; split <;> rw [slot_onSlot] <;> split <;> exact ⟨rfl, rfl, rfl, rfl, rfl, rfl, rfl, rfl⟩)

theorem takeSlot_other (d : Device) (i j : Nat) (h : j ≠ i) {a b c e f g k l} : (d.takeSlot i a b c e f g k l).slot j = d.slot j := by
  unfold takeSlot
  exact (slot_onSlot d i j _).trans (if_neg (fun hc => h hc.1))

theorem startRoute_slot (d : Device) (i j : Nat) : (j ≠ i → (d.startRoute i).slot j = d.slot j) ∧ sameXfer ((d.startRoute i).slot i) (d.slot i) := by
  unfold startRoute
  dsimp only
  obtain ⟨h1, h2⟩ := takeAnswer_slot (d.onSlot i fun s => { s with st := .awaitingRoute, hop := none }) i (if (d.onSlot i fun s => { s with st := .awaitingRoute, hop := none }).portBound (d.slot i) then (d.onSlot i fun s => { s with st := .awaitingRoute, hop := none }).routeFor (d.slot i) else some (d.slot i).dest) j
  refine ⟨fun h => (h1 h).trans (by rw [slot_onSlot, if_neg (by simp [h])]), ?_⟩
  have : sameXfer ((d.onSlot i fun s => { s with st := .awaitingRoute, hop := none }).slot i) (d.slot i) := by
    rw [slot_onSlot]; split <;> exact ⟨rfl, rfl, rfl, rfl, rfl, rfl, rfl, rfl⟩
  unfold sameXfer at *
  simp only [h2, this]; tauto

theorem freeSlot_some (d : Device) (i : Nat) (hi : i < 8) (h : (d.slot i).st = .free) (hl : ∀ j, j < i → (d.slot j).st ≠ .free) : d.freeSlot? = some i := by
  have : ∀ n, i < n → ((List.range n).filter fun i => (d.slot i).st == .free).head? = some i := by
    intro n
    induction n with
    | zero => intro h; omega
    | succ n ih =>
      intro hn
      rw [List.range_succ, List.filter_append, List.head?_append]
      rcases Nat.lt_or_ge i n with h' | h'
      · rw [ih h']; rfl
      · have : i = n := by omega
        subst this
        have : (List.range i).filter (fun i => (d.slot i).st == .free) = [] := by
          rw [List.filter_eq_nil_iff]; intro j hj; simpa using hl j (List.mem_range.1 hj)
        rw [this]; simp [h]
  exact this 8 hi

theorem freeSlot_isSome (d : Device) : d.freeSlot?.isSome = true ↔ ∃ j, j < 8 ∧ (d.slot j).st = .free := by
  have : d.freeSlot? = ((List.range 8).filter fun i => (d.slot i).st == .free).head? := rfl
  have hh : ∀ l : List Nat, l.head?.isSome = true ↔ l ≠ [] := by intro l; cases l <;> simp
  rw [this, hh]
  constructor
  · intro h
    obtain ⟨x, hx⟩ := List.exists_mem_of_ne_nil _ h
    rw [List.mem_filter] at hx
    exact ⟨x, List.mem_range.1 hx.1, by simpa using hx.2⟩
  · rintro ⟨j, h1, h2⟩ hc
    have : j ∈ ((List.range 8).filter fun i => (d.slot i).st == .free) := List.mem_filter.2 ⟨List.mem_range.2 h1, by simpa using h2⟩
    rw [hc] at this; cases this

/-- When a request of CATCH origin would be taken (R80). -/
theorem catchAllowed_iff (d : Device) : d.catchAllowed = true ↔ (∃ j, j < 8 ∧ (d.slot j).st = .free) ∧ ∀ x ∈ d.xfer.slots, x.origin = .catchReport → x.st = .free := by
  unfold catchAllowed
  rw [Bool.and_eq_true, freeSlot_isSome, Bool.not_eq_true', List.any_eq_false]
  simp only [Bool.and_eq_true, beq_iff_eq, bne_iff_ne, not_and, not_not]
end Sys2Proof.Machine.Device

namespace Sys2Proof.Machine.Device
theorem reportNotice_queue (d : Device) (k data) (hk : k.lane = .general) :
    d.reportNotice k data = { d with console := (d.reportNotice k data).console, rep := { d.rep with counts := (d.reportNotice k data).rep.counts } } ∧
    (d.console.general.entries.length < 24 →
      (d.reportNotice k data).console.general.entries = d.console.general.entries ++ [⟨k, 0, .report data, 0⟩] ∧ (d.reportNotice k data).rep.counts = d.rep.counts) ∧
    (24 ≤ d.console.general.entries.length → (d.reportNotice k data).console = d.console ∧ (d.reportNotice k data).rep.counts = { d.rep.counts with lostReports := bump d.rep.counts.lostReports }) := by
  by_cases hr : d.console.general.entries.length < 24
  · have h2 : d.laneRoom .general = true := decide_eq_true hr
    have : d.reportNotice k data = d.queueEntry .general ⟨k, 0, .report data, 0⟩ := by
      unfold reportNotice reportOrLose; rw [hk, if_pos h2]
    rw [this]; unfold queueEntry; rw [if_pos h2]
    exact ⟨rfl, fun _ => ⟨rfl, rfl⟩, fun h => by omega⟩
  · have h2 : d.laneRoom .general = false := decide_eq_false hr
    have : d.reportNotice k data = d.lostRepReport := by
      unfold reportNotice reportOrLose; rw [hk, if_neg (by rw [h2]; simp)]
    rw [this]
    exact ⟨rfl, fun h => absurd h hr, fun _ => ⟨rfl, rfl⟩⟩

/-- What the end of a report changes (R179, R181). -/
theorem endReport_eq (d : Device) (e : Ending) (cause : Option LostCause) : ∃ y : Device,
    y.rep = { d.rep with
      st := .none, lastEnding := d.rep.num.map fun n => (n, e), num := none, kind := none, buildUtc := none,
      lineCount := 0, grant := none, deadline := none, early := none,
      counts := match e with
        | .accepted => { d.rep.counts with accepted := bump d.rep.counts.accepted }
        | .rejected => { d.rep.counts with rejected := bump d.rep.counts.rejected }
        | .lost => { d.rep.counts with lost := bump d.rep.counts.lost } } ∧
    y.log = { d.log with cells := d.log.cells.map fun c => c.onAmounts fun a => a.settle (e == .accepted) } ∧
    y.store = (match d.rep.grant with | none => d.store | some g => d.store.release g) ∧
    y = { d with log := y.log, store := y.store, rep := y.rep, console := y.console } ∧
    (OwedRef.report ∉ d.console.general.owed → d.console.general.entries.length < 24 →
      y.console.general.entries = d.console.general.entries ++ [⟨.catchReportState, 0, .report
        [.num 1 (endingEvent e).code, optNum 2 d.rep.num,
         optNum 1 (d.rep.kind.map ReportReason.code), count16 d.rep.lineCount,
         utcData (d.rep.buildUtc.map Int.ofNat), optNum 1 (cause.map LostCause.code), optNum 2 none,
         optNum 1 (d.rep.pending.map ReportReason.code)], 0⟩]) ∧
    d.endReport e cause = y.buildPending := by
  obtain ⟨C, hC, c1, c2, c3, c4⟩ : ∃ C : Device, d.closeReport e = C ∧ C.console = d.console ∧ C.rep = { d.rep with
      st := .none, lastEnding := d.rep.num.map fun n => (n, e), num := none, kind := none, buildUtc := none,
      lineCount := 0, grant := none, deadline := none, early := none } ∧ C.log = { d.log with cells := d.log.cells.map fun c => c.onAmounts fun a => a.settle (e == .accepted) } ∧
      C = { d with store := (match d.rep.grant with | none => d.store | some g => d.store.release g), log := C.log, rep := C.rep } := by
    refine ⟨_, rfl, ?_⟩
    unfold closeReport
    dsimp only
    have hrep : (d.onLog fun l => { l with cells := l.cells.map fun c => c.onAmounts fun a => a.settle (e == .accepted) }).rep.grant = d.rep.grant := rfl
    rw [hrep]
    cases hg : d.rep.grant <;> exact ⟨rfl, rfl, rfl, rfl⟩
  have hE : d.endReport e cause = (((C.report .catchReportState .report (C.catchStateData (endingEvent e) d.rep.num d.rep.kind d.rep.lineCount d.rep.buildUtc cause none)).countEnding e)).buildPending := by
    unfold endReport; rw [hC]
  have hs : C.store = (match d.rep.grant with | none => d.store | some g => d.store.release g) := by rw [c4]
  have hp : C.rep.pending = d.rep.pending := by rw [c2]
  have hR := report_eq C .catchReportState .report (C.catchStateData (endingEvent e) d.rep.num d.rep.kind d.rep.lineCount d.rep.buildUtc cause none)
  have hrm : OwedRef.report ∉ d.console.general.owed → d.console.general.entries.length < 24 → _ := fun hm hr =>
    report_general_room C .catchReportState .report (C.catchStateData (endingEvent e) d.rep.num d.rep.kind d.rep.lineCount d.rep.buildUtc cause none) rfl (by rw [c1]; exact hr) (by rw [c1]; exact hm)
  have hrr := report_rep C .catchReportState .report (C.catchStateData (endingEvent e) d.rep.num d.rep.kind d.rep.lineCount d.rep.buildUtc cause none)
  generalize C.report .catchReportState .report (C.catchStateData (endingEvent e) d.rep.num d.rep.kind d.rep.lineCount d.rep.buildUtc cause none) = R at *
  refine ⟨R.countEnding e, ?_, ?_, ?_, ?_, ?_, hE⟩
  · show ({ R.rep with counts := _ } : ReportBuilder) = _
    rw [hrr, c2] <;> cases e <;> rfl
  · show R.log = _
    rw [hR]; exact c3
  · show R.store = _
    rw [hR]; exact hs
  · have q1 : ∃ cn, R = { C with console := cn } := ⟨_, hR⟩
    have q2 : ∃ st lg rp, C = { d with store := st, log := lg, rep := rp } := ⟨_, _, _, c4⟩
    obtain ⟨cn, q1⟩ := q1
    obtain ⟨st, lg, rp, q2⟩ := q2
    rw [q1, q2]; rfl
  · intro hm hr
    show R.console.general.entries = _
    rw [hrm hm hr]
    show C.console.general.entries ++ _ = _
    unfold catchStateData
    rw [c1, hp]
end Sys2Proof.Machine.Device

namespace Sys2Proof.Machine.Device
theorem sortBy_lex {α} (key : α → Nat) (R : α → α → Prop) (l : List α) (hl : l.Pairwise R) :
    (sortBy key l).Pairwise fun a b => key a < key b ∨ key a = key b ∧ R a b := by
  have ins : ∀ (key : α → Nat) (R : α → α → Prop) (x : α) (l : List α), l.Pairwise (fun a b => key a < key b ∨ key a = key b ∧ R a b) →
      (∀ y ∈ l, R y x) → (insertBy key x l).Pairwise (fun a b => key a < key b ∨ key a = key b ∧ R a b) := by
    intro key R x l
    induction l with
    | nil => intro _ _; exact List.pairwise_singleton _ _
    | cons y r ih =>
      intro hp hr
      rw [List.pairwise_cons] at hp
      unfold insertBy
      split
      · rename_i hlt
        rw [List.pairwise_cons, List.pairwise_cons]
        refine ⟨fun z hz => ?_, hp⟩
        rcases List.mem_cons.1 hz with rfl | hz
        · exact .inl hlt
        · rcases hp.1 z hz with h | h
          · exact .inl (by omega)
          · exact .inl (by omega)
      · rename_i hlt
        rw [List.pairwise_cons]
        refine ⟨fun z hz => ?_, ih hp.2 (fun w hw => hr w (List.mem_cons_of_mem _ hw))⟩
        rcases List.mem_cons.1 ((insertBy_perm key x r).mem_iff.1 hz) with rfl | hz
        · rcases Nat.lt_or_ge (key y) (key z) with h | h
          · exact .inl h
          · exact .inr ⟨by omega, hr y (List.mem_cons_self ..)⟩
        · exact hp.1 z hz
  have srt : ∀ (key : α → Nat) (R : α → α → Prop) (l : List α), l.Pairwise R → (sortBy key l).Pairwise (fun a b => key a < key b ∨ key a = key b ∧ R a b) := by
    intro key R l hl
    unfold sortBy
    suffices ∀ acc : List α, acc.Pairwise (fun a b => key a < key b ∨ key a = key b ∧ R a b) → (∀ a ∈ acc, ∀ b ∈ l, R a b) → (l.foldl (fun acc x => insertBy key x acc) acc).Pairwise (fun a b => key a < key b ∨ key a = key b ∧ R a b) from this [] List.Pairwise.nil (fun a h => by cases h)
    induction l with
    | nil => intro acc h _; exact h
    | cons x r ih =>
      rw [List.pairwise_cons] at hl
      intro acc h h2
      refine ih hl.2 _ (ins key R x acc h (fun y hy => h2 y hy x (List.mem_cons_self ..))) ?_
      intro a ha b hb
      rcases List.mem_cons.1 ((insertBy_perm key x acc).mem_iff.1 ha) with rfl | ha
      · exact hl.1 b hb
      · exact h2 a ha b (List.mem_cons_of_mem _ hb)
  exact srt key R l hl

/-- Which entry gives way in a full Neighbour Table (R62). -/
theorem entryToFree_spec (d : Device) :
    (d.entryToFree = none ↔ (d.neigh.entries.filter fun n => !d.pinned n.station) = []) ∧
    ∀ n, d.entryToFree = some n → n ∈ (d.neigh.entries.filter fun n => !d.pinned n.station) ∧
      (n.fresh = false → ∀ x ∈ (d.neigh.entries.filter fun n => !d.pinned n.station), x.fresh = false →
          n.lastHeard < x.lastHeard ∨ n.lastHeard = x.lastHeard ∧ n.station ≤ x.station) ∧
      (n.fresh = true → ∀ x ∈ (d.neigh.entries.filter fun n => !d.pinned n.station), x.fresh = true ∧
        (n.q < x.q ∨ n.q = x.q ∧ (n.lastHeard < x.lastHeard ∨ n.lastHeard = x.lastHeard ∧ n.station ≤ x.station))) := by
  unfold entryToFree
  generalize hF : (d.neigh.entries.filter fun n => !d.pinned n.station) = F
  dsimp only
  have hp := sortBy_perm (fun n : Neigh => n.station) F
  have hs := sortBy_sorted (fun n : Neigh => n.station) F
  generalize sortBy (fun n : Neigh => n.station) F = S at hp hs
  have hm : ∀ x, x ∈ S ↔ x ∈ F := fun x => hp.mem_iff
  obtain ⟨a1, a2⟩ := minBy_spec (fun n : Neigh => n.lastHeard) (fun a b => a.station ≤ b.station) (fun _ => Nat.le_refl _) (S.filter fun n => !n.fresh) (hs.filter _)
  have hl := sortBy_lex (fun n : Neigh => n.lastHeard) (fun a b => a.station ≤ b.station) (S.filter fun n => n.fresh) (hs.filter _)
  obtain ⟨b1, b2⟩ := minBy_spec (fun n : Neigh => n.q) _ (fun a => .inr ⟨rfl, Nat.le_refl _⟩) _ hl
  have hm2 : ∀ x, x ∈ sortBy (fun n : Neigh => n.lastHeard) (S.filter fun n => n.fresh) ↔ x ∈ F ∧ x.fresh = true := by
    intro x; rw [(sortBy_perm _ _).mem_iff, List.mem_filter, hm]
  have hm1 : ∀ x, x ∈ (S.filter fun n => !n.fresh) ↔ x ∈ F ∧ x.fresh = false := by
    intro x; rw [List.mem_filter, hm]; simp
  cases h : minBy? (fun n : Neigh => n.lastHeard) (S.filter fun n => !n.fresh) with
  | some n =>
    obtain ⟨c1, c2⟩ := a1 n h
    obtain ⟨c1, c3⟩ := (hm1 n).1 c1
    refine ⟨⟨fun h => (by cases h), fun h => by rw [h] at c1; cases c1⟩, ?_⟩
    intro m hm; cases hm
    exact ⟨c1, fun _ x hx hf => c2 x ((hm1 x).2 ⟨hx, hf⟩), fun h => by rw [c3] at h; cases h⟩
  | none =>
    have hn := a2.1 h
    have hfr : ∀ x ∈ F, x.fresh = true := by
      intro x hx
      by_contra hc
      have := (hm1 x).2 ⟨hx, by simpa using hc⟩
      rw [hn] at this; cases this
    dsimp only
    refine ⟨⟨fun h => ?_, fun h => ?_⟩, fun n hn => ?_⟩
    · have := b2.1 h
      rcases F with _ | ⟨x, r⟩
      · rfl
      · have hx := (hm2 x).2 ⟨List.mem_cons_self, hfr x List.mem_cons_self⟩
        rw [this] at hx; cases hx
    · rw [b2]
      rcases hz : sortBy (fun n : Neigh => n.lastHeard) (S.filter fun n => n.fresh) with _ | ⟨x, r⟩
      · rfl
      · have := (hm2 x).1 (hz ▸ List.mem_cons_self)
        rw [h] at this; cases this.1
    · obtain ⟨c1, c2⟩ := b1 n hn
      obtain ⟨c1, c3⟩ := (hm2 n).1 c1
      exact ⟨c1, fun h => (by rw [c3] at h; cases h), fun _ x hx => ⟨hfr x hx, c2 x ((hm2 x).2 ⟨hx, hfr x hx⟩)⟩⟩
end Sys2Proof.Machine.Device

namespace Sys2Proof.Machine.Device
/-- Asking to end a console transfer (R91, R92). -/
theorem askEnding_console (d : Device) (i : Nat) (hi : i < d.xfer.slots.length) (ho : (d.slot i).origin = .console)
    (hp : d.rep.pending = none) (hr : ∀ e ∈ d.xfer.reasms, e.waiting = false) (hl : d.console.general.entries.length < 24) :
    d.askEnding i .withdrawn = if endsPending (d.slot i) then { d with
        xfer := { d.xfer with slots := d.xfer.slots.set i { d.slot i with pendingEnd := some ((d.slot i).pendingEnd.getD .withdrawn) } } }
      else { d with
        access := { d.access with routine := d.access.routine.withdraw fun it => it.kind == .data && it.owner == .slot i },
        store := match (d.slot i).grant with | none => d.store | some g => d.store.release g,
        xfer := { d.xfer with
          counts := { d.xfer.counts with withdrawn := bump d.xfer.counts.withdrawn },
          slots := d.xfer.slots.set i Slot.free },
        console := { d.console with general := { d.console.general with
          entries := d.console.general.entries ++ [⟨.transferOutcome, 0, .report (slotOutcomeData (d.slot i) .withdrawn), 0⟩] } } } := by
  unfold askEnding
  dsimp only
  split
  · rw [onSlot_set _ _ _ hi]
    cases (d.slot i).pendingEnd <;> rfl
  · have hf : ∀ E : Device, E.rep = d.rep → i < E.xfer.slots.length → Device.freeSlot E i = { E with xfer := { E.xfer with slots := E.xfer.slots.set i Slot.free } } := by
      intro E h1 h2
      unfold Device.freeSlot
      rw [Device.onSlot_set _ _ _ h2, Device.slotFreed_none]
      show E.rep.pending = none
      rw [h1]; exact hp
    unfold endTransfer
    dsimp only
    rw [ho]
    let W : Device := { d with
      access := { d.access with routine := d.access.routine.withdraw fun it => it.kind == .data && it.owner == .slot i },
      xfer := { d.xfer with counts := { d.xfer.counts with withdrawn := bump d.xfer.counts.withdrawn } } }
    have hW : (d.withdrawData i).countOutcome .withdrawn = W := rfl
    rw [hW]
    have hq : ∀ E : Device, E.console = d.console → E.laneRoom .general = true := by
      intro E hE
      refine decide_eq_true (show E.console.general.entries.length < 24 from ?_)
      rw [hE]; exact hl
    have tail : ∀ (E Y : Device) (en : Entry), E.rep = d.rep → E.console = d.console → i < E.xfer.slots.length →
        (if E.laneRoom .general = true then (E.queueEntry .general en).freeSlot i else Y) = { E with
          xfer := { E.xfer with slots := E.xfer.slots.set i Slot.free },
          console := { d.console with general := { d.console.general with entries := d.console.general.entries ++ [en] } } } := by
      intro E Y en h1 h2 h3
      rw [if_pos (hq E h2)]
      unfold queueEntry
      rw [if_pos (hq E h2), hf]
      · simp [Device.onLane, Device.onConsole, h2]
      · exact h1
      · simpa [Device.onLane, Device.onConsole] using h3
    cases hg : (d.slot i).grant with
    | none =>
      exact tail W _ _ rfl rfl hi
    | some g =>
      have hE : Device.releaseOutbound (Device.onSlot W i fun s => { s with grant := none }) g =
          { W with store := d.store.release g, xfer := { W.xfer with slots := d.xfer.slots.set i { d.slot i with grant := none } } } := by
        unfold Device.releaseOutbound
        rw [Device.onSlot_set W _ _ hi, Device.retryHandOvers_none]
        · rfl
        · exact hr
      refine (tail (Device.releaseOutbound (Device.onSlot W i fun s => { s with grant := none }) g) _ _ ?_ ?_ ?_).trans ?_
      · rw [hE]
      · rw [hE]
      · rw [hE]; simpa using hi
      · rw [hE]; simp [W]
end Sys2Proof.Machine.Device

namespace Sys2Proof.Machine.Device
/-- Asking to end several console transfers in turn. -/
theorem askEnding_foldl (L : List Nat) (hn : L.Nodup) (d : Device) (hi : ∀ i ∈ L, i < d.xfer.slots.length)
    (ho : ∀ i ∈ L, (d.slot i).origin = .console) (hp : d.rep.pending = none) (hr : ∀ e ∈ d.xfer.reasms, e.waiting = false)
    (hl : d.console.general.entries.length + (L.filter fun i => !endsPending (d.slot i)).length ≤ 24) :
    let E := L.filter fun i => !endsPending (d.slot i)
    let D := L.foldl (fun d i => d.askEnding i .withdrawn) d
    D = { d with access := D.access, store := D.store, xfer := D.xfer, console := D.console } ∧
    (∀ j, j ∉ L → D.slot j = d.slot j) ∧
    (∀ j ∈ L, endsPending (d.slot j) = true → D.slot j = { d.slot j with pendingEnd := some ((d.slot j).pendingEnd.getD .withdrawn) }) ∧
    (∀ j ∈ E, D.slot j = Slot.free ∧ ∀ it ∈ D.access.routine.items, it.kind = .data → it.owner ≠ .slot j) ∧
    (∀ it ∈ D.access.routine.items, it ∈ d.access.routine.items) ∧
    D.console.submit = d.console.submit ∧
    D.console.general.entries = d.console.general.entries ++ E.map (fun j =>
      ⟨.transferOutcome, 0, .report (Device.slotOutcomeData (d.slot j) .withdrawn), 0⟩) ∧
    D.store = (E.filterMap fun j => (d.slot j).grant).foldl Store.release d.store ∧
    D.xfer.counts.withdrawn = E.foldl (fun n _ => bump n) d.xfer.counts.withdrawn := by
  induction L generalizing d with
  | nil => exact ⟨rfl, fun _ _ => rfl, fun _ h => (by cases h), fun _ h => (by cases h), fun _ h => h, rfl, by simp, rfl, rfl⟩
  | cons i r ih =>
    rw [List.nodup_cons] at hn
    have hii := hi i List.mem_cons_self
    have hoi := ho i List.mem_cons_self
    rw [List.foldl_cons]
    by_cases hep : endsPending (d.slot i) = true
    · have hf : (i :: r).filter (fun i => !endsPending (d.slot i)) = r.filter fun i => !endsPending (d.slot i) := by
        rw [List.filter_cons_of_neg (by simp [hep])]
      rw [hf] at hl ⊢
      have hA : d.askEnding i .withdrawn = { d with
        xfer := { d.xfer with slots := d.xfer.slots.set i { d.slot i with pendingEnd := some ((d.slot i).pendingEnd.getD .withdrawn) } } } := by
        unfold askEnding
        rw [if_pos hep, onSlot_set _ _ _ hii]
        cases (d.slot i).pendingEnd <;> rfl
      have hs : ∀ j, (d.askEnding i .withdrawn).slot j = if j = i then { d.slot i with pendingEnd := some ((d.slot i).pendingEnd.getD .withdrawn) } else d.slot j := by
        intro j
        rw [hA]
        by_cases h : j = i
        · subst h; rw [if_pos rfl]; exact slot_set d j _ d.xfer hii
        · rw [if_neg h]
          unfold slot
          simp only [List.getD_eq_getElem?_getD]
          rw [List.getElem?_set_ne (by omega)]
      have hsr : ∀ j ∈ r, (d.askEnding i .withdrawn).slot j = d.slot j := fun j hj => by
        rw [hs, if_neg (by rintro rfl; exact hn.1 hj)]
      have hfr : r.filter (fun j => !endsPending ((d.askEnding i .withdrawn).slot j)) = r.filter fun j => !endsPending (d.slot j) :=
        List.filter_congr fun j hj => by rw [hsr j hj]
      obtain ⟨a1, a2, a3, a4, a5, a6, a7, a8, a9⟩ := ih hn.2 (d.askEnding i .withdrawn)
        (fun j hj => by rw [hA]; simpa using hi j (List.mem_cons_of_mem _ hj)) (fun j hj => by rw [hsr j hj]; exact ho j (List.mem_cons_of_mem _ hj))
        (by rw [hA]; exact hp) (by rw [hA]; exact hr) (by rw [hfr, hA]; exact hl)
      rw [hfr] at a4 a7 a8 a9
      have hme : ∀ j ∈ r.filter (fun j => !endsPending (d.slot j)), (d.askEnding i .withdrawn).slot j = d.slot j := fun j hj => hsr j (List.mem_of_mem_filter hj)
      refine ⟨?_, fun j hj => ?_, fun j hj hj2 => ?_, a4, fun it hit => ?_, ?_, ?_, ?_, ?_⟩
      · exact a1.trans (by rw [hA])
      · rw [List.mem_cons, not_or] at hj
        rw [a2 j hj.2, hs, if_neg hj.1]
      · rcases List.mem_cons.1 hj with rfl | hj
        · rw [a2 _ hn.1, hs, if_pos rfl]
        · have := a3 j hj (by rw [hsr j hj]; exact hj2)
          rw [hsr j hj] at this; exact this
      · have := a5 it hit; rw [hA] at this; exact this
      · rw [a6, hA]
      · rw [a7]
        refine congr (congrArg _ (by rw [hA])) (List.map_congr_left fun j hj => by rw [hme j hj])
      · rw [a8]
        have : (r.filter (fun j => !endsPending (d.slot j))).filterMap (fun j => ((d.askEnding i .withdrawn).slot j).grant) = (r.filter (fun j => !endsPending (d.slot j))).filterMap fun j => (d.slot j).grant :=
          List.filterMap_congr fun j hj => by rw [hme j hj]
        rw [this, hA]
      · rw [a9, hA]
    · have hf : (i :: r).filter (fun i => !endsPending (d.slot i)) = i :: r.filter fun i => !endsPending (d.slot i) := by
        rw [List.filter_cons_of_pos (by simp [hep])]
      rw [hf] at hl ⊢
      rw [List.length_cons] at hl
      have hA := askEnding_console d i hii hoi hp hr (by omega)
      rw [if_neg hep] at hA
      have hs : ∀ j, (d.askEnding i .withdrawn).slot j = if j = i then Slot.free else d.slot j := by
        intro j
        rw [hA]
        by_cases h : j = i
        · subst h; rw [if_pos rfl]; exact slot_set d j _ { d.xfer with counts := _ } hii
        · rw [if_neg h]
          unfold slot
          simp only [List.getD_eq_getElem?_getD]
          rw [List.getElem?_set_ne (by omega)]
      have hsr : ∀ j ∈ r, (d.askEnding i .withdrawn).slot j = d.slot j := fun j hj => by
        rw [hs, if_neg (by rintro rfl; exact hn.1 hj)]
      have hfr : r.filter (fun j => !endsPending ((d.askEnding i .withdrawn).slot j)) = r.filter fun j => !endsPending (d.slot j) :=
        List.filter_congr fun j hj => by rw [hsr j hj]
      obtain ⟨a1, a2, a3, a4, a5, a6, a7, a8, a9⟩ := ih hn.2 (d.askEnding i .withdrawn)
        (fun j hj => by rw [hA]; simpa using hi j (List.mem_cons_of_mem _ hj)) (fun j hj => by rw [hsr j hj]; exact ho j (List.mem_cons_of_mem _ hj))
        (by rw [hA]; exact hp) (by rw [hA]; exact hr) (by rw [hfr, hA]; simp; omega)
      rw [hfr] at a4 a7 a8 a9
      have hme : ∀ j ∈ r.filter (fun j => !endsPending (d.slot j)), (d.askEnding i .withdrawn).slot j = d.slot j := fun j hj => hsr j (List.mem_of_mem_filter hj)
      have hit5 : ∀ it ∈ (r.foldl (fun d i => d.askEnding i .withdrawn) (d.askEnding i .withdrawn)).access.routine.items, it ∈ d.access.routine.items ∧ (it.kind == .data && it.owner == .slot i) = false := by
        intro it hit
        have := a5 it hit
        rw [hA] at this
        exact (mem_items_withdraw d.access.routine _ it).1 this
      refine ⟨?_, fun j hj => ?_, fun j hj hj2 => ?_, fun j hj => ?_, fun it hit => (hit5 it hit).1, ?_, ?_, ?_, ?_⟩
      · exact a1.trans (by rw [hA])
      · rw [List.mem_cons, not_or] at hj
        rw [a2 j hj.2, hs, if_neg hj.1]
      · rcases List.mem_cons.1 hj with rfl | hj
        · exact absurd hj2 hep
        · have := a3 j hj (by rw [hsr j hj]; exact hj2)
          rw [hsr j hj] at this; exact this
      · rcases List.mem_cons.1 hj with rfl | hj
        · refine ⟨by rw [a2 _ hn.1, hs, if_pos rfl], fun it hit hk ho => ?_⟩
          have := (hit5 it hit).2
          rw [hk, ho] at this
          simp at this
        · exact a4 j hj
      · rw [a6, hA]
      · rw [a7, List.map_cons]
        have : (d.askEnding i .withdrawn).console.general.entries = d.console.general.entries ++ [⟨.transferOutcome, 0, .report (slotOutcomeData (d.slot i) .withdrawn), 0⟩] := by rw [hA]
        rw [this, List.append_assoc]
        refine congrArg (d.console.general.entries ++ ·) ?_
        rw [List.singleton_append]
        exact congrArg _ (List.map_congr_left fun j hj => by rw [hme j hj])
      · rw [a8]
        have : (r.filter (fun j => !endsPending (d.slot j))).filterMap (fun j => ((d.askEnding i .withdrawn).slot j).grant) = (r.filter (fun j => !endsPending (d.slot j))).filterMap fun j => (d.slot j).grant :=
          List.filterMap_congr fun j hj => by rw [hme j hj]
        rw [this, List.filterMap_cons, hA]
        cases (d.slot i).grant <;> rfl
      · rw [a9, hA]; rfl
end Sys2Proof.Machine.Device

namespace Sys2Proof.Machine.Device
/-- A slot with the route answer `ans` taken (R82). -/
def routed (d : Device) (s : Slot) (ans : Option Station) : Slot :=
  match ans with
    | none => { s with hop := none, st := .awaitingRoute, refusalEnd := none }
    | some h =>
      let y := { s with
        hop := some h, lastHop := h, idx := 0, retries := 0, refusals := 0, restarts := 0, cw := 8,
        refusalEnd := none }
      if d.holdInForce = true then { y with st := .held, heldFrom := .ready }
      else { y with st := .ready, readySince := d.now, onAir := false }

/-- The first route answer of a console transfer (R82). -/
theorem startRoute_console (d : Device) (i : Nat) (hi : i < d.xfer.slots.length) (ho : (d.slot i).origin = .console) (ans : Option Station)
    (ha : ans = if (d.slot i).dest = d.config.port then d.route else some (d.slot i).dest) :
    let D := d.startRoute i
    D = { d with access := D.access, xfer := { d.xfer with slots := D.xfer.slots } } ∧
    (∀ it ∈ D.access.routine.items, it ∈ d.access.routine.items) ∧
    D.slot i = d.routed (d.slot i) ans := by
  intro D
  let s := d.slot i
  let W : Device := { d with xfer := { d.xfer with slots := d.xfer.slots.set i { s with st := .awaitingRoute, hop := none } } }
  have hW : d.onSlot i (fun s => { s with st := .awaitingRoute, hop := none }) = W := onSlot_set d i _ hi
  have hWs : W.slot i = { s with st := .awaitingRoute, hop := none } := slot_set d i _ d.xfer hi
  have hWl : i < W.xfer.slots.length := by simpa [W] using hi
  have hD : D = W.takeAnswer i (if s.dest = d.config.port then d.route else some s.dest) := by
    have h1 : D = (d.onSlot i fun s => { s with st := .awaitingRoute, hop := none }).takeAnswer i
      (if (d.onSlot i fun s => { s with st := .awaitingRoute, hop := none }).portBound s then (d.onSlot i fun s => { s with st := .awaitingRoute, hop := none }).routeFor s else some s.dest) := rfl
    rw [h1, hW]
    have h2 : W.portBound s = decide (s.dest = d.config.port) := by
      have : s.origin = .console := ho
      simp only [portBound, this, W]
      by_cases h : s.dest = d.config.port <;> simp [h]
    have h3 : W.routeFor s = d.route := by
      have : s.origin = .console := ho
      unfold routeFor
      rw [this]; rfl
    rw [h2, h3]
    by_cases h : s.dest = d.config.port <;> simp [h]
  have hit : ∀ it ∈ (d.access.routine.withdraw (isDataOf i)).items, it ∈ d.access.routine.items := fun it h => ((mem_items_withdraw d.access.routine _ it).1 h).1
  rw [← ha] at hD
  cases ans with
  | none =>
    have hD2 : D = { W with access := { d.access with routine := d.access.routine.withdraw (isDataOf i) }, xfer := { d.xfer with slots := d.xfer.slots.set i { s with hop := none, st := .awaitingRoute, refusalEnd := none } } } := by
      rw [hD]
      unfold takeAnswer
      dsimp only
      rw [onSlot_set (W.withdrawData i) _ _ hWl]
      have : Device.slot (W.withdrawData i) i = { s with st := .awaitingRoute, hop := none } := hWs
      rw [this]
      unfold withdrawData withdraw onAccess
      simp only [Access.onQueue, W, List.set_set]
    refine ⟨by rw [hD2], fun it h => hit it (by rw [hD2] at h; exact h), ?_⟩
    rw [hD2]
    exact slot_set d i _ d.xfer hi
  | some h =>
    let y : Slot := { s with hop := some h, lastHop := h, idx := 0, retries := 0, refusals := 0, restarts := 0, cw := 8, refusalEnd := none }
    let z : Slot := if d.holdInForce = true then { y with st := .held, heldFrom := .ready } else { y with st := .ready, readySince := d.now, onAir := false }
    have hD2 : D = { W with access := { d.access with routine := d.access.routine.withdraw (isDataOf i) }, xfer := { d.xfer with slots := d.xfer.slots.set i z } } := by
      rw [hD]
      unfold takeAnswer
      dsimp only
      rw [hWs, if_neg (by simp)]
      have w1 : i < (W.withdrawData i).xfer.slots.length := hWl
      have w2 : Device.slot (W.withdrawData i) i = { s with st := .awaitingRoute, hop := none } := hWs
      rw [onSlot_set (W.withdrawData i) _ _ w1, w2]
      generalize hV : ({ W.withdrawData i with xfer := { (W.withdrawData i).xfer with slots := (W.withdrawData i).xfer.slots.set i (afresh { s with st := .awaitingRoute, hop := none } h) } } : Device) = V
      have v1 : i < V.xfer.slots.length := by rw [← hV]; simpa using w1
      have v2 : V.slot i = afresh { s with st := .awaitingRoute, hop := none } h := by
        rw [← hV]; exact slot_set (W.withdrawData i) i _ (W.withdrawData i).xfer w1
      have v3 : V.holdInForce = d.holdInForce := by rw [← hV]; rfl
      have v4 : V.now = d.now := by rw [← hV]; rfl
      unfold goReady
      rw [v3]
      by_cases hh : d.holdInForce = true
      · rw [if_pos hh, onSlot_set V _ _ v1, v2]
        simp only [z, if_pos hh, ← hV]
        unfold withdrawData withdraw onAccess
        simp only [Access.onQueue, W, List.set_set, afresh, y]
      · rw [if_neg hh, onSlot_set V _ _ v1, v2, v4]
        simp only [z, if_neg hh, ← hV]
        unfold withdrawData withdraw onAccess
        simp only [Access.onQueue, W, List.set_set, afresh, y]
    refine ⟨by rw [hD2], fun it h => hit it (by rw [hD2] at h; exact h), ?_⟩
    rw [hD2]
    exact slot_set d i _ d.xfer hi

/-- What voiding the open submit does (R201). -/
theorem voidSubmit_eq (d : Device) (x : Sys2Proof.Machine.Submit) (h : d.console.submit = some x) (hi : x.slot < d.xfer.slots.length)
    (hp : d.rep.pending = none) (hr : ∀ e ∈ d.xfer.reasms, e.waiting = false) :
    d.voidSubmit = { d with
        store := d.store.release x.grant,
        xfer := { d.xfer with slots := d.xfer.slots.set x.slot Slot.free },
        console := { d.console with submit := none } } := by
  unfold voidSubmit
  rw [h]
  dsimp only
  have hE : ∀ E : Device, E.xfer = d.xfer → (E.onSlot x.slot fun s => { s with grant := none }).releaseOutbound x.grant = { E with store := E.store.release x.grant, xfer := { d.xfer with slots := d.xfer.slots.set x.slot { d.slot x.slot with grant := none } } } := by
    intro E hE
    unfold Device.releaseOutbound
    rw [Device.onSlot_set E _ _ (by rw [hE]; exact hi), Device.retryHandOvers_none]
    · have : E.slot x.slot = d.slot x.slot := by unfold slot; rw [hE]
      rw [this, hE]; rfl
    · show ∀ e ∈ E.xfer.reasms, _
      rw [hE]; exact hr
  rw [hE (d.onConsole fun c => { c with submit := none }) rfl]
  unfold Device.freeSlot
  rw [Device.onSlot_set _ _ _ (by simpa using hi), Device.slotFreed_none]
  · simp [onConsole]
  · exact hp

/-- A report that ends releases its page grant. -/
theorem closeReport_store (d : Device) (e) : ((d.closeReport e).countEnding e).store = match d.rep.grant with | none => d.store | some id => d.store.release id := by
  unfold countEnding closeReport onLog
  dsimp only
  cases d.rep.grant <;> rfl

/-- What RESTART does to Channel Access leaves all but these parts as they are. -/
theorem restartAccess_keeps (d : Device) : d.restartAccess = { d with access := d.restartAccess.access, prot := d.restartAccess.prot, console := d.restartAccess.console, tx := d.restartAccess.tx, rx := d.restartAccess.rx } := by
  have hb : d.abortBurst .restart = { d with access := (d.abortBurst .restart).access, prot := (d.abortBurst .restart).prot, console := (d.abortBurst .restart).console, tx := (d.abortBurst .restart).tx, rx := (d.abortBurst .restart).rx } := by
    unfold abortBurst
    cases d.access.onAir with
    | none => rfl
    | some a =>
      dsimp only
      have ha : ∀ (e : Device) it, e.accountAbort it .restart = e := by
        intro e it; unfold accountAbort; rfl
      rw [ha]
      obtain ⟨D, -, -, -, lb, h4⟩ := dropKey_eq d (AbortReason.restart == AbortReason.keytime)
      rw [h4]; rfl
  unfold restartAccess
  dsimp only
  split
  · rfl
  · split
    · rfl
    · generalize hx : d.abortBurst .restart = X at hb
      rw [hb]; rfl

/-- Offering items again changes Channel Access alone. -/
theorem offerAgain_keeps (l : List Item) (d : Device) : d.offerAgain l = { d with access := (d.offerAgain l).access } := by
  unfold offerAgain
  generalize sortBy (fun it => it.order) l = L
  induction L generalizing d with
  | nil => rfl
  | cons x r ih => rw [List.foldl_cons, ih]; rfl

/-- Eligibility changes a class's contender alone. -/
theorem refresh_queue (d : Device) (c : AccessClass) : d.refreshEligible.access.queue c = { d.access.queue c with contender := (d.access.queue c).contender.map (d.refreshOne c) } := by
  cases c <;> rfl

/-- Counting slots changes a class's contender alone. -/
theorem count_queue (d : Device) (c : AccessClass) : d.countSlots.access.queue c = { d.access.queue c with contender := (d.access.queue c).contender.map (d.countOne c) } := by
  cases c <;> rfl

/-- The item chosen is one of those that wait. -/
theorem next_mem : ∀ (l : List Item) x, ClassQueue.next? l = some x → x ∈ l
  | [], _, h => by cases h
  | y :: r, x, h => by
    unfold ClassQueue.next? at h
    cases hr : ClassQueue.next? r with
    | none => rw [hr] at h; cases h; exact List.mem_cons_self
    | some z =>
      rw [hr] at h
      dsimp only at h
      split at h
      · cases h; exact List.mem_cons_of_mem _ (next_mem r _ hr)
      · cases h; exact List.mem_cons_self
end Sys2Proof.Machine.Device

namespace Sys2Proof.Machine.Device

/-- Whether a slot's route answer moves its transfer: no route, or another next hop. -/
def answerMoves (d : Device) (s : Slot) : Bool :=
  match d.hopFor s with
  | none => true
  | some h => s.hop != some h

/-- A slot as its route answer leaves it (R82). -/
def answered (d : Device) (s : Slot) : Slot :=
  match d.hopFor s with
  | none => { s with hop := none, st := .awaitingRoute, refusalEnd := none }
  | some h =>
    if s.hop = some h then s
    else if d.holdInForce then { afresh s h with st := .held, heldFrom := .ready, refusalEnd := none }
    else { afresh s h with st := .ready, readySince := d.now, onAir := false, refusalEnd := none }

/-- What asking for a slot's route does (R82). -/
theorem askRoute_eq (d : Device) (i : Nat) (h : i < d.xfer.slots.length) :
    d.askRoute i = { d with
      access := { d.access with
        routine := if d.answerMoves (d.slot i) then d.access.routine.withdraw (isDataOf i) else d.access.routine },
      xfer := { d.xfer with slots := d.xfer.slots.set i (d.answered (d.slot i)) } } := by
  unfold askRoute takeAnswer
  rw [routeFor_hop]
  cases hh : d.hopFor (d.slot i) with
  | none =>
    have hm : d.answerMoves (d.slot i) = true := by unfold answerMoves; rw [hh]
    rw [if_pos hm]
    unfold answered
    rw [hh]
    dsimp only
    rw [onSlot_set _ _ _ (by exact h)]; rfl
  | some x =>
    unfold answered
    rw [hh]
    dsimp only
    by_cases hx : (d.slot i).hop = some x
    · have hm : ¬ d.answerMoves (d.slot i) = true := by unfold answerMoves; rw [hh]; simp [hx]
      rw [if_pos hx, if_pos hx, if_neg hm, slots_set_self d i h]
    · have hm : d.answerMoves (d.slot i) = true := by unfold answerMoves; rw [hh]; simpa using hx
      rw [if_neg hx, if_neg hx, if_pos hm, onSlot_set (d.withdrawData i) _ _ (by exact h)]
      unfold goReady
      split
      · rename_i hq
        have : d.holdInForce = true := hq
        rw [if_pos this, onSlot_set _ _ _ (by simpa [withdrawData, withdraw, onAccess] using h), slot_set _ _ _ _ (by exact h)]
        simp [withdrawData, withdraw, onAccess, Access.onQueue, slot]
      · rename_i hq
        have : ¬ d.holdInForce = true := hq
        rw [if_neg this, onSlot_set _ _ _ (by simpa [withdrawData, withdraw, onAccess] using h), slot_set _ _ _ _ (by exact h)]
        simp [withdrawData, withdraw, onAccess, Access.onQueue, slot]

/-- A route event, slot by slot (R83). -/
theorem routeEvent_foldl (L : List Nat) (hn : L.Nodup) (d : Device) (st : Station) (hl : ∀ i ∈ L, i < d.xfer.slots.length) :
    let e := L.foldl (fun d i => if d.asksAt st (d.slot i) then d.askRoute i else d) d
    (∃ r sl, e = { d with access := { d.access with routine := r }, xfer := { d.xfer with slots := sl } }) ∧
    (∀ j, e.slot j = if j ∈ L ∧ d.asksAt st (d.slot j) = true then d.answered (d.slot j) else d.slot j) ∧
    ∀ it, it ∈ e.access.routine.items ↔ it ∈ d.access.routine.items ∧
      ¬ ∃ i ∈ L, isDataOf i it = true ∧ d.asksAt st (d.slot i) = true ∧ d.answerMoves (d.slot i) = true := by
  induction L generalizing d with
  | nil => exact ⟨⟨_, _, rfl⟩, fun j => by simp, fun it => by simp⟩
  | cons i r ih =>
    rw [List.nodup_cons] at hn
    have hi := hl i List.mem_cons_self
    dsimp only
    rw [List.foldl_cons]
    obtain ⟨x, hx⟩ : ∃ x, (if d.asksAt st (d.slot i) then d.askRoute i else d) = x := ⟨_, rfl⟩
    have hq : ∃ q sl, x = { d with access := { d.access with routine := q }, xfer := { d.xfer with slots := sl } } ∧
        sl.length = d.xfer.slots.length ∧
        (∀ j, x.slot j = if j = i ∧ d.asksAt st (d.slot i) = true then d.answered (d.slot i) else d.slot j) ∧
        ∀ it, it ∈ q.items ↔ it ∈ d.access.routine.items ∧
          ¬ (isDataOf i it = true ∧ d.asksAt st (d.slot i) = true ∧ d.answerMoves (d.slot i) = true) := by
      subst hx
      by_cases ha : d.asksAt st (d.slot i) = true
      · rw [if_pos ha, askRoute_eq d i hi]
        refine ⟨_, _, rfl, by simp, fun j => ?_, fun it => ?_⟩
        · unfold slot
          dsimp only
          by_cases hji : j = i
          · subst hji
            rw [if_pos ⟨rfl, ha⟩]
            simp [List.getD_eq_getElem?_getD, hi]
          · rw [if_neg (fun h => hji h.1)]
            simp [List.getD_eq_getElem?_getD, Ne.symm hji]
        · by_cases hm : d.answerMoves (d.slot i) = true
          · rw [if_pos hm, mem_items_withdraw]
            simp [ha, hm]
          · rw [if_neg hm]
            simp [hm]
      · rw [if_neg ha]
        exact ⟨_, _, rfl, rfl, fun j => by simp [ha], fun it => by simp [ha]⟩
    rw [hx]
    clear hx
    obtain ⟨q, sl, e0, e1, e2, e3⟩ := hq
    have f1 : ∀ s, x.asksAt st s = d.asksAt st s := fun s => by rw [e0]; rfl
    have f2 : ∀ s, x.answerMoves s = d.answerMoves s := fun s => by rw [e0]; rfl
    have f3 : ∀ s, x.answered s = d.answered s := fun s => by rw [e0]; rfl
    obtain ⟨⟨r', sl', g1⟩, g2, g3⟩ := ih hn.2 x (by intro k hk; rw [e0]; dsimp only; rw [e1]; exact hl k (List.mem_cons_of_mem _ hk))
    have e4 : ∀ j ∈ r, x.slot j = d.slot j := fun j hj => by
      rw [e2, if_neg]; rintro ⟨rfl, -⟩; exact hn.1 hj
    refine ⟨⟨r', sl', by rw [g1, e0]⟩, fun j => ?_, fun it => ?_⟩
    · rw [g2, f1, f3]
      by_cases hj : j ∈ r
      · rw [e4 j hj]; simp [hj]
      · rw [if_neg (fun h => hj h.1), e2]
        by_cases hji : j = i
        · subst hji; simp
        · rw [if_neg (fun h => hji h.1), if_neg]
          rintro ⟨h, -⟩
          rcases List.mem_cons.1 h with h | h
          · exact hji h
          · exact hj h
    · rw [g3, show x.access.routine = q by rw [e0], e3]
      simp only [f1, f2]
      have : (∃ k ∈ r, isDataOf k it = true ∧ d.asksAt st (x.slot k) = true ∧ d.answerMoves (x.slot k) = true) ↔
          ∃ k ∈ r, isDataOf k it = true ∧ d.asksAt st (d.slot k) = true ∧ d.answerMoves (d.slot k) = true := by
        refine exists_congr fun k => and_congr_right fun hk => ?_
        rw [e4 k hk]
      rw [this]
      simp only [List.mem_cons, exists_eq_or_imp]
      exact ⟨fun ⟨⟨a, b⟩, c⟩ => ⟨a, fun h => h.elim b c⟩, fun ⟨a, b⟩ => ⟨⟨a, fun h => b (.inl h)⟩, fun h => b (.inr h)⟩⟩

/-- What one route event does (R69, R83). -/
theorem routeEvent_every (d : Device) (st : Station) (hl : d.xfer.slots.length = 8) :
    (∃ r sl, d.routeEvent st = { d with access := { d.access with routine := r }, xfer := { d.xfer with slots := sl } }) ∧
    (∀ j, (d.routeEvent st).slot j = if j ∈ slotOrder ∧ d.asksAt st (d.slot j) = true then d.answered (d.slot j) else d.slot j) ∧
    ∀ it, it ∈ (d.routeEvent st).access.routine.items ↔ it ∈ d.access.routine.items ∧
      ¬ ∃ i ∈ slotOrder, isDataOf i it = true ∧ d.asksAt st (d.slot i) = true ∧ d.answerMoves (d.slot i) = true := by
  have h1 : slotOrder.Nodup := by decide
  have h2 : ∀ i ∈ slotOrder, i < d.xfer.slots.length := by rw [hl]; decide
  unfold routeEvent
  generalize slotOrder = L at *
  exact routeEvent_foldl L h1 d st h2
end Sys2Proof.Machine.Device

namespace Sys2Proof.Machine

/-- Four symbols read as a number are the digits of that number. -/
theorem toSyms_fromSyms4 (a b c d : Nat) (ha : a < 64) (hb : b < 64) (hc : c < 64) (hd : d < 64) : toSyms 4 (fromSyms [a, b, c, d]) = [a, b, c, d] := by
  simp only [toSyms, fromSyms, List.foldl]
  norm_num
  omega

/-- Three symbols read as a number are the digits of that number. -/
theorem toSyms_fromSyms3 (a b c : Nat) (ha : a < 64) (hb : b < 64) (hc : c < 64) : toSyms 3 (fromSyms [a, b, c]) = [a, b, c] := by
  simp only [toSyms, fromSyms, List.foldl]
  norm_num
  omega

/-- Two symbols read as a number are the digits of that number. -/
theorem toSyms_fromSyms2 (a b : Nat) (ha : a < 64) (hb : b < 64) : toSyms 2 (fromSyms [a, b]) = [a, b] := by
  simp only [toSyms, fromSyms, List.foldl]
  norm_num
  omega

/-- A number below 64^4 is read back from its four digits. -/
theorem fromSyms_toSyms4 (v : Nat) (h : v < 16777216) : fromSyms (toSyms 4 v) = v := by
  simp only [toSyms, fromSyms, List.foldl]
  norm_num
  omega

/-- A number below 64^3 is read back from its three digits. -/
theorem fromSyms_toSyms3 (v : Nat) (h : v < 262144) : fromSyms (toSyms 3 v) = v := by
  simp only [toSyms, fromSyms, List.foldl]
  norm_num
  omega

/-- A number below 64^2 is read back from its two digits. -/
theorem fromSyms_toSyms2 (v : Nat) (h : v < 4096) : fromSyms (toSyms 2 v) = v := by
  simp only [toSyms, fromSyms, List.foldl]
  norm_num
  omega

/-- What a position field read back is: absent, or two values of 4 symbols in range. -/
theorem readPosition_iff (l : List Nat) (hl : ∀ s ∈ l, s < 64) (p : Option (Int × Int)) (r : List Nat) :
    readPosition l = some (p, r) ↔ l = positionSyms p ++ r ∧
      ∀ x, p = some x → -540000 ≤ x.1 ∧ x.1 ≤ 540000 ∧ -1080000 ≤ x.2 ∧ x.2 < 1080000 := by
  constructor
  · intro h
    unfold readPosition at h
    split at h
    · cases h; exact ⟨rfl, nofun⟩
    · rename_i r'
      dsimp only at h
      split at h
      · rename_i hc
        obtain ⟨h8, h1, h2⟩ := hc
        obtain ⟨a, b, c, d, e, f, g, i, t, rfl⟩ : ∃ a b c d e f g i t, r' = a :: b :: c :: d :: e :: f :: g :: i :: t := by
          rcases r' with _ | ⟨a, _ | ⟨b, _ | ⟨c, _ | ⟨d, _ | ⟨e, _ | ⟨f, _ | ⟨g, _ | ⟨i, t⟩⟩⟩⟩⟩⟩⟩⟩ <;> simp at h8
          exact ⟨_, _, _, _, _, _, _, _, _, rfl⟩
        simp only [Option.some.injEq, Prod.mk.injEq] at h
        obtain ⟨rfl, rfl⟩ := h
        have k := fun x hx => hl x (List.mem_cons_of_mem _ hx)
        simp only [List.mem_cons] at k
        have e1 : symsAt (a :: b :: c :: d :: e :: f :: g :: i :: t) 0 4 = fromSyms [a, b, c, d] := rfl
        have e2 : symsAt (a :: b :: c :: d :: e :: f :: g :: i :: t) 4 4 = fromSyms [e, f, g, i] := rfl
        rw [e1] at h1 ⊢; rw [e2] at h2 ⊢
        refine ⟨?_, ?_⟩
        · unfold positionSyms
          dsimp only
          rw [show ((fromSyms [a, b, c, d] : Int) - 540000 + 540000).toNat = fromSyms [a, b, c, d] by omega,
            show ((fromSyms [e, f, g, i] : Int) - 1080000 + 1080000).toNat = fromSyms [e, f, g, i] by omega,
            toSyms_fromSyms4 _ _ _ _ (k a (by simp)) (k b (by simp)) (k c (by simp)) (k d (by simp)),
            toSyms_fromSyms4 _ _ _ _ (k e (by simp)) (k f (by simp)) (k g (by simp)) (k i (by simp))]
          rfl
        · rintro x hx; cases hx; dsimp only; omega
      · cases h
    · cases h
  · rintro ⟨rfl, h⟩
    cases p with
    | none => rfl
    | some x =>
      obtain ⟨lat, lon⟩ := x
      have := h _ rfl
      dsimp only at this
      obtain ⟨h1, h2, h3, h4⟩ := this
      have e0 : positionSyms (some (lat, lon)) ++ r = 1 :: (toSyms 4 (lat + 540000).toNat ++ (toSyms 4 (lon + 1080000).toNat ++ r)) := by
        simp [positionSyms]
      rw [e0]
      unfold readPosition
      have e1 : symsAt (toSyms 4 (lat + 540000).toNat ++ (toSyms 4 (lon + 1080000).toNat ++ r)) 0 4 = fromSyms (toSyms 4 (lat + 540000).toNat) := rfl
      have e2 : symsAt (toSyms 4 (lat + 540000).toNat ++ (toSyms 4 (lon + 1080000).toNat ++ r)) 4 4 = fromSyms (toSyms 4 (lon + 1080000).toNat) := rfl
      generalize hA : toSyms 4 (lat + 540000).toNat ++ (toSyms 4 (lon + 1080000).toNat ++ r) = A at e1 e2
      show (if 8 ≤ A.length ∧ symsAt A 0 4 ≤ 1080000 ∧ symsAt A 4 4 ≤ 2159999
        then some (some ((symsAt A 0 4 : Int) - 540000, (symsAt A 4 4 : Int) - 1080000), A.drop 8) else none) = _
      rw [e1, e2, ← hA, fromSyms_toSyms4 _ (by omega), fromSyms_toSyms4 _ (by omega), if_pos]
      · congr 2
        congr 1 <;> (simp; omega)
      · refine ⟨by simp [toSyms], by omega, by omega⟩
end Sys2Proof.Machine

namespace Sys2Proof.Machine
/-- The element found has the largest key. -/
theorem maxLastBy_spec {α} (key : α → Nat) (l : List α) :
    (l ≠ [] → (maxLastBy? key l).isSome = true) ∧
    ∀ x, maxLastBy? key l = some x → x ∈ l ∧ ∀ y ∈ l, key y ≤ key x := by
  induction l with
  | nil => exact ⟨fun h => absurd rfl h, fun x h => by cases h⟩
  | cons a r ih =>
    unfold maxLastBy?
    cases hr : maxLastBy? key r with
    | none =>
      have : r = [] := by
        by_contra hne
        have := ih.1 hne; rw [hr] at this; cases this
      subst this
      exact ⟨fun _ => rfl, fun x h => by cases h; exact ⟨List.mem_cons_self, fun y hy => by simp at hy; rw [hy]⟩⟩
    | some z =>
      obtain ⟨h1, h2⟩ := ih.2 z hr
      dsimp only
      split
      · rename_i hk
        refine ⟨fun _ => rfl, fun x h => ?_⟩
        cases h
        refine ⟨List.mem_cons_of_mem _ h1, fun y hy => ?_⟩
        rcases List.mem_cons.1 hy with rfl | hy
        · exact hk
        · exact h2 y hy
      · rename_i hk
        refine ⟨fun _ => rfl, fun x h => ?_⟩
        cases h
        refine ⟨List.mem_cons_self, fun y hy => ?_⟩
        rcases List.mem_cons.1 hy with rfl | hy
        · exact Nat.le_refl _
        · have := h2 y hy; omega
end Sys2Proof.Machine
end

