-- ==== Sys2Proof/Laws/Tables.lean ====
section
/-! SUPPORT. The tables of cases, settled alerts, weather records, tally cells and quota entries stay within their bounds
and in step: what the operations on cells and quota entries do to them, then one lemma per operation. -/

namespace Sys2Proof.Machine

/-! ## Amounts and cells -/

theorem Amount.send_ok {a : Amount} {l : Nat} (h : a.ok l) : a.send.ok l := by
  unfold Amount.ok Amount.send Amount.unreported at *; dsimp only; omega

theorem Amount.settle_ok {a : Amount} {l : Nat} (b : Bool) (h : a.ok l) : (a.settle b).ok l ∧ (a.settle b).inFlight = 0 := by
  unfold Amount.ok Amount.settle at *; cases b <;> simp <;> omega

theorem Amount.add_ok {a : Amount} {n l : Nat} (h : a.ok l) : (a.add n l).1.ok l ∧ (a.add n l).1.inFlight = a.inFlight := by
  unfold Amount.ok Amount.add at *; split <;> simp <;> omega

theorem TallyCell.addLine_ok (c : TallyCell) (l : CatchLine) :
    (c.addLine l).rect = c.rect ∧ (c.addLine l).species = c.species ∧ (c.ok → (c.addLine l).ok) ∧
    (c.settled → (c.addLine l).settled) := by
  unfold TallyCell.addLine
  split
  · exact ⟨rfl, rfl, fun h => ⟨(Amount.add_ok h.1).1, h.2⟩, fun h => ⟨by
      have : ((c.retained.add l.weight kgLimit).1).inFlight = c.retained.inFlight := by unfold Amount.add; split <;> rfl
      exact this.trans h.1, h.2⟩⟩
  · exact ⟨rfl, rfl, fun h => ⟨h.1, (Amount.add_ok h.2.1).1, h.2.2⟩, fun h => ⟨h.1, by
      have : ((c.discarded.add l.weight kgLimit).1).inFlight = c.discarded.inFlight := by unfold Amount.add; split <;> rfl
      exact this.trans h.2.1, h.2.2⟩⟩

theorem TallyCell.addHaul_ok (c : TallyCell) (h : Haul) :
    (c.addHaul h).rect = c.rect ∧ (c.addHaul h).species = c.species ∧ (c.ok → (c.addHaul h).ok) ∧
    (c.settled → (c.addHaul h).settled) := by
  refine ⟨rfl, rfl, fun k => ⟨k.1, k.2.1, (Amount.add_ok k.2.2).1⟩, fun k => ⟨k.1, k.2.1, ?_⟩⟩
  have : ((c.hauls.add 1 65535).1).inFlight = c.hauls.inFlight := by unfold Amount.add; split <;> rfl
  exact this.trans k.2.2

/-! ## Ordered tables -/

theorem pairwise_insertBy {α : Type} (key : α → Nat) (R : α → α → Prop) (hs : ∀ a b, R a b → R b a) (x : α) (l : List α)
    (hx : ∀ y ∈ l, R x y) (h : l.Pairwise fun a b => key a ≤ key b ∧ R a b) :
    (insertBy key x l).Pairwise fun a b => key a ≤ key b ∧ R a b := by
  have h1 := insertBy_sorted key x l (h.imp fun k => k.1)
  have h2 : (x :: l).Pairwise R := List.pairwise_cons.2 ⟨hx, h.imp fun k => k.2⟩
  have h3 : (insertBy key x l).Pairwise R := ((Device.insertBy_perm key x l).pairwise_iff (fun {a b} => hs a b)).2 h2
  exact h1.and h3

theorem length_insertBy {α : Type} (key : α → Nat) (x : α) (l : List α) : (insertBy key x l).length = l.length + 1 := by
  rw [(Device.insertBy_perm key x l).length_eq]; rfl

theorem mem_insertBy {α : Type} (key : α → Nat) (x y : α) (l : List α) : y ∈ insertBy key x l ↔ y = x ∨ y ∈ l := by
  rw [(Device.insertBy_perm key x l).mem_iff]; exact List.mem_cons

/-! ## The tally table without its length, and the quota table up to what a commit has not reached -/

/-- The tally table but for its length. -/
def cellsBounded (cells : List TallyCell) (st : ReportState) : Prop :=
  cells.Pairwise (fun a b => cellKey a ≤ cellKey b ∧ ¬(a.rect = b.rect ∧ a.species = b.species)) ∧
  (∀ c ∈ cells, c.ok) ∧ (st = .none → ∀ c ∈ cells, c.settled)

theorem cellsBounded_map {cells : List TallyCell} {st st' : ReportState} (f : TallyCell → TallyCell)
    (h : cellsBounded cells st) (h1 : ∀ c, (f c).rect = c.rect ∧ (f c).species = c.species)
    (h2 : ∀ c ∈ cells, c.ok → (f c).ok) (h3 : st' = .none → ∀ c ∈ cells, (st = .none → c.settled) → (f c).settled) :
    cellsBounded (cells.map f) st' := by
  obtain ⟨a, b, e⟩ := h
  refine ⟨?_, ?_, ?_⟩
  · rw [List.pairwise_map]
    refine a.imp fun {x y} k => ?_
    unfold cellKey at *
    rw [(h1 x).1, (h1 x).2, (h1 y).1, (h1 y).2]; exact k
  · intro c hc; obtain ⟨x, hx, rfl⟩ := List.mem_map.1 hc; exact h2 x hx (b x hx)
  · intro hs c hc; obtain ⟨x, hx, rfl⟩ := List.mem_map.1 hc; exact h3 hs x hx fun k => e k x hx

/-- The quota table, with consumed right outside `X` and the state right outside `Y`. -/
def quotasPart (X Y : Species → Prop) (cells : List TallyCell) (quotas : List QuotaEntry) : Prop :=
  quotas.length ≤ 16 ∧
  quotas.Pairwise (fun a b => speciesRank a.species ≤ speciesRank b.species ∧ a.species ≠ b.species) ∧
  ∀ q ∈ quotas, (¬X q.species → q.consumed = min (retainedOf cells q.species) kgLimit) ∧
    (¬Y q.species → q.st = Device.quotaState q.consumed q.quota)

theorem quotasOk_iff (cells : List TallyCell) (quotas : List QuotaEntry) :
    quotasOk cells quotas ↔ quotasPart (fun _ => False) (fun _ => False) cells quotas := by
  unfold quotasOk quotasPart QuotaEntry.ok; simp

theorem quotasPart_map {X Y X' Y' : Species → Prop} {cells cells' : List TallyCell} {quotas : List QuotaEntry}
    (f : QuotaEntry → QuotaEntry) (h : quotasPart X Y cells quotas) (h1 : ∀ q, (f q).species = q.species)
    (h2 : ∀ q ∈ quotas, ¬X' q.species → (¬X q.species → q.consumed = min (retainedOf cells q.species) kgLimit) →
      (f q).consumed = min (retainedOf cells' q.species) kgLimit)
    (h3 : ∀ q ∈ quotas, ¬Y' q.species → (¬Y q.species → q.st = Device.quotaState q.consumed q.quota) →
      (f q).st = Device.quotaState (f q).consumed (f q).quota) :
    quotasPart X' Y' cells' (quotas.map f) := by
  obtain ⟨a, b, e⟩ := h
  refine ⟨by rw [List.length_map]; exact a, ?_, ?_⟩
  · rw [List.pairwise_map]
    refine b.imp fun {x y} k => ?_
    rw [h1, h1]; exact k
  · intro q hq; obtain ⟨x, hx, rfl⟩ := List.mem_map.1 hq
    rw [h1]
    exact ⟨fun k => h2 x hx k (e x hx).1, fun k => h3 x hx k (e x hx).2⟩

/-- A quota table changed only in owed marks. -/
theorem quotasPart_same {X Y : Species → Prop} {cells : List TallyCell} {quotas : List QuotaEntry}
    (f : QuotaEntry → QuotaEntry) (h : quotasPart X Y cells quotas)
    (h1 : ∀ q, (f q).species = q.species ∧ (f q).consumed = q.consumed ∧ (f q).quota = q.quota ∧ (f q).st = q.st) :
    quotasPart X Y cells (quotas.map f) :=
  quotasPart_map f h (fun q => (h1 q).1) (fun q _ k g => by rw [(h1 q).2.1]; exact g k)
    (fun q _ k g => by rw [(h1 q).2.1, (h1 q).2.2.1, (h1 q).2.2.2]; exact g k)

theorem retainedOf_map (f : TallyCell → TallyCell) (h : ∀ c, (f c).species = c.species ∧ (f c).retained.total = c.retained.total)
    (cells : List TallyCell) (sp : Species) : retainedOf (cells.map f) sp = retainedOf cells sp := by
  unfold retainedOf
  induction cells with
  | nil => rfl
  | cons x r ih =>
    rw [List.map_cons, List.filter_cons, List.filter_cons, (h x).1]
    split
    · simp only [List.map_cons, List.sum_cons, (h x).2, ih]
    · exact ih

theorem retainedOf_mapIf (p : TallyCell → Bool) (f : TallyCell → TallyCell) (sp : Species)
    (hp : ∀ c, p c = true → c.species ≠ sp ∧ (f c).species ≠ sp) (cells : List TallyCell) :
    retainedOf (mapIf p f cells) sp = retainedOf cells sp := by
  unfold retainedOf mapIf
  induction cells with
  | nil => rfl
  | cons x r ih =>
    rw [List.map_cons, List.filter_cons, List.filter_cons]
    cases hx : p x
    · simp only [Bool.false_eq_true, if_false]
      split
      · simp only [List.map_cons, List.sum_cons, ih]
      · exact ih
    · obtain ⟨u, v⟩ := hp x hx
      simp only [if_true, beq_eq_false_iff_ne.2 u, beq_eq_false_iff_ne.2 v, Bool.false_eq_true, if_false]
      exact ih

theorem retainedOf_insert (key : TallyCell → Nat) (c : TallyCell) (sp : Species) (h : c.species ≠ sp) (cells : List TallyCell) :
    retainedOf (insertBy key c cells) sp = retainedOf cells sp := by
  unfold retainedOf
  have hp := Device.insertBy_perm key c cells
  rw [((hp.filter _).map _).sum_eq, List.filter_cons, beq_eq_false_iff_ne.2 h]; rfl

/-! ## Quota entries, evaluated -/

namespace Device

theorem quota_some {d : Device} {sp : Species} {q : QuotaEntry} (h : d.quota? sp = some q) : q ∈ d.log.quotas ∧ q.species = sp :=
  ⟨List.mem_of_find?_eq_some h, by simpa using List.find?_some h⟩

/-- Two entries of one species are one. -/
theorem quota_unique {l : List QuotaEntry} (h : l.Pairwise fun a b => speciesRank a.species ≤ speciesRank b.species ∧ a.species ≠ b.species)
    {q q' : QuotaEntry} (h1 : q ∈ l) (h2 : q' ∈ l) (h3 : q.species = q'.species) : q = q' := by
  induction l with
  | nil => cases h1
  | cons x r ih =>
    rw [List.pairwise_cons] at h
    rcases List.mem_cons.1 h1 with e1 | g1 <;> rcases List.mem_cons.1 h2 with e2 | g2
    · rw [e1, e2]
    · subst e1; exact absurd h3 (h.1 _ g2).2
    · subst e2; exact absurd h3.symm (h.1 _ g1).2
    · exact ih h.2 g1 g2

/-- What a report of an entry changes of the log: an owed mark. -/
theorem reportQuota_log (d : Device) (sp prev cause) :
    ∃ f : QuotaEntry → QuotaEntry, (∀ q, (f q).species = q.species ∧ (f q).consumed = q.consumed ∧ (f q).quota = q.quota ∧ (f q).st = q.st) ∧
      (d.reportQuota sp prev cause).log = { d.log with quotas := d.log.quotas.map f } ∧
      (d.reportQuota sp prev cause).rep = d.rep ∧ (d.reportQuota sp prev cause).distress = d.distress ∧
      (d.reportQuota sp prev cause).weather = d.weather := by
  unfold reportQuota
  split
  · exact ⟨id, fun q => ⟨rfl, rfl, rfl, rfl⟩, by simp, rfl, rfl, rfl⟩
  · dsimp only
    split
    · refine ⟨fun q => if q.species == sp then { q with owedFrom := some prev } else q, fun q => ?_, ?_, ?_, ?_, ?_⟩
      · dsimp only; split <;> exact ⟨rfl, rfl, rfl, rfl⟩
      all_goals (rw [report_eq]; rfl)
    · refine ⟨id, fun q => ⟨rfl, rfl, rfl, rfl⟩, ?_, ?_, ?_, ?_⟩ <;> rw [report_eq]
      rw [List.map_id]

/-- An entry evaluated has its state right. -/
theorem evaluateQuota_log (d : Device) (sp cause) (X Y : Species → Prop) (h : quotasPart X Y d.log.cells d.log.quotas) :
    let e := (d.evaluateQuota sp cause).2
    e.log.cells = d.log.cells ∧ e.log.quotas.map (fun q => q.species) = d.log.quotas.map (fun q => q.species) ∧
    quotasPart X (fun s => Y s ∧ s ≠ sp) e.log.cells e.log.quotas ∧
    e.rep = d.rep ∧ e.distress = d.distress ∧ e.weather = d.weather := by
  intro e
  show _ ∧ _
  have he : e = (d.evaluateQuota sp cause).2 := rfl
  clear_value e
  unfold evaluateQuota at he
  cases hq : d.quota? sp with
  | none =>
    rw [hq] at he; dsimp only at he; subst he
    refine ⟨rfl, rfl, ⟨h.1, h.2.1, fun q hm => ⟨(h.2.2 q hm).1, fun k => (h.2.2 q hm).2 fun y => k ⟨y, ?_⟩⟩⟩, rfl, rfl, rfl⟩
    rintro rfl
    have := List.find?_eq_none.1 hq q hm
    simp at this
  | some q =>
    rw [hq] at he; dsimp only at he
    obtain ⟨hm, hsp⟩ := quota_some hq
    have uniq : ∀ x ∈ d.log.quotas, x.species = sp → x = q := fun x hx hs => quota_unique h.2.1 hx hm (by rw [hs, hsp])
    split at he
    · rename_i hst
      dsimp only at he; subst he
      refine ⟨rfl, rfl, ⟨h.1, h.2.1, fun x hx => ⟨(h.2.2 x hx).1, fun k => ?_⟩⟩, rfl, rfl, rfl⟩
      by_cases hs : x.species = sp
      · rw [uniq x hx hs, hst]
      · exact (h.2.2 x hx).2 fun y => k ⟨y, hs⟩
    · dsimp only at he
      obtain ⟨f, f1, f2, f3, f4, f5⟩ := reportQuota_log (d.onQuota sp fun x => { x with st := quotaState q.consumed q.quota }) sp (some q.st) cause
      rw [← he] at f2 f3 f4 f5
      have key : quotasPart X (fun s => Y s ∧ s ≠ sp) d.log.cells (mapIf (fun x => x.species == sp) (fun x => { x with st := quotaState q.consumed q.quota }) d.log.quotas) := by
        unfold mapIf
        refine quotasPart_map _ h (fun x => by dsimp only; split <;> rfl) ?_ ?_
        · intro x hx k g
          have : (if (x.species == sp) = true then { x with st := quotaState q.consumed q.quota } else x).consumed = x.consumed := by split <;> rfl
          rw [this]; exact g k
        · intro x hx k g
          by_cases hs : x.species = sp
          · rw [if_pos (by simpa using hs), uniq x hx hs]
          · rw [if_neg (by simpa using hs)]
            exact g fun y => k ⟨y, hs⟩
      refine ⟨by rw [f2]; rfl, ?_, ?_, f3, f4, f5⟩
      · rw [f2]
        show List.map _ (List.map f (mapIf _ _ _)) = _
        unfold mapIf
        rw [List.map_map, List.map_map]
        refine List.map_congr_left fun x _ => ?_
        simp only [Function.comp_apply, (f1 _).1]
        split <;> rfl
      · rw [f2]
        exact quotasPart_same f key f1

/-! ## A commit's cells -/

/-- The tables during a commit of lines of the species `touched` to the cells of `rect`: room is kept for the keys still to
be made, and the entries of other species are in step. -/
def committing (rect : Nat) (touched : List Species) (d : Device) : Prop :=
  d.log.cells.length + (touched.filter fun sp => (d.cell? rect sp).isNone).length ≤ 60 ∧ cellsBounded d.log.cells d.rep.st ∧
  quotasPart (fun s => s ∈ touched) (fun s => s ∈ touched) d.log.cells d.log.quotas

theorem cell_none {d : Device} {rect : Nat} {sp : Species} (h : d.cell? rect sp = none) (c : TallyCell) (hc : c ∈ d.log.cells) :
    ¬(c.rect = rect ∧ c.species = sp) := by
  have := List.find?_eq_none.1 h c hc
  simpa using this

theorem filter_lt {α : Type} (p q : α → Bool) (l : List α) (h : ∀ x, q x = true → p x = true) (x : α) (hx : x ∈ l)
    (h1 : p x = true) (h2 : q x = false) : (l.filter q).length + 1 ≤ (l.filter p).length := by
  induction l with
  | nil => cases hx
  | cons y r ih =>
    have hle : (r.filter q).length ≤ (r.filter p).length := (List.monotone_filter_right r h).length_le
    rcases List.mem_cons.1 hx with rfl | hx
    · simp [h1, h2, hle]
    · have := ih hx
      rw [List.filter_cons, List.filter_cons]
      cases hq : q y
      · cases p y <;> simp <;> omega
      · simp [h y hq]; omega

/-- One cell of a commit changed, made first when it does not exist. -/
theorem onCell_committing (d : Device) (rect : Nat) (touched : List Species) (sp : Species) (f : TallyCell → TallyCell)
    (hsp : sp ∈ touched)
    (hf : ∀ c, (f c).rect = c.rect ∧ (f c).species = c.species ∧ (c.ok → (f c).ok) ∧ (c.settled → (f c).settled))
    (h : committing rect touched d) : committing rect touched (d.onCell rect sp f) := by
  obtain ⟨h1, h2, h3⟩ := h
  unfold onCell
  cases hc : d.cell? rect sp with
  | none =>
    dsimp only
    have hn : ∀ s, Device.cell? (d.onLog fun l => { l with cells := insertBy cellKey (f (.empty rect sp)) l.cells }) rect s = none →
        d.cell? rect s = none ∧ s ≠ sp := by
      intro s hs
      have hall := List.find?_eq_none.1 hs
      refine ⟨List.find?_eq_none.2 fun c hm => hall c ((mem_insertBy _ _ _ _).2 (Or.inr hm)), ?_⟩
      rintro rfl
      have := hall _ ((mem_insertBy _ _ _ _).2 (Or.inl rfl))
      rw [(hf _).1, (hf _).2.1] at this
      simp [TallyCell.empty] at this
    refine ⟨?_, ⟨?_, ?_, ?_⟩, ?_⟩
    · have := filter_lt (fun s => (d.cell? rect s).isNone)
        (fun s => (Device.cell? (d.onLog fun l => { l with cells := insertBy cellKey (f (.empty rect sp)) l.cells }) rect s).isNone) touched
        (fun s hs => by
          have := (hn s (by simpa using hs)).1
          simp [this]) sp hsp (by simp [hc]) (by
          cases hh : Device.cell? (d.onLog fun l => { l with cells := insertBy cellKey (f (.empty rect sp)) l.cells }) rect sp with
          | none => exact absurd rfl (hn sp hh).2
          | some _ => rfl)
      show (insertBy cellKey (f (.empty rect sp)) d.log.cells).length + _ ≤ 60
      rw [length_insertBy]
      omega
    · refine pairwise_insertBy cellKey (fun a b => ¬(a.rect = b.rect ∧ a.species = b.species)) (fun a b k e => k ⟨e.1.symm, e.2.symm⟩) _ _ ?_ h2.1
      intro y hy e
      rw [(hf _).1, (hf _).2.1] at e
      exact cell_none hc y hy ⟨e.1.symm, e.2.symm⟩
    · intro c hm
      rcases (mem_insertBy _ _ _ _).1 hm with rfl | hm
      · refine (hf _).2.2.1 ⟨⟨Nat.le_refl 0, Nat.zero_le _⟩, ⟨Nat.le_refl 0, Nat.zero_le _⟩, ⟨Nat.le_refl 0, Nat.zero_le _⟩⟩
      · exact h2.2.1 c hm
    · intro hs c hm
      rcases (mem_insertBy _ _ _ _).1 hm with rfl | hm
      · exact (hf _).2.2.2 ⟨rfl, rfl, rfl⟩
      · exact h2.2.2 hs c hm
    · refine ⟨h3.1, h3.2.1, fun q hq => ⟨fun k => ?_, (h3.2.2 q hq).2⟩⟩
      show q.consumed = min (retainedOf (insertBy cellKey (f (.empty rect sp)) d.log.cells) q.species) kgLimit
      rw [retainedOf_insert _ _ _ (by rw [(hf _).2.1]; rintro e; exact k (by rw [← e]; exact hsp))]
      exact (h3.2.2 q hq).1 k
  | some c =>
    dsimp only
    have hrs : ∀ x, (if (x.rect == rect && x.species == sp) = true then f x else x).rect = x.rect ∧
        (if (x.rect == rect && x.species == sp) = true then f x else x).species = x.species := by
      intro x; split
      · exact ⟨(hf x).1, (hf x).2.1⟩
      · exact ⟨rfl, rfl⟩
    have hsame : ∀ s, Option.isNone (Device.cell? (d.onLog fun l => { l with cells := mapIf (fun c => c.rect == rect && c.species == sp) f l.cells }) rect s) = (d.cell? rect s).isNone := by
      intro s
      show (List.find? _ (List.map _ d.log.cells)).isNone = _
      rw [List.find?_map]
      simp only [Option.isNone_map]
      unfold cell?
      congr 2
      funext x
      simp only [Function.comp_apply]
      rw [(hrs x).1, (hrs x).2]
    refine ⟨?_, ?_, ?_⟩
    · show (mapIf _ f d.log.cells).length + _ ≤ 60
      rw [mapIf_length, List.filter_congr (fun s _ => hsame s)]
      exact h1
    · show cellsBounded (mapIf _ f d.log.cells) d.rep.st
      unfold mapIf
      refine cellsBounded_map _ h2 hrs ?_ ?_
      · intro x _ k; split
        · exact (hf x).2.2.1 k
        · exact k
      · intro hs x _ k; split
        · exact (hf x).2.2.2 (k hs)
        · exact k hs
    · refine ⟨h3.1, h3.2.1, fun q hq => ⟨fun k => ?_, (h3.2.2 q hq).2⟩⟩
      show q.consumed = min (retainedOf (mapIf _ f d.log.cells) q.species) kgLimit
      rw [retainedOf_mapIf]
      · exact (h3.2.2 q hq).1 k
      · intro x hx
        have hx2 : x.species = sp := by simp only [Bool.and_eq_true, beq_iff_eq] at hx; exact hx.2
        have : sp ≠ q.species := fun e => k (by rw [← e]; exact hsp)
        rw [(hf x).2.1, hx2]
        exact ⟨this, this⟩

end Device

theorem foldl_tablesOk {α : Type} (f : Device → α → Device) (h : ∀ d x, d.tablesOk → (f d x).tablesOk)
    (l : List α) (d : Device) (h0 : d.tablesOk) : (l.foldl f d).tablesOk := by
  induction l generalizing d with
  | nil => exact h0
  | cons x r ih => exact ih _ (h d x h0)

theorem Device.orPending_tablesOk (d : Device) (i : Nat) (k : Device → Device)
    (h1 : ∀ o, (d.endTransfer i o).tablesOk) (h2 : (k d).tablesOk) : (d.orPending i k).tablesOk := by
  unfold Device.orPending
  split
  · exact h1 _
  · exact h2

@[simp] theorem Device.mk_tablesOk (a1 : Time) (a2 : Bool) (a3 : Nat) (a4 : Pins) (a5 : Setup) (a6 : Rx) (a7 : Option Tx)
    (a8 : RxCounts) (a9 : Access) (a10 : Protection) (a11 : LoopTest) (a12 : Store) (a13 : NeighTable)
    (a14 : List Wait) (a15 : Transfers) (a16 : DistressUnit) (a17 : WeatherStore) (a18 : CatchLog)
    (a19 : ReportBuilder) (a20 : Console) :
    Device.tablesOk ⟨a1, a2, a3, a4, a5, a6, a7, a8, a9, a10, a11, a12, a13, a14, a15, a16, a17, a18, a19, a20⟩
      ↔ Tables.ok a16.cases.length a16.settled.length a17.forecasts.length a17.warnings.length a18.cells a18.quotas
          a19.st := ⟨id, id⟩

@[simp] theorem Device.tablesOk_eta (d : Device) :
    Tables.ok d.distress.cases.length d.distress.settled.length d.weather.forecasts.length d.weather.warnings.length
      d.log.cells d.log.quotas d.rep.st ↔ d.tablesOk := ⟨id, id⟩

@[simp] theorem Device.onConsole_tablesOk (d : Device) (f : Console → Console) : (d.onConsole f).tablesOk ↔ d.tablesOk := ⟨id, id⟩
@[simp] theorem Device.onXfer_tablesOk (d : Device) (f : Transfers → Transfers) : (d.onXfer f).tablesOk ↔ d.tablesOk := ⟨id, id⟩
@[simp] theorem Device.onLane_tablesOk (d : Device) (n : LaneName) (f : Lane → Lane) : (d.onLane n f).tablesOk ↔ d.tablesOk := by
  cases n <;> exact ⟨id, id⟩

@[simp] theorem Device.onLog_tablesOk (d : Device) (f : CatchLog → CatchLog) (h1 : (f d.log).cells = d.log.cells)
    (h2 : (f d.log).quotas = d.log.quotas) : (d.onLog f).tablesOk ↔ d.tablesOk := by
  simp only [Device.tablesOk, Device.onLog, h1, h2]

@[simp] theorem Device.onDistress_tablesOk (d : Device) (f : DistressUnit → DistressUnit)
    (h1 : (f d.distress).cases.length = d.distress.cases.length)
    (h2 : (f d.distress).settled.length = d.distress.settled.length) : (d.onDistress f).tablesOk ↔ d.tablesOk := by
  simp only [Device.tablesOk, Device.onDistress, h1, h2]

@[simp] theorem Device.onWeather_tablesOk (d : Device) (f : WeatherStore → WeatherStore)
    (h1 : (f d.weather).forecasts.length = d.weather.forecasts.length)
    (h2 : (f d.weather).warnings.length = d.weather.warnings.length) : (d.onWeather f).tablesOk ↔ d.tablesOk := by
  simp only [Device.tablesOk, Device.onWeather, h1, h2]

@[simp] theorem Device.onRep_tablesOk (d : Device) (f : ReportBuilder → ReportBuilder)
    (h1 : (f d.rep).st = d.rep.st) : (d.onRep f).tablesOk ↔ d.tablesOk := by
  simp only [Device.tablesOk, Device.onRep, h1]

@[simp] theorem Device.queueEntry_tablesOk (d : Device) (n : LaneName) (e : Entry) (h0 : d.tablesOk) :
    (d.queueEntry n e).tablesOk := by
  unfold Device.queueEntry
  split <;> simp [h0]

theorem Device.tablesOk_iff (d : Device) : d.tablesOk ↔
    d.distress.cases.length ≤ 6 ∧ d.distress.settled.length ≤ 64 ∧ d.weather.forecasts.length ≤ 16 ∧
    d.weather.warnings.length ≤ 6 ∧ (d.log.cells.length ≤ 60 ∧ cellsBounded d.log.cells d.rep.st) ∧
    quotasPart (fun _ => False) (fun _ => False) d.log.cells d.log.quotas := by
  rw [← quotasOk_iff]
  exact ⟨id, id⟩

/-- Weather records taken off, or changed one by one. -/
theorem Device.onWeather_tablesOk_le (d : Device) (f : WeatherStore → WeatherStore)
    (h1 : (f d.weather).forecasts.length ≤ d.weather.forecasts.length)
    (h2 : (f d.weather).warnings.length ≤ d.weather.warnings.length) (h0 : d.tablesOk) : (d.onWeather f).tablesOk := by
  obtain ⟨a, b, c, e, r⟩ := h0
  exact ⟨a, b, Nat.le_trans h1 c, Nat.le_trans h2 e, r⟩

/-- A report in flight. -/
theorem Device.onRep_tablesOk_busy (d : Device) (f : ReportBuilder → ReportBuilder) (h1 : (f d.rep).st ≠ .none)
    (h0 : d.tablesOk) : (d.onRep f).tablesOk := by
  obtain ⟨a, b, c, e, ⟨g1, g2, g3, _⟩, r⟩ := h0
  exact ⟨a, b, c, e, ⟨g1, g2, g3, fun k => absurd k h1⟩, r⟩

/-- Quota entries changed in owed marks alone. -/
theorem Device.onLog_tablesOk_marks (d : Device) (f : QuotaEntry → QuotaEntry)
    (h : ∀ q, (f q).species = q.species ∧ (f q).consumed = q.consumed ∧ (f q).quota = q.quota ∧ (f q).st = q.st)
    (h0 : d.tablesOk) : (d.onLog fun l => { l with quotas := l.quotas.map f }).tablesOk := by
  rw [Device.tablesOk_iff] at *
  obtain ⟨a, b, c, e, g, r⟩ := h0
  exact ⟨a, b, c, e, g, quotasPart_same f r h⟩

@[simp] theorem Device.reserve_tablesOk (d : Device) (h : Holder) (size : Nat) :
    (d.reserve h size).2.tablesOk ↔ d.tablesOk := ⟨id, id⟩

@[simp] theorem Device.writeText_tablesOk (d : Device) (g i : Nat) (syms : List Nat) :
    (d.writeText g i syms).tablesOk ↔ d.tablesOk := ⟨fun h => h, fun h => h⟩

theorem Device.reserve_eq_tablesOk {d e : Device} {h : Holder} {size : Nat} {r : Reserved}
    (h1 : d.reserve h size = (r, e)) (h0 : d.tablesOk) : e.tablesOk := by
  have h2 := Device.reserve_tablesOk d h size
  rw [h1] at h2
  exact h2.2 h0

@[simp] theorem Device.onStore_tablesOk (d : Device) (f : Store → Store) : (d.onStore f).tablesOk ↔ d.tablesOk := ⟨id, id⟩
@[simp] theorem Device.onAccess_tablesOk (d : Device) (f : Access → Access) : (d.onAccess f).tablesOk ↔ d.tablesOk := ⟨id, id⟩
@[simp] theorem Device.onProt_tablesOk (d : Device) (f : Protection → Protection) : (d.onProt f).tablesOk ↔ d.tablesOk := ⟨id, id⟩
@[simp] theorem Device.onLoop_tablesOk (d : Device) (f : LoopTest → LoopTest) : (d.onLoop f).tablesOk ↔ d.tablesOk := ⟨id, id⟩
@[simp] theorem Device.onRx_tablesOk (d : Device) (f : Rx → Rx) : (d.onRx f).tablesOk ↔ d.tablesOk := ⟨id, id⟩
@[simp] theorem Device.onRxCounts_tablesOk (d : Device) (f : RxCounts → RxCounts) : (d.onRxCounts f).tablesOk ↔ d.tablesOk := ⟨id, id⟩
@[simp] theorem Device.onNeigh_tablesOk (d : Device) (f : NeighTable → NeighTable) : (d.onNeigh f).tablesOk ↔ d.tablesOk := ⟨id, id⟩

@[simp] theorem Device.reach_tablesOk (d : Device) (t : Time) (h0 : d.tablesOk) :
    (Device.reach d t).tablesOk := by
  unfold Device.reach
  simp [h0]

@[simp] theorem Device.draw_tablesOk (d : Device) (lo hi : Nat) (h0 : d.tablesOk) :
    (Device.draw d lo hi).2.tablesOk := by
  unfold Device.draw
  simp [h0]

@[simp] theorem Device.addMark_tablesOk (d : Device) (n : LaneName) (r : OwedRef) (h0 : d.tablesOk) :
    (Device.addMark d n r).tablesOk := by
  unfold Device.addMark
  simp [h0]

@[simp] theorem Device.dropMark_tablesOk (d : Device) (n : LaneName) (r : OwedRef) (h0 : d.tablesOk) :
    (Device.dropMark d n r).tablesOk := by
  unfold Device.dropMark
  simp [h0]

@[simp] theorem Device.passMark_tablesOk (d : Device) (n : LaneName) (old new : OwedRef) (h0 : d.tablesOk) :
    (Device.passMark d n old new).tablesOk := by
  unfold Device.passMark
  rw [Device.onLane_tablesOk]
  exact h0

@[simp] theorem Device.reportTagged_tablesOk (d : Device) (kind : ReportKind) (tag : Nat) (r : OwedRef) (data : List Datum) (h0 : d.tablesOk) :
    (Device.reportTagged d kind tag r data).tablesOk := by
  unfold Device.reportTagged
  try dsimp only
  repeat' split
  all_goals first
    | simp (maxDischargeDepth := 16) [*]

@[simp] theorem Device.report_tablesOk (d : Device) (kind : ReportKind) (r : OwedRef) (data : List Datum) (h0 : d.tablesOk) :
    (Device.report d kind r data).tablesOk := by
  unfold Device.report
  simp [h0]

@[simp] theorem Device.reportOrLose_tablesOk (d : Device) (kind : ReportKind) (tag : Nat) (data : List Datum) (h0 : d.tablesOk) :
    (Device.reportOrLose d kind tag data).2.tablesOk := by
  unfold Device.reportOrLose
  try dsimp only
  repeat' split
  all_goals first
    | simp (maxDischargeDepth := 16) [*]

@[simp] theorem Device.offer_tablesOk (d : Device) (it : Item) (h0 : d.tablesOk) :
    (Device.offer d it).tablesOk := by
  unfold Device.offer
  simp [h0]

@[simp] theorem Device.withdraw_tablesOk (d : Device) (c : AccessClass) (p : Item → Bool) (h0 : d.tablesOk) :
    (Device.withdraw d c p).tablesOk := by
  unfold Device.withdraw
  simp [h0]

@[simp] theorem Device.bumpAcksDropped_tablesOk (d : Device) (h0 : d.tablesOk) :
    (Device.bumpAcksDropped d).tablesOk := by
  unfold Device.bumpAcksDropped
  simp [h0]

@[simp] theorem Device.offerAck_tablesOk (d : Device) (dest : Station) (num idx answer : Nat) (endTime : Time) (h0 : d.tablesOk) :
    (Device.offerAck d dest num idx answer endTime).tablesOk := by
  unfold Device.offerAck
  try dsimp only
  repeat' split
  all_goals first
    | simp (maxDischargeDepth := 16) [*]

@[simp] theorem Device.enterClear_tablesOk (d : Device) (h0 : d.tablesOk) :
    (Device.enterClear d).tablesOk := by
  unfold Device.enterClear
  repeat' (first | with_reducible exact h0 | simp [h0] | split)

@[simp] theorem Device.leaveClear_tablesOk (d : Device) (ch : Channel) (h0 : d.tablesOk) :
    (Device.leaveClear d ch).tablesOk := by
  unfold Device.leaveClear
  simp [h0]

@[simp] theorem Device.settleChannel_tablesOk (d : Device) (h0 : d.tablesOk) :
    (Device.settleChannel d).tablesOk := by
  unfold Device.settleChannel
  repeat' (first | with_reducible exact h0 | simp [h0] | split)

@[simp] theorem Device.makeContender_tablesOk (d : Device) (c : AccessClass) (it : Item) (h0 : d.tablesOk) :
    (Device.makeContender d c it).tablesOk := by
  unfold Device.makeContender
  repeat' (first | with_reducible exact h0 | simp [h0] | split)

@[simp] theorem Device.selectContender_tablesOk (d : Device) (c : AccessClass) (h0 : d.tablesOk) :
    (Device.selectContender d c).tablesOk := by
  unfold Device.selectContender
  repeat' (first | with_reducible exact h0 | simp [h0] | split)

@[simp] theorem Device.selectAll_tablesOk (d : Device) (h0 : d.tablesOk) :
    (Device.selectAll d).tablesOk := by
  unfold Device.selectAll
  exact foldl_tablesOk _ (fun _ _ h => by simp (maxDischargeDepth := 16) [h]) _ _ (by simp (maxDischargeDepth := 16) [h0])

@[simp] theorem Device.refreshEligible_tablesOk (d : Device) (h0 : d.tablesOk) :
    (Device.refreshEligible d).tablesOk := by
  unfold Device.refreshEligible
  exact foldl_tablesOk _ (fun _ _ h => by simp (maxDischargeDepth := 16) [h]) _ _ (by simp (maxDischargeDepth := 16) [h0])

@[simp] theorem Device.countSlots_tablesOk (d : Device) (h0 : d.tablesOk) :
    (Device.countSlots d).tablesOk := by
  unfold Device.countSlots
  exact foldl_tablesOk _ (fun _ _ h => by simp (maxDischargeDepth := 16) [h]) _ _ (by simp (maxDischargeDepth := 16) [h0])

@[simp] theorem Device.onNeighbour_tablesOk (d : Device) (st : Station) (f : Neigh → Neigh) (h0 : d.tablesOk) :
    (Device.onNeighbour d st f).tablesOk := by
  unfold Device.onNeighbour
  simp [h0]

@[simp] theorem Device.removeNeighbour_tablesOk (d : Device) (st : Station) (h0 : d.tablesOk) :
    (Device.removeNeighbour d st).tablesOk := by
  unfold Device.removeNeighbour
  simp [h0]

@[simp] theorem Device.onNeighCounts_tablesOk (d : Device) (f : NeighCounts → NeighCounts) (h0 : d.tablesOk) :
    (Device.onNeighCounts d f).tablesOk := by
  unfold Device.onNeighCounts
  simp [h0]

@[simp] theorem Device.headerFacts_tablesOk (d : Device) (st : Station) (score : Nat) (endTime : Time) (h0 : d.tablesOk) :
    (Device.headerFacts d st score endTime).1.tablesOk := by
  unfold Device.headerFacts
  repeat' (first | with_reducible exact h0 | simp [h0] | split)

@[simp] theorem Device.goStale_tablesOk (d : Device) (st : Station) (h0 : d.tablesOk) :
    (Device.goStale d st).1.tablesOk := by
  unfold Device.goStale
  repeat' (first | with_reducible exact h0 | simp [h0] | split)

@[simp] theorem Device.removeAtTime_tablesOk (d : Device) (st : Station) (h0 : d.tablesOk) :
    (Device.removeAtTime d st).tablesOk := by
  unfold Device.removeAtTime
  split <;> simp [h0]

@[simp] theorem Device.removeUnpinned_tablesOk (d : Device) (h0 : d.tablesOk) :
    (Device.removeUnpinned d).tablesOk := by
  unfold Device.removeUnpinned
  simp [h0]

@[simp] theorem Device.charge_tablesOk (d : Device) (st : Station) (h0 : d.tablesOk) :
    (Device.charge d st).tablesOk := by
  unfold Device.charge
  simp [h0]

@[simp] theorem Device.avoid_tablesOk (d : Device) (st : Station) (h0 : d.tablesOk) :
    (Device.avoid d st).tablesOk := by
  unfold Device.avoid
  simp [h0]

@[simp] theorem Device.avoidPassed_tablesOk (d : Device) (st : Station) (h0 : d.tablesOk) :
    (Device.avoidPassed d st).1.tablesOk := by
  unfold Device.avoidPassed
  simp [h0]

@[simp] theorem Device.clearWilling_tablesOk (d : Device) (st : Station) (h0 : d.tablesOk) :
    (Device.clearWilling d st).1.tablesOk := by
  unfold Device.clearWilling
  repeat' (first | with_reducible exact h0 | simp [h0] | split)

@[simp] theorem Device.beaconFacts_tablesOk (d : Device) (b : Burst) (h0 : d.tablesOk) :
    (Device.beaconFacts d b).1.tablesOk := by
  unfold Device.beaconFacts
  repeat' (first | with_reducible exact h0 | simp [h0] | split)

@[simp] theorem Device.skipBeacon_tablesOk (d : Device) (h0 : d.tablesOk) :
    (Device.skipBeacon d).tablesOk := by
  unfold Device.skipBeacon
  simp [h0]

@[simp] theorem Device.dropBeacon_tablesOk (d : Device) (h0 : d.tablesOk) :
    (Device.dropBeacon d).tablesOk := by
  unfold Device.dropBeacon
  split <;> simp [h0]

@[simp] theorem Device.beaconFalls_tablesOk (d : Device) (due : Time) (h0 : d.tablesOk) :
    (Device.beaconFalls d due).tablesOk := by
  unfold Device.beaconFalls
  dsimp only
  repeat' (first
    | with_reducible assumption
    | simp (maxDischargeDepth := 16) [*]
    | split)

@[simp] theorem Device.removeWait_tablesOk (d : Device) (k : WaitKind) (st num : Nat) (h0 : d.tablesOk) :
    (Device.removeWait d k st num).tablesOk := by
  unfold Device.removeWait
  simp [h0]

@[simp] theorem Device.refuseWait_tablesOk (d : Device) (h0 : d.tablesOk) :
    (Device.refuseWait d).tablesOk := by
  unfold Device.refuseWait
  simp [h0]

@[simp] theorem Device.addWait_tablesOk (d : Device) (k : WaitKind) (st num : Nat) (h0 : d.tablesOk) :
    (Device.addWait d k st num).tablesOk := by
  unfold Device.addWait
  repeat' (first | with_reducible exact h0 | simp [h0] | split)

@[simp] theorem Device.startWait_tablesOk (d : Device) (k : WaitKind) (st num : Nat) (h0 : d.tablesOk) :
    (Device.startWait d k st num).2.2.tablesOk := by
  unfold Device.startWait
  try dsimp only
  repeat' split
  all_goals first
    | simp (maxDischargeDepth := 16) [*]

@[simp] theorem Device.onSlot_tablesOk (d : Device) (i : Nat) (f : Slot → Slot) (h0 : d.tablesOk) :
    (Device.onSlot d i f).tablesOk := by
  unfold Device.onSlot
  simp [h0]

@[simp] theorem Device.onXferCounts_tablesOk (d : Device) (f : XferCounts → XferCounts) (h0 : d.tablesOk) :
    (Device.onXferCounts d f).tablesOk := by
  unfold Device.onXferCounts
  simp [h0]

@[simp] theorem Device.takeSlot_tablesOk (d : Device) (i : Nat) (st : SlotState) (origin : Origin) (tag : Nat) (cls : MsgClass) (dest orig : Station) (grant : Option Nat) (len : Nat) (h0 : d.tablesOk) :
    (Device.takeSlot d i st origin tag cls dest orig grant len).tablesOk := by
  unfold Device.takeSlot
  simp [h0]

@[simp] theorem Device.withdrawData_tablesOk (d : Device) (i : Nat) (h0 : d.tablesOk) :
    (Device.withdrawData d i).tablesOk := by
  unfold Device.withdrawData
  simp [h0]

@[simp] theorem Device.goReady_tablesOk (d : Device) (i : Nat) (h0 : d.tablesOk) :
    (Device.goReady d i).tablesOk := by
  unfold Device.goReady
  split <;> simp [h0]

@[simp] theorem Device.takeAnswer_tablesOk (d : Device) (i : Nat) (ans : Option Station) (h0 : d.tablesOk) :
    (Device.takeAnswer d i ans).tablesOk := by
  unfold Device.takeAnswer
  dsimp only
  repeat' (first
    | with_reducible assumption
    | simp (maxDischargeDepth := 16) [*]
    | split)

@[simp] theorem Device.askRoute_tablesOk (d : Device) (i : Nat) (h0 : d.tablesOk) :
    (Device.askRoute d i).tablesOk := by
  unfold Device.askRoute
  simp [h0]

@[simp] theorem Device.startRoute_tablesOk (d : Device) (i : Nat) (h0 : d.tablesOk) :
    (Device.startRoute d i).tablesOk := by
  unfold Device.startRoute
  simp [h0]

@[simp] theorem Device.routeEvent_tablesOk (d : Device) (st : Station) (h0 : d.tablesOk) :
    (Device.routeEvent d st).tablesOk := by
  unfold Device.routeEvent
  exact foldl_tablesOk _ (fun _ _ h => by split <;> simp (maxDischargeDepth := 16) [h]) _ _ (by simp (maxDischargeDepth := 16) [h0])

@[simp] theorem Device.routeEvents_tablesOk (d : Device) (sts : List Station) (h0 : d.tablesOk) :
    (Device.routeEvents d sts).tablesOk := by
  unfold Device.routeEvents
  exact foldl_tablesOk _ (fun _ _ h => by simp (maxDischargeDepth := 16) [h]) _ _ (by simp (maxDischargeDepth := 16) [h0])

@[simp] theorem Device.refreshData_tablesOk (d : Device) (h0 : d.tablesOk) :
    (Device.refreshData d).tablesOk := by
  unfold Device.refreshData
  repeat' (first | with_reducible exact h0 | simp [h0] | split)

@[simp] theorem Device.onLogCounts_tablesOk (d : Device) (f : LogCounts → LogCounts) (h0 : d.tablesOk) :
    (Device.onLogCounts d f).tablesOk := by
  unfold Device.onLogCounts
  simp [h0]

@[simp] theorem Device.onHaul_tablesOk (d : Device) (i : Nat) (f : Haul → Haul) (h0 : d.tablesOk) :
    (Device.onHaul d i f).tablesOk := by
  unfold Device.onHaul
  simp [h0]



/-- A quota entry's owed mark. -/
theorem Device.onQuota_tablesOk (d : Device) (sp : Species) (f : QuotaEntry → QuotaEntry)
    (h : ∀ q, (f q).species = q.species ∧ (f q).consumed = q.consumed ∧ (f q).quota = q.quota ∧ (f q).st = q.st)
    (h0 : d.tablesOk) : (Device.onQuota d sp f).tablesOk := by
  refine Device.onLog_tablesOk_marks d _ (fun q => ?_) h0
  split
  · exact h q
  · exact ⟨rfl, rfl, rfl, rfl⟩

@[simp] theorem Device.reportQuota_tablesOk (d : Device) (sp : Species) (prev : Option QuotaState) (cause : Nat) (h0 : d.tablesOk) :
    (Device.reportQuota d sp prev cause).tablesOk := by
  obtain ⟨f, f1, f2, f3, f4, f5⟩ := Device.reportQuota_log d sp prev cause
  have := Device.onLog_tablesOk_marks d f f1 h0
  unfold Device.tablesOk at *
  rw [f2, f3, f4, f5]
  exact this

/-- An entry whose state alone may be wrong, evaluated. -/
theorem Device.evaluateQuota_tablesOk_of (d : Device) (sp : Species) (cause : Nat)
    (h1 : d.distress.cases.length ≤ 6 ∧ d.distress.settled.length ≤ 64 ∧ d.weather.forecasts.length ≤ 16 ∧
      d.weather.warnings.length ≤ 6 ∧ d.log.cells.length ≤ 60 ∧ cellsBounded d.log.cells d.rep.st)
    (h2 : quotasPart (fun _ => False) (fun s => s = sp) d.log.cells d.log.quotas) :
    (Device.evaluateQuota d sp cause).2.tablesOk := by
  obtain ⟨e1, _, e3, e4, e5, e6⟩ := Device.evaluateQuota_log d sp cause _ _ h2
  rw [Device.tablesOk_iff, e4, e5, e6]
  rw [e1] at e3 ⊢
  obtain ⟨a, b, c, e, f, g⟩ := h1
  refine ⟨a, b, c, e, ⟨f, g⟩, e3.1, e3.2.1, fun q hq => ⟨(e3.2.2 q hq).1, fun _ => (e3.2.2 q hq).2 fun y => y.2 y.1⟩⟩

@[simp] theorem Device.onRepCounts_tablesOk (d : Device) (f : RepCounts → RepCounts) (h0 : d.tablesOk) :
    (Device.onRepCounts d f).tablesOk := by
  unfold Device.onRepCounts
  simp [h0]

@[simp] theorem Device.reportCatchState_tablesOk (d : Device) (e : RepEvent) (minutes : Option Nat) (h0 : d.tablesOk) :
    (Device.reportCatchState d e minutes).tablesOk := by
  unfold Device.reportCatchState
  simp [h0]

@[simp] theorem Device.reportCatchKind_tablesOk (d : Device) (e : RepEvent) (kind : ReportReason) (h0 : d.tablesOk) :
    (Device.reportCatchKind d e kind).tablesOk := by
  unfold Device.reportCatchKind
  simp [h0]

@[simp] theorem Device.enterPending_tablesOk (d : Device) (kind : ReportReason) (h0 : d.tablesOk) :
    (Device.enterPending d kind).tablesOk := by
  unfold Device.enterPending
  split <;> simp [h0]

@[simp] theorem Device.build_tablesOk (d : Device) (kind : ReportReason) (i : Nat) (h0 : d.tablesOk) :
    (Device.build d kind i).tablesOk := by
  have key : Tables.ok d.distress.cases.length d.distress.settled.length d.weather.forecasts.length
      d.weather.warnings.length (mapIf makesLine (fun c => c.onAmounts .send) d.log.cells) d.log.quotas .inTransfer := by
    obtain ⟨a, b, c, e, ⟨f, g⟩, r⟩ := (Device.tablesOk_iff d).1 h0
    refine ⟨a, b, c, e, ⟨by rw [mapIf_length]; exact f, ?_⟩, ?_⟩
    · refine cellsBounded_map _ g (fun c => by split <;> exact ⟨rfl, rfl⟩) (fun c _ k => ?_) (fun k => by cases k)
      split
      · exact ⟨Amount.send_ok k.1, Amount.send_ok k.2.1, Amount.send_ok k.2.2⟩
      · exact k
    · rw [quotasOk_iff]
      refine ⟨r.1, r.2.1, fun q hq => ⟨fun k => ?_, (r.2.2 q hq).2⟩⟩
      rw [mapIf, retainedOf_map _ (fun c => by split <;> exact ⟨rfl, rfl⟩)]
      exact (r.2.2 q hq).1 k
  unfold Device.build
  dsimp only
  refine Device.reportCatchState_tablesOk _ _ _ (Device.onRepCounts_tablesOk _ _ (Device.startRoute_tablesOk _ _
    (Device.takeSlot_tablesOk _ _ _ _ _ _ _ _ _ _ ?_)))
  split <;> split <;> exact key

@[simp] theorem Device.tryBuild_tablesOk (d : Device) (kind : ReportReason) (h0 : d.tablesOk) :
    (Device.tryBuild d kind).tablesOk := by
  unfold Device.tryBuild
  try dsimp only
  repeat' split
  all_goals first
    | simp (maxDischargeDepth := 16) [*]

@[simp] theorem Device.trigger_tablesOk (d : Device) (kind : ReportReason) (h0 : d.tablesOk) :
    (Device.trigger d kind).tablesOk := by
  unfold Device.trigger
  split <;> simp [h0]

@[simp] theorem Device.buildPending_tablesOk (d : Device) (h0 : d.tablesOk) :
    (Device.buildPending d).tablesOk := by
  unfold Device.buildPending
  split <;> simp [h0]

@[simp] theorem Device.slotFreed_tablesOk (d : Device) (h0 : d.tablesOk) :
    (Device.slotFreed d).tablesOk := by
  unfold Device.slotFreed
  split <;> simp [h0]

@[simp] theorem Device.closeReport_tablesOk (d : Device) (e : Ending) (h0 : d.tablesOk) :
    (Device.closeReport d e).tablesOk := by
  have key : Tables.ok d.distress.cases.length d.distress.settled.length d.weather.forecasts.length
      d.weather.warnings.length (d.log.cells.map fun c => c.onAmounts fun a => a.settle (e == .accepted)) d.log.quotas
      .none := by
    obtain ⟨a, b, c, h, ⟨f, g⟩, r⟩ := (Device.tablesOk_iff d).1 h0
    refine ⟨a, b, c, h, ⟨by rw [List.length_map]; exact f, ?_⟩, ?_⟩
    · exact cellsBounded_map _ g (fun c => ⟨rfl, rfl⟩)
        (fun c _ k => ⟨(Amount.settle_ok _ k.1).1, (Amount.settle_ok _ k.2.1).1, (Amount.settle_ok _ k.2.2).1⟩)
        (fun _ c _ _ => ⟨rfl, rfl, rfl⟩)
    · rw [quotasOk_iff]
      refine ⟨r.1, r.2.1, fun q hq => ⟨fun k => ?_, (r.2.2 q hq).2⟩⟩
      rw [retainedOf_map (fun c => c.onAmounts fun a => a.settle (e == .accepted)) (fun c => ⟨rfl, rfl⟩)]
      exact (r.2.2 q hq).1 k
  unfold Device.closeReport
  dsimp only
  split <;> exact key

@[simp] theorem Device.countEnding_tablesOk (d : Device) (e : Ending) (h0 : d.tablesOk) :
    (Device.countEnding d e).tablesOk := by
  unfold Device.countEnding
  simp [h0]

@[simp] theorem Device.endReport_tablesOk (d : Device) (e : Ending) (cause : Option LostCause) (h0 : d.tablesOk) :
    (Device.endReport d e cause).tablesOk := by
  unfold Device.endReport
  simp (maxDischargeDepth := 16) [h0]

@[simp] theorem Device.catchOutcome_tablesOk (d : Device) (o : Outcome) (h0 : d.tablesOk) :
    (Device.catchOutcome d o).tablesOk := by
  unfold Device.catchOutcome
  repeat' split
  all_goals first
    | exact h0
    | (simp [h0]; done)
    | exact Device.reportCatchState_tablesOk _ _ _ (Device.onRep_tablesOk_busy _ _ (by simp) h0)

@[simp] theorem Device.removeReasm_tablesOk (d : Device) (src num : Nat) (h0 : d.tablesOk) :
    (Device.removeReasm d src num).tablesOk := by
  unfold Device.removeReasm
  simp [h0]

@[simp] theorem Device.onReasm_tablesOk (d : Device) (src num : Nat) (f : Reasm → Reasm) (h0 : d.tablesOk) :
    (Device.onReasm d src num f).tablesOk := by
  unfold Device.onReasm
  simp [h0]

@[simp] theorem Device.startRelay_tablesOk (d : Device) (i : Nat) (e : Reasm) (h0 : d.tablesOk) :
    (Device.startRelay d i e).tablesOk := by
  unfold Device.startRelay
  simp [h0]

@[simp] theorem Device.handOverRelay_tablesOk (d : Device) (e : Reasm) (h0 : d.tablesOk) :
    (Device.handOverRelay d e).tablesOk := by
  unfold Device.handOverRelay
  repeat' (first | with_reducible exact h0 | simp [h0] | split)

@[simp] theorem Device.retryHandOvers_tablesOk (d : Device) (h0 : d.tablesOk) :
    (Device.retryHandOvers d).tablesOk := by
  unfold Device.retryHandOvers
  exact foldl_tablesOk _ (fun _ _ h => by simp (maxDischargeDepth := 16) [h]) _ _ (by simp (maxDischargeDepth := 16) [h0])

@[simp] theorem Device.releaseOutbound_tablesOk (d : Device) (id : Nat) (h0 : d.tablesOk) :
    (Device.releaseOutbound d id).tablesOk := by
  unfold Device.releaseOutbound
  simp [h0]

@[simp] theorem Device.releaseGrant_tablesOk (d : Device) (id : Nat) (h0 : d.tablesOk) :
    (Device.releaseGrant d id).tablesOk := by
  unfold Device.releaseGrant
  simp [h0]

@[simp] theorem Device.freeSlot_tablesOk (d : Device) (i : Nat) (h0 : d.tablesOk) :
    (Device.freeSlot d i).tablesOk := by
  unfold Device.freeSlot
  simp [h0]

@[simp] theorem Device.discardReasm_tablesOk (d : Device) (e : Reasm) (h0 : d.tablesOk) :
    (Device.discardReasm d e).tablesOk := by
  unfold Device.discardReasm
  split <;> simp (maxDischargeDepth := 16) [h0]

@[simp] theorem Device.countOutcome_tablesOk (d : Device) (o : Outcome) (h0 : d.tablesOk) :
    (Device.countOutcome d o).tablesOk := by
  unfold Device.countOutcome
  simp [h0]

@[simp] theorem Device.endTransfer_tablesOk (d : Device) (i : Nat) (o : Outcome) (h0 : d.tablesOk) :
    (Device.endTransfer d i o).tablesOk := by
  unfold Device.endTransfer
  try dsimp only
  repeat' split
  all_goals first
    | simp (maxDischargeDepth := 16) [*]

@[simp] theorem Device.startConsole_tablesOk (d : Device) (i : Nat) (h0 : d.tablesOk) :
    (Device.startConsole d i).tablesOk := by
  unfold Device.startConsole
  try dsimp only
  repeat' split
  all_goals first
    | simp (maxDischargeDepth := 16) [*]

@[simp] theorem Device.hopFails_tablesOk (d : Device) (i : Nat) (h0 : d.tablesOk) :
    (Device.hopFails d i).tablesOk := by
  unfold Device.hopFails
  try dsimp only
  repeat' split
  all_goals first
    | simp (maxDischargeDepth := 16) [*]

@[simp] theorem Device.leaveAck_tablesOk (d : Device) (i : Nat) (h0 : d.tablesOk) :
    (Device.leaveAck d i).tablesOk := by
  unfold Device.leaveAck
  simp [h0]

@[simp] theorem Device.takeTimeout_tablesOk (d : Device) (i : Nat) (h0 : d.tablesOk) :
    (Device.takeTimeout d i).tablesOk := by
  unfold Device.takeTimeout
  dsimp only
  refine Device.orPending_tablesOk _ _ _ (fun _ => ?_) ?_
  all_goals (try dsimp only)
  all_goals repeat' split
  all_goals simp (maxDischargeDepth := 16) [h0]

@[simp] theorem Device.takeAccepted_tablesOk (d : Device) (i : Nat) (h0 : d.tablesOk) :
    (Device.takeAccepted d i).tablesOk := by
  unfold Device.takeAccepted
  dsimp only
  split
  · simp (maxDischargeDepth := 16) [h0]
  · refine Device.orPending_tablesOk _ _ _ (fun _ => ?_) ?_ <;> simp (maxDischargeDepth := 16) [h0]

@[simp] theorem Device.takeFull_tablesOk (d : Device) (i : Nat) (h0 : d.tablesOk) :
    (Device.takeFull d i).tablesOk := by
  unfold Device.takeFull
  dsimp only
  refine Device.orPending_tablesOk _ _ _ (fun _ => ?_) ?_
  all_goals (try dsimp only)
  all_goals repeat' split
  all_goals simp (maxDischargeDepth := 16) [h0]

@[simp] theorem Device.takeNoRelay_tablesOk (d : Device) (i : Nat) (h0 : d.tablesOk) :
    (Device.takeNoRelay d i).tablesOk := by
  unfold Device.takeNoRelay
  dsimp only
  repeat' split
  all_goals first
    | (simp (maxDischargeDepth := 16) [h0]; done)
    | (refine Device.orPending_tablesOk _ _ _ (fun _ => ?_) ?_ <;> simp (maxDischargeDepth := 16) [h0])

@[simp] theorem Device.takeUnknown_tablesOk (d : Device) (i : Nat) (h0 : d.tablesOk) :
    (Device.takeUnknown d i).tablesOk := by
  unfold Device.takeUnknown
  dsimp only
  refine Device.orPending_tablesOk _ _ _ (fun _ => ?_) ?_
  all_goals (try dsimp only)
  all_goals repeat' split
  all_goals simp (maxDischargeDepth := 16) [h0]

@[simp] theorem Device.receiveAck_tablesOk (d : Device) (b : Burst) (h0 : d.tablesOk) :
    (Device.receiveAck d b).tablesOk := by
  unfold Device.receiveAck
  try dsimp only
  repeat' split
  all_goals first
    | simp (maxDischargeDepth := 16) [*]

@[simp] theorem Device.takeWaitingTimeout_tablesOk (d : Device) (h0 : d.tablesOk) :
    (Device.takeWaitingTimeout d).tablesOk := by
  unfold Device.takeWaitingTimeout
  repeat' (first | with_reducible exact h0 | simp [h0] | split)

@[simp] theorem Device.dataKeyed_tablesOk (d : Device) (i : Nat) (h0 : d.tablesOk) :
    (Device.dataKeyed d i).tablesOk := by
  unfold Device.dataKeyed
  simp [h0]

@[simp] theorem Device.goHeld_tablesOk (d : Device) (i : Nat) (from' : SlotState) (h0 : d.tablesOk) :
    (Device.goHeld d i from').tablesOk := by
  unfold Device.goHeld
  refine Device.orPending_tablesOk _ _ _ (fun _ => ?_) ?_ <;> simp (maxDischargeDepth := 16) [h0]

@[simp] theorem Device.dataSent_tablesOk (d : Device) (i : Nat) (h0 : d.tablesOk) :
    (Device.dataSent d i).tablesOk := by
  unfold Device.dataSent
  repeat' (first | with_reducible exact h0 | simp [h0] | split)

@[simp] theorem Device.dataAborted_tablesOk (d : Device) (i : Nat) (h0 : d.tablesOk) :
    (Device.dataAborted d i).tablesOk := by
  unfold Device.dataAborted
  repeat' split
  all_goals first
    | (simp (maxDischargeDepth := 16) [h0]; done)
    | (refine Device.orPending_tablesOk _ _ _ (fun _ => ?_) ?_ <;> simp (maxDischargeDepth := 16) [h0])

@[simp] theorem Device.askEnding_tablesOk (d : Device) (i : Nat) (o : Outcome) (h0 : d.tablesOk) :
    (Device.askEnding d i o).tablesOk := by
  unfold Device.askEnding
  try dsimp only
  repeat' split
  all_goals first
    | simp (maxDischargeDepth := 16) [*]

@[simp] theorem Device.voidSubmit_tablesOk (d : Device) (h0 : d.tablesOk) :
    (Device.voidSubmit d).tablesOk := by
  unfold Device.voidSubmit
  split <;> simp (maxDischargeDepth := 16) [h0]

@[simp] theorem Device.holdTransfers_tablesOk (d : Device) (h0 : d.tablesOk) :
    (Device.holdTransfers d).tablesOk := by
  unfold Device.holdTransfers
  refine foldl_tablesOk _ (fun _ _ h => ?_) _ _ (by simp (maxDischargeDepth := 16) [h0])
  dsimp only
  split
  · exact Device.goHeld_tablesOk _ _ _ (by simp (maxDischargeDepth := 16) [h])
  · exact h

@[simp] theorem Device.unhold_tablesOk (d : Device) (i : Nat) (h0 : d.tablesOk) :
    (Device.unhold d i).tablesOk := by
  unfold Device.unhold
  repeat' (first | with_reducible exact h0 | simp [h0] | split)

@[simp] theorem Device.unholdTransfers_tablesOk (d : Device) (h0 : d.tablesOk) :
    (Device.unholdTransfers d).tablesOk := by
  unfold Device.unholdTransfers
  exact foldl_tablesOk _ (fun _ _ h => by simp (maxDischargeDepth := 16) [h]) _ _ (by simp (maxDischargeDepth := 16) [h0])

@[simp] theorem Device.flushTransfers_tablesOk (d : Device) (h0 : d.tablesOk) :
    (Device.flushTransfers d).tablesOk := by
  unfold Device.flushTransfers
  refine foldl_tablesOk _ (fun _ _ h => ?_) _ _ (foldl_tablesOk _ (fun _ _ h => ?_) _ _ h0)
  · simp (maxDischargeDepth := 16) [h]
  · dsimp only
    split <;> simp (maxDischargeDepth := 16) [h]

@[simp] theorem Device.onWeatherCounts_tablesOk (d : Device) (f : WeatherCounts → WeatherCounts) (h0 : d.tablesOk) :
    (Device.onWeatherCounts d f).tablesOk := by
  unfold Device.onWeatherCounts
  simp [h0]

@[simp] theorem Device.onForecast_tablesOk (d : Device) (area : Nat) (complete : Bool) (f : Forecast → Forecast) (h0 : d.tablesOk) :
    (Device.onForecast d area complete f).tablesOk := by
  unfold Device.onForecast
  simp [h0]

@[simp] theorem Device.freeForecast_tablesOk (d : Device) (f : Forecast) (h0 : d.tablesOk) :
    (Device.freeForecast d f).tablesOk := by
  unfold Device.freeForecast
  rw [Device.releaseGrant, Device.onStore_tablesOk]
  exact Device.onWeather_tablesOk_le d _ (List.length_filter_le _ _) (Nat.le_refl _) h0

@[simp] theorem Device.forecastRoom_tablesOk (d : Device) (area size : Nat) (a0 : Nat) (h0 : d.tablesOk) :
    (Device.forecastRoom d area size a0).2.tablesOk := by
  induction a0 generalizing d with
  | zero => exact h0
  | succ n ih =>
    unfold Device.forecastRoom
    split <;> rename_i r e h
    have h2 : e.tablesOk := by
      have h3 := congrArg (fun x => x.2.tablesOk) h
      dsimp only at h3
      rw [← h3]
      split <;> simp (maxDischargeDepth := 16) [h0]
    split
    · exact h2
    · split
      · exact h2
      · exact ih _ (by simp (maxDischargeDepth := 16) [h2])

theorem Device.forecastRoom_some (d : Device) (area size : Nat) (fuel id : Nat) (e : Device)
    (h : d.forecastRoom area size fuel = (some id, e)) : e.weather.forecasts.length < 16 := by
  induction fuel generalizing d with
  | zero => cases h
  | succ n ih =>
    unfold Device.forecastRoom at h
    by_cases hl : d.weather.forecasts.length < 16
    · rw [if_pos hl] at h
      have hw : (d.reserve .forecast size).2.weather = d.weather := rfl
      generalize d.reserve .forecast size = x at h hw
      obtain ⟨r, y⟩ := x
      dsimp only at h hw
      split at h
      · cases h; rw [hw]; exact hl
      · split at h
        · cases h
        · exact ih _ h
    · rw [if_neg hl] at h
      dsimp only at h
      split at h
      · cases h
      · exact ih _ h

@[simp] theorem Device.storePart_tablesOk (d : Device) (f : Forecast) (h : ForecastHeader) (b : Burst) (h0 : d.tablesOk) :
    (Device.storePart d f h b).tablesOk := by
  unfold Device.storePart
  simp [h0]

@[simp] theorem Device.completeForecast_tablesOk (d : Device) (area : Nat) (h0 : d.tablesOk) :
    (Device.completeForecast d area).tablesOk := by
  unfold Device.completeForecast
  try dsimp only
  repeat' split
  all_goals first
    | simp (maxDischargeDepth := 16) [*]

@[simp] theorem Device.countNotBetter_tablesOk (d : Device) (h0 : d.tablesOk) :
    (Device.countNotBetter d).tablesOk := by
  unfold Device.countNotBetter
  simp [h0]

@[simp] theorem Device.partToCollecting_tablesOk (d : Device) (f : Forecast) (h : ForecastHeader) (b : Burst) (h0 : d.tablesOk) :
    (Device.partToCollecting d f h b).tablesOk := by
  unfold Device.partToCollecting
  try dsimp only
  repeat' split
  all_goals first
    | simp (maxDischargeDepth := 16) [*]

@[simp] theorem Device.partToComplete_tablesOk (d : Device) (f : Forecast) (h : ForecastHeader) (b : Burst) (h0 : d.tablesOk) :
    (Device.partToComplete d f h b).tablesOk := by
  unfold Device.partToComplete
  try dsimp only
  repeat' split
  all_goals first
    | simp (maxDischargeDepth := 16) [*]

@[simp] theorem Device.partTo_tablesOk (d : Device) (f : Forecast) (h : ForecastHeader) (b : Burst) (h0 : d.tablesOk) :
    (Device.partTo d f h b).tablesOk := by
  unfold Device.partTo
  try dsimp only
  repeat' split
  all_goals first
    | simp (maxDischargeDepth := 16) [*]

@[simp] theorem Device.countStale_tablesOk (d : Device) (h0 : d.tablesOk) :
    (Device.countStale d).tablesOk := by
  unfold Device.countStale
  simp [h0]

@[simp] theorem Device.openCollection_tablesOk (d : Device) (h : ForecastHeader) (b : Burst) (old : Option Forecast) (h0 : d.tablesOk) :
    (Device.openCollection d h b old).tablesOk := by
  unfold Device.openCollection
  split
  · exact Device.countStale_tablesOk _ h0
  · dsimp only
    split
    all_goals
      rename_i e k
      have h2 : e.tablesOk := by
        have h3 := congrArg (fun x => x.2) k
        dsimp only at h3
        rw [← h3]
        exact Device.forecastRoom_tablesOk _ _ _ _ (by split <;> simp (maxDischargeDepth := 16) [h0])
    · simp (maxDischargeDepth := 16) [h2]
    · refine Device.partToCollecting_tablesOk _ _ _ _ ?_
      have hl := Device.forecastRoom_some _ _ _ _ _ _ k
      obtain ⟨a, b, c, r⟩ := h2
      exact ⟨a, b, by simp [Device.onWeather]; omega, r⟩

@[simp] theorem Device.placePart_tablesOk (d : Device) (h : ForecastHeader) (b : Burst) (h0 : d.tablesOk) :
    (Device.placePart d h b).tablesOk := by
  unfold Device.placePart
  repeat' (first | with_reducible exact h0 | simp [h0] | split)

@[simp] theorem Device.countMalformed_tablesOk (d : Device) (h0 : d.tablesOk) :
    (Device.countMalformed d).tablesOk := by
  unfold Device.countMalformed
  simp [h0]

@[simp] theorem Device.countHeaderErasure_tablesOk (d : Device) (h0 : d.tablesOk) :
    (Device.countHeaderErasure d).tablesOk := by
  unfold Device.countHeaderErasure
  simp [h0]

@[simp] theorem Device.countForeign_tablesOk (d : Device) (h0 : d.tablesOk) :
    (Device.countForeign d).tablesOk := by
  unfold Device.countForeign
  simp [h0]

@[simp] theorem Device.receiveForecast_tablesOk (d : Device) (b : Burst) (h0 : d.tablesOk) :
    (Device.receiveForecast d b).tablesOk := by
  unfold Device.receiveForecast
  repeat' (first | with_reducible exact h0 | simp [h0] | split)

@[simp] theorem Device.expireForecast_tablesOk (d : Device) (f : Forecast) (h0 : d.tablesOk) :
    (Device.expireForecast d f).tablesOk := by
  unfold Device.expireForecast
  simp (maxDischargeDepth := 16) [h0]

@[simp] theorem Device.discardForecast_tablesOk (d : Device) (f : Forecast) (h0 : d.tablesOk) :
    (Device.discardForecast d f).tablesOk := by
  unfold Device.discardForecast
  simp [h0]

@[simp] theorem Device.onWarning_tablesOk (d : Device) (issuer issue : Nat) (f : Warning → Warning) (h0 : d.tablesOk) :
    (Device.onWarning d issuer issue f).tablesOk := by
  unfold Device.onWarning
  simp [h0]

@[simp] theorem Device.lostWeatherReport_tablesOk (d : Device) (h0 : d.tablesOk) :
    (Device.lostWeatherReport d).tablesOk := by
  unfold Device.lostWeatherReport
  simp [h0]

theorem Device.freeWarning_warnings (d : Device) (w : Warning) : (d.freeWarning w).weather.warnings
    = d.weather.warnings.filter fun x => !(x.issuer == w.issuer && x.issue == w.issue) := by
  unfold Device.freeWarning
  dsimp only
  split <;> rfl

@[simp] theorem Device.freeWarning_tablesOk (d : Device) (w : Warning) (h0 : d.tablesOk) :
    (Device.freeWarning d w).tablesOk := by
  unfold Device.freeWarning
  dsimp only
  rw [Device.releaseGrant, Device.onStore_tablesOk]
  refine Device.onWeather_tablesOk_le _ _ (Nat.le_refl _) (List.length_filter_le _ _) ?_
  split <;> simp (maxDischargeDepth := 16) [h0]

@[simp] theorem Device.reportWarning_tablesOk (d : Device) (w : Warning) (event : Nat) (h0 : d.tablesOk) :
    (Device.reportWarning d w event).tablesOk := by
  unfold Device.reportWarning
  simp [h0]

@[simp] theorem Device.warningNotStored_tablesOk (d : Device) (w : Warning) (h0 : d.tablesOk) :
    (Device.warningNotStored d w).tablesOk := by
  unfold Device.warningNotStored
  try dsimp only
  repeat' split
  all_goals first
    | exact h0
    | simp (maxDischargeDepth := 16) [h0]
    | (rename_i h
       have h2 := congrArg (fun x => x.2.tablesOk) h
       simp (maxDischargeDepth := 16) [h0] at h2
       simp (maxDischargeDepth := 16) [h2])

theorem Device.storeWarning_tablesOk (d : Device) (h : WarningHeader) (sev : Severity) (b : Burst) (h0 : d.tablesOk)
    (hl : d.weather.warnings.length < 6) : (Device.storeWarning d h sev b).tablesOk := by
  unfold Device.storeWarning
  dsimp only
  have h1 : ∀ r e, d.reserve .warning (Device.copyText h b).length = (r, e) → e.weather = d.weather := by
    intro r e k
    have : (d.reserve .warning (Device.copyText h b).length).2.weather = d.weather := rfl
    rw [k] at this; exact this
  split
  · rename_i e k
    have h2 := Device.reserve_eq_tablesOk k h0
    have h3 := h1 _ _ k
    refine Device.reportWarning_tablesOk _ _ _ (Device.onWeatherCounts_tablesOk _ _ ?_)
    obtain ⟨p1, p2, p3, p4, r⟩ := h2
    refine ⟨p1, p2, p3, ?_, r⟩
    show (e.weather.warnings ++ [_]).length ≤ 6
    rw [h3]; simp; omega
  · rename_i k
    exact Device.warningNotStored_tablesOk _ _ (Device.reserve_eq_tablesOk ‹Device.reserve _ _ _ = _› h0)

@[simp] theorem Device.improveWarning_tablesOk (d : Device) (old : Warning) (h : WarningHeader) (sev : Severity) (b : Burst) (h0 : d.tablesOk) :
    (Device.improveWarning d old h sev b).tablesOk := by
  unfold Device.improveWarning
  dsimp only
  split
  · simp (maxDischargeDepth := 16) [h0]
  · split <;>
      (have h2 := Device.reserve_eq_tablesOk ‹Device.reserve _ _ _ = _› (by simp (maxDischargeDepth := 16) [h0])
       simp (maxDischargeDepth := 16) [h2])
  

@[simp] theorem Device.newWarning_tablesOk (d : Device) (h : WarningHeader) (sev : Severity) (b : Burst) (h0 : d.tablesOk) :
    (Device.newWarning d h sev b).tablesOk := by
  unfold Device.newWarning
  split
  · rename_i hl; exact Device.storeWarning_tablesOk _ _ _ _ h0 hl
  · split
    · exact h0
    · rename_i r hr
      split
      · refine Device.storeWarning_tablesOk _ _ _ _ (Device.freeWarning_tablesOk _ _ h0) ?_
        have hm : r ∈ d.weather.warnings :=
          (((minBy_lex (fun w : Warning => w.severity.value) (fun w => w.firstStored) (fun w => w.issuer)
            (fun w => w.issue) d.weather.warnings).2 r hr).1)
        rw [Device.freeWarning_warnings]
        have h2 := Device.filter_lt (fun _ => true) (fun x : Warning => !(x.issuer == r.issuer && x.issue == r.issue))
          d.weather.warnings (fun _ _ => rfl) r hm rfl (by simp)
        have h3 : d.weather.warnings.length ≤ 6 := h0.2.2.2.1
        rw [List.filter_true] at h2
        omega
      · simp [h0]

@[simp] theorem Device.examineWarning_tablesOk (d : Device) (issuer issue : Nat) (b : Burst) (h0 : d.tablesOk) :
    (Device.examineWarning d issuer issue b).tablesOk := by
  unfold Device.examineWarning
  try dsimp only
  repeat' split
  all_goals first
    | exact h0
    | simp (maxDischargeDepth := 16) [h0]
    | (rename_i h
       have h2 := congrArg (fun x => x.2.2.tablesOk) h
       simp (maxDischargeDepth := 16) [h0] at h2
       simp (maxDischargeDepth := 16) [h2])

@[simp] theorem Device.suppressWarning_tablesOk (d : Device) (issuer issue : Nat) (h0 : d.tablesOk) :
    (Device.suppressWarning d issuer issue).tablesOk := by
  unfold Device.suppressWarning
  repeat' (first | with_reducible exact h0 | simp [h0] | split)

@[simp] theorem Device.warningRelayHeard_tablesOk (d : Device) (issuer issue : Nat) (h0 : d.tablesOk) :
    (Device.warningRelayHeard d issuer issue).tablesOk := by
  unfold Device.warningRelayHeard
  split <;> simp [h0]

@[simp] theorem Device.applyWarning_tablesOk (d : Device) (h : WarningHeader) (sev : Severity) (b : Burst) (h0 : d.tablesOk) :
    (Device.applyWarning d h sev b).tablesOk := by
  unfold Device.applyWarning
  repeat' (first | with_reducible exact h0 | simp [h0] | split)

@[simp] theorem Device.receiveWarning_tablesOk (d : Device) (b : Burst) (h0 : d.tablesOk) :
    (Device.receiveWarning d b).tablesOk := by
  unfold Device.receiveWarning
  try dsimp only
  repeat' split
  all_goals first
    | simp (maxDischargeDepth := 16) [*]

@[simp] theorem Device.offerWarning_tablesOk (d : Device) (issuer issue : Nat) (h0 : d.tablesOk) :
    (Device.offerWarning d issuer issue).tablesOk := by
  unfold Device.offerWarning
  split <;> simp [h0]

@[simp] theorem Device.warningSent_tablesOk (d : Device) (issuer issue : Nat) (h0 : d.tablesOk) :
    (Device.warningSent d issuer issue).tablesOk := by
  unfold Device.warningSent
  simp [h0]

@[simp] theorem Device.warningAborted_tablesOk (d : Device) (it : Item) (issuer issue : Nat) (h0 : d.tablesOk) :
    (Device.warningAborted d it issuer issue).tablesOk := by
  unfold Device.warningAborted
  repeat' (first | with_reducible exact h0 | simp [h0] | split)

@[simp] theorem Device.computeTimes_tablesOk (d : Device) (h0 : d.tablesOk) :
    (Device.computeTimes d).tablesOk := by
  unfold Device.computeTimes
  simp [h0]

@[simp] theorem Device.reachValidity_tablesOk (d : Device) (h0 : d.tablesOk) :
    (Device.reachValidity d).tablesOk := by
  unfold Device.reachValidity
  refine foldl_tablesOk _ (fun _ _ h => ?_) _ _ (foldl_tablesOk _ (fun _ _ h => ?_) _ _ h0)
  all_goals
    repeat' split
    all_goals simp (maxDischargeDepth := 16) [h]

@[simp] theorem Device.onMonitor_tablesOk (d : Device) (m : MonitorId) (f : Monitor → Monitor) (h0 : d.tablesOk) :
    (Device.onMonitor d m f).tablesOk := by
  unfold Device.onMonitor
  simp [h0]

@[simp] theorem Device.reportMonitor_tablesOk (d : Device) (m : MonitorId) (prev : MonState) (cause : ProtCause) (keyTime : Nat) (h0 : d.tablesOk) :
    (Device.reportMonitor d m prev cause keyTime).tablesOk := by
  unfold Device.reportMonitor
  repeat' (first | with_reducible exact h0 | simp [h0] | split)

@[simp] theorem Device.moveMonitor_tablesOk (d : Device) (m : MonitorId) (st : MonState) (run : Nat) (cause : ProtCause) (keyTime : Nat) (h0 : d.tablesOk) :
    (Device.moveMonitor d m st run cause keyTime).tablesOk := by
  unfold Device.moveMonitor
  simp [h0]

@[simp] theorem Device.tripMonitor_tablesOk (d : Device) (m : MonitorId) (h0 : d.tablesOk) :
    (Device.tripMonitor d m).tablesOk := by
  unfold Device.tripMonitor
  repeat' (first | with_reducible exact h0 | simp [h0] | split)

@[simp] theorem Device.sampleMonitor_tablesOk (d : Device) (m : MonitorId) (active : Bool) (h0 : d.tablesOk) :
    (Device.sampleMonitor d m active).2.tablesOk := by
  unfold Device.sampleMonitor
  repeat' (first | with_reducible exact h0 | simp [h0] | split)

@[simp] theorem Device.sampleKeytime_tablesOk (d : Device) (h0 : d.tablesOk) :
    (Device.sampleKeytime d).tablesOk := by
  unfold Device.sampleKeytime
  split <;> simp [h0]

@[simp] theorem Device.afterInhibit_tablesOk (before : Bool) (d : Device) (h0 : d.tablesOk) :
    (Device.afterInhibit before d).tablesOk := by
  unfold Device.afterInhibit
  split <;> simp [h0]

@[simp] theorem Device.tripKeytime_tablesOk (d : Device) (keyTime : Nat) (h0 : d.tablesOk) :
    (Device.tripKeytime d keyTime).tablesOk := by
  unfold Device.tripKeytime
  dsimp only
  repeat' split
  all_goals simp (maxDischargeDepth := 16) [h0]

@[simp] theorem Device.recoverMonitor_tablesOk (d : Device) (m : MonitorId) (h0 : d.tablesOk) :
    (Device.recoverMonitor d m).tablesOk := by
  unfold Device.recoverMonitor
  simp [h0]

@[simp] theorem Device.recoverAll_tablesOk (d : Device) (h0 : d.tablesOk) :
    (Device.recoverAll d).tablesOk := by
  unfold Device.recoverAll
  exact foldl_tablesOk _ (fun _ _ h => by split <;> simp (maxDischargeDepth := 16) [h]) _ _ (by simp (maxDischargeDepth := 16) [h0])

@[simp] theorem Device.endAlerts_tablesOk (d : Device) (keyTime : Nat) (limit : Bool) (h0 : d.tablesOk) :
    (Device.endAlerts d keyTime limit).tablesOk := by
  unfold Device.endAlerts
  exact foldl_tablesOk _ (fun _ _ h => by split <;> simp (maxDischargeDepth := 16) [h]) _ _ (by simp (maxDischargeDepth := 16) [h0])

@[simp] theorem Device.endRests_tablesOk (d : Device) (h0 : d.tablesOk) :
    (Device.endRests d).tablesOk := by
  unfold Device.endRests
  simp [h0]

@[simp] theorem Device.dropKey_tablesOk (d : Device) (limit : Bool) (h0 : d.tablesOk) :
    (Device.dropKey d limit).tablesOk := by
  unfold Device.dropKey
  simp (maxDischargeDepth := 16) [h0]

@[simp] theorem Device.reportLoop_tablesOk (d : Device) (k : LoopKept) (h0 : d.tablesOk) :
    (Device.reportLoop d k).tablesOk := by
  unfold Device.reportLoop
  simp [h0]

@[simp] theorem Device.leaveLoop_tablesOk (d : Device) (h0 : d.tablesOk) :
    (Device.leaveLoop d).tablesOk := by
  unfold Device.leaveLoop
  split <;> simp [h0]

@[simp] theorem Device.abandonLoop_tablesOk (d : Device) (h0 : d.tablesOk) :
    (Device.abandonLoop d).tablesOk := by
  unfold Device.abandonLoop
  split <;> simp [h0]

@[simp] theorem Device.startLoop_tablesOk (d : Device) (h0 : d.tablesOk) :
    (Device.startLoop d).tablesOk := by
  unfold Device.startLoop
  simp [h0]

@[simp] theorem Device.onDistressCounts_tablesOk (d : Device) (f : DistressCounts → DistressCounts) (h0 : d.tablesOk) :
    (Device.onDistressCounts d f).tablesOk := by
  unfold Device.onDistressCounts
  simp [h0]

@[simp] theorem Device.onOwn_tablesOk (d : Device) (f : OwnAlert → OwnAlert) (h0 : d.tablesOk) :
    (Device.onOwn d f).tablesOk := by
  unfold Device.onOwn
  simp [h0]

@[simp] theorem Device.startHold_tablesOk (d : Device) (cause : Nat) (st : Station) (h0 : d.tablesOk) :
    (Device.startHold d cause st).tablesOk := by
  unfold Device.startHold
  try dsimp only
  repeat' split
  all_goals first
    | simp (maxDischargeDepth := 16) [*]

@[simp] theorem Device.restartHold_tablesOk (d : Device) (cause : Nat) (st : Station) (h0 : d.tablesOk) :
    (Device.restartHold d cause st).tablesOk := by
  unfold Device.restartHold
  repeat' (first | with_reducible exact h0 | simp [h0] | split)

@[simp] theorem Device.cutHold_tablesOk (d : Device) (h0 : d.tablesOk) :
    (Device.cutHold d).tablesOk := by
  unfold Device.cutHold
  simp [h0]

@[simp] theorem Device.releaseHeldWaits_tablesOk (d : Device) (h0 : d.tablesOk) :
    (Device.releaseHeldWaits d).tablesOk := by
  unfold Device.releaseHeldWaits
  exact foldl_tablesOk _ (fun _ _ h => by simp (maxDischargeDepth := 16) [h]) _ _ (by simp (maxDischargeDepth := 16) [h0])

@[simp] theorem Device.resumeDeadline_tablesOk (d : Device) (h0 : d.tablesOk) :
    (Device.resumeDeadline d).tablesOk := by
  unfold Device.resumeDeadline
  dsimp only
  repeat' split
  all_goals simp (maxDischargeDepth := 16) [h0]

@[simp] theorem Device.endHold_tablesOk (d : Device) (h0 : d.tablesOk) :
    (Device.endHold d).tablesOk := by
  unfold Device.endHold
  simp (maxDischargeDepth := 16) [h0]

@[simp] theorem Device.placeOwn_tablesOk (d : Device) (h0 : d.tablesOk) :
    (Device.placeOwn d).tablesOk := by
  unfold Device.placeOwn
  simp [h0]

@[simp] theorem Device.onCase_tablesOk (d : Device) (st : Station) (f : Case → Case) (h0 : d.tablesOk) :
    (Device.onCase d st f).tablesOk := by
  unfold Device.onCase
  simp [h0]

@[simp] theorem Device.accountAbort_tablesOk (d : Device) (it : Item) (r : AbortReason) (h0 : d.tablesOk) :
    (Device.accountAbort d it r).tablesOk := by
  unfold Device.accountAbort
  repeat' (first | with_reducible exact h0 | simp [h0] | split)

@[simp] theorem Device.abortBurst_tablesOk (d : Device) (r : AbortReason) (h0 : d.tablesOk) :
    (Device.abortBurst d r).tablesOk := by
  unfold Device.abortBurst
  split <;> simp [h0]

@[simp] theorem Device.reportOwn_tablesOk (d : Device) (e : OwnEvent) (h0 : d.tablesOk) :
    (Device.reportOwn d e).tablesOk := by
  unfold Device.reportOwn
  simp [h0]

@[simp] theorem Device.reportOwnHeard_tablesOk (d : Device) (e : OwnEvent) (num : Nat) (st : Station) (h0 : d.tablesOk) :
    (Device.reportOwnHeard d e num st).tablesOk := by
  unfold Device.reportOwnHeard
  simp [h0]

@[simp] theorem Device.offerOwn_tablesOk (d : Device) (h0 : d.tablesOk) :
    (Device.offerOwn d).tablesOk := by
  unfold Device.offerOwn
  try dsimp only
  repeat' split
  all_goals first
    | simp (maxDischargeDepth := 16) [*]

@[simp] theorem Device.cutIfQuiet_tablesOk (d : Device) (h0 : d.tablesOk) :
    (Device.cutIfQuiet d).tablesOk := by
  unfold Device.cutIfQuiet
  split <;> simp [h0]

@[simp] theorem Device.ownDistressSent_tablesOk (d : Device) (h0 : d.tablesOk) :
    (Device.ownDistressSent d).tablesOk := by
  unfold Device.ownDistressSent
  try dsimp only
  repeat' split
  all_goals first
    | simp (maxDischargeDepth := 16) [*]

@[simp] theorem Device.ownCancelSent_tablesOk (d : Device) (h0 : d.tablesOk) :
    (Device.ownCancelSent d).tablesOk := by
  unfold Device.ownCancelSent
  try dsimp only
  repeat' split
  all_goals first
    | simp (maxDischargeDepth := 16) [*]

@[simp] theorem Device.ownAcknowledged_tablesOk (d : Device) (b : Burst) (h0 : d.tablesOk) :
    (Device.ownAcknowledged d b).tablesOk := by
  unfold Device.ownAcknowledged
  dsimp only
  repeat' (first
    | with_reducible assumption
    | simp (maxDischargeDepth := 16) [*]
    | split)

@[simp] theorem Device.reportCase_tablesOk (d : Device) (st : Station) (e : CaseEvent) (h0 : d.tablesOk) :
    (Device.reportCase d st e).tablesOk := by
  unfold Device.reportCase
  split <;> simp [h0]

@[simp] theorem Device.dropCaseTraffic_tablesOk (d : Device) (st alert : Nat) (h0 : d.tablesOk) :
    (Device.dropCaseTraffic d st alert).tablesOk := by
  unfold Device.dropCaseTraffic
  try dsimp only
  repeat' split
  all_goals first
    | simp (maxDischargeDepth := 16) [*]

@[simp] theorem Device.closeCase_tablesOk (d : Device) (c : Case) (r : CloseReason) (h0 : d.tablesOk) :
    (Device.closeCase d c r).tablesOk := by
  unfold Device.closeCase
  simp (maxDischargeDepth := 16) [h0]

@[simp] theorem Device.freeCase_tablesOk (d : Device) (c : Case) (new : Station) (h0 : d.tablesOk) :
    (Device.freeCase d c new).tablesOk := by
  unfold Device.freeCase
  refine Device.passMark_tablesOk _ _ _ _ ?_
  have h1 : ∀ e : Device, e.tablesOk → (e.onDistress fun u => { u with cases := u.cases.filter fun x => x.station != c.station }).tablesOk := by
    intro e ⟨a, r⟩
    exact ⟨Nat.le_trans (List.length_filter_le _ _) a, r⟩
  refine h1 _ ?_
  split <;> simp (maxDischargeDepth := 16) [h0]

/-- Freeing a case leaves one fewer. -/
theorem Device.freeCase_cases (d : Device) (c : Case) (new : Station) (h : c ∈ d.distress.cases) :
    (d.freeCase c new).distress.cases.length + 1 ≤ d.distress.cases.length := by
  have drop : (d.dropCaseTraffic c.station c.alert).distress.cases.map (fun x => x.station)
      = d.distress.cases.map fun x => x.station := by
    unfold Device.dropCaseTraffic
    dsimp only
    split
    · show List.map _ (mapIf _ _ d.distress.cases) = _
      unfold mapIf
      rw [List.map_map]
      refine List.map_congr_left fun x _ => ?_
      simp only [Function.comp_apply]
      split <;> rfl
    · rfl
  have h2 : (d.freeCase c new).distress.cases
      = (d.dropCaseTraffic c.station c.alert).distress.cases.filter fun x => x.station != c.station := by
    unfold Device.freeCase Device.passMark
    dsimp only
    split
    · show List.filter _ (Device.report _ _ _ _).distress.cases = _
      rw [Device.report_distress]
    · rfl
  rw [h2]
  obtain ⟨x, hx, hs⟩ := List.mem_map.1 (show c.station ∈ (d.dropCaseTraffic c.station c.alert).distress.cases.map (fun x => x.station) by
    rw [drop]; exact List.mem_map.2 ⟨c, h, rfl⟩)
  have h3 := Device.filter_lt (fun _ => true) (fun x : Case => x.station != c.station) _ (fun _ _ => rfl) x hx rfl (by simp [hs])
  rw [List.filter_true] at h3
  have h4 := congrArg List.length drop
  rw [List.length_map, List.length_map] at h4
  omega

theorem Device.caseToFree_mem (d : Device) (c : Case) (h : d.caseToFree = some c) : c ∈ d.distress.cases := by
  have mem : ∀ (p : Case → Bool) x, minBy? (fun c => c.lastHeard) ((sortBy (fun c => c.station) d.distress.cases).filter p) = some x →
      x ∈ d.distress.cases := by
    intro p x hx
    have := ((minBy_spec (fun c : Case => c.lastHeard) (fun _ _ => True) (fun _ => trivial) _
      (List.pairwise_of_forall fun _ _ => trivial)).1 x hx).1
    exact (Device.sortBy_perm _ _).mem_iff.1 (List.mem_filter.1 this).1
  unfold Device.caseToFree at h
  dsimp only at h
  split at h
  · rename_i x hx; cases h; exact mem _ _ hx
  · exact mem _ _ h

@[simp] theorem Device.distressHeard_tablesOk (d : Device) (st alert : Nat) (facts : Option DistressFacts) (via : Option Station) (h0 : d.tablesOk) :
    (Device.distressHeard d st alert facts via).tablesOk := by
  unfold Device.distressHeard
  simp [h0]

@[simp] theorem Device.applyAlert_tablesOk (d : Device) (st alert : Nat) (facts : Option DistressFacts) (via : Option Station) (h0 : d.tablesOk) :
    (Device.applyAlert d st alert facts via).tablesOk := by
  have add : ∀ (e : Device) (c : Case), e.tablesOk → e.distress.cases.length < 6 →
      (e.onDistress fun u => { u with cases := u.cases ++ [c] }).tablesOk := by
    intro e c ⟨a, r⟩ hl
    exact ⟨by simp [Device.onDistress]; omega, r⟩
  unfold Device.applyAlert
  dsimp only
  split
  · split
    · rename_i hl
      exact Device.reportCase_tablesOk _ _ _ (add _ _ h0 hl)
    · split
      · exact Device.distressHeard_tablesOk _ _ _ _ _ h0
      · rename_i c hc
        refine Device.reportCase_tablesOk _ _ _ (add _ _ (Device.freeCase_tablesOk _ _ _ h0) ?_)
        have h1 := Device.freeCase_cases d c st (Device.caseToFree_mem d c hc)
        have h2 : d.distress.cases.length ≤ 6 := h0.1
        omega
  · repeat' split
    all_goals first
      | exact h0
      | (simp (maxDischargeDepth := 16) [h0]; done)

@[simp] theorem Device.examineCase_tablesOk (d : Device) (st : Station) (h0 : d.tablesOk) :
    (Device.examineCase d st).tablesOk := by
  unfold Device.examineCase
  try dsimp only
  repeat' split
  all_goals first
    | simp (maxDischargeDepth := 16) [*]

@[simp] theorem Device.settledFull_tablesOk (d : Device) (h0 : d.tablesOk) :
    (Device.settledFull d).tablesOk := by
  unfold Device.settledFull
  simp [h0]

@[simp] theorem Device.enterSettled_tablesOk (d : Device) (st alert : Nat) (h0 : d.tablesOk) :
    (Device.enterSettled d st alert).tablesOk := by
  unfold Device.enterSettled
  split
  · exact h0
  · rename_i hl
    have h1 : (d.onDistress fun u => { u with settled := u.settled ++ [(st, alert)] }).tablesOk := by
      obtain ⟨a, b, r⟩ := h0
      refine ⟨a, ?_, r⟩
      simp only [not_or, Nat.not_le] at hl
      simp [Device.onDistress]; omega
    dsimp only
    split
    · exact Device.settledFull_tablesOk _ h1
    · exact h1

@[simp] theorem Device.suppressRelay_tablesOk (d : Device) (st alert : Nat) (h0 : d.tablesOk) :
    (Device.suppressRelay d st alert).tablesOk := by
  unfold Device.suppressRelay
  simp [h0]

@[simp] theorem Device.distressRelayHeard_tablesOk (d : Device) (st alert : Nat) (h0 : d.tablesOk) :
    (Device.distressRelayHeard d st alert).tablesOk := by
  unfold Device.distressRelayHeard
  repeat' (first | with_reducible exact h0 | simp [h0] | split)

@[simp] theorem Device.distressAckHeard_tablesOk (d : Device) (st : Station) (b : Burst) (h0 : d.tablesOk) :
    (Device.distressAckHeard d st b).tablesOk := by
  unfold Device.distressAckHeard
  try dsimp only
  repeat' split
  all_goals first
    | simp (maxDischargeDepth := 16) [*]

@[simp] theorem Device.cancelHeard_tablesOk (d : Device) (b : Burst) (readable : Bool) (h0 : d.tablesOk) :
    (Device.cancelHeard d b readable).tablesOk := by
  unfold Device.cancelHeard
  repeat' (first | with_reducible exact h0 | simp [h0] | split)

@[simp] theorem Device.acknowledgeCase_tablesOk (d : Device) (c : Case) (h0 : d.tablesOk) :
    (Device.acknowledgeCase d c).tablesOk := by
  unfold Device.acknowledgeCase
  split <;> simp (maxDischargeDepth := 16) [h0]

@[simp] theorem Device.caseAckSent_tablesOk (d : Device) (st alert : Nat) (h0 : d.tablesOk) :
    (Device.caseAckSent d st alert).tablesOk := by
  unfold Device.caseAckSent
  simp (maxDischargeDepth := 16) [h0]

@[simp] theorem Device.caseRelayKeyed_tablesOk (d : Device) (st alert : Nat) (h0 : d.tablesOk) :
    (Device.caseRelayKeyed d st alert).tablesOk := by
  unfold Device.caseRelayKeyed
  simp (maxDischargeDepth := 16) [h0]

@[simp] theorem Device.caseRelaySent_tablesOk (d : Device) (st alert : Nat) (h0 : d.tablesOk) :
    (Device.caseRelaySent d st alert).tablesOk := by
  unfold Device.caseRelaySent
  repeat' (first | with_reducible exact h0 | simp [h0] | split)

@[simp] theorem Device.offerRelay_tablesOk (d : Device) (st alert : Nat) (h0 : d.tablesOk) :
    (Device.offerRelay d st alert).tablesOk := by
  unfold Device.offerRelay
  repeat' (first | with_reducible exact h0 | simp [h0] | split)

@[simp] theorem Device.ownNamed_tablesOk (d : Device) (b : Burst) (h0 : d.tablesOk) :
    (Device.ownNamed d b).tablesOk := by
  unfold Device.ownNamed
  try dsimp only
  repeat' split
  all_goals first
    | simp (maxDischargeDepth := 16) [*]

@[simp] theorem Device.receiveDistress_tablesOk (d : Device) (b : Burst) (h0 : d.tablesOk) :
    (Device.receiveDistress d b).tablesOk := by
  unfold Device.receiveDistress
  dsimp only
  repeat' split
  all_goals simp (maxDischargeDepth := 16) [h0]

@[simp] theorem Device.burstSent_tablesOk (d : Device) (it : Item) (h0 : d.tablesOk) :
    (Device.burstSent d it).tablesOk := by
  unfold Device.burstSent
  repeat' (first | with_reducible exact h0 | simp [h0] | split)

@[simp] theorem Device.burstKeyed_tablesOk (d : Device) (it : Item) (h0 : d.tablesOk) :
    (Device.burstKeyed d it).tablesOk := by
  unfold Device.burstKeyed
  split <;> simp [h0]

@[simp] theorem Device.lostRepReport_tablesOk (d : Device) (h0 : d.tablesOk) :
    (Device.lostRepReport d).tablesOk := by
  unfold Device.lostRepReport
  simp [h0]

@[simp] theorem Device.reportNotice_tablesOk (d : Device) (k : ReportKind) (data : List Datum) (h0 : d.tablesOk) :
    (Device.reportNotice d k data).tablesOk := by
  unfold Device.reportNotice
  try dsimp only
  repeat' split
  all_goals first
    | exact h0
    | simp (maxDischargeDepth := 16) [h0]
    | (rename_i h
       have h2 := congrArg (fun x => x.2.tablesOk) h
       simp (maxDischargeDepth := 16) [h0] at h2
       simp (maxDischargeDepth := 16) [h2])

@[simp] theorem Device.rejectNotice_tablesOk (d : Device) (cls : Nat) (orig : Station) (reason : Nat) (h0 : d.tablesOk) :
    (Device.rejectNotice d cls orig reason).tablesOk := by
  unfold Device.rejectNotice
  simp [h0]

@[simp] theorem Device.lateReceipt_tablesOk (d : Device) (num result : Nat) (h0 : d.tablesOk) :
    (Device.lateReceipt d num result).tablesOk := by
  unfold Device.lateReceipt
  simp [h0]

@[simp] theorem Device.judgeReceipt_tablesOk (d : Device) (num result : Nat) (h0 : d.tablesOk) :
    (Device.judgeReceipt d num result).tablesOk := by
  unfold Device.judgeReceipt
  repeat' (first | with_reducible exact h0 | simp [h0] | split)

@[simp] theorem Device.receipt_tablesOk (d : Device) (m : Message) (h0 : d.tablesOk) :
    (Device.receipt d m).tablesOk := by
  unfold Device.receipt
  repeat' (first | with_reducible exact h0 | simp [h0] | split)

theorem Device.onLog_tablesOk_filter (d : Device) (p : QuotaEntry → Bool) (h0 : d.tablesOk) :
    (d.onLog fun l => { l with quotas := l.quotas.filter p }).tablesOk := by
  rw [Device.tablesOk_iff] at *
  obtain ⟨a, b, c, e, g, r⟩ := h0
  exact ⟨a, b, c, e, g, Nat.le_trans (List.length_filter_le _ _) r.1, r.2.1.filter _,
    fun q hq => r.2.2 q (List.mem_filter.1 hq).1⟩

@[simp] theorem Device.removeQuota_tablesOk (d : Device) (q : QuotaEntry) (h0 : d.tablesOk) :
    (Device.removeQuota d q).tablesOk := by
  unfold Device.removeQuota
  dsimp only
  have h1 : ((d.dropMark .general (.quota q.species)).onLog fun l =>
      { l with quotas := l.quotas.filter fun x => x.species != q.species }).tablesOk :=
    Device.onLog_tablesOk_filter _ _ (Device.dropMark_tablesOk _ _ _ h0)
  split <;> rename_i e k
  all_goals
    have h2 : e.tablesOk := by
      have := congrArg (fun x => x.2) k
      dsimp only at this
      rw [← this]
      exact Device.reportOrLose_tablesOk _ _ _ _ h1
  · exact h2
  · exact Device.onLogCounts_tablesOk _ _ h2

@[simp] theorem Device.applyEntry_tablesOk (x : Device × NoticeTally) (e : NoticeEntry) (h0 : x.1.tablesOk) :
    (Device.applyEntry x e).1.tablesOk := by
  obtain ⟨d, t⟩ := x
  dsimp only at h0
  obtain ⟨a, b, c, w, g, r⟩ := (Device.tablesOk_iff d).1 h0
  unfold Device.applyEntry
  dsimp only
  split
  · exact Device.removeQuota_tablesOk _ _ h0
  · exact h0
  · refine Device.evaluateQuota_tablesOk_of _ _ _ ⟨a, b, c, w, g⟩ ?_
    show quotasPart _ _ d.log.cells (mapIf _ _ d.log.quotas)
    unfold mapIf
    refine quotasPart_map _ r (fun q => by split <;> rfl) (fun q _ k f => ?_) (fun q _ k f => ?_)
    · have : ∀ m, (if (q.species == e.species) = true then { q with quota := m } else q).consumed = q.consumed := by
        intro m; split <;> rfl
      rw [this]; exact f k
    · rw [if_neg (by simpa using k)]; exact f id
  · rename_i m hn
    split
    · rename_i hl
      refine Device.reportQuota_tablesOk _ _ _ _ ((Device.tablesOk_iff _).2 ⟨a, b, c, w, g, ?_⟩)
      have hne : ∀ q ∈ d.log.quotas, q.species ≠ e.species := by
        intro q hq
        have := List.find?_eq_none.1 hn q hq
        simpa using this
      refine ⟨?_, ?_, ?_⟩
      · show (insertBy _ _ d.log.quotas).length ≤ 16
        rw [length_insertBy]; omega
      · exact pairwise_insertBy (fun x : QuotaEntry => speciesRank x.species) (fun a b => a.species ≠ b.species)
          (fun _ _ k => k.symm) _ _ (fun y hy k => hne y hy k.symm) r.2.1
      · intro q hq
        rcases (mem_insertBy _ _ _ _).1 hq with rfl | hq
        · exact ⟨fun _ => rfl, fun _ => rfl⟩
        · exact r.2.2 q hq
    · exact h0

@[simp] theorem Device.applyNotice_tablesOk (d : Device) (num : Nat) (es : List NoticeEntry) (h0 : d.tablesOk) :
    (Device.applyNotice d num es).tablesOk := by
  unfold Device.applyNotice
  split
  rename_i e t h
  have h2 : e.tablesOk := by
    have h3 : ∀ (l : List NoticeEntry) (x : Device × NoticeTally), x.1.tablesOk →
        (l.foldl Device.applyEntry x).1.tablesOk := by
      intro l
      induction l with
      | nil => intro x hx; exact hx
      | cons y r ih => intro x hx; rw [List.foldl_cons]; exact ih _ (by simp (maxDischargeDepth := 16) [hx])
    have h4 := h3 es (d, ⟨0, 0, 0, 0, false⟩) h0
    rw [h] at h4
    exact h4
  dsimp only
  repeat' split
  all_goals simp (maxDischargeDepth := 16) [h2]

@[simp] theorem Device.quotaNotice_tablesOk (d : Device) (m : Message) (h0 : d.tablesOk) :
    (Device.quotaNotice d m).tablesOk := by
  unfold Device.quotaNotice
  try dsimp only
  repeat' split
  all_goals first
    | simp (maxDischargeDepth := 16) [*]

@[simp] theorem Device.deliver_tablesOk (d : Device) (m : Message) (h0 : d.tablesOk) :
    (Device.deliver d m).tablesOk := by
  unfold Device.deliver
  try dsimp only
  repeat' split
  all_goals first
    | simp (maxDischargeDepth := 16) [*]

@[simp] theorem Device.enterRecent_tablesOk (d : Device) (src num : Nat) (h0 : d.tablesOk) :
    (Device.enterRecent d src num).tablesOk := by
  unfold Device.enterRecent
  repeat' (first | with_reducible exact h0 | simp [h0] | split)

@[simp] theorem Device.completeMessage_tablesOk (d : Device) (src num : Nat) (h0 : d.tablesOk) :
    (Device.completeMessage d src num).tablesOk := by
  unfold Device.completeMessage
  try dsimp only
  repeat' split
  all_goals first
    | simp (maxDischargeDepth := 16) [*]

@[simp] theorem Device.answerData_tablesOk (d : Device) (b : Burst) (idx : Nat) (a : AckAnswer) (h0 : d.tablesOk) :
    (Device.answerData d b idx a).tablesOk := by
  unfold Device.answerData
  simp [h0]

@[simp] theorem Device.openReasm_tablesOk (d : Device) (b : Burst) (h : DataHeader) (text : List Nat) (h0 : d.tablesOk) :
    (Device.openReasm d b h text).tablesOk := by
  unfold Device.openReasm
  dsimp only
  split
  · simp (maxDischargeDepth := 16) [h0]
  · split
    · simp (maxDischargeDepth := 16) [h0]
    · split
      · have h2 := Device.reserve_eq_tablesOk ‹Device.reserve _ _ _ = _› h0
        repeat' split
        all_goals simp (maxDischargeDepth := 16) [h2]
      · have h2 := Device.reserve_eq_tablesOk ‹Device.reserve _ _ _ = _› h0
        simp (maxDischargeDepth := 16) [h2]

@[simp] theorem Device.touch_tablesOk (d : Device) (b : Burst) (h0 : d.tablesOk) :
    (Device.touch d b).tablesOk := by
  unfold Device.touch
  simp [h0]

@[simp] theorem Device.nextFragment_tablesOk (d : Device) (b : Burst) (h : DataHeader) (text : List Nat) (e : Reasm) (h0 : d.tablesOk) :
    (Device.nextFragment d b h text e).tablesOk := by
  unfold Device.nextFragment
  try dsimp only
  repeat' split
  all_goals first
    | simp (maxDischargeDepth := 16) [*]

@[simp] theorem Device.receiveData_tablesOk (d : Device) (b : Burst) (h0 : d.tablesOk) :
    (Device.receiveData d b).tablesOk := by
  unfold Device.receiveData
  try dsimp only
  repeat' split
  all_goals first
    | simp (maxDischargeDepth := 16) [*]

@[simp] theorem Device.reasmExpires_tablesOk (d : Device) (e : Reasm) (h0 : d.tablesOk) :
    (Device.reasmExpires d e).tablesOk := by
  unfold Device.reasmExpires
  simp [h0]

@[simp] theorem Device.handOn_tablesOk (d : Device) (b : Burst) (h0 : d.tablesOk) :
    (Device.handOn d b).tablesOk := by
  unfold Device.handOn
  try dsimp only
  repeat' split
  all_goals first
    | simp (maxDischargeDepth := 16) [*]

@[simp] theorem Device.takeBurst_tablesOk (d : Device) (r : Rx) (linked pass : Bool) (h0 : d.tablesOk) :
    (Device.takeBurst d r linked pass).tablesOk := by
  unfold Device.takeBurst
  try dsimp only
  repeat' split
  all_goals first
    | simp (maxDischargeDepth := 16) [*]

@[simp] theorem Device.headerDiscard_tablesOk (d : Device) (h0 : d.tablesOk) :
    (Device.headerDiscard d).tablesOk := by
  unfold Device.headerDiscard
  simp [h0]

@[simp] theorem Device.damagedDiscard_tablesOk (d : Device) (h0 : d.tablesOk) :
    (Device.damagedDiscard d).tablesOk := by
  unfold Device.damagedDiscard
  simp [h0]

@[simp] theorem Device.abandonReception_tablesOk (d : Device) (st : RxState) (h0 : d.tablesOk) :
    (Device.abandonReception d st).tablesOk := by
  unfold Device.abandonReception
  simp [h0]

@[simp] theorem Device.syncingChar_tablesOk (d : Device) (p : Pattern) (q : Nat) (h0 : d.tablesOk) :
    (Device.syncingChar d p q).tablesOk := by
  unfold Device.syncingChar
  repeat' (first | with_reducible exact h0 | simp [h0] | split)

@[simp] theorem Device.linkedChar_tablesOk (d : Device) (p : Pattern) (q : Nat) (h0 : d.tablesOk) :
    (Device.linkedChar d p q).tablesOk := by
  unfold Device.linkedChar
  repeat' (first | with_reducible exact h0 | simp [h0] | split)

@[simp] theorem Device.broadcastPosition_tablesOk (d : Device) (pos : Nat) (x y : Pattern × Nat) (h0 : d.tablesOk) :
    (Device.broadcastPosition d pos x y).tablesOk := by
  unfold Device.broadcastPosition
  repeat' (first | with_reducible exact h0 | simp [h0] | split)

@[simp] theorem Device.broadcastChar_tablesOk (d : Device) (p : Pattern) (q : Nat) (h0 : d.tablesOk) :
    (Device.broadcastChar d p q).tablesOk := by
  unfold Device.broadcastChar
  repeat' (first | with_reducible exact h0 | simp [h0] | split)

@[simp] theorem Device.takeCharacter_tablesOk (d : Device) (p : Pattern) (q : Nat) (h0 : d.tablesOk) :
    (Device.takeCharacter d p q).tablesOk := by
  unfold Device.takeCharacter
  repeat' (first | with_reducible exact h0 | simp [h0] | split)

@[simp] theorem Device.findSync_tablesOk (d : Device) (quality : Nat) (h0 : d.tablesOk) :
    (Device.findSync d quality).tablesOk := by
  unfold Device.findSync
  split <;> simp [h0]

@[simp] theorem Device.carrierFalls_tablesOk (d : Device) (h0 : d.tablesOk) :
    (Device.carrierFalls d).tablesOk := by
  unfold Device.carrierFalls
  split <;> simp [h0]

@[simp] theorem Device.closeRx_tablesOk (d : Device) (h0 : d.tablesOk) :
    (Device.closeRx d).tablesOk := by
  unfold Device.closeRx
  split <;> simp [h0]

@[simp] theorem Device.keyItem_tablesOk (d : Device) (c : AccessClass) (it : Item) (blind : Bool) (h0 : d.tablesOk) :
    (Device.keyItem d c it blind).tablesOk := by
  unfold Device.keyItem
  simp (maxDischargeDepth := 16) [h0]

@[simp] theorem Device.raiseKey_tablesOk (d : Device) (c : AccessClass) (blind : Bool) (h0 : d.tablesOk) :
    (Device.raiseKey d c blind).tablesOk := by
  unfold Device.raiseKey
  split <;> simp [h0]

@[simp] theorem Device.arbitrate_tablesOk (d : Device) (h0 : d.tablesOk) :
    (Device.arbitrate d).tablesOk := by
  unfold Device.arbitrate
  repeat' (first | with_reducible exact h0 | simp [h0] | split)

@[simp] theorem Device.arbiterInstant_tablesOk (d : Device) (h0 : d.tablesOk) :
    (Device.arbiterInstant d).tablesOk := by
  unfold Device.arbiterInstant
  split <;> simp [h0]

@[simp] theorem Device.settle_tablesOk (d : Device) (h0 : d.tablesOk) :
    (Device.settle d).tablesOk := by
  unfold Device.settle
  simp (maxDischargeDepth := 16) [h0]

@[simp] theorem Device.gapEnds_tablesOk (d : Device) (c : AccessClass) (h0 : d.tablesOk) :
    (Device.gapEnds d c).tablesOk := by
  unfold Device.gapEnds
  repeat' (first | with_reducible exact h0 | simp [h0] | split)

@[simp] theorem Device.slotEnds_tablesOk (d : Device) (c : AccessClass) (h0 : d.tablesOk) :
    (Device.slotEnds d c).tablesOk := by
  unfold Device.slotEnds
  split <;> simp [h0]

@[simp] theorem Device.settleEnds_tablesOk (d : Device) (h0 : d.tablesOk) :
    (Device.settleEnds d).tablesOk := by
  unfold Device.settleEnds
  repeat' (first | with_reducible exact h0 | simp [h0] | split)

@[simp] theorem Device.burstEnds_tablesOk (d : Device) (h0 : d.tablesOk) :
    (Device.burstEnds d).tablesOk := by
  unfold Device.burstEnds
  split <;> simp (maxDischargeDepth := 16) [h0]

@[simp] theorem Device.keyLimit_tablesOk (d : Device) (h0 : d.tablesOk) :
    (Device.keyLimit d).tablesOk := by
  unfold Device.keyLimit
  split <;> simp (maxDischargeDepth := 16) [h0]

@[simp] theorem Device.ackLimit_tablesOk (d : Device) (h0 : d.tablesOk) :
    (Device.ackLimit d).tablesOk := by
  unfold Device.ackLimit
  split <;> simp (maxDischargeDepth := 16) [h0]

@[simp] theorem Device.blindReached_tablesOk (d : Device) (h0 : d.tablesOk) :
    (Device.blindReached d).tablesOk := by
  unfold Device.blindReached
  split <;> simp [h0]

@[simp] theorem Device.channelBlocks_tablesOk (d : Device) (h0 : d.tablesOk) :
    (Device.channelBlocks d).tablesOk := by
  unfold Device.channelBlocks
  repeat' (first | with_reducible exact h0 | simp [h0] | split)

@[simp] theorem Device.debounce_tablesOk (d : Device) (h0 : d.tablesOk) :
    (Device.debounce d).tablesOk := by
  unfold Device.debounce
  dsimp only
  repeat' split
  all_goals simp (maxDischargeDepth := 16) [h0]

@[simp] theorem Device.rawChange_tablesOk (d : Device) (up : Bool) (h0 : d.tablesOk) :
    (Device.rawChange d up).tablesOk := by
  unfold Device.rawChange
  split <;> simp [h0]

@[simp] theorem Device.protectionCheck_tablesOk (d : Device) (tuneF refl supLo : Bool) (h0 : d.tablesOk) :
    (Device.protectionCheck d tuneF refl supLo).tablesOk := by
  unfold Device.protectionCheck
  try dsimp only
  repeat' split
  all_goals first
    | simp (maxDischargeDepth := 16) [*]

@[simp] theorem Device.serveMark_tablesOk (d : Device) (r : OwedRef) (h0 : d.tablesOk) : (Device.serveMark d r).tablesOk := by
  unfold Device.serveMark
  split
  all_goals (try dsimp only)
  all_goals repeat' split
  all_goals first
    | (simp (maxDischargeDepth := 16) [h0]; done)
    | exact h0
    | exact Device.report_tablesOk _ _ _ _ (Device.onQuota_tablesOk _ _ _ (fun _ => ⟨rfl, rfl, rfl, rfl⟩) h0)

@[simp] theorem Device.serveOwed_tablesOk (d : Device) (n : LaneName) (a0 : Nat) (h0 : d.tablesOk) :
    (Device.serveOwed d n a0).tablesOk := by
  induction a0 generalizing d with
  | zero => exact h0
  | succ fuel ih =>
    unfold Device.serveOwed
    split
    · exact h0
    · split
      · rename_i r rest h1 h2
        refine ih _ (Device.serveMark_tablesOk _ r ?_)
        rw [Device.onLane_tablesOk]
        exact h0
      · exact h0

@[simp] theorem Device.freeDelivery_tablesOk (d : Device) (id : Nat) (h0 : d.tablesOk) :
    (Device.freeDelivery d id).tablesOk := by
  unfold Device.freeDelivery
  split <;> simp [h0]

@[simp] theorem Device.drainLane_tablesOk (d : Device) (n : LaneName) (h0 : d.tablesOk) :
    (Device.drainLane d n).tablesOk := by
  unfold Device.drainLane
  split
  · exact h0
  · rename_i e rest h1
    split
    · rw [Device.onLane_tablesOk]
      exact h0
    · refine Device.serveOwed_tablesOk _ _ _ ?_
      have h2 := (Device.onLane_tablesOk d n fun l => ⟨rest, l.owed⟩).2 h0
      split
      · exact Device.freeDelivery_tablesOk _ _ h2
      · exact h2

@[simp] theorem Device.onConsoleCounts_tablesOk (d : Device) (f : ConsoleCounts → ConsoleCounts) (h0 : d.tablesOk) :
    (Device.onConsoleCounts d f).tablesOk := by
  unfold Device.onConsoleCounts
  simp [h0]

@[simp] theorem Device.assertCsel_tablesOk (d : Device) (h0 : d.tablesOk) :
    (Device.assertCsel d).tablesOk := by
  unfold Device.assertCsel
  simp [h0]

@[simp] theorem Device.releaseCsel_tablesOk (d : Device) (h0 : d.tablesOk) :
    (Device.releaseCsel d).tablesOk := by
  unfold Device.releaseCsel
  split <;> simp [h0]

@[simp] theorem Device.running_tablesOk (d : Device) (h0 : d.tablesOk) :
    (Device.running d).2.tablesOk := by
  unfold Device.running
  repeat' (first | with_reducible exact h0 | simp [h0] | split)

@[simp] theorem Device.completeExchange_tablesOk (d : Device) (h0 : d.tablesOk) :
    (Device.completeExchange d).tablesOk := by
  unfold Device.completeExchange
  dsimp only
  repeat' (first
    | with_reducible assumption
    | simp (maxDischargeDepth := 16) [*]
    | split)

@[simp] theorem Device.leaveSetup_tablesOk (d : Device) (h0 : d.tablesOk) :
    (Device.leaveSetup d).tablesOk := by
  unfold Device.leaveSetup
  split <;> simp [h0]

@[simp] theorem Device.echo_tablesOk (d : Device) (tag : Nat) (r : Disposition) (h0 : d.tablesOk) :
    (Device.echo d tag r).tablesOk := by
  unfold Device.echo
  split <;> simp [h0]

@[simp] theorem Device.voidSetup_tablesOk (d : Device) (h0 : d.tablesOk) :
    (Device.voidSetup d).tablesOk := by
  unfold Device.voidSetup
  simp [h0]

@[simp] theorem Device.setupHead_tablesOk (own port settle : Nat) (d : Device) (h0 : d.tablesOk) :
    (Device.setupHead own port settle d).2.tablesOk := by
  unfold Device.setupHead
  repeat' (first | with_reducible exact h0 | simp [h0] | split)

@[simp] theorem Device.completeSetup_tablesOk (d : Device) (h0 : d.tablesOk) :
    (Device.completeSetup d).tablesOk := by
  unfold Device.completeSetup
  simp (maxDischargeDepth := 16) [h0]

@[simp] theorem Device.setTime_tablesOk (year month day hour minute second : Nat) (d : Device) (h0 : d.tablesOk) :
    (Device.setTime year month day hour minute second d).2.tablesOk := by
  unfold Device.setTime
  try dsimp only
  repeat' split
  all_goals first
    | simp (maxDischargeDepth := 16) [*]

@[simp] theorem Device.setFix_tablesOk (lat lon : Int) (hour minute : Nat) (d : Device) (h0 : d.tablesOk) :
    (Device.setFix lat lon hour minute d).2.tablesOk := by
  unfold Device.setFix
  split <;> simp [h0]

@[simp] theorem Device.openSubmit_tablesOk (tag dest len : Nat) (d : Device) (h0 : d.tablesOk) :
    (Device.openSubmit tag dest len d).2.tablesOk := by
  unfold Device.openSubmit
  try dsimp only
  repeat' split
  all_goals first
    | exact h0
    | (have h2 := Device.reserve_eq_tablesOk ‹Device.reserve _ _ _ = _› (by simp (maxDischargeDepth := 16) [h0])
       simp (maxDischargeDepth := 16) [h2]
       done)
    | simp (maxDischargeDepth := 16) [h0]

@[simp] theorem Device.takeText_tablesOk (tag : Nat) (symbols : List Nat) (d : Device) (h0 : d.tablesOk) :
    (Device.takeText tag symbols d).2.tablesOk := by
  unfold Device.takeText
  repeat' (first | with_reducible exact h0 | simp [h0] | split)

@[simp] theorem Device.withdrawTag_tablesOk (consoleTag : Nat) (d : Device) (h0 : d.tablesOk) :
    (Device.withdrawTag consoleTag d).2.tablesOk := by
  unfold Device.withdrawTag
  dsimp only
  split
  all_goals
    split
    · exact h0
    · refine foldl_tablesOk _ (fun _ _ h => by simp (maxDischargeDepth := 16) [h]) _ _ ?_
      first
      | exact h0
      | (split <;> simp (maxDischargeDepth := 16) [h0])

@[simp] theorem Device.submitTimesOut_tablesOk (d : Device) (h0 : d.tablesOk) :
    (Device.submitTimesOut d).tablesOk := by
  unfold Device.submitTimesOut
  try dsimp only
  repeat' split
  all_goals first
    | exact h0
    | simp (maxDischargeDepth := 16) [h0]
    | (rename_i h
       have h2 := congrArg (fun x => x.2.tablesOk) h
       simp (maxDischargeDepth := 16) [h0] at h2
       simp (maxDischargeDepth := 16) [h2])

@[simp] theorem Device.restartAccess_tablesOk (d : Device) (h0 : d.tablesOk) :
    (Device.restartAccess d).tablesOk := by
  unfold Device.restartAccess
  repeat' (first | with_reducible exact h0 | simp [h0] | split)

@[simp] theorem Device.offerAgain_tablesOk (d : Device) (items : List Item) (h0 : d.tablesOk) :
    (Device.offerAgain d items).tablesOk := by
  unfold Device.offerAgain
  exact foldl_tablesOk _ (fun _ _ h => by simp (maxDischargeDepth := 16) [h]) _ _ (by simp (maxDischargeDepth := 16) [h0])

@[simp] theorem Device.restartRecords_tablesOk (d : Device) (h0 : d.tablesOk) :
    (Device.restartRecords d).tablesOk := by
  have h1 : ∀ (e : Device) (f : Transfers → Transfers), (f e.xfer).slots = List.replicate 8 Slot.free →
      e.tablesOk → (e.onXfer f).tablesOk := by
    intro e f _ h2
    exact h2
  unfold Device.restartRecords
  dsimp only
  rw [Device.onLoop_tablesOk]
  refine Device.leaveLoop_tablesOk _ ?_
  refine Device.onLog_tablesOk_marks _ _ (fun _ => ⟨rfl, rfl, rfl, rfl⟩) ?_
  refine foldl_tablesOk _ (fun _ _ h => by simp (maxDischargeDepth := 16) [h]) _ _ ?_
  rw [Device.onWeather_tablesOk _ _ rfl (mapIf_length _ _ _), Device.onStore_tablesOk]
  refine h1 _ _ rfl ?_
  rw [Device.onRep_tablesOk _ _ rfl]
  split <;> simp (maxDischargeDepth := 16) [h0]

@[simp] theorem Device.restartConsole_tablesOk (d : Device) (h0 : d.tablesOk) :
    (Device.restartConsole d).tablesOk := h0

@[simp] theorem Device.restart_tablesOk (d : Device) (h0 : d.tablesOk) :
    (Device.restart d).2.tablesOk := by
  unfold Device.restart
  simp (maxDischargeDepth := 16) [h0]

@[simp] theorem Device.answer_tablesOk (tag selector : Nat) (data : List Datum) (d : Device) (h0 : d.tablesOk) :
    (Device.answer tag selector data d).2.tablesOk := by
  unfold Device.answer
  try dsimp only
  repeat' split
  all_goals first
    | simp (maxDischargeDepth := 16) [*]

@[simp] theorem Device.startAlert_tablesOk (nature : Nat) (persons : Option Nat) (d : Device) (h0 : d.tablesOk) :
    (Device.startAlert nature persons d).tablesOk := by
  unfold Device.startAlert
  try dsimp only
  repeat' split
  all_goals first
    | simp (maxDischargeDepth := 16) [*]

@[simp] theorem Device.repeatNow_tablesOk (d : Device) (h0 : d.tablesOk) :
    (Device.repeatNow d).tablesOk := by
  unfold Device.repeatNow
  repeat' (first | with_reducible exact h0 | simp [h0] | split)

@[simp] theorem Device.raiseAgain_tablesOk (nature : Nat) (persons : Option Nat) (d : Device) (h0 : d.tablesOk) :
    (Device.raiseAgain nature persons d).tablesOk := by
  unfold Device.raiseAgain
  simp (maxDischargeDepth := 16) [h0]

@[simp] theorem Device.orderDistress_tablesOk (nature persons : Nat) (d : Device) (h0 : d.tablesOk) :
    (Device.orderDistress nature persons d).2.tablesOk := by
  unfold Device.orderDistress
  repeat' (first | with_reducible exact h0 | simp [h0] | split)

@[simp] theorem Device.orderCancel_tablesOk (d : Device) (h0 : d.tablesOk) :
    (Device.orderCancel d).2.tablesOk := by
  unfold Device.orderCancel
  try dsimp only
  repeat' split
  all_goals first
    | simp (maxDischargeDepth := 16) [*]

@[simp] theorem Device.orderAck_tablesOk (st : Nat) (d : Device) (h0 : d.tablesOk) :
    (Device.orderAck st d).2.tablesOk := by
  unfold Device.orderAck
  repeat' (first | with_reducible exact h0 | simp [h0] | split)

@[simp] theorem Device.orderClose_tablesOk (st : Nat) (d : Device) (h0 : d.tablesOk) :
    (Device.orderClose st d).2.tablesOk := by
  unfold Device.orderClose
  repeat' (first | with_reducible exact h0 | simp [h0] | split)

@[simp] theorem Device.orderFlush_tablesOk (d : Device) (h0 : d.tablesOk) :
    (Device.orderFlush d).2.tablesOk := by
  unfold Device.orderFlush
  split <;> simp (maxDischargeDepth := 16) [h0]

@[simp] theorem Device.orderLoop_tablesOk (tag : Nat) (d : Device) (h0 : d.tablesOk) :
    (Device.orderLoop tag d).2.tablesOk := by
  unfold Device.orderLoop
  repeat' (first | with_reducible exact h0 | simp [h0] | split)

@[simp] theorem Device.openHaul_tablesOk (tag : Nat) (d : Device) (h0 : d.tablesOk) :
    (Device.openHaul tag d).2.tablesOk := by
  unfold Device.openHaul
  repeat' split
  all_goals first
    | exact h0
    | (refine Device.queueEntry_tablesOk _ _ _ ?_
       rw [Device.onLog_tablesOk _ _ rfl rfl]
       exact h0)

@[simp] theorem Device.closeHaul_tablesOk (number : Nat) (d : Device) (h0 : d.tablesOk) :
    (Device.closeHaul number d).2.tablesOk := by
  unfold Device.closeHaul
  repeat' (first | with_reducible exact h0 | simp [h0] | split)

@[simp] theorem Device.catchLine_tablesOk (number : Nat) (sp : Species) (disp weight : Nat) (d : Device) (h0 : d.tablesOk) :
    (Device.catchLine number sp disp weight d).2.tablesOk := by
  unfold Device.catchLine
  repeat' (first | with_reducible exact h0 | simp [h0] | split)

@[simp] theorem Device.discardHaul_tablesOk (number : Nat) (d : Device) (h0 : d.tablesOk) :
    (Device.discardHaul number d).2.tablesOk := by
  unfold Device.discardHaul
  split <;> simp [h0]

/-- What a commit does not touch. -/
def Device.besideCells (d e : Device) : Prop :=
  e.distress = d.distress ∧ e.weather = d.weather ∧ e.rep = d.rep ∧ e.log.quotas = d.log.quotas

theorem Device.onCell_beside (d : Device) (rect : Nat) (sp : Species) (f : TallyCell → TallyCell) :
    d.besideCells (d.onCell rect sp f) := by
  unfold Device.onCell; split <;> exact ⟨rfl, rfl, rfl, rfl⟩

theorem Device.commitLines_committing (rect : Nat) (touched : List Species) (l : List CatchLine)
    (h : ∀ x ∈ l, x.species ∈ touched) (x : Device × Bool) (h0 : Device.committing rect touched x.1) :
    Device.committing rect touched (l.foldl (Device.commitLine rect) x).1 ∧
    x.1.besideCells (l.foldl (Device.commitLine rect) x).1 := by
  induction l generalizing x with
  | nil => exact ⟨h0, rfl, rfl, rfl, rfl⟩
  | cons y r ih =>
    have h1 := Device.onCell_committing x.1 rect touched y.species (fun c => c.addLine y)
      (h y (List.mem_cons_self ..)) (fun c => TallyCell.addLine_ok c y) h0
    have h2 := Device.onCell_beside x.1 rect y.species fun c => c.addLine y
    obtain ⟨i1, i2⟩ := ih (fun z hz => h z (List.mem_cons_of_mem _ hz)) (Device.commitLine rect x y) h1
    exact ⟨i1, i2.1.trans h2.1, i2.2.1.trans h2.2.1, i2.2.2.1.trans h2.2.2.1, i2.2.2.2.trans h2.2.2.2⟩

theorem Device.commitCells_committing (rect : Nat) (g : Haul) (touched l : List Species)
    (h : ∀ x ∈ l, x ∈ touched) (x : Device × Bool) (h0 : Device.committing rect touched x.1) :
    Device.committing rect touched (l.foldl (Device.commitCell rect g) x).1 ∧
    x.1.besideCells (l.foldl (Device.commitCell rect g) x).1 := by
  induction l generalizing x with
  | nil => exact ⟨h0, rfl, rfl, rfl, rfl⟩
  | cons y r ih =>
    have h1 := Device.onCell_committing x.1 rect touched y (fun c => c.addHaul g)
      (h y (List.mem_cons_self ..)) (fun c => TallyCell.addHaul_ok c g) h0
    have h2 := Device.onCell_beside x.1 rect y fun c => c.addHaul g
    obtain ⟨i1, i2⟩ := ih (fun z hz => h z (List.mem_cons_of_mem _ hz)) (Device.commitCell rect g x y) h1
    exact ⟨i1, i2.1.trans h2.1, i2.2.1.trans h2.2.1, i2.2.2.1.trans h2.2.2.1, i2.2.2.2.trans h2.2.2.2⟩

/-- Consumed computed, species by species. -/
theorem Device.setConsumed_part (l : List Species) (X Y : Species → Prop) (hY : ∀ s ∈ l, Y s) (d : Device)
    (h : quotasPart X Y d.log.cells d.log.quotas) :
    let e := l.foldl (fun d sp =>
      let n := d.consumedOf sp
      d.onQuota sp fun q => { q with consumed := n }) d
    e = { d with log := { d.log with quotas := e.log.quotas } } ∧
    e.log.quotas.map (fun q => q.species) = d.log.quotas.map (fun q => q.species) ∧
    quotasPart (fun s => X s ∧ s ∉ l) Y d.log.cells e.log.quotas := by
  induction l generalizing X d with
  | nil => exact ⟨rfl, rfl, by simpa using h⟩
  | cons y r ih =>
    intro e
    have h1 : quotasPart (fun s => X s ∧ s ≠ y) Y d.log.cells
        (mapIf (fun q => q.species == y) (fun q => { q with consumed := d.consumedOf y }) d.log.quotas) := by
      unfold mapIf
      refine quotasPart_map _ h (fun q => by split <;> rfl) (fun q _ k f => ?_) (fun q _ k f => ?_)
      · by_cases hs : q.species = y
        · rw [if_pos (by simpa using hs), hs]; rfl
        · rw [if_neg (by simpa using hs)]; exact f fun x => k ⟨x, hs⟩
      · by_cases hs : q.species = y
        · exact absurd (by rw [hs]; exact hY y (List.mem_cons_self ..)) k
        · rw [if_neg (by simpa using hs)]; exact f k
    obtain ⟨i1, i2, i3⟩ := ih _ (fun s hs => hY s (List.mem_cons_of_mem _ hs)) (d.onQuota y fun q => { q with consumed := d.consumedOf y }) h1
    refine ⟨i1, i2.trans ?_, ?_⟩
    · show List.map _ (mapIf _ _ _) = _
      unfold mapIf
      rw [List.map_map]
      refine List.map_congr_left fun x _ => ?_
      simp only [Function.comp_apply]
      split <;> rfl
    · refine ⟨i3.1, i3.2.1, fun q hq => ⟨fun k => (i3.2.2 q hq).1 fun x => k ⟨x.1.1, ?_⟩, (i3.2.2 q hq).2⟩⟩
      intro hm
      rcases List.mem_cons.1 hm with hm | hm
      · exact x.1.2 hm
      · exact x.2 hm

/-- Entries evaluated, species by species. -/
theorem Device.evaluate_part (l : List Species) (X Y : Species → Prop) (x : Bool × Device)
    (h : quotasPart X Y x.2.log.cells x.2.log.quotas) :
    let e := (l.foldl (fun x sp =>
      let (r, d) := x.2.evaluateQuota sp 0
      (x.1 || r, d)) x).2
    e.log.cells = x.2.log.cells ∧ e.rep = x.2.rep ∧ e.distress = x.2.distress ∧ e.weather = x.2.weather ∧
    e.log.quotas.map (fun q => q.species) = x.2.log.quotas.map (fun q => q.species) ∧
    quotasPart X (fun s => Y s ∧ s ∉ l) e.log.cells e.log.quotas := by
  induction l generalizing Y x with
  | nil => exact ⟨rfl, rfl, rfl, rfl, rfl, by simpa using h⟩
  | cons y r ih =>
    obtain ⟨e1, e2, e3, e4, e5, e6⟩ := Device.evaluateQuota_log x.2 y 0 X Y h
    obtain ⟨i1, i2, i3, i4, i5, i6⟩ := ih _ (x.1 || (x.2.evaluateQuota y 0).1, (x.2.evaluateQuota y 0).2) e3
    refine ⟨i1.trans e1, i2.trans e4, i3.trans e5, i4.trans e6, i5.trans e2, ?_⟩
    refine ⟨i6.1, i6.2.1, fun q hq => ⟨(i6.2.2 q hq).1, fun k => (i6.2.2 q hq).2 fun z => k ⟨z.1.1, ?_⟩⟩⟩
    intro hm
    rcases List.mem_cons.1 hm with hm | hm
    · exact z.1.2 hm
    · exact z.2 hm

/-- The quota work of a commit brings the entries back into step. -/
theorem Device.commitQuotas_tablesOk (d : Device) (lines : List CatchLine)
    (h1 : d.distress.cases.length ≤ 6 ∧ d.distress.settled.length ≤ 64 ∧ d.weather.forecasts.length ≤ 16 ∧
      d.weather.warnings.length ≤ 6 ∧ d.log.cells.length ≤ 60 ∧ cellsBounded d.log.cells d.rep.st)
    (h2 : quotasPart (fun s => s ∈ Device.speciesOf lines) (fun s => s ∈ Device.speciesOf lines) d.log.cells d.log.quotas) :
    (Device.commitQuotas d lines).tablesOk := by
  have hin : ∀ s, s ∈ d.quotaSpecies lines ↔ s ∈ Device.speciesOf lines ∧ (d.quota? s).isSome = true := by
    intro s
    unfold Device.quotaSpecies
    rw [(Device.sortBy_perm _ _).mem_iff, List.mem_filter]
  obtain ⟨a1, a2, a3⟩ := Device.setConsumed_part (d.quotaSpecies lines) _ _ (fun s hs => ((hin s).1 hs).1) d h2
  obtain ⟨b1, b2, b3, b4, b5, b6⟩ := Device.evaluate_part (d.quotaSpecies lines) _ _ (false, _) (by
    have : ∀ e : Device, e = { d with log := { d.log with quotas := e.log.quotas } } → e.log.cells = d.log.cells :=
      fun e he => by rw [he]
    rw [← this _ a1] at a3; exact a3)
  have c : ∀ e : Device, e = { d with log := { d.log with quotas := e.log.quotas } } →
      e.log.cells = d.log.cells ∧ e.rep = d.rep ∧ e.distress = d.distress ∧ e.weather = d.weather :=
    fun e he => by rw [he]; exact ⟨rfl, rfl, rfl, rfl⟩
  obtain ⟨c1, c2, c3, c4⟩ := c _ a1
  have key : Device.tablesOk ((d.quotaSpecies lines).foldl (fun x sp =>
      let (r, d) := x.2.evaluateQuota sp 0
      (x.1 || r, d)) (false, (d.quotaSpecies lines).foldl (fun d sp =>
      let n := d.consumedOf sp
      d.onQuota sp fun q => { q with consumed := n }) d)).2 := by
    rw [Device.tablesOk_iff, b2, b3, b4, b1]
    dsimp only
    rw [c1, c2, c3, c4]
    obtain ⟨p1, p2, p3, p4, p5, p6⟩ := h1
    refine ⟨p1, p2, p3, p4, ⟨p5, p6⟩, ?_⟩
    rw [b1] at b6
    dsimp only at b6
    rw [c1] at b6
    refine ⟨b6.1, b6.2.1, fun q hq => ?_⟩
    have hq2 : ∀ s, s = q.species → ¬(s ∈ Device.speciesOf lines ∧ s ∉ d.quotaSpecies lines) := by
      rintro s rfl ⟨k1, k2⟩
      refine k2 ((hin _).2 ⟨k1, ?_⟩)
      have hm : q.species ∈ d.log.quotas.map fun q => q.species := by
        rw [← a2]
        have := b5
        dsimp only at this
        rw [← this]
        exact List.mem_map.2 ⟨q, hq, rfl⟩
      obtain ⟨z, hz, hs⟩ := List.mem_map.1 hm
      unfold Device.quota?
      rw [List.find?_isSome]
      exact ⟨z, hz, by simpa using hs⟩
    exact ⟨fun _ => (b6.2.2 q hq).1 (hq2 _ rfl), fun _ => (b6.2.2 q hq).2 (hq2 _ rfl)⟩
  unfold Device.commitQuotas
  dsimp only
  split
  · exact Device.trigger_tablesOk _ _ key
  · exact key

/-- A commit with room for its keys. -/
theorem Device.commitHaul_tablesOk (tag i : Nat) (d : Device) (h0 : d.tablesOk)
    (hr : d.log.cells.length + (d.newKeys (haulRectangle (d.haul i)) (d.haul i).lines).length ≤ 60) :
    (Device.commitHaul tag i d).tablesOk := by
  obtain ⟨p1, p2, p3, p4, ⟨_, p6⟩, p7⟩ := (Device.tablesOk_iff d).1 h0
  have h1 : Device.committing (haulRectangle (d.haul i)) (Device.speciesOf (d.haul i).lines) d :=
    ⟨hr, p6, p7.1, p7.2.1, fun q hq => ⟨fun _ => (p7.2.2 q hq).1 id, fun _ => (p7.2.2 q hq).2 id⟩⟩
  obtain ⟨a1, a2⟩ := Device.commitLines_committing _ _ (d.haul i).lines (fun x hx => by
    unfold Device.speciesOf
    rw [List.mem_eraseDups]
    exact List.mem_map.2 ⟨x, hx, rfl⟩) (d, false) h1
  obtain ⟨b1, b2⟩ := Device.commitCells_committing _ (d.haul i) _ (Device.speciesOf (d.haul i).lines) (fun _ h => h) _ a1
  unfold Device.commitHaul
  dsimp only
  have hq : ∀ (e : Device) n x, (e.queueEntry n x).distress = e.distress ∧ (e.queueEntry n x).weather = e.weather ∧
      (e.queueEntry n x).rep = e.rep ∧ (e.queueEntry n x).log = e.log := by
    intro e n x
    unfold Device.queueEntry
    split
    · cases n <;> exact ⟨rfl, rfl, rfl, rfl⟩
    · exact ⟨rfl, rfl, rfl, rfl⟩
  apply Device.commitQuotas_tablesOk
  · simp only [Device.onLogCounts, Device.onLog, (hq _ _ _).1, (hq _ _ _).2.1, (hq _ _ _).2.2.1, (hq _ _ _).2.2.2, Device.onHaul]
    rw [b2.1, a2.1, b2.2.1, a2.2.1]
    exact ⟨p1, p2, p3, p4, Nat.le_trans (Nat.le_add_right _ _) b1.1, b1.2.1⟩
  · simp only [Device.onLogCounts, Device.onLog, (hq _ _ _).2.2.2, Device.onHaul]
    exact b1.2.2

@[simp] theorem Device.orderCommit_tablesOk (tag number : Nat) (d : Device) (h0 : d.tablesOk) :
    (Device.orderCommit tag number d).2.tablesOk := by
  unfold Device.orderCommit
  dsimp only
  repeat' split
  all_goals first
    | exact h0
    | exact Device.onLogCounts_tablesOk _ _ h0
    | skip
  rename_i hk _
  have h1 : d.log.cells.length ≤ 60 := h0.2.2.2.2.1.1
  exact Device.commitHaul_tablesOk _ _ _ h0 (by omega)

@[simp] theorem Device.hourReached_tablesOk (d : Device) (h0 : d.tablesOk) :
    (Device.hourReached d).tablesOk := by
  unfold Device.hourReached
  split
  · exact h0
  · exact Device.trigger_tablesOk _ _ ((Device.onRep_tablesOk _ _ rfl).2 (Device.reach_tablesOk _ _ h0))

@[simp] theorem Device.deadlineReached_tablesOk (d : Device) (h0 : d.tablesOk) :
    (Device.deadlineReached d).tablesOk := by
  unfold Device.deadlineReached
  split <;> simp [h0]

@[simp] theorem Device.recoveryTime_tablesOk (m : MonitorId) (d : Device) (h0 : d.tablesOk) :
    (Device.recoveryTime m d).tablesOk := by
  unfold Device.recoveryTime
  split <;> simp [h0]

@[simp] theorem Device.quietTime_tablesOk (d : Device) (h0 : d.tablesOk) :
    (Device.quietTime d).tablesOk := by
  unfold Device.quietTime
  split <;> simp [h0]

@[simp] theorem Device.loopDone_tablesOk (received : List Pattern) (d : Device) (h0 : d.tablesOk) :
    (Device.loopDone received d).tablesOk := by
  unfold Device.loopDone
  split <;> simp (maxDischargeDepth := 16) [h0]

@[simp] theorem Device.staleTime_tablesOk (st : Station) (d : Device) (h0 : d.tablesOk) :
    (Device.staleTime st d).tablesOk := by
  unfold Device.staleTime
  dsimp only
  repeat' (first
    | with_reducible assumption
    | simp (maxDischargeDepth := 16) [*]
    | split)

@[simp] theorem Device.removalTime_tablesOk (st : Station) (d : Device) (h0 : d.tablesOk) :
    (Device.removalTime st d).tablesOk := by
  unfold Device.removalTime
  repeat' (first | with_reducible exact h0 | simp [h0] | split)

@[simp] theorem Device.avoidTime_tablesOk (st : Station) (d : Device) (h0 : d.tablesOk) :
    (Device.avoidTime st d).tablesOk := by
  unfold Device.avoidTime
  split <;> simp (maxDischargeDepth := 16) [h0]

@[simp] theorem Device.beaconTime_tablesOk (d : Device) (h0 : d.tablesOk) :
    (Device.beaconTime d).tablesOk := by
  unfold Device.beaconTime
  split <;> simp [h0]

@[simp] theorem Device.waitTime_tablesOk (k : WaitKind) (st num : Nat) (d : Device) (h0 : d.tablesOk) :
    (Device.waitTime k st num d).tablesOk := by
  unfold Device.waitTime
  try dsimp only
  repeat' split
  all_goals first
    | simp (maxDischargeDepth := 16) [*]

@[simp] theorem Device.ackTime_tablesOk (d : Device) (h0 : d.tablesOk) :
    (Device.ackTime d).tablesOk := by
  unfold Device.ackTime
  repeat' (first | with_reducible exact h0 | simp [h0] | split)

@[simp] theorem Device.refusalTime_tablesOk (i : Nat) (d : Device) (h0 : d.tablesOk) :
    (Device.refusalTime i d).tablesOk := by
  unfold Device.refusalTime
  split <;> simp [h0]

@[simp] theorem Device.lifeTime_tablesOk (i : Nat) (d : Device) (h0 : d.tablesOk) :
    (Device.lifeTime i d).tablesOk := by
  unfold Device.lifeTime
  repeat' (first | with_reducible exact h0 | simp [h0] | split)

@[simp] theorem Device.inactivityTime_tablesOk (src num : Nat) (d : Device) (h0 : d.tablesOk) :
    (Device.inactivityTime src num d).tablesOk := by
  unfold Device.inactivityTime
  repeat' (first | with_reducible exact h0 | simp [h0] | split)

@[simp] theorem Device.recentTime_tablesOk (src num : Nat) (d : Device) (h0 : d.tablesOk) :
    (Device.recentTime src num d).tablesOk := by
  unfold Device.recentTime
  repeat' (first | with_reducible exact h0 | simp [h0] | split)

@[simp] theorem Device.repeatTime_tablesOk (d : Device) (h0 : d.tablesOk) :
    (Device.repeatTime d).tablesOk := by
  unfold Device.repeatTime
  split <;> simp (maxDischargeDepth := 16) [h0]

@[simp] theorem Device.cancelTime_tablesOk (d : Device) (h0 : d.tablesOk) :
    (Device.cancelTime d).tablesOk := by
  unfold Device.cancelTime
  split <;> simp (maxDischargeDepth := 16) [h0]

@[simp] theorem Device.caseTime_tablesOk (st : Station) (d : Device) (h0 : d.tablesOk) :
    (Device.caseTime st d).tablesOk := by
  unfold Device.caseTime
  repeat' (first | with_reducible exact h0 | simp [h0] | split)

@[simp] theorem Device.holdTime_tablesOk (d : Device) (h0 : d.tablesOk) :
    (Device.holdTime d).tablesOk := by
  unfold Device.holdTime
  dsimp only
  have h1 : ∀ t, ((d.reach t).onDistress fun u => { u with holdTimer := none }).tablesOk := fun t =>
    Device.reach_tablesOk d t h0
  repeat' split
  · exact h0
  · exact Device.endHold_tablesOk _ (h1 _)
  · exact h1 _

@[simp] theorem Device.collectionTime_tablesOk (area : Nat) (d : Device) (h0 : d.tablesOk) :
    (Device.collectionTime area d).tablesOk := by
  unfold Device.collectionTime
  split <;> simp [h0]

@[simp] theorem Device.forecastTime_tablesOk (area : Nat) (complete : Bool) (d : Device) (h0 : d.tablesOk) :
    (Device.forecastTime area complete d).tablesOk := by
  unfold Device.forecastTime
  repeat' (first | with_reducible exact h0 | simp [h0] | split)

@[simp] theorem Device.warningTime_tablesOk (issuer issue : Nat) (d : Device) (h0 : d.tablesOk) :
    (Device.warningTime issuer issue d).tablesOk := by
  unfold Device.warningTime
  repeat' (first | with_reducible exact h0 | simp [h0] | split)

@[simp] theorem Device.tick_tablesOk (d : Device) (h0 : d.tablesOk) :
    (Device.tick d).tablesOk := by
  unfold Device.tick
  simp [h0]

@[simp] theorem Device.takeDue_tablesOk (d : Device) (h0 : d.tablesOk) :
    (Device.takeDue d).2.tablesOk := by
  unfold Device.takeDue
  repeat' (first | with_reducible exact h0 | simp [h0] | split)

theorem Device.setupPart_tablesOk (k : Nat) (take : SetupRaw → Option SetupRaw) (finish : Device → Device) (d : Device)
    (h : ∀ e : Device, e.tablesOk → (finish e).tablesOk) (h0 : d.tablesOk) :
    (Device.setupPart k take finish d).2.tablesOk := by
  unfold Device.setupPart
  repeat' split
  all_goals first
    | exact h0
    | exact Device.voidSetup_tablesOk _ h0
    | exact h _ h0

/-- A frame keeps what its judging keeps. -/
theorem Device.frame_tablesOk (d : Device) (tag : Nat) (isSetup early : Bool) (judge : Device → Disposition × Device)
    (h : ∀ e : Device, e.tablesOk → (judge e).2.tablesOk) (h0 : d.tablesOk) :
    (d.frame tag isSetup early judge).tablesOk := by
  unfold Device.frame
  have h1 := Device.completeExchange_tablesOk d h0
  have h2 := Device.leaveSetup_tablesOk _ h1
  dsimp only
  refine Device.settle_tablesOk _ (Device.echo_tablesOk _ _ _ ?_)
  repeat' split
  all_goals first
    | exact h _ h1
    | exact h _ h2
    | exact h1
    | exact h2

theorem State.act_tablesOk (s t : State) (f : Device → Device) (h : ∀ e : Device, e.tablesOk → (f e).tablesOk)
    (h0 : s.dev.tablesOk) (ht : s.act f = .next t) : t.dev.tablesOk := by
  unfold State.act at ht
  injection ht with ht
  subst ht
  dsimp only
  split
  · exact h0
  · exact h _ h0

theorem State.frame_tablesOk (s t : State) (tag : Nat) (isSetup early : Bool) (judge : Device → Disposition × Device)
    (h : ∀ e : Device, e.tablesOk → (judge e).2.tablesOk) (h0 : s.dev.tablesOk)
    (ht : s.frame tag isSetup early judge = .next t) : t.dev.tablesOk :=
  State.act_tablesOk s t _ (fun e he => Device.frame_tablesOk e tag isSetup early judge h he) h0 ht

theorem State.event_tablesOk (s t : State) (f : Device → Device) (h : ∀ e : Device, e.tablesOk → (f e).tablesOk)
    (h0 : s.dev.tablesOk) (ht : s.event f = .next t) : t.dev.tablesOk :=
  State.act_tablesOk s t _ (fun e he => Device.settle_tablesOk _ (h e he)) h0 ht

end Sys2Proof.Machine
end

