-- ==== Sys2Proof/Tests/Slice0.lean ====
section
/-! SUPPORT. Tests: ill-formed commands are refused, words of R205's frames written out are read, single steps and
figures of the spec's own worked examples, and a witness for the hypotheses of each obligation. -/

namespace Sys2Proof.Tests

open Sys2Proof.Machine

-- One test at a time: each waits for the kernel's whole environment.
set_option Elab.async false

/-! ## Small states -/

def cfg : Setup :=
  { own := 1001, port := 2000, sources := [3000], areas := [5, 7], settleMs := 150, dTune := 3, dReflect := 5,
    dSupply := 3, dKeytime := 50, recovery := 30, latch := 2, stale := 30, tDirect := 100, tRelay := 50,
    beacon := 15, position := true, retry := 4, message := true, distress := true, warning := true, hold := 5,
    reportHour := some 6, receipt := 60 }

/-- A READY part one second after reset, its lanes drained. -/
def ready : Device :=
  { Device.afterReset 0 with
    now := 1000, config := cfg, rx := Rx.blank .hunting,
    access := { Access.reset with clearSince := some 0 },
    console := { Console.reset with setup := .done } }

def run (d : Device) : State := ⟨[], d⟩

def item (kind : BurstKind) (owner : Owner) : Item :=
  { kind := kind, dest := 2000, seq := 3, body := [0, 0], owner := owner, ready := 900, cw := 8, ackEnd := 900,
    order := 0, blindFrom := 900, overdue := false }

def contender (it : Item) (n : Nat) (base : Option Time) : Contender := ⟨it, n, 0, base, true⟩

/-- The part with the item on air since 500 ms. -/
def onAir (it : Item) : Device :=
  { ready with
    access := { ready.access with onAir := some ⟨it, 500, 4⟩, chan := .own, clearSince := none },
    rx := Rx.blank .closed, tx := some (ready.txFor it) }

def own (st : OwnState) : Device :=
  { ready with distress := { ready.distress with own := { ready.distress.own with st := st, num := 9 } } }

def held : Device := { ready with distress := { ready.distress with holdTimer := some 5000, holdSince := some 900 } }

def slotOf (st : SlotState) : Slot :=
  { Slot.free with
    st := st, tag := 8, dest := 2000, orig := 1001, hop := some 2000, lastHop := 2000, len := 10, cnt := 1,
    lifetimeEnd := 43200000 }

/-- The part with the given slot 0. -/
def withSlot (s : Slot) : Device :=
  { ready with xfer := { ready.xfer with slots := s :: List.replicate 7 Slot.free } }

def caseRec (st : CaseState) : Case :=
  { station := 1500, alert := 4, nature := 3, pos := none, posTime := none, persons := none, firstHeard := 0,
    lastHeard := 0, via := none, readable := true, st := st, ackedBy := none, closeReason := none, relay := .none,
    ownAck := .none }

def withCase (st : CaseState) : Device :=
  { ready with distress := { ready.distress with cases := [caseRec st] } }

def neighbour (fresh : Bool) : Neigh :=
  { station := 2000, kind := .port, q := 100, lastHeard := 0, heard := 1, facts := none, avoidUntil := some 2000,
    fresh := fresh, removalWaits := false }

def withNeighbour (fresh : Bool) : Device :=
  { ready with neigh := { ready.neigh with entries := [neighbour fresh], beaconDue := some 1000 } }

def haulRec (st : HaulState) (lines : List CatchLine) : Haul :=
  { Haul.free with st := st, num := 17, startPos := (367250, -10800), endPos := some (369120, 2240),
                   startRect := 244887, lines := lines }

/-- The part with UTC, a fix and the given haul in record 1. -/
def withHaul (h : Haul) : Device :=
  { ready with
    log := { ready.log with hauls := h :: List.replicate 3 Haul.free },
    console := { ready.console with utc := some ⟨0, 0⟩, fix := some ⟨367250, -10800, 4, 8, 0⟩ } }

def cod : CatchLine := ⟨⟨2, 14, 3⟩, true, 1800⟩

def forecastRec (complete : Bool) : Forecast :=
  { issuer := 3000, area := 5, issue := 100, cnt := 1, parts := [none], headerPart := 0, day := 1, hour := 0,
    minute := 0, validFor := 1, issued := some 0, validUntil := some 3600, grant := 0, lastPart := 0,
    complete := complete }

def warningRec : Warning :=
  { issuer := 3000, issue := 7, severity := .gale, day := 1, hour := 0, minute := 0, validFor := 1, areas := [5],
    wanted := true, issued := some 0, validUntil := some 3600, grant := 0, len := 20, score := 0, erasures := 0,
    pass := true, firstStored := 0, relay := .none }

def withWeather : Device :=
  { ready with
    weather := { ready.weather with forecasts := [forecastRec false, forecastRec true], warnings := [warningRec] },
    console := { ready.console with utc := some ⟨0, 0⟩ } }

def submitOf : Machine.Submit := ⟨8, 2000, 30, 0, 0, 0, 30000⟩

def withSubmit : Device :=
  { withSlot { slotOf .reserved with hop := none, lastHop := 0 } with
    console := { ready.console with submit := some submitOf } }

def page : Store := { Store.reset with grants := [⟨0, .inbound, [44]⟩], nextId := 1 }

/-- The part with a setup sequence that waits for part `n`. -/
def settingUp (n : Nat) : Device :=
  { Device.afterReset 0 with
    console := { Console.reset with
      setup := .collecting n, held := { SetupRaw.zero with own := 1001, port := 2000 } } }

/-! ## Ill-formed commands -/

theorem test_illFormed_bytes :
    (Instr.noneFrame 256).wellFormed = false ∧ (Instr.unknownKind 0 26).wellFormed = false ∧
    (Instr.unknownKind 0 256).wellFormed = false ∧ (Instr.readBadSelector 0 9).wellFormed = false ∧
    (Instr.setup 0 16777216 1 0).wellFormed = false ∧ (Instr.setupPart1 0 256 1 1 1).wellFormed = false ∧
    (Instr.setupPart2 0 1 0 256 1 1 1 1 1).wellFormed = false ∧
    (Instr.setupPart3 0 1 1 1 1 1 1 0 0 256 0).wellFormed = false ∧
    (Instr.setupPart4 0 0 0 0 0 256 0 0 0 0).wellFormed = false ∧
    (Instr.setupPart5 0 65536 0 0 0 0).wellFormed = false ∧ (Instr.time 0 65536 1 1 0 0 0).wellFormed = false ∧
    (Instr.position 0 2147483648 0 0 0).wellFormed = false ∧ (Instr.submit 0 16777216 1).wellFormed = false ∧
    (Instr.text 0 [1, 2]).wellFormed = false ∧ (Instr.withdraw 0 256).wellFormed = false ∧
    (Instr.readStatus 256).wellFormed = false ∧ (Instr.readForecast 0 65536).wellFormed = false ∧
    (Instr.readHaul 0 65536).wellFormed = false ∧ (Instr.distress 0 256 0).wellFormed = false ∧
    (Instr.cancel 256).wellFormed = false ∧ (Instr.ackCase 0 16777216).wellFormed = false ∧
    (Instr.haulClose 0 65536).wellFormed = false ∧
    (Instr.catchLine 0 1 256 0 0 0 1).wellFormed = false := by decide

theorem test_illFormed_events :
    (Instr.syncAFound 16).wellFormed = false ∧ (Instr.characterReceived 15 16).wellFormed = false ∧
    (Instr.loopResult [15]).wellFormed = false ∧ (Instr.staleTime 0).wellFormed = false ∧
    (Instr.caseExpiry 262143).wellFormed = false ∧ (Instr.relayWaitExpiry .distress 1 64).wellFormed = false ∧
    (Instr.relayWaitExpiry .warning 1 4096).wellFormed = false ∧ (Instr.refusalWaitEnd 8).wellFormed = false ∧
    (Instr.lifetimeEnd 8).wellFormed = false ∧ (Instr.inactivityExpiry 1 64).wellFormed = false ∧
    (Instr.collectionDiscard 0).wellFormed = false ∧ (Instr.forecastExpiry 64 true).wellFormed = false ∧
    (Instr.warningExpiry 1 4096).wellFormed = false := by decide

/-! ## Frames written out from R205's payload table -/

theorem test_frame_setup :
    decodeFrame [1, 1, 0, 3, 233, 0, 7, 208, 15, 0, 0, 0] = some (.setup 1 1001 2000 15) := by decide
theorem test_frame_submit :
    decodeFrame [9, 20, 0, 3, 234, 0, 150, 0, 0, 0, 0, 0] = some (.submit 20 1002 150) := by decide
theorem test_frame_text :
    decodeFrame [10, 20, 1, 2, 3, 4, 5, 6, 7, 8, 0, 0] = some (.text 20 [1, 2, 3, 4, 5, 6, 7, 8]) := by decide
theorem test_frame_distress :
    decodeFrame [13, 30, 3, 255, 0, 0, 0, 0, 0, 0, 0, 0] = some (.distress 30 3 255) := by decide
theorem test_frame_closeCase :
    decodeFrame [16, 2, 3, 255, 254, 0, 0, 0, 0, 0, 0, 0] = some (.closeCase 2 262142) := by decide
theorem test_frame_haulCommit :
    decodeFrame [25, 2, 0, 17, 0, 0, 0, 0, 0, 0, 0, 0] = some (.haulCommit 2 17) := by decide
theorem test_tableWord : decodeTableWord 8 0 = none := rfl
/-- HAUL COMMIT of haul 17 with tag 2, its bytes 25, 2, 0, 17 from the lowest up. -/
theorem test_tableWord_frame : decodeTableWord 96 (25 + 2 * 256 + 17 * 256 ^ 3) = some (.haulCommit 2 17) := by decide

/-! ## Figures of the spec -/

/-- 01: station 40,117 is carried as the symbols 9, 50, 53. -/
theorem test_station_symbols : toSyms 3 40117 = [9, 50, 53] := by decide

/-- 02, second example: an ACK burst lasts 1,440 ms, a DISTRESS burst with a 15-symbol body 5,920 ms. -/
theorem test_durations : burstDuration .ack 2 = 1440 ∧ burstDuration .distress 15 = 5920 := by decide

/-- 04, example: 816 symbols take 14 pages, 1,776 take 30, 1,380 take 23. -/
theorem test_pages :
    ((Store.reset.reserve .forecast 816).2.held .forecast, (Store.reset.reserve .outbound 1776).2.held .outbound,
      (Store.reset.reserve .outbound 1380).2.held .outbound) = (14, 30, 23) := by decide +kernel

/-- 05: an entry with Q = 100 heard with a score of 187 gets 122. -/
theorem test_q : (((withNeighbour true).headerFacts 2000 187 1000).1.neighbour? 2000).map (fun n => n.q) = some 122 := by
  decide +kernel

/-- 09: the example's start and end positions, their rectangles, and R151's midpoint of latitudes −1 and 0. -/
theorem test_rectangles :
    rectangleOf (367250, -10800) = 244887 ∧ rectangleOf (369120, 2240) = 245430 ∧
    (midpoint (-1, 0) (0, 0)).1 = -1 ∧ (midpoint (367250, -10800) (369120, 2240)).1 = 368185 := by decide +kernel

/-! ## Single steps -/

/-- The part after the step. -/
def after (d : Device) (c : Instr) : Device :=
  match step ⟨[c], d⟩ with
  | .next t => t.dev
  | _ => d

theorem test_notSet : (after (Device.afterReset 0) (.flush 7)).console.echoDisp = .notSet := by decide +kernel
theorem test_unknownKind : (after (Device.afterReset 0) (.unknownKind 7 200)).console.echoDisp = .unknownKind := by
  decide +kernel
theorem test_badSelector : (after ready (.readBadSelector 7 10)).console.echoDisp = .badParam := by decide +kernel
theorem test_setup : (after (Device.afterReset 0) (.setup 7 1001 2000 15)).console.setup = .collecting 1 := by
  decide +kernel
theorem test_setup_outOfTurn : (after (settingUp 2) (.setupPart1 7 0 1 1 1)).console.setup = .idle := by
  decide +kernel
theorem test_setup_void : (after (settingUp 2) (.noneFrame 7)).console.setup = .idle := by decide +kernel
theorem test_time_leapDay :
    (after ready (.time 7 2024 2 29 23 59 58)).console.echoDisp = .taken ∧
    (after ready (.time 7 2023 2 29 23 59 58)).console.echoDisp = .range := by decide +kernel
theorem test_position_antimeridian :
    ((after ready (.position 7 0 1080000 0 0)).console.fix.map fun f => f.lon) = some (-1080000) := by decide +kernel
theorem test_submit_range : (after ready (.submit 7 2000 1777)).console.echoDisp = .range := by decide +kernel
theorem test_text_void :
    (after withSubmit (.text 8 [63, 0, 0, 0, 0, 0, 0, 0])).console.submit = none := by decide +kernel
theorem test_readHaul_absent : (after ready (.readHaul 7 1)).console.echoDisp = .badParam := by decide +kernel
theorem test_distress : (after ready (.distress 7 10 255)).console.echoDisp = .range ∧
    (after ready (.distress 7 9 63)).console.echoDisp = .range := by decide +kernel
theorem test_cancel_idle : (after ready (.cancel 7)).console.echoDisp = .state := by decide +kernel
theorem test_ackCase_none : (after ready (.ackCase 7 1500)).console.echoDisp = .noCase := by decide +kernel
theorem test_closeCase : ((after (withCase .acked) (.closeCase 7 1500)).distress.cases.map fun c => c.st) = [.closed] := by
  decide +kernel
theorem test_flush : (after ready (.flush 7)).console.echoDisp = .noHold := by decide +kernel
theorem test_loopTest : (after (own .alerting) (.loopTest 7)).console.echoDisp = .state := by decide +kernel
/-- 09, example: the CATCH LINE at 06:30 is refused because the haul was still OPEN. -/
theorem test_catchLine_open :
    (after (withHaul (haulRec .open' [])) (.catchLine 7 17 2 14 3 0 1800)).console.echoDisp = .state := by
  decide +kernel
/-- 09, example: the haul's end rectangle at HAUL CLOSE, and its long tow. -/
theorem test_haulClose :
    ((after { withHaul (haulRec .open' []) with
        console := { ready.console with utc := some ⟨0, 0⟩, fix := some ⟨369120, 2240, 7, 52, 0⟩ } }
      (.haulClose 7 17)).log.hauls.map fun h => (h.st, h.endRect, h.longTow)).head?
      = some (.weighing, some 245430, true) := by decide +kernel
theorem test_haulCommit_noLines :
    (after (withHaul (haulRec .weighing [])) (.haulCommit 7 17)).console.echoDisp = .noLines := by decide +kernel
/-- 03, example: at the fifth active check in a row REFLECT trips, and the burst is aborted. -/
theorem test_reflect_trips :
    let d := { onAir (item .data (.slot 0)) with
      prot := { Protection.reset with reflect := { Monitor.reset with st := .alert, run := 4 } } }
    ((after d (.protectionCheck false true false)).prot.reflect.st,
      (after d (.protectionCheck false true false)).prot.trips) = (.tripped, 1) := by decide +kernel
/-- 03, example: the second trip reaches the latch limit of 2. -/
theorem test_reflect_latches :
    let d := { onAir (item .data (.slot 0)) with
      prot := { Protection.reset with reflect := { Monitor.reset with st := .alert, run := 4 }, trips := 1 } }
    (after d (.protectionCheck false true false)).prot.reflect.st = .latched := by decide +kernel
/-- 02, first example: the gap ends at 1,000 ms, and the first slot takes the counter from 5 to 4. -/
theorem test_gap_and_slot :
    let d := { ready with access := { ready.access with
      routine := ⟨[], some (contender (item .beacon .beacon) 5 none)⟩ } }
    let e := after d (.gapEnd .routine)
    ((e.access.routine.contender.map fun k => (k.counter, k.slotBase)),
      ((after e (.backoffSlot .routine)).access.routine.contender.map fun k => (k.counter, k.slotBase)))
      = (some (5, some 1000), some (4, some 1250)) := by decide +kernel
/-- R26: at the instant at which a DATA contender is due and a DISTRESS-ACK contender's gap ends, the latter is keyed. -/
theorem test_highest_class_keyed :
    let d := { ready with access := { ready.access with
      distress := ⟨[], some (contender (item .distressAck (.caseAck 1500 4)) 0 none)⟩,
      routine := ⟨[], some (contender (item .beacon .beacon) 0 (some 1000))⟩ } }
    ((after d (.rawCarrierChange true)).access.onAir.map fun a => a.item.kind) = some .distressAck := by decide +kernel
/-- R44: REFLECT recovered during the keying on air is not sampled at its next check. -/
theorem test_recovered_rests :
    let d := { onAir (item .distress .own) with
      prot := { Protection.reset with reflect := ⟨.tripped, 0, some 900, none, false⟩ } }
    (after (after d (.recoveryTime .reflect)) (.protectionCheck false true false)).prot.reflect.st = .normal := by
  decide +kernel
/-- R3: SYNC-A's first two units are mark and its third is space; nothing is sent in the settle time. -/
theorem test_modulator :
    let d := onAir (item .ack .answer)
    let t := ready.txFor (item .ack .answer)
    (d.modulator, ({ d with now := 1150, tx := some { t with passing := true } }).modulator,
      ({ d with now := 1179, tx := some { t with passing := true } }).modulator) = (none, some true, some false) := by
  decide +kernel
/-- R3, R50: a part LOOPING sends the TEST burst's 48 characters, SYNC A's two mark units first, for 3,840 ms. -/
theorem test_modulator_looping :
    let at' := fun t => { ready with now := t, loop := { ready.loop with st := .looping, endAt := 4840 } }
    ((at' 1000).modulator, (at' 1029).modulator, (at' 4840).modulator) = (some true, some false, none) := by
  decide +kernel
/-- R177: a QUOTA build without lines asks for no slot. -/
theorem test_noLines :
    let d := { ready with xfer := { ready.xfer with slots := List.replicate 8 (slotOf .ready) } }
    ((d.tryBuild .quota).rep.pending, (d.tryBuild .quota).rep.counts.slotWaits) = (none, 0) := by decide +kernel
theorem test_cselRelease_void :
    (after { ready with console := { ready.console with exchange := .running ⟨[], none⟩ } } .cselRelease).console.counts.void
      = 1 := by decide +kernel
theorem test_syncA : (after { ready with access := { ready.access with debounced := true, raw := true } }
    (.syncAFound 15)).rx.st = .syncing := by decide +kernel
theorem test_loopResult_pass :
    let d := { ready with loop := { ready.loop with st := .looping, tag := some 22, endAt := 1000 }, rx := Rx.blank .closed }
    (after d (.loopResult ((loopRanks 1001).map patternOf))).console.general.entries
      = [⟨.loopResult, 22, .report [.num 1 0, .num 2 0, .num 1 0], 0⟩] := by decide +kernel
theorem test_quietTimer :
    (after { ready with prot := { ready.prot with trips := 3, quietEnd := some 900 } } .quietTimer).prot.trips = 0 := by
  decide +kernel
theorem test_warningExpiry : (after withWeather (.warningExpiry 3000 7)).weather.warnings = [] := by decide +kernel

/-- R43, R121: an aborted DISTRESS-ACK is offered again, its case CLOSED or not. -/
theorem test_distressAck_again :
    ∀ st ∈ [CaseState.acked, .closed],
      let d : Device := { onAir (item .distressAck (.caseAck 1500 4)) with distress := (withCase st).distress }
      ((d.abortBurst .trip).access.distress.waiting.map fun x : Item => x.kind)
        = [.distressAck] := by decide +kernel

/-- R185: an owed CATCH REPORT STATE carries the record as it stands, the minutes of its deadline among them. -/
theorem test_owed_catch_report :
    let d := { ready with rep := { ready.rep with
      st := .awaitingReceipt, num := some 3, kind := some .ordered, deadline := some (.running 181000) } }
    ((d.serveMark .report).console.general.entries.map fun e => match e.body with
      | .report data => (data.drop 6).take 3
      | .delivery _ => []) = [[optNum 2 (some 3), optNum 1 none, .num 1 d.rep.st.code]] := by decide +kernel

/-! ## Witnesses: for each obligation, states and operands that meet the hypotheses of each of its clauses -/

theorem wit_EmptyQueueStep :
    (Device.inReset 0).resetLow = true ∧
    ((Device.afterReset 0).resetLow = false ∧ (Device.afterReset 0).dueEvents = []) ∧
    (let d := { ready with neigh := { ready.neigh with beaconDue := some 1000 } }
     d.resetLow = false ∧ d.dueEvents = [.beaconDue]) ∧
    (let d := { withNeighbour true with prot := { ready.prot with quietEnd := some 1000 } }
     d.resetLow = false ∧ d.dueEvents = .quietTimer :: .beaconDue :: []) := by decide +kernel

theorem wit_EveryCommandCompletes :
    (run (Device.inReset 0)).dev.resetLow = true ∧ Instr.noneFrame 0 ≠ .hardReset ∧
    Instr.noneFrame 0 ≠ .resetnAsserted := by decide

theorem wit_HardResetCatchLog :
    ready.console.utc = none ∧
    ({ ready with console := { ready.console with utc := some ⟨0, 0⟩ } }).console.utc ≠ none ∧
    ({ ready with console := { ready.console with utc := some ⟨0, 0⟩ } }).console.fix = none := by decide

theorem wit_StoreOkKept : StoreOk State.reset ∧ ∃ t, step State.reset = .next t := ⟨rfl, _, rfl⟩

theorem wit_CapacitiesKept :
    State.reset.dev.roomOk = true ∧ State.reset.dev.tablesOk ∧ ∃ t, step State.reset = .next t :=
  ⟨by decide, ⟨by decide, by decide, by decide, by decide, ⟨by decide, .nil, nofun, fun _ => nofun⟩, by decide, .nil,
    nofun⟩, _, rfl⟩

theorem wit_ConfigurationKept :
    Instr.settleEnd ≠ .hardReset ∧ Instr.settleEnd ≠ .resetnAsserted ∧ (run ready).dev.ready = true ∧
    ∃ t, exec .settleEnd (run ready) = .next t := ⟨by decide, by decide, by decide, _, rfl⟩

theorem wit_FrameRoundTrip :
    (Instr.haulCommit 255 65535).wellFormed = true ∧
    encodeFrame (.haulCommit 255 65535) = some [25, 255, 255, 255, 0, 0, 0, 0, 0, 0, 0, 0] := by decide

theorem wit_PatternRanks : rankOf 0x0F#8 = some 0 ∧ rankOf 0xF0#8 = some 69 := by decide +kernel

theorem wit_BurstDurations : (item .ack .answer).kind = .ack ∧ (item .ack .answer).body = [0, 0] := by decide

theorem wit_CheckSeesOneChangedSymbol : (0 : Nat) < 64 ∧ (63 : Nat) < 64 ∧ (0 : Nat) ≠ 63 ∧ ∀ s ∈ [63, 0], s < 64 := by
  decide

theorem wit_BodyRoundTrips :
    (let f : DistressFacts := ⟨9, some (540000, -1080000), some (23, 59), some 62⟩
     f.nature ≤ 9 ∧ (∀ p, f.pos = some p → -540000 ≤ p.1 ∧ p.1 ≤ 540000 ∧ -1080000 ≤ p.2 ∧ p.2 < 1080000) ∧
     (∀ t, f.posTime = some t → t.1 ≤ 23 ∧ t.2 ≤ 59) ∧ ∀ n, f.persons = some n → n ≤ 62) ∧
    (let h : DataHeader := ⟨15, 16, .text, 262142, 1⟩
     h.cnt ≤ 16 ∧ h.idx < h.cnt ∧ 1 ≤ h.dest ∧ h.dest < allStations ∧ 1 ≤ h.orig ∧ h.orig < allStations ∧
     [5] ≠ ([] : List Nat) ∧ (h.idx + 1 ≠ h.cnt → [5].length = 111)) ∧
    (let f : Facts := ⟨true, some (-540000, 1079999), some (262142, 255)⟩
     (∀ p, f.pos = some p → -540000 ≤ p.1 ∧ p.1 ≤ 540000 ∧ -1080000 ≤ p.2 ∧ p.2 < 1080000) ∧
     ∀ p, f.port = some p → 1 ≤ p.1 ∧ p.1 < allStations ∧ p.2 ≤ 255) := by
  refine ⟨⟨by decide, ?_, ?_, ?_⟩, by decide, ?_, ?_⟩ <;> (intro x h; cases h; decide)

theorem wit_ReceptionSteps :
    (let d := { ready with access := { ready.access with debounced := true } }
     d.resetLow = false ∧ d.rx.st = .hunting ∧ d.access.debounced = true) ∧
    (ready.resetLow = false ∧ ready.access.debounced = false) ∧
    (let d := { ready with rx := { Rx.blank .linked with count := 3, syms := [1] } }
     d.resetLow = false ∧ d.rx.st = .linked ∧ d.rx.count ≤ 11 ∧ symbolOf 0x00#8 = none ∧
     symbolOf 0x0F#8 = some 0 ∧ d.headerFault true d.rx.count (d.rx.syms ++ [0]) = false) ∧
    (let d := { ready with rx := { Rx.blank .linked with
        count := 14, syms := [2, 0, 15, 41, 0, 31, 16, 3, 0, 0, 0, 0] } }
     d.rx.st = .linked ∧ d.rx.count < 15 + symsAt d.rx.syms 8 2) := by decide +kernel

theorem wit_GapsAndBackoff :
    (item .ack .answer).kind = .ack ∧ (item .cancel .own).kind = .cancel ∧
    (item .warning (.warning 3000 7)).kind = .warning ∧
    ((item .data (.slot 0)).kind = .data ∧ 1 ≤ (item .data (.slot 0)).cw) ∧
    (item .beacon .beacon).kind = .beacon := by decide

theorem wit_CarrierFilter :
    (ready.live = true ∧ ready.access.raw ≠ true ∧ ready.access.raw = false) ∧
    (let d := { ready with access := { ready.access with raw := true } }
     d.live = true ∧ d.keyLine = false ∧ d.access.raw = true ∧ d.access.debounced = false) ∧
    (∀ st ∈ [RxState.syncing, .linked, .hunting],
      let d := { ready with rx := Rx.blank st, access := { ready.access with debounced := true } }
      d.live = true ∧ d.keyLine = false ∧ d.access.raw = false ∧ d.access.debounced = true ∧ d.rx.st = st) := by
  decide

theorem wit_GapAndSlot :
    (let k := contender (item .beacon .beacon) 0 none
     let d := { ready with access := { ready.access with routine := ⟨[], some k⟩ } }
     d.resetLow = false ∧ (d.access.queue .routine).contender = some k ∧ k.eligible = true ∧
     d.access.clearSince = some 0 ∧ k.slotBase = none ∧ d.now ≤ 0 + gapOf .routine ∧ d.access.chan = .clear ∧
     k.counter = 0) ∧
    (let k := contender (item .beacon .beacon) 1 (some 1000)
     let d := { ready with access := { ready.access with routine := ⟨[], some k⟩ } }
     d.resetLow = false ∧ (d.access.queue .routine).contender = some k ∧ k.eligible = true ∧
     d.access.clearSince = some 0 ∧ k.slotBase = some 1000 ∧ 0 < k.counter ∧ d.now ≤ 1000 + 250 ∧
     d.access.chan = .clear ∧ k.counter = 1) := by decide

/-- The part with a due contender in one class alone. -/
def due (c : AccessClass) (kind : BurstKind) : Device :=
  { ready with access := ready.access.onQueue c fun _ => ⟨[], some (contender (item kind .answer) 0 (some 900))⟩ }

theorem wit_ArbiterKeys :
    ((due .answer .ack).isBlindDue = false ∧ (due .answer .ack).isDue .answer = true) ∧
    ((due .distress .distress).isDue .answer = false ∧ (due .distress .distress).isDue .distress = true) ∧
    ((due .priority .warning).isDue .answer = false ∧ (due .priority .warning).isDue .distress = false ∧
      (due .priority .warning).isDue .priority = true) ∧
    ((due .routine .data).isDue .answer = false ∧ (due .routine .data).isDue .distress = false ∧
      (due .routine .data).isDue .priority = false ∧ (due .routine .data).isDue .routine = true) ∧
    (ready.isBlindDue = false ∧ ∀ c ∈ classOrder, ready.isDue c = false) ∧
    ((due .routine .data).access.queue .routine).contender = some (contender (item .data .answer) 0 (some 900)) := by
  decide +kernel

theorem wit_BurstOnAir :
    (onAir (item .beacon .beacon)).resetLow = false ∧
    (onAir (item .beacon .beacon)).tx = some (ready.txFor (item .beacon .beacon)) ∧
    (ready.txFor (item .beacon .beacon)).passing = false ∧
    (onAir (item .beacon .beacon)).access.onAir = some ⟨item .beacon .beacon, 500, 4⟩ ∧
    (item .beacon .beacon).owner = .beacon := by decide +kernel

theorem wit_KeyTimeLimit :
    (onAir (item .data (.slot 0))).resetLow = false ∧
    (onAir (item .data (.slot 0))).access.onAir = some ⟨item .data (.slot 0), 500, 4⟩ ∧
    (onAir (item .data (.slot 0))).prot.keytime.st = .normal := by decide +kernel

theorem wit_KeyTimeLimit_owners :
    (∀ r ∈ [AbortReason.keytime, .trip, .preempted], r ≠ .restart) ∧
    ((item .ack .answer).owner = .answer ∧ (item .beacon .beacon).owner = .beacon ∧
      (item .data (.slot 0)).owner = .slot 0 ∧ (item .distress .own).owner = .own) ∧
    (let d := withSlot { slotOf .ready with onAir := true }
     0 < d.xfer.slots.length ∧ (d.slot 0).onAir = true ∧ (d.slot 0).pendingEnd = none ∧ d.holdInForce = false ∧
     ((withSlot (slotOf .ready)).slot 0).onAir = false) ∧
    (let d := { withSlot { slotOf .ready with onAir := true } with distress := held.distress }
     d.holdInForce = true ∧ (d.slot 0).onAir = true ∧ (d.slot 0).pendingEnd = none) ∧
    (let d := withSlot { slotOf .ready with onAir := true, pendingEnd := some .withdrawn }
     d.holdInForce = false ∧ (d.slot 0).pendingEnd = some .withdrawn) ∧
    (let d := { withSlot { slotOf .ready with onAir := true, pendingEnd := some .withdrawn } with
       distress := held.distress }
     d.holdInForce = true ∧ (d.slot 0).pendingEnd = some .withdrawn) ∧
    (withWeather.warning? 3000 7 = some warningRec ∧ warningRec.relay ≠ .offered) ∧
    ((withCase .acked).case? 1500 = some (caseRec .acked) ∧ (caseRec .acked).alert = 4 ∧
      (caseRec .acked).st ≠ .closed ∧ (withCase .closed).case? 1500 = some (caseRec .closed) ∧
      (withCase .acked).holdsAlert 1500 5 = false) := by decide +kernel

/-- One own item that waits, not overdue, and the same one overdue. -/
theorem wit_AccessLimits_blind :
    ∀ it ∈ [item .distress .own, { item .distress .own with overdue := true }],
      it ∈ (ClassQueue.mk [it] none).items ∧ it.owner = .own ∧
      ∀ x ∈ (ClassQueue.mk [it] none).items, x.owner = .own → x = it := by decide +kernel

theorem wit_AccessLimits :
    (let d := { ready with access := { ready.access with answer := ⟨[item .ack .answer], none⟩ } }
     d.resetLow = false ∧ d.access.answer.items = [item .ack .answer]) ∧
    (let d := { ready with access := { ready.access with distress := ⟨[item .distress .own], none⟩ } }
     d.resetLow = false ∧ d.blindAt = some 30900) ∧
    (let k := contender { item .distress .own with overdue := true } 2 none
     let d := { ready with access := { ready.access with chan := .busy, distress := ⟨[], some k⟩ } }
     d.isBlindDue = true) ∧
    (let d := { ready with access := { ready.access with notClearSince := some 0 } }
     d.resetLow = false ∧ d.access.notClearSince = some 0 ∧ d.access.blocked = false ∧
     OwedRef.blocked ∉ d.console.general.owed ∧ d.console.general.entries.length < 24) := by decide +kernel

/-- The part with REFLECT in the given state. -/
def reflect (st : MonState) (run : Nat) : Device :=
  { ready with prot := { ready.prot with reflect := ⟨st, run, some 31000, none, false⟩ } }

theorem wit_MonitorTable :
    MonitorId.reflect ≠ .keytime ∧ ((reflect .normal 0).monitor .reflect).st = .normal ∧
    2 ≤ (reflect .normal 0).tripDelay .reflect ∧
    ({ reflect .normal 0 with config := { cfg with dReflect := 1 } }).tripDelay .reflect ≤ 1 ∧
    (((reflect .alert 3).monitor .reflect).st = .alert ∧
      ((reflect .alert 3).monitor .reflect).run + 1 < (reflect .alert 3).tripDelay .reflect ∧
      ((reflect .alert 3).monitor .reflect).run < 255) ∧
    (((reflect .alert 4).monitor .reflect).st = .alert ∧
      (reflect .alert 4).tripDelay .reflect ≤ ((reflect .alert 4).monitor .reflect).run + 1) ∧
    Device.inhibits ((reflect .tripped 0).monitor .reflect) = true ∧
    (let d := { ready with prot := { ready.prot with trips := 1 } }
     d.config.latch ≠ 0 ∧ d.config.latch ≤ min 255 (d.prot.trips + 1)) ∧
    min 255 (ready.prot.trips + 1) < ready.config.latch := by decide

theorem wit_ProtectionEvents :
    (let a : OnAir := ⟨item .data (.slot 0), 500, 4⟩
     let d := onAir a.item
     d.resetLow = false ∧ d.access.onAir = some a ∧ d.prot.tune.st = .normal ∧ d.prot.reflect.st = .normal ∧
     d.prot.supply.st = .normal ∧ d.prot.keytime.st = .normal ∧ d.prot.tune.resting = false ∧
     d.prot.reflect.resting = false ∧ d.prot.supply.resting = false ∧ d.now ≤ a.keyedAt + 100 * (a.checks + 1) ∧
     100 * (a.checks + 1) < 25000 - d.config.dKeytime * 100) ∧
    ((reflect .tripped 0).resetLow = false ∧ ((reflect .tripped 0).monitor .reflect).st = .tripped ∧
      ((reflect .tripped 0).monitor .reflect).recoverAt = some 31000) ∧
    (let d := { ready with prot := { ready.prot with quietEnd := some 900 } }
     d.resetLow = false ∧ d.prot.quietEnd = some 900) := by decide +kernel

theorem wit_Recover :
    (reflect .latched 0).live = true ∧
    Device.inhibits ((reflect .latched 0).completeExchange.monitor .reflect) = true ∧
    Device.inhibits ((reflect .latched 0).completeExchange.monitor .tune) = false := by decide +kernel

theorem wit_LoopTest :
    (let d := ready.completeExchange
     ready.live = true ∧ d.loop.st = .idle ∧ d.distress.own.st = .idle ∧ d.caseOpen = false ∧
     d.holdInForce = false) ∧
    (let d := { ready with loop := { ready.loop with st := .waiting } }
     d.live = true ∧ d.completeExchange.loop.st ≠ .idle ∧ d.resetLow = false ∧ d.loop.st = .waiting ∧
     d.access.chan ≠ .own ∧ d.reception = false) ∧
    ((own .alerting).live = true ∧ (own .alerting).completeExchange.loop.st = .idle ∧
      (own .alerting).completeExchange.distress.own.st ≠ .idle) ∧
    (let d := { ready with loop := { ready.loop with st := .looping } }
     d.resetLow = false ∧ d.loop.st = .looping ∧ OwedRef.loop ∉ d.console.general.owed ∧
     d.console.general.entries.length < 24 ∧ d.config.own < 262144) := by decide +kernel

theorem wit_LoopTest_fails :
    (List.replicate 48 (0x0F#8 : Pattern)).length = 48 ∧
    (ready.loopVerdict (List.replicate 48 0x0F#8)).outcome ≠ .pass ∧
    (ready.loopVerdict (List.replicate 48 0x0F#8)).mutilated = 3 := by decide +kernel

theorem wit_Reservation :
    (∀ g ∈ page.grants, g.id ≠ page.nextId) ∧
    (page.held .inbound + (3780 + 59) / 60 ≤ Holder.inbound.cap ∧
      (3780 + 59) / 60 ≤ (page.freePages Holder.inbound.pool).length) ∧
    Holder.inbound.cap < page.held .inbound + (3781 + 59) / 60 ∧
    (let x := { page with grants := [⟨0, .inbound, List.range 212⟩] }
     x.held .outbound + (1 + 59) / 60 ≤ Holder.outbound.cap ∧
     (x.freePages Holder.outbound.pool).length < (1 + 59) / 60) := by decide +kernel

theorem wit_ReadAfterWrite :
    Store.wf page.cells = true ∧ page.grant? 0 = some ⟨0, .inbound, [44]⟩ ∧ ([44] : List Nat).Nodup ∧ (255 : Nat) < 256 ∧ (59 : Nat) < 60 * ([44] : List Nat).length ∧ 60 * ([44] : List Nat).length ≤ 60 := by decide

theorem wit_ReleaseAndHandOver :
    page.grant? 0 = some ⟨0, .inbound, [44]⟩ ∧ page.held .outbound + [44].length ≤ 128 ∧
    (let x := { page with grants := page.grants ++ [(⟨1, .outbound, List.range' 45 128⟩ : Grant)] }
     x.grant? 0 = some ⟨0, .inbound, [44]⟩ ∧ 128 < x.held .outbound + [44].length) ∧
    (let x := { page with grants := [⟨0, .forecast, [44]⟩] }
     x.grant? 0 = some ⟨0, .forecast, [44]⟩ ∧ Holder.forecast ≠ .inbound) := by decide +kernel

theorem wit_HeaderFacts :
    (withNeighbour true).neighbour? 2000 = some (neighbour true) ∧ (withNeighbour true).neighbour? 1500 = none ∧
    (withNeighbour true).neigh.entries.length < 32 ∧ (1500 : Nat) ≠ 2000 := by decide

theorem wit_RouteNamesUsableStation :
    ({ ready with neigh := { ready.neigh with
        entries := [{ neighbour true with q := 255, avoidUntil := none }] } }).route = some 2000 := by decide +kernel

theorem wit_NeighbourEvents :
    ((withNeighbour true).resetLow = false ∧ (withNeighbour true).neighbour? 2000 = some (neighbour true) ∧
      (neighbour true).fresh = true ∧ (neighbour true).avoidUntil = some 2000 ∧
      (withNeighbour true).neigh.beaconDue = some 1000 ∧ (withNeighbour true).holdInForce = false ∧
      (withNeighbour true).inhibit = false ∧ held.holdInForce = true) ∧
    ((withNeighbour false).neighbour? 2000 = some (neighbour false) ∧ (neighbour false).fresh = false ∧
      (neighbour false).removalWaits = false ∧ (withNeighbour false).pinned 2000 = false) ∧
    (let d := { withNeighbour false with xfer := (withSlot (slotOf .ready)).xfer }
     d.neighbour? 2000 = some (neighbour false) ∧ d.pinned 2000 = true) := by decide +kernel

/-- The part with one relay wait, under the hold or not. -/
def waiting (k : WaitKind) (d : Device) : Device :=
  { d with waits := [⟨k, if k = .distress then 1500 else 3000, if k = .distress then 4 else 7, 1000, false⟩] }

theorem wit_RelayWaitExpiry :
    ((waiting .warning held).resetLow = false ∧
      (waiting .warning held).wait? .warning 3000 7 = some ⟨.warning, 3000, 7, 1000, false⟩ ∧
      (waiting .warning held).holdInForce = true) ∧
    (let d := waiting .warning withWeather
     d.wait? .warning 3000 7 = some ⟨.warning, 3000, 7, 1000, false⟩ ∧ d.holdInForce = false ∧
     (d.warning? 3000 7).isSome = true) ∧
    (let d := waiting .distress (withCase .unacked)
     d.wait? .distress 1500 4 = some ⟨.distress, 1500, 4, 1000, false⟩ ∧ d.case? 1500 = some (caseRec .unacked) ∧
     (caseRec .unacked).alert = 4) := by decide +kernel

theorem wit_SlotTimers :
    (let s := { slotOf .awaitingAck with ackDue := some 1000 }
     let d := withSlot { s with dest := 1500, hop := some 1500 }
     d.resetLow = false ∧ d.ackSlot? = some 0 ∧ (d.slot 0).ackDue = some 1000 ∧ d.reception = false ∧
     (d.slot 0).hop = some 1500 ∧ (d.slot 0).pendingEnd = none ∧ (d.slot 0).retries + 1 < d.config.retry ∧
     d.holdInForce = false ∧ d.portBound (d.slot 0) = false ∧ 0 < d.xfer.slots.length ∧
     ({ d with rx := Rx.blank .linked }).reception = true) ∧
    (let d := withSlot { slotOf .refusalWait with refusalEnd := some 1000 }
     d.resetLow = false ∧ (d.slot 0).st = .refusalWait ∧ (d.slot 0).refusalEnd = some 1000 ∧
     d.holdInForce = false ∧ (d.slot 0).origin = .console ∧ d.console.general.entries.length < 24 ∧
     d.rep.pending = none ∧ (∀ e ∈ d.xfer.reasms, e.waiting = false)) ∧
    (let d := withSlot (slotOf .awaitingAck)
     d.resetLow = false ∧ 0 < d.xfer.slots.length ∧ (d.slot 0).pendingEnd = none ∧
     (d.slot 0).st = .awaitingAck) := by decide +kernel

theorem wit_ReassemblyTimers :
    (let e : Reasm := ⟨1500, 9, .text, 1001, 1500, 2, 1, 0, 111, 0, .running 1000, none, false, 0⟩
     let d := { ready with xfer := { ready.xfer with reasms := [e] } }
     d.resetLow = false ∧ d.reasm? 1500 9 = some e ∧ e.timer = .running 1000 ∧ e.relaySlot = none ∧
     e.waiting = false) ∧
    (let r : Recent := ⟨1500, 9, .running 1000⟩
     let d := { ready with xfer := { ready.xfer with recents := [r] } }
     d.resetLow = false ∧ d.xfer.recents.find? (Device.isPair 1500 9) = some r ∧ r.timer = .running 1000) := by
  decide +kernel

theorem wit_OwnAlertOrders :
    (ready.live = true ∧ (9 : Nat) ≤ 9 ∧ (62 : Nat) ≤ 62 ∧ ready.completeExchange.distress.own.st = .idle) ∧
    ((own .alerting).live = true ∧ (own .alerting).completeExchange.distress.own.st = .alerting ∧
      (own .alerting).completeExchange.access.onAir = none ∧ (own .alerting).completeExchange.ownOnAir = false) ∧
    ((9 : Nat) < 10 ∧ (254 : Nat) ≠ 255 ∧ (62 : Nat) < 254) ∧
    ((own .cancelling).live = true ∧ (own .cancelling).completeExchange.distress.own.st = .cancelling) := by
  decide +kernel

theorem wit_CaseOrders :
    ((withCase .unacked).live = true ∧ (262143 : Nat) ≤ 262143 ∧ (1 : Nat) ≤ 262142 ∧ (262142 : Nat) < 262143 ∧
      (withCase .unacked).completeExchange.case? 262142 = none ∧
      (withCase .unacked).completeExchange.case? 1500 = some (caseRec .unacked) ∧ (caseRec .unacked).st = .unacked ∧
      (caseRec .unacked).ownAck ≠ .offered) ∧
    ((withCase .closed).live = true ∧ (withCase .closed).completeExchange.case? 1500 = some (caseRec .closed) ∧
      (caseRec .closed).st = .closed) := by decide +kernel

theorem wit_CaseOrders_acks :
    let offered : Case := { caseRec .unacked with ownAck := .offered }
    let relayed : Case := { caseRec .acked with relay := .relayed }
    (∀ x ∈ [offered, relayed],
      let d := { ready with distress := { ready.distress with cases := [x] } }
      d.live = true ∧ d.completeExchange.case? 1500 = some x ∧ x.st ≠ .closed) ∧
    offered.ownAck = .offered ∧ relayed.ownAck ≠ .offered := by decide +kernel

theorem wit_Flush :
    (held.live = true ∧ held.completeExchange.holdInForce = true ∧ held.completeExchange.rep.pending = none) ∧
    (ready.live = true ∧ ready.completeExchange.holdInForce = false) := by decide +kernel

theorem wit_DistressTimers :
    (let d := { own .alerting with distress := { (own .alerting).distress with
        own := { (own .alerting).distress.own with repeatDue := some 1000 } } }
     d.resetLow = false ∧ d.distress.own.repeatDue = some 1000 ∧ d.distress.own.st = .alerting) ∧
    (let d := { own .cancelling with distress := { (own .cancelling).distress with
        own := { (own .cancelling).distress.own with cancelDue := some 1000 } } }
     d.resetLow = false ∧ d.distress.own.cancelDue = some 1000 ∧ d.distress.own.st = .cancelling) ∧
    ((withCase .acked).resetLow = false ∧ (withCase .acked).case? 1500 = some (caseRec .acked) ∧
      (caseRec .acked).st ≠ .closed) ∧
    (held.resetLow = false ∧ held.distress.holdTimer = some 5000 ∧ held.distress.own.st = .idle ∧
      ({ held with distress := { held.distress with own := (own .alerting).distress.own } }).distress.own.st
        ≠ .idle) := by decide +kernel

theorem wit_ScoresAndIssues :
    (let b : Burst := ⟨.forecast, false, 3000, 262143, 0, 12, [], 120, false, 0, 0⟩
     b.pass = false ∧ b.erasures ≤ 120 ∧ ({ b with erasures := 0, pass := true }).pass = true ∧
     ({ b with erasures := 0, pass := true }).erasures = 0) ∧
    (let f := { forecastRec false with parts := [some ⟨5, 5, true, 10⟩] }
     f.parts[(⟨3000, 5, 100, 0, 1, 1, 0, 0, 1⟩ : ForecastHeader).idx]? = some (some ⟨5, 5, true, 10⟩)) ∧
    ((2048 : Nat) < 4096 ∧ (0 : Nat) < 4096 ∧ ((2048 : Nat) - (0 : Nat) : Int) % 4096 = 2048) := by decide

theorem wit_WeatherTimers :
    withWeather.resetLow = false ∧ withWeather.forecast? 5 false = some (forecastRec false) ∧
    withWeather.forecast? 5 true = some (forecastRec true) ∧ withWeather.console.utc = some ⟨0, 0⟩ ∧
    (forecastRec false).validUntil = some 3600 ∧ (forecastRec true).validUntil = some 3600 ∧
    OwedRef.forecast 5 ∉ withWeather.console.general.owed ∧ withWeather.console.general.entries.length < 24 ∧
    withWeather.warning? 3000 7 = some warningRec ∧ warningRec.validUntil = some 3600 := by decide

theorem wit_Grid :
    (-540000 : Int) ≤ 539999 ∧ (539999 : Int) < 540000 ∧ (-1080000 : Int) ≤ 1079999 ∧
    (let p : Int × Int := (0, -1080000)
     let q : Int × Int := (0, 1079999)
     p.2 ≤ 1079999 ∧ -1080000 ≤ p.2 ∧ q.2 ≤ 1079999 ∧ -1080000 ≤ q.2 ∧ 1080000 < q.2 - p.2) ∧
    (let p : Int × Int := (0, -1)
     let q : Int × Int := (0, 1079999)
     q.2 - p.2 ≤ 1080000 ∧ p.2 - q.2 ≤ 1080000) := by decide

theorem wit_QuotaStates :
    (10 : Nat) ≤ 10 ∧ (9 : Nat) < 10 ∧ 9 * 10 ≤ 10 * 9 ∧ (8 : Nat) < 10 ∧ 10 * 8 < 9 * 10 := by decide

theorem wit_HaulOpenAndClose :
    (ready.live = true ∧ ready.completeExchange.utcNow = none) ∧
    (let d := { ready with console := { ready.console with utc := some ⟨0, 0⟩ } }
     d.live = true ∧ d.completeExchange.utcNow ≠ none ∧ d.completeExchange.console.fix = none) ∧
    (let d := withHaul (haulRec .open' [])
     d.live = true ∧ d.completeExchange.utcNow = some 1 ∧
     d.completeExchange.console.fix = some ⟨367250, -10800, 4, 8, 0⟩ ∧
     (∃ h ∈ d.completeExchange.log.hauls, h.st = .open') ∧ d.completeExchange.haulAt? 17 = some 0 ∧
     (d.completeExchange.haul 0).st = .open' ∧ d.completeExchange.haulAt? 18 = none) ∧
    (let w := haulRec .weighing []
     let d := { withHaul w with log := { ready.log with hauls := [w, w, w, w] } }
     d.live = true ∧ (∀ h ∈ d.completeExchange.log.hauls, h.st = .weighing) ∧
     (d.completeExchange.haul 0).st = .weighing) ∧
    (let d := withHaul (haulRec .weighing [])
     (∀ h ∈ d.completeExchange.log.hauls, h.st ≠ .open') ∧
     d.completeExchange.log.hauls[1]? = some Haul.free ∧ Haul.free.st = .free ∧
     d.completeExchange.log.hauls[0]? = some (haulRec .weighing []) ∧ (haulRec .weighing []).st ≠ .free ∧
     d.completeExchange.console.general.entries.length < 24) := by decide +kernel

/-- A general lane with no room. -/
def full : Lane := ⟨List.replicate 24 ⟨.channelBlocked, 0, .report [], 0⟩, []⟩

/-- The part with its general lane full while a NONE frame goes up. -/
def crowded (d : Device) : Device :=
  { d with console := { d.console with general := full, exchange := .running ⟨[], none⟩ } }

theorem wit_full_lane :
    24 ≤ (crowded ready).completeExchange.console.general.entries.length ∧ (crowded ready).live = true ∧
    24 ≤ (crowded (withHaul (haulRec .weighing [cod]))).completeExchange.console.general.entries.length := by
  decide +kernel

/-- R149: after 4,095 comes 1, and a number that a record holds is passed over. -/
theorem wit_HaulOpenAndClose_number :
    let d := { withHaul { haulRec .weighing [] with num := 1 } with
      log := { (withHaul { haulRec .weighing [] with num := 1 }).log with counter := 4095 } }
    d.log.hauls.length = 4 ∧ d.nextHaulNumber = 2 := by decide +kernel

theorem wit_CatchLine_refused :
    ready.live = true ∧ ∀ h ∈ ready.completeExchange.log.hauls, h.st = .free ∨ h.num ≠ 18 := by decide +kernel

theorem wit_CatchLine :
    ((withHaul (haulRec .open' [])).live = true ∧ (withHaul (haulRec .open' [])).completeExchange.haulAt? 17 = some 0 ∧
      ((withHaul (haulRec .open' [])).completeExchange.haul 0).st = .open') ∧
    (let d := (withHaul (haulRec .weighing [])).completeExchange
     d.haulAt? 17 = some 0 ∧ (d.haul 0).st = .weighing ∧ ¬((26 : Nat) < 26) ∧ ¬((99999 : Nat) + 1 ≤ 99999) ∧
     (25 : Nat) < 26 ∧ (1 : Nat) ≤ 1 ∧ (1 : Nat) ≤ 99999 ∧ (99999 : Nat) ≤ 99999 ∧ (d.haul 0).lines = [] ∧
     (d.haul 0).lines.length < 12) ∧
    (let d := (withHaul (haulRec .weighing (List.replicate 12 cod))).completeExchange
     (d.haul 0).st = .weighing ∧ 12 ≤ (d.haul 0).lines.length ∧
     (∀ x ∈ (d.haul 0).lines, ¬(x.species = ⟨25, 25, 25⟩ ∧ x.retained = decide ((1 : Nat) = 0))) ∧
     ∃ x ∈ (d.haul 0).lines, x.species = ⟨2, 14, 3⟩ ∧ x.retained = decide ((0 : Nat) = 0)) := by decide +kernel

theorem wit_HaulDiscard :
    (let d := (withHaul (haulRec .weighing [cod])).completeExchange
     (withHaul (haulRec .weighing [cod])).live = true ∧ (∀ h ∈ d.log.hauls, h.st = .free ∨ h.num ≠ 18) ∧
     (17 : Nat) ≠ 0 ∧ d.log.hauls[0]? = some (haulRec .weighing [cod]) ∧ (haulRec .weighing [cod]).num = 17 ∧
     (haulRec .weighing [cod]).st ≠ .free) := by decide +kernel

/-- A tally table with no place left. -/
def fullTally : List TallyCell := (List.range 60).map fun i => TallyCell.empty i ⟨0, 0, 0⟩

theorem wit_HaulCommit :
    (let d := (withHaul (haulRec .open' [])).completeExchange
     (withHaul (haulRec .open' [])).live = true ∧ d.haulAt? 17 = some 0 ∧ (d.haul 0).st ≠ .weighing) ∧
    (let d := (withHaul (haulRec .weighing [])).completeExchange
     d.haulAt? 17 = some 0 ∧ (d.haul 0).st = .weighing ∧ (d.haul 0).lines = []) ∧
    (let d := (withHaul (haulRec .weighing [cod])).completeExchange
     (withHaul (haulRec .weighing [cod])).live = true ∧ d.haulAt? 17 = some 0 ∧ (d.haul 0).st = .weighing ∧
     (d.haul 0).lines = [cod] ∧
     rectangleOf (midpoint (d.haul 0).startPos ((d.haul 0).endPos.getD (d.haul 0).startPos)) = 245428 ∧
     d.log.cells.length < 60 ∧ d.console.general.entries.length < 24 ∧ d.quota? cod.species = none) ∧
    (let d := ({ withHaul (haulRec .weighing [cod]) with
        log := { (withHaul (haulRec .weighing [cod])).log with cells := fullTally } }).completeExchange
     d.haulAt? 17 = some 0 ∧ (d.haul 0).lines = [cod] ∧ d.cell? 245428 cod.species = none ∧
     d.log.cells.length = 60) := by decide +kernel

theorem wit_ReportEvents :
    (let d := { ready with rep := { ready.rep with st := .inTransfer, hourDue := some 1000 } }
     d.live = true ∧ d.completeExchange.rep.st ≠ .none ∧ d.completeExchange.rep.pending = none ∧
     d.resetLow = false ∧ d.rep.hourDue = some 1000 ∧ d.rep.st ≠ .none ∧ d.rep.pending = none) ∧
    (ready.live = true ∧ ready.completeExchange.rep.st = .none ∧ ready.completeExchange.catchAllowed = true ∧
      ready.completeExchange.freeSlot? = some 0 ∧ ready.completeExchange.xfer.slots.length = 8) ∧
    (let d := { ready with rep := { ready.rep with
        st := .awaitingReceipt, num := some 1, deadline := some (.running 1000), grant := some 0 } }
     d.resetLow = false ∧ d.rep.st = .awaitingReceipt ∧ d.rep.deadline = some (.running 1000) ∧ d.rep.num = some 1 ∧
     d.rep.pending = none) := by decide +kernel

theorem wit_Exchanges :
    (ready.resetLow = false ∧ ready.console.exchange = .idle) ∧
    (({ ready with console := { ready.console with exchange := .finished } }).console.exchange = .finished) ∧
    (let d := { ready with console := { ready.console with exchange := .running ⟨[], none⟩ } }
     d.resetLow = false ∧ d.console.exchange = .running ⟨[], none⟩ ∧ d.console.reoffer = none ∧
     d.console.exchange ≠ .idle ∧ (⟨[], none⟩ : UpFrame).lane = none) := by decide

theorem wit_FramesWithoutOwner :
    (ready.resetLow = false ∧ ready.ready = true) ∧
    ((settingUp 3).resetLow = false ∧ (settingUp 3).ready = false ∧ (settingUp 3).console.setup = .collecting 3) := by
  decide

theorem wit_SetupSequence :
    ((Device.afterReset 0).resetLow = false ∧ (Device.afterReset 0).completeExchange.console.setup ≠ .done ∧
      (1 : Nat) ≤ 262142 ∧ (262142 : Nat) < 262143 ∧ (1 : Nat) ≠ 262142 ∧ (262143 : Nat) ≤ 262143) ∧
    (∀ n ∈ [1, 2, 3, 4], (settingUp n).resetLow = false ∧
      (settingUp n).completeExchange.console.setup = .collecting n ∧
      ∀ x ∈ [1, 262142, 3000], 1 ≤ x ∧ x < 262143 ∧ x ≠ (settingUp n).completeExchange.console.held.own) ∧
    ∀ x ∈ [1, 63, 5, 6, 7, 8], 1 ≤ x ∧ x ≤ 63 := by decide +kernel

theorem wit_SetupSequence_refused :
    ((Device.afterReset 0).completeExchange.console.setup = .idle) ∧
    (∀ n ∈ [1, 2, 3, 4, 5], ∀ k ∈ [1, 2, 3, 4, 5], n = k ∨
      ((settingUp n).completeExchange.console.setup = .collecting n ∧ n ≠ k)) ∧
    ((0 : Nat) < min 1 4 ∧ [1001, 0, 262143][0]? = some 1001 ∧
      1001 = (settingUp 1).completeExchange.console.held.own) ∧
    (5 < min 6 12 ∧ [5, 6, 7, 8, 9, 64][5]? = some 64 ∧ (63 : Nat) < 64) := by decide +kernel

theorem wit_SetupCompletes_marks :
    (settingUp 5).completeExchange.access.blocked = false ∧
    OwedRef.setup ∉ (settingUp 5).completeExchange.console.general.owed ∧
    (settingUp 5).completeExchange.console.general.entries.length < 24 ∧
    (crowded (settingUp 5)).completeExchange.console.setup = .collecting 5 ∧
    24 ≤ (crowded (settingUp 5)).completeExchange.console.general.entries.length := by decide +kernel

/-- A first TIME with records held, and a later one that reaches their valid-untils. -/
theorem wit_TimeAndPosition_records :
    (∀ d ∈ [withWeather, { withWeather with console := { withWeather.console with utc := none } }],
      d.live = true ∧ d.completeExchange.weather.forecasts ≠ [] ∧ d.completeExchange.weather.warnings ≠ [] ∧
      d.completeExchange.console.general.owed = [] ∧
      d.completeExchange.console.general.entries.length + 2 ≤ 24) ∧
    Device.timeInRange 2000 1 1 1 0 0 = true ∧ ready.completeExchange.config.reportHour = some 6 := by decide +kernel

theorem wit_SetupCompletes :
    ((settingUp 5).resetLow = false ∧ (settingUp 5).completeExchange.console.setup = .collecting 5) ∧
    (ready.resetLow = false ∧ ready.completeExchange.console.setup = .done) := by decide +kernel

theorem wit_TimeAndPosition :
    (ready.live = true ∧ Device.timeInRange 2023 2 29 0 0 0 = false ∧ Device.timeInRange 2099 12 31 23 59 59 = true ∧
      Device.timeInRange 2000 1 1 0 0 0 = true ∧ ready.completeExchange.weather.forecasts = [] ∧
      ready.completeExchange.weather.warnings = []) ∧
    ((-540001 : Int) < -540000 ∧ (540000 : Int) ≤ 540000 ∧ (-1080000 : Int) ≤ 1080000 ∧ (23 : Nat) ≤ 23 ∧
      (59 : Nat) ≤ 59 ∧ (1080000 : Int) < 1080001) := by decide +kernel

theorem wit_Reads :
    (ready.live = true ∧ ready.completeExchange.console.general.entries.length < 24 ∧
      5 ∈ ready.completeExchange.config.areas ∧ 6 ∉ ready.completeExchange.config.areas ∧
      (17 : Nat) ≠ 0 ∧ ready.completeExchange.haulAt? 17 = none) ∧
    (withHaul (haulRec .weighing [])).completeExchange.haulAt? 17 = some 0 := by decide +kernel

theorem wit_Submit :
    ((withSubmit).live = true ∧ withSubmit.completeExchange.console.submit ≠ none) ∧
    (ready.live = true ∧ ready.completeExchange.console.submit = none ∧ (262142 : Nat) < 262143 ∧
      (1776 : Nat) ≤ 1776 ∧ 1776 < 1777 ∧ ready.completeExchange.freeSlot? = some 0 ∧
      ready.completeExchange.xfer.slots.length = 8 ∧
      (ready.completeExchange.store.reserve .outbound 1776).1 = .granted 0) ∧
    (({ ready with xfer := { ready.xfer with slots := List.replicate 8 (slotOf .ready) } }).completeExchange.freeSlot?
      = none) ∧
    (({ ready with store := { page with
        grants := [⟨0, .outbound, List.range' 44 128⟩] } }).completeExchange.store.reserve .outbound 1).1
      = .refusedCap := by decide +kernel

theorem wit_TextAndWithdraw :
    (ready.live = true ∧ ready.completeExchange.console.submit = none ∧ ready.completeExchange.withdrawable 8 = []) ∧
    (withSubmit.live = true ∧ withSubmit.completeExchange.console.submit = some submitOf ∧ submitOf.tag ≠ 9 ∧
      submitOf.tag = 8 ∧ (∀ v ∈ [0, 62, 1, 1, 1, 1, 1, 1], v < 63) ∧ [0, 62, 1, 1, 1, 1, 1, 1].length = 8 ∧
      submitOf.received + 8 < submitOf.len ∧ withSubmit.completeExchange.withdrawable 8 = []) ∧
    ((withSlot (slotOf .ready)).live = true ∧ (withSlot (slotOf .ready)).completeExchange.console.submit = none ∧
      (withSlot (slotOf .ready)).completeExchange.withdrawable 8 = [0]) ∧
    (withSubmit.resetLow = false ∧ withSubmit.console.submit = some submitOf ∧
      submitOf.slot < withSubmit.xfer.slots.length ∧ withSubmit.rep.pending = none ∧
      (∀ e ∈ withSubmit.xfer.reasms, e.waiting = false) ∧ withSubmit.console.general.entries.length < 24) := by
  decide +kernel

theorem wit_Restart : ready.live = true := by decide

/-! ## Witnesses of the clauses about one operation -/

/-- The part in a reception at the given count. -/
def receiving (st : RxState) (count : Nat) (syms : List Nat) (firsts : List (Pattern × Nat)) (run : Nat) : Device :=
  { ready with rx := { Rx.blank st with count := count, syms := syms, firsts := firsts, run := run } }

theorem wit_ReceptionSteps_linked :
    ((receiving .syncing 1 [] [] 0).resetLow = false ∧ (receiving .syncing 1 [] [] 0).rx.st = .syncing ∧
      (receiving .syncing 1 [] [] 0).rx.third = false ∧
      ({ (receiving .syncing 1 [] [] 0).rx with third := true }).third = true ∧
      (0x0F#8 : Pattern) ≠ 0xE1 ∧ (0x0F#8 : Pattern) ≠ 0xE2) ∧
    symbolOf 0x0F#8 = some 0 ∧
    ((receiving .linked 2 [] [] 0).rx.st = .linked ∧ symAt ([] ++ [0]) 0 ≠ 1 ∧ symAt ([] ++ [0]) 0 ≠ 2) ∧
    symsAt ([1, 0, 0] ++ [0]) 1 3 = 0 ∧ symsAt ([1, 0, 0, 5, 0, 0] ++ [0]) 4 3 = 0 ∧
    120 < symsAt ([1, 0, 0, 5, 0, 0, 6, 3, 2] ++ [0]) 8 2 ∧
    (let r := (receiving .linked 16 [2, 0, 0, 5, 0, 0, 6, 3, 0, 2, 1, 0, 1, 1] [] 0).rx
     11 < r.count ∧ r.count = 14 + symsAt r.syms 8 2 ∧
     checkOf ((r.syms ++ [0]).take (10 + symsAt (r.syms ++ [0]) 8 2))
       ≠ symsAt (r.syms ++ [0]) (10 + symsAt (r.syms ++ [0]) 8 2) 3) ∧
    (let r := (receiving .linked 17 [2, 0, 0, 5, 0, 0, 6, 3, 0, 2, 1, 0, 1, 1, 0] [] 0).rx
     11 < r.count ∧ r.count = 15 + symsAt r.syms 8 2) := by decide +kernel

theorem wit_ReceptionSteps_broadcast :
    (receiving .broadcast 4 [] [] 0).rx.st = .broadcast ∧ 4 % 2 = 0 ∧ 5 % 2 = 1 ∧ 5 / 2 < 8 ∧
    (17 % 2 = 1 ∧ 8 ≤ 17 / 2 ∧ (receiving .broadcast 17 [] [(0x0F#8, 9)] 0).rx.firsts = (0x0F#8, 9) :: []) ∧
    (symbolOf 0x0F#8 = some 0 ∧ 17 / 2 - 6 = 2 ∧ symAt ([] ++ [0]) 0 < 3) ∧
    (symbolOf (patternOf 3) = some 3 ∧ ¬(symAt ([] ++ [3]) 0 < 3 ∨ 9 < symAt ([] ++ [3]) 0)) ∧
    symbolOf 0x00#8 = none ∧
    (let r := (receiving .broadcast 37 [9, 0, 0, 5, 63, 63, 63, 0, 0, 2] [(0x00#8, 9)] 7).rx
     r.count % 2 = 1 ∧ 8 ≤ r.count / 2 ∧ 11 < r.count / 2 - 6 ∧ 7 ≤ r.run ∧ r.firsts = (0x00#8, 9) :: []) ∧
    (let r := (receiving .broadcast 37 [9, 0, 0, 5, 63, 63, 63, 0, 0, 2] [(0x00#8, 9)] 6).rx
     11 < r.count / 2 - 6 ∧ r.run < 7 ∧ r.count / 2 - 6 ≠ 15 + symsAt r.syms 8 2) ∧
    (let r := (receiving .broadcast 47 [9, 0, 0, 5, 63, 63, 63, 0, 0, 2, 1, 0, 1, 1, 0] [(0xE4#8, 9)] 0).rx
     11 < r.count / 2 - 6 ∧ r.count / 2 - 6 = 15 + symsAt r.syms 8 2) := by decide +kernel

theorem wit_GapsAndBackoff_data : 2 ≤ (item .data (.slot 0)).cw ∧ (item .data (.slot 0)).kind = .data := by decide

theorem wit_BurstOnAir_owners :
    ((withSlot { slotOf .ready with onAir := true }).holdInForce = false ∧
      ((withSlot { slotOf .ready with onAir := true }).slot 0).onAir = true ∧
      0 < (withSlot (slotOf .ready)).xfer.slots.length ∧ ((withSlot (slotOf .ready)).slot 0).onAir = false) ∧
    (let d := { withSlot { slotOf .ready with onAir := true } with distress := held.distress }
     d.holdInForce = true ∧ (d.slot 0).onAir = true ∧ (d.slot 0).pendingEnd = none) ∧
    (let d := { withSlot { slotOf .ready with onAir := true, pendingEnd := some .withdrawn } with
       distress := held.distress }
     d.holdInForce = true ∧ (d.slot 0).pendingEnd = some .withdrawn) ∧
    ({ withWeather with weather := { withWeather.weather with
        warnings := [{ warningRec with relay := .offered }] } }).warning? 3000 7
      = some { warningRec with relay := .offered } ∧
    (∀ st ∈ [OwnState.alerting, .acknowledged, .cancelling], (own st).distress.own.st ≠ .idle ∧
      (own st).distress.own.repeatAsked = false ∧ (own st).distress.own.cancelCount = 0 ∧
      OwedRef.ownAlert ∉ (own st).console.distress.owed ∧ (own st).console.distress.entries.length < 8) ∧
    ((item .distress .own).owner = .own ∧ (item .distress .own).kind = .distress ∧
      (item .distressAck (.caseAck 1500 4)).owner = .caseAck 1500 4) ∧
    ({ withCase .acked with distress := { (withCase .acked).distress with holdSince := some 900 } }).case? 1500
      = some (caseRec .acked) := by decide +kernel

theorem wit_MonitorTable_resting :
    (let d := { ready with prot := { ready.prot with reflect := ⟨.normal, 0, none, none, true⟩ } }
     (d.monitor .reflect).resting = true) ∧ ((reflect .normal 0).monitor .reflect).resting = false := by decide

theorem wit_ProtectionEvents_active :
    (let d := { onAir (item .data (.slot 0)) with
       prot := { Protection.reset with reflect := ⟨.alert, 4, none, none, false⟩ } }
     d.resetLow = false ∧ d.access.onAir = some ⟨item .data (.slot 0), 500, 4⟩ ∧ (d.monitor .reflect).st = .alert ∧
     (d.monitor .reflect).resting = false ∧ d.tripDelay .reflect ≤ (d.monitor .reflect).run + 1 ∧ d.prot.trips < 255 ∧
     (item .data (.slot 0)).kind ≠ .distress ∧ (item .data (.slot 0)).kind ≠ .cancel) ∧
    (let d := { onAir (item .distress .own) with
       prot := { Protection.reset with reflect := ⟨.alert, 3, none, none, false⟩ } }
     (d.monitor .reflect).st = .alert ∧ ¬(d.tripDelay .reflect ≤ (d.monitor .reflect).run + 1) ∧
     d.prot.keytime.st = .normal ∧ (d.monitor .tune).st = .normal ∧ ¬(d.tripDelay .tune ≤ 1)) := by decide +kernel

/-- A neighbour table with all 32 places in use, each entry as `f` makes it. -/
def crowd (f : Nat → Neigh) : Device :=
  { ready with neigh := { ready.neigh with entries := (List.range 32).map f } }

theorem wit_HeaderFacts_full :
    (let d := crowd fun i => { neighbour (decide (i ≠ 7)) with station := 4000 + i }
     d.neighbour? 1500 = none ∧ 32 ≤ d.neigh.entries.length ∧
     ∃ n ∈ d.neigh.entries.filter (fun n => !d.pinned n.station), n.fresh = false) ∧
    (let d := crowd fun i => { neighbour true with station := 4000 + i }
     d.neighbour? 1500 = none ∧ d.neigh.entries.filter (fun n => !d.pinned n.station) ≠ [] ∧
     ∀ n ∈ d.neigh.entries.filter (fun n => !d.pinned n.station), n.fresh = true) ∧
    (let d := { crowd fun _ => neighbour true with xfer := (withSlot (slotOf .ready)).xfer }
     d.neighbour? 1500 = none ∧ d.neigh.entries.filter (fun n => !d.pinned n.station) = []) := by decide +kernel

/-- A vessel that is willing to relay to the port. -/
def relayer (q p : Nat) : Neigh :=
  { neighbour true with
    station := 1500, kind := .vessel, q := q, avoidUntil := none, facts := some ⟨true, none, some (2000, p)⟩ }

def reached (es : List Neigh) : Device := { ready with neigh := { ready.neigh with entries := es } }

theorem wit_RouteNamesUsableStation_answers :
    ((reached [{ neighbour true with q := 100, avoidUntil := none }]).route = some 2000) ∧
    (reached [{ neighbour true with q := 99, avoidUntil := none }, relayer 50 50]).route = some 1500 ∧
    (reached [{ neighbour true with q := 99, avoidUntil := none }, relayer 49 255]).route = some 2000 ∧
    (reached [relayer 255 49]).route = none ∧ (reached [neighbour true]).route = none := by decide +kernel

theorem wit_SlotTimers_functions :
    (let d := withSlot { slotOf .awaitingAck with grant := some 0, ackDue := some 1000 }
     0 < d.xfer.slots.length ∧ (d.slot 0).grant = some 0 ∧ d.rep.pending = none ∧ d.xfer.reasms = [] ∧
     (d.slot 0).origin = .console ∧ (d.slot 0).dest = d.config.port ∧ (d.slot 0).hop = some 2000 ∧
     d.holdInForce = false ∧ (d.slot 0).st = .awaitingAck ∧ d.console.general.entries.length < 24 ∧
     d.ackSlot? = some 0 ∧ d.reception = false ∧ (d.slot 0).pendingEnd = none ∧ (d.slot 0).idx = 0 ∧
     (d.slot 0).retries + 1 < d.config.retry) ∧
    24 ≤ (crowded (withSlot (slotOf .awaitingAck))).console.general.entries.length ∧
    (let b : Burst := ⟨.ack, true, 2000, 1001, 0, 2, [0, 0], 0, true, 0, 0⟩
     let s := (withSlot (slotOf .awaitingAck)).slot 0
     ∀ a ∈ [0, 1, 2, 3], ({ b with body := [0, a] }).body = [s.idx, a] ∧ s.hop = some b.source ∧ s.num = b.seq ∧
       s.cnt ≤ s.idx + 1 ∧ s.idx + 1 < ({ s with cnt := 2 }).cnt) ∧
    (let s := { slotOf .awaitingAck with pendingEnd := some .expired, origin := .relay, retries := 3 }
     s.pendingEnd = some .expired ∧ s.origin = .relay ∧ cfg.retry ≤ s.retries + 1) ∧
    (∀ st ∈ [SlotState.awaitingRoute, .held, .refusalWait, .free, .reserved, .outcomeOwed],
      ((withSlot (slotOf st)).slot 0).st = st ∧ ((withSlot (slotOf st)).slot 0).pendingEnd = none) := by
  decide +kernel

/-- A DATA burst for the part: fragment `idx` of a message of two fragments to `dest`. -/
def dataBurst (dest idx : Nat) : Burst :=
  ⟨.data, true, 1500, 1001, 9, 0, dataBody ⟨idx, 2, .text, dest, 1500⟩ (List.replicate 111 1), 0, true, 200, 1000⟩

theorem wit_ReassemblyTimers_rules :
    ready.access.answer = ⟨[], none⟩ ∧ held.holdInForce = true ∧
    (ready.holdInForce = false ∧ readDataBody [] = none ∧
      readDataBody (dataBurst 1001 0).body = some (⟨0, 2, .text, 1001, 1500⟩, List.replicate 111 1)) ∧
    (∃ r ∈ ({ ready with xfer := { ready.xfer with recents := [⟨1500, 9, .running 1000⟩] } }).xfer.recents,
      r.source = (dataBurst 1001 0).source ∧ r.num = (dataBurst 1001 0).seq) ∧
    (ready.xfer.recents = [] ∧ ready.reasm? 1500 9 = none ∧ ready.xfer.reasms.length < 4 ∧
      (ready.store.reserve .inbound (2 * 111)).1 = .granted ready.store.nextId ∧
      ({ ready with store := { page with grants := [⟨0, .inbound, List.range' 44 212⟩] } }).store.reserve .inbound 222
        ≠ (.granted 1, page)) ∧
    (let d := withNeighbour true
     d.config.message = true ∧ d.relayAvailable = true ∧ (1001 : Nat) = d.config.own ∧ (2000 : Nat) ≠ d.config.own ∧
     d.neighbour? 2000 = some (neighbour true) ∧ (neighbour true).kind = .port ∧ d.freeSlot? = some 0) ∧
    (let e : Reasm := ⟨1500, 9, .text, 1001, 1500, 2, 1, 0, 111, 0, .running 1000, none, false, 0⟩
     let d := { ready with xfer := { ready.xfer with reasms := [e] } }
     d.reasm? 1500 9 = some e ∧ e.next = 1 ∧ e.cnt = 2 ∧ e.relaySlot = none ∧ e.dest = d.config.own ∧ e.cls = .text ∧
     d.console.general.entries.length < 24 ∧ ¬(0 + 1 = e.next ∧ 0 ≠ 0) ∧ (2 : Nat) ≠ e.next ∧ 2 + 1 ≠ e.next ∧
     ({ e with next := 2 }).next = 1 + 1) ∧
    (let d := { ready with xfer := { ready.xfer with
        recents := (List.range 8).map fun i => ⟨4000 + i, 1, .running (2000 + i)⟩ } }
     8 ≤ d.xfer.recents.length ∧ ∃ r ∈ d.xfer.recents, d.handOverWaits r = false) ∧
    (let e : Reasm := ⟨1500, 9, .text, 2000, 1500, 1, 1, 0, 111, 0, .running 1000, some 0, false, 0⟩
     let d := { withSlot { slotOf .reserved with origin := .relay } with store := page }
     let d := { d with xfer := { d.xfer with reasms := [e] } }
     d.reasm? 1500 9 = some e ∧ e.dest ≠ d.config.own ∧ e.relaySlot = some 0 ∧ 0 < d.xfer.slots.length ∧
     (d.slot 0).origin = .relay ∧ (d.store.handOver e.grant .outbound).1 = true) := by decide +kernel

theorem wit_OwnAlertOrders_parts :
    ((onAir (item .data (.slot 0))).completeExchange.access.onAir = some ⟨item .data (.slot 0), 500, 4⟩ ∧
      (item .data (.slot 0)).kind.cls = .routine ∧ (item .ack .answer).kind.cls = .answer ∧
      (onAir (item .data (.slot 0))).completeExchange.distress.own.st = .idle ∧
      (onAir (item .data (.slot 0))).completeExchange.console.distress.entries.length < 8) ∧
    (let d := { onAir (item .distress .own) with distress := (own .alerting).distress }
     d.live = true ∧ d.completeExchange.ownOnAir = true ∧ d.completeExchange.distress.own.st = .alerting) ∧
    (let d := { own .acknowledged with
       access := { ready.access with distress := ⟨[item .distress .own], none⟩ } }
     d.live = true ∧ d.completeExchange.ownOnAir = false ∧ d.completeExchange.distress.own.st = .acknowledged ∧
     ∃ it ∈ d.completeExchange.access.distress.items, it.owner = .own) ∧
    (∀ it ∈ (own .alerting).completeExchange.access.distress.items, it.owner ≠ .own) ∧
    (let d := { ready with loop := { ready.loop with st := .looping } }
     d.loop.st ≠ .idle ∧ OwedRef.loop ∉ d.console.general.owed ∧ d.console.general.entries.length < 24 ∧
     d.access.onAir = none) ∧
    (let d := withSlot (slotOf .awaitingAck)
     d.xfer.slots.length = 8 ∧ (∀ i ∈ List.range 8, (d.slot i).pendingEnd = none) ∧ d.loop.st ≠ .waiting ∧
     (d.slot 0).st = .awaitingAck ∧ (d.slot 1).st = .free ∧ OwedRef.hold ∉ d.console.distress.owed) := by decide +kernel

/-- A DISTRESS-ACK that names the given station and alert 4. -/
def ackBurst (named : Nat) : Burst := ⟨.distressAck, false, 2000, 262143, 4, 3, toSyms 3 named, 0, true, 200, 1000⟩

theorem wit_CaseOrders_received :
    ((ackBurst 1500).kind = .distressAck ∧ (ackBurst 1500).body.length = 3 ∧ (ackBurst 1500).erasures = 0 ∧
      symsAt (ackBurst 1500).body 0 3 = 1500 ∧ (1 : Nat) ≤ 1500 ∧ (1500 : Nat) < 262143 ∧
      (1500 : Nat) ≠ ready.config.own ∧ symsAt (ackBurst 1001).body 0 3 = ready.config.own ∧
      ¬(symsAt (ackBurst 262143).body 0 3 < 262143)) ∧
    (∀ st ∈ [OwnState.alerting, .acknowledged, .cancelling, .idle],
      (own st).console.distress.entries.length < 8 ∧ OwedRef.ownAlert ∉ (own st).console.distress.owed ∧
      (own st).distress.own.st = st ∧ (own st).distress.own.num = 9 ∧ (9 : Nat) ≠ (ackBurst 1001).seq) ∧
    (ready.case? 1500 = none ∧ ready.distress.cases.length < 6 ∧ OwedRef.caseOf 1500 ∉ ready.console.distress.owed) ∧
    (let d := { ready with distress := { ready.distress with
        cases := (List.range 6).map fun i => { caseRec .unacked with station := 4000 + i } } }
     d.case? 1500 = none ∧ 6 ≤ d.distress.cases.length ∧ (∀ c ∈ d.distress.cases, c.st = .unacked)) := by
  decide +kernel

theorem wit_CaseOrders_cases :
    (let d := { ready with distress := { ready.distress with
        cases := (List.range 6).map fun i => { caseRec (if i = 5 then .closed else .acked) with station := 4000 + i } } }
     d.case? 1500 = none ∧ 6 ≤ d.distress.cases.length ∧ (∃ c ∈ d.distress.cases, c.st ≠ .unacked) ∧
     d.console.distress.entries.length < 7 ∧ d.console.distress.owed = []) ∧
    (∀ st ∈ [CaseState.unacked, .acked, .closed], (withCase st).case? 1500 = some (caseRec st) ∧
      (caseRec st).alert = (ackBurst 1500).seq ∧ (caseRec st).alert ≠ 5 ∧ (caseRec st).closeReason ≠ some .cancelled) ∧
    ({ caseRec .closed with closeReason := some .cancelled }).closeReason = some .cancelled ∧
    (let d := withCase .unacked
     d.config.distress = true ∧ (caseRec .unacked).st = .unacked ∧ (caseRec .unacked).readable = true ∧
     (caseRec .unacked).relay = .none ∧ d.distress.settled.length < 63 ∧ d.wait? .distress 1500 4 = none ∧
     d.waits.length < 8 ∧ d.distress.own.st = .idle ∧ (∀ x ∈ d.distress.cases, x.station ≠ 1500 → x.st = .closed) ∧
     (1500, 4) ∉ d.distress.settled) ∧
    (let d := { withCase .unacked with waits := (List.range 8).map fun i => ⟨.distress, 4000 + i, 1, 2000, false⟩ }
     d.wait? .distress 1500 4 = none ∧ 8 ≤ d.waits.length ∧ ∀ w ∈ d.waits, w.kind = .distress) ∧
    (let d := { ready with distress := { ready.distress with
        settled := (List.range 63).map fun i => (4000 + i, 1) } }
     (1500, 4) ∉ d.distress.settled ∧ d.distress.settled.length = 63) ∧
    ((waiting .distress (withCase .unacked)).wait? .distress 1500 4).isSome = true := by decide +kernel

theorem wit_DistressTimers_holdEnds :
    (let d := withSlot { slotOf .held with heldFrom := .awaitingAck }
     d.holdInForce = false ∧ d.xfer.slots.length = 8 ∧ d.rep.deadline = none ∧ (d.slot 0).st = .held ∧
     (d.slot 0).heldFrom ≠ .refusalWait ∧ (d.slot 0).dest = d.config.port ∧ d.route = none ∧
     d.console.distress.entries.length < 8 ∧ OwedRef.hold ∉ d.console.distress.owed) ∧
    (let d := withSlot { slotOf .held with heldFrom := .refusalWait, dest := 1500 }
     (d.slot 0).heldFrom = .refusalWait ∧ (d.slot 0).origin ≠ .relay ∧ (d.slot 0).dest ≠ d.config.port) ∧
    (let w : Wait := ⟨.warning, 3000, 7, 1000, true⟩
     let d := { withWeather with waits := [w] }
     w ∈ d.waits ∧ w.held = true ∧ w.kind = .warning ∧ (d.warning? w.station w.number).isSome = true) := by
  decide +kernel

/-- A FORECAST part from source 3,000: its area, issue, part index and count, with a short text. -/
def forecastBurst (area issue idx cnt : Nat) : Burst :=
  ⟨.forecast, false, 3000, 262143, 0, 14,
    toSyms 3 3000 ++ [area] ++ toSyms 2 issue ++ [idx, cnt, 1, 0, 0, 1, 20, 21], 0, true, 200, 1000⟩

theorem wit_ScoresAndIssues_header :
    (let b := forecastBurst 5 101 0 2
     let h := forecastHeader b.body
     12 ≤ b.body.length ∧ b.erasures = 0 ∧ h.issuer ∈ ready.config.sources ∧ 1 ≤ h.area ∧ 1 ≤ h.cnt ∧ h.cnt ≤ 8 ∧
     h.idx < h.cnt ∧ 1 ≤ h.day ∧ h.day ≤ 31 ∧ h.hour ≤ 23 ∧ h.minute ≤ 59 ∧ 1 ≤ h.validFor ∧ b.body.length ≤ 114 ∧
     h.area ∈ ready.config.areas ∧ 6 ∉ ready.config.areas ∧ 3001 ∉ ready.config.sources ∧
     (63 : Nat) ∈ (forecastBurst 63 101 0 2).body.take 12 ∧ ¬((8 : Nat) < 8)) ∧
    (let d := { withWeather with config := { cfg with sources := [3000, 3001] } }
     ∃ f ∈ d.weather.forecasts, f.area = 5 ∧ f.issuer ≠ 3001) ∧
    (∀ f ∈ withWeather.weather.forecasts, f.area = 5 → f.issuer = 3000) ∧
    withWeather.forecast? 5 false = some (forecastRec false) ∧ (forecastRec false).issue = 100 ∧
    (forecastRec false).cnt = 1 ∧ withWeather.forecast? 7 true = none ∧
    newer 101 100 = true ∧ newer 99 100 = false ∧ (99 : Nat) ≠ 100 := by decide +kernel

theorem wit_ScoresAndIssues_parts :
    (let f := { forecastRec false with cnt := 2, parts := [some ⟨5, 5, true, 10⟩, none] }
     let d := { ready with weather := { ready.weather with forecasts := [f] } }
     d.forecast? f.area false = some f ∧ f.parts.getD 0 none = some ⟨5, 5, true, 10⟩ ∧
     copyScore { forecastBurst 5 100 0 2 with erasures := 5 } = 5 ∧ copyScore (forecastBurst 5 100 0 2) < 5 ∧
     f.parts.getD 1 none = none ∧ none ∈ f.parts ∧ none ∉ f.parts.set 1 (some ⟨0, 0, true, 2⟩) ∧
     d.forecast? f.area true = none ∧ OwedRef.forecast f.area ∉ d.console.general.owed ∧
     d.console.general.entries.length < 24) ∧
    withWeather.forecast? 5 true = some (forecastRec true) := by decide +kernel

theorem wit_ScoresAndIssues_opening :
    (let d := { ready with console := { ready.console with utc := some ⟨0, 0⟩ } }
     let t := issueTimes d.utcNow 1 0 0 1
     d.utcReached t.2 = false ∧ (forecastRec false).complete = false ∧ d.weather.forecasts.length < 16 ∧
     (d.store.reserve .forecast (2 * 102)).1 = .granted 0 ∧ d.forecast? 5 false = none ∧ (0 : Nat) < 2) ∧
    (let d := { ready with console := { ready.console with utc := some ⟨0, 86400 * 100⟩ } }
     d.utcReached (issueTimes d.utcNow 1 0 0 1).2 = true) ∧
    (let d := { ready with weather := { ready.weather with
        forecasts := (List.range 16).map fun i => { forecastRec (decide (i ≠ 3)) with area := 10 + i } } }
     16 ≤ d.weather.forecasts.length ∧ ∃ f ∈ d.weather.forecasts, f.complete = false ∧ f.area ≠ 5) ∧
    (let d := { ready with weather := { ready.weather with
        forecasts := (List.range 16).map fun i => { forecastRec true with area := 10 + i } } }
     16 ≤ d.weather.forecasts.length ∧ ∀ f ∈ d.weather.forecasts, f.complete = true ∨ f.area = 5) := by decide +kernel

/-- A WARNING of issue 7 with one area and a text of two symbols, sent by `source`. -/
def warningBurst (source severity : Nat) : Burst :=
  ⟨.warning, false, source, 262143, 0, 14,
    toSyms 3 3000 ++ toSyms 2 7 ++ [severity, 1, 0, 0, 1, 1, 5, 20, 21], 0, true, 200, 1000⟩

theorem wit_WeatherTimers_received :
    (let b := warningBurst 3000 1
     12 ≤ b.body.length ∧ 11 + symAt b.body 10 ≤ b.body.length ∧ b.erasures = 0 ∧
     (warningHeader b.body).issuer ∈ ready.config.sources ∧ (∀ a ∈ (warningHeader b.body).areas, 1 ≤ a) ∧
     (Severity.ofValue (warningHeader b.body).severity).isSome = true ∧
     Severity.ofValue (warningHeader (warningBurst 3000 62).body).severity = none ∧
     b.source = (warningHeader b.body).issuer ∧ (warningBurst 1500 1).source ≠ (warningHeader b.body).issuer) ∧
    (waiting .warning withWeather).wait? .warning 3000 7 ≠ none ∧ withWeather.wait? .warning 3000 7 = none ∧
    withWeather.warning? 3000 7 = some warningRec ∧ withWeather.warning? 3000 8 = none ∧
    ((warningBurst 3000 1).source = warningRec.issuer ∧ (warningBurst 3000 1).pass = true ∧ warningRec.wanted = true ∧
      warningRec.relay = .none ∧ withWeather.config.warning = true ∧ withWeather.waits.length < 8) ∧
    ({ warningRec with relay := .offered }).relay = .offered ∧
    (let d := { withWeather with waits := (List.range 8).map fun i => ⟨.distress, 4000 + i, 1, 2000, false⟩ }
     8 ≤ d.waits.length) := by decide +kernel

/-- R143: a copy taken when its record has reached its valid-until and is still held is judged as a repeat. -/
theorem wit_WeatherTimers_expiring :
    let d := { withWeather with now := 3600000, store := page }
    (∃ w, d.warning? 3000 7 = some w ∧ d.utcReached w.validUntil = true) ∧
    d.utcReached (issueTimes d.utcNow 1 0 0 1).2 = true ∧
    (d.receiveWarning (warningBurst 3000 1)).weather.counts.notBetter = 1 ∧
    (d.receiveWarning (warningBurst 3000 1)).weather.counts.stale = 0 := by decide +kernel

theorem wit_WeatherTimers_stored :
    (let d := { withWeather with store := page }
     d.utcReached (issueTimes d.utcNow 1 0 0 1).2 = false ∧ d.warning? 3000 7 = some warningRec ∧
     warningRec.score ≤ copyScore (warningBurst 3000 1) ∧
     copyScore (warningBurst 3000 1) < ({ warningRec with score := 1 }).score ∧
     ((warningBurst 3000 1).body.drop 12).length = 2 ∧ warningRec.len ≠ 2) ∧
    (ready.warning? 3000 7 = none ∧ ready.weather.warnings.length < 6 ∧
      (ready.store.reserve .warning 2).1 = .granted 0) ∧
    (let d := { ready with weather := { ready.weather with
        warnings := (List.range 6).map fun i => { warningRec with issue := 20 + i } } }
     d.warning? 3000 7 = none ∧ 6 ≤ d.weather.warnings.length) ∧
    (let d := { ready with console := { ready.console with utc := some ⟨0, 86400 * 100⟩ } }
     d.utcReached (issueTimes d.utcNow 1 0 0 1).2 = true) := by decide +kernel

/-- A quota entry of cod. -/
def codQuota (st : QuotaState) (quota : Nat) : QuotaEntry := ⟨cod.species, quota, 0, st, none⟩

/-- The part with a haul of two lines, the cell of its rectangle and a quota entry. -/
def fished (st : QuotaState) : Device :=
  let d := withHaul (haulRec .weighing [cod, { cod with retained := false }])
  { d with log := { d.log with
    cells := [{ TallyCell.empty 245428 cod.species with retained := ⟨1700, 0, 0⟩ }], quotas := [codQuota st 1700] } }

theorem wit_HaulCommit_lines :
    (let d := (fished .normal).completeExchange
     (fished .normal).live = true ∧ d.haulAt? 17 = some 0 ∧ d.haulAt? 18 = none ∧ (d.haul 0).st = .weighing ∧
     (d.haul 0).lines ≠ [] ∧ d.console.general.entries.length < 24 ∧
     ((d.haul 0).lines.map fun l => (l.species, l.retained)).Nodup ∧
     rectangleOf (midpoint (d.haul 0).startPos ((d.haul 0).endPos.getD (d.haul 0).startPos)) = 245428 ∧
     (((d.haul 0).lines.map fun l => l.species).eraseDups.filter fun sp => (d.cell? 245428 sp).isNone).length
       ≤ 60 - d.log.cells.length) ∧
    24 ≤ (crowded (fished .normal)).completeExchange.console.general.entries.length ∧
    (let d := fished .normal
     d.quota? cod.species = some (codQuota .normal 1700) ∧ (codQuota .normal 1700).st ≠ .reached ∧
     (codQuota .normal 1700).quota ≤
       min 9999999 ((d.log.cells.filter fun x => x.species == cod.species).map fun x => x.retained.total).sum ∧
     OwedRef.quota cod.species ∉ d.console.general.owed) ∧
    (let d := { fished .normal with rep := { ready.rep with st := .inTransfer } }
     d.rep.st ≠ .none ∧ d.rep.pending = none ∧
     ({ d with rep := { d.rep with pending := some .ordered } }).rep.pending = some .ordered) ∧
    ((fished .reached).quota? cod.species = some (codQuota .reached 1700) ∧
      (codQuota .reached 1700).st = .reached) := by decide +kernel

theorem wit_ReportEvents_triggers :
    (let d := fished .normal
     d.rep.st = .none ∧ (∃ j ∈ List.range 8, (d.slot j).st = .free) ∧
     (∀ x ∈ d.xfer.slots, x.origin = .catchReport → x.st = .free) ∧ (d.slot 0).st = .free ∧ 0 < d.xfer.slots.length ∧
     (d.store.reserve .report (8 + 19 * 1)).1 = .granted 0 ∧ OwedRef.report ∉ d.console.general.owed ∧
     d.console.general.entries.length < 24 ∧
     (d.log.cells.filter fun c => decide (0 < c.retained.unreported)).length = 1) ∧
    (ready.rep.st = .none ∧ ready.log.cells = []) ∧
    (let d := { ready with xfer := { ready.xfer with slots := List.replicate 8 (slotOf .ready) } }
     d.rep.st = .none ∧ ¬∃ j ∈ List.range 8, (d.slot j).st = .free) ∧
    (let d := { ready with rep := { ready.rep with pending := some .scheduled } }
     d.rep.st = .none ∧ d.rep.pending = some .scheduled) := by decide +kernel

/-- The part with a text of the port in its store, and the message that carries it. -/
def toldBy (text : List Nat) : Device :=
  { ready with store := page.writeSyms 0 0 text }
def messageOf (len orig : Nat) : Message := ⟨2000, orig, .receipt, 3, len, 0⟩

theorem wit_ReportEvents_receipts :
    ((toldBy [0, 1, 0]).store.readSyms 0 0 3 = [0, 1, 0] ∧ (messageOf 3 2000).orig = ready.config.port ∧
      (messageOf 3 2001).orig ≠ ready.config.port ∧ (messageOf 3 2000).len = 3 ∧ symsAt [0, 1, 0] 0 2 = 1 ∧
      (1 : Nat) ≠ 0 ∧ symAt [0, 1, 0] 2 ≤ 1 ∧ ¬(symAt [0, 1, 2] 2 ≤ 1)) ∧
    (∀ st ∈ [ReportState.awaitingReceipt, .inTransfer],
      let d := { toldBy [0, 1, 0] with rep := { ready.rep with st := st, num := some 1 } }
      d.rep.num = some 1 ∧ d.rep.st = st ∧ d.rep.early = none ∧ d.rep.pending = none ∧
      OwedRef.report ∉ d.console.general.owed ∧ d.console.general.entries.length < 24) ∧
    ready.rep.num ≠ some 1 ∧
    ({ ready with rep := { ready.rep with early := some .accepted, pending := some .quota } }).rep.early
      = some .accepted := by decide +kernel

theorem wit_ReportEvents_notices :
    (let text := [0, 4, 1, 2, 14, 3, 0, 0, 26, 36]
     3 ≤ text.length ∧ symAt text 2 ≤ 16 ∧ text.length = 3 + 7 * symAt text 2 ∧
     readNotice text = some (4, [⟨⟨2, 14, 3⟩, some 1700⟩]) ∧ (toldBy text).store.readSyms 0 0 10 = text) ∧
    readNotice [0, 4, 17] = none ∧ newer 4 4 = false ∧ newer 4 3 = true ∧
    ({ ready with rep := { ready.rep with lastNotice := some 4 } }).rep.lastNotice = some 4 ∧
    ready.quota? cod.species = none ∧ ready.log.quotas.length < 16 ∧
    (fished .normal).quota? cod.species = some (codQuota .normal 1700) ∧
    16 ≤ ({ ready with log := { ready.log with quotas := List.replicate 16 (codQuota .normal 9) } }).log.quotas.length := by
  decide +kernel

theorem wit_Exchanges_drain :
    (let d := { ready with console := { ready.console with
       general := ⟨[⟨.channelBlocked, 0, .report [], 0⟩], []⟩, exchange := .running ⟨[], some .general⟩ } }
     d.console.exchange = .running ⟨[], some .general⟩ ∧
     (d.lane .general).entries = [⟨.channelBlocked, 0, .report [], 0⟩] ∧
     (d.entryContents ⟨.channelBlocked, 0, .report [], 0⟩).length ≤ 0 + 1 ∧ (d.lane .general).owed = [] ∧
     d.console.distress.entries = []) ∧
    (let x : Entry := ⟨.answer 1, 7, .report ready.statusData, 0⟩
     0 + 1 < (ready.entryContents x).length) ∧
    (let r : Delivery := ⟨0, 2000, 2000, .text, 3, 5, 0⟩
     let d := { ready with store := page, console := { ready.console with deliveries := [r] } }
     d.console.deliveries.find? (fun y => y.id == 0) = some r) ∧
    (let marks := [OwedRef.blocked]
     marks = OwedRef.blocked :: [] ∧ (full.entries.drop 1).length = 23 ∧ OwedRef.blocked ∉ ([] : List OwedRef) ∧
     ({ ready with access := { ready.access with blocked := true } }).access.blocked = true) ∧
    (let k := { ready.console with reoffer := some ⟨[], none⟩ }
     k.reoffer = some ⟨[], none⟩ ∧ k.exchange = .idle) := by decide +kernel

theorem wit_SetupCompletes_refused :
    ready.completeExchange.console.setup = .done ∧ (settingUp 5).completeExchange.console.held.own = 1001 := by
  decide +kernel

theorem wit_Reads_unconfigured :
    ((Device.afterReset 0).resetLow = false ∧ (Device.afterReset 0).ready = false ∧
      (Device.afterReset 0).completeExchange.leaveSetup.console.general.entries.length < 24) ∧
    24 ≤ (crowded (settingUp 2)).completeExchange.leaveSetup.console.general.entries.length ∧
    ((crowded (withHaul (haulRec .weighing []))).completeExchange.haulAt? 17 ≠ none ∧
      5 ∈ (crowded ready).completeExchange.config.areas) := by decide +kernel

theorem wit_TextAndWithdraw_closes :
    (let x := { submitOf with received := 24 }
     let d := { withSubmit with console := { withSubmit.console with submit := some x } }
     d.live = true ∧ d.completeExchange.console.submit = some x ∧ x.slot < d.completeExchange.xfer.slots.length ∧
     x.received + ([1, 2, 3, 4, 5, 6, 63, 63].take (x.len - x.received)).length = x.len ∧
     (∀ v ∈ [1, 2, 3, 4, 5, 6, 63, 63].take (x.len - x.received), v < 63) ∧
     (∃ v ∈ [1, 2, 3, 4, 5, 63, 0, 0].take (x.len - x.received), 63 ≤ v) ∧
     (d.completeExchange.slot 0).dest ≠ d.completeExchange.config.own ∧
     (d.completeExchange.slot 0).origin = .console ∧ d.completeExchange.rep.pending = none) ∧
    (let d := { withSubmit with xfer := { withSubmit.xfer with
        slots := [{ slotOf .reserved with hop := none }, slotOf .awaitingRoute, slotOf .awaitingAck]
          ++ List.replicate 5 Slot.free } }
     d.live = true ∧ d.completeExchange.console.submit = some submitOf ∧ submitOf.tag = 8 ∧ submitOf.slot < 8 ∧
     (d.completeExchange.slot 0).st = .reserved ∧ d.completeExchange.xfer.slots.length = 8 ∧
     d.completeExchange.withdrawable 8 = [1, 2] ∧ (d.completeExchange.slot 2).st = .awaitingAck ∧
     d.completeExchange.console.general.entries.length + 1 ≤ 24) := by decide +kernel

theorem wit_Restart_items :
    (let d := { ready with access := { ready.access with
        distress := ⟨[item .distressAck (.caseAck 1500 4)], some (contender (item .distress .own) 2 none)⟩ } }
     d.live = true ∧ item .distress .own ∈ d.completeExchange.access.distress.items ∧
     (item .distress .own).kind.cls = .distress) ∧
    ((onAir (item .distress .own)).completeExchange.access.onAir = some ⟨item .distress .own, 500, 4⟩ ∧
      (item .data (.slot 0)).kind.cls ≠ .distress) := by decide +kernel

/-! ## Witnesses of the parts of settle, of keying and of the reports owed -/

/-- The part with the ACK timeout of slot 0 waiting behind a reception in the given state. -/
def timedOut (st : RxState) : Device :=
  { withSlot { slotOf .awaitingAck with ackWaiting := true } with rx := Rx.blank st }

theorem wit_SettleLeavesSteady_timeout :
    ((timedOut .linked).reception = true) ∧
    (ready.reception = false ∧ ∀ i < 8, ¬(ready.slot i).ackWaiting = true) ∧
    ((timedOut .hunting).reception = false ∧ 0 < 8 ∧ ((timedOut .hunting).slot 0).st = .awaitingAck ∧
      ((timedOut .hunting).slot 0).ackWaiting = true ∧ ∀ j < 0, ¬((timedOut .hunting).slot j).ackWaiting = true) := by
  decide +kernel

/-- The part with a DATA item of the given slot offered. -/
def offering (i : Nat) (d : Device) : Device :=
  { d with access := { d.access with routine := ⟨[item .data (.slot i)], none⟩ } }

theorem wit_SettleLeavesSteady_data :
    (held.holdInForce = true ∧ held.access.routine.items.find? (fun it => it.kind == .data) = none ∧
      (offering 0 held).access.routine.items.find? (fun it => it.kind == .data) = some (item .data (.slot 0))) ∧
    ((onAir (item .data (.slot 0))).access.onAir = some ⟨item .data (.slot 0), 500, 4⟩ ∧
      slotOf .awaitingAck ∈ (withSlot (slotOf .awaitingAck)).xfer.slots ∧
      (withSlot { slotOf .ready with onAir := true }).xfer.slots.any (fun s => s.onAir) = true) ∧
    (let d := withSlot (slotOf .ready)
     d.holdInForce = false ∧ d.access.onAir = none ∧ (∀ s ∈ d.xfer.slots, s.st ≠ .awaitingAck ∧ s.onAir = false) ∧
     (d.slot 0).st = .ready ∧ (∀ j < 8, (d.slot j).st = .ready → j = 0) ∧
     (offering 0 d).access.routine.items.find? (fun it => it.kind == .data) = some (item .data (.slot 0)) ∧
     (offering 1 d).access.routine.items.find? (fun it => it.kind == .data) = some (item .data (.slot 1)) ∧
     (item .data (.slot 1)).owner ≠ .slot 0) := by decide +kernel

theorem wit_SettleLeavesSteady_channel :
    let at' := fun (c : Channel) (b : Bool) => { ready with access := { ready.access with chan := c, debounced := b } }
    ((onAir (item .beacon .beacon)).access.chan = .own ∧ (at' .clear false).access.debounced = false ∧
      (at' .clear false).reception = false ∧ (at' .clear false).loop.st ≠ .looping ∧
      (at' .clear true).access.chan = .clear ∧ (at' .clear true).access.debounced = true ∧
      (at' .busy false).access.chan = .busy ∧ (at' .busy true).access.chan = .busy) ∧
    (let d := { ready with access := { ready.access with blocked := true } }
     ready.access.blocked = false ∧ d.access.blocked = true ∧ OwedRef.blocked ∉ d.console.general.owed ∧
     d.console.general.entries.length < 24 ∧ 24 ≤ (crowded d).console.general.entries.length ∧
     OwedRef.blocked ∈ (⟨full.entries, [.blocked]⟩ : Lane).owed) := by decide +kernel

theorem wit_ArbiterKeys_chosen :
    (let q : ClassQueue := ⟨[item .distressAck (.caseAck 1500 4), item .distress .own], none⟩
     item .distress .own ∈ q.waiting ∧
     (item .distress .own).kind = .distress ∧ (item .distressAck (.caseAck 1500 4)).kind ≠ .cancel) ∧
    (let early := { item .beacon .beacon with ready := 800 }
     early ∈ [item .data (.slot 0), early] ∧ early.ready < (item .data (.slot 0)).ready) ∧
    ((contender (item .distressAck (.caseAck 1500 4)) 2 none).item.kind = .distressAck ∧
      (contender (item .distress .own) 2 none).item.kind = .distress) ∧
    (ready.access.queue .routine).waiting = [] ∧ ready.eligibleItem (item .beacon .beacon) = true ∧
    held.eligibleItem (item .beacon .beacon) = false ∧ held.eligibleItem (item .distressAck .answer) = true := by
  decide +kernel

/-- The part with one ROUTINE contender, its channel CLEAR since the given time. -/
def counting (since : Option Time) (eligible : Bool) (base : Option Time) : Device :=
  { ready with access := { ready.access with
      clearSince := since, routine := ⟨[], some ⟨item .beacon .beacon, 5, 0, base, eligible⟩⟩ } }

theorem wit_ArbiterKeys_slots :
    (backoffMax .ack 8 = 0 ∧ 0 < backoffMax .beacon 8) ∧
    ((counting none true none).access.clearSince = none) ∧
    (counting (some 500) false none).access.routine.contender = some ⟨item .beacon .beacon, 5, 0, none, false⟩ ∧
    (ready.now < 500 + 1000 ∧ (counting (some 500) true none).access.clearSince = some 500) ∧
    (0 + 1000 ≤ ready.now ∧ (1000 : Nat) = max (0 + 1000) 0 ∧ (counting (some 0) true none).access.clearSince = some 0) ∧
    (counting (some 0) true (some 750)).access.routine.contender = some ⟨item .beacon .beacon, 5, 0, some 750, true⟩ := by
  decide

theorem wit_ArbiterKeys_owners :
    (let d := { withSlot (slotOf .ready) with access := (due .routine .data).access.onQueue .routine fun _ =>
       ⟨[], some (contender (item .data (.slot 0)) 0 (some 900))⟩ }
     (d.access.queue .routine).contender = some (contender (item .data (.slot 0)) 0 (some 900)) ∧
     0 < d.xfer.slots.length) ∧
    (contender (item .distressRelay (.caseRelay 1500 4)) 0 none).item.owner = .caseRelay 1500 4 ∧
    (contender (item .beacon .beacon) 0 none).item.owner = .beacon := by decide +kernel

theorem wit_MonitorTable_reports :
    OwedRef.monitor .reflect ∉ ready.console.general.owed ∧ ready.console.general.entries.length < 24 ∧
    24 ≤ full.entries.length ∧ OwedRef.monitor .reflect ∉ full.owed ∧
    OwedRef.monitor .reflect ∈ (⟨full.entries, [.monitor .reflect]⟩ : Lane).owed := by decide +kernel

theorem wit_ProtectionEvents_keytime :
    (let d := { onAir (item .distress .own) with now := 500 + 20000 }
     d.prot.keytime.st = .normal ∧ 25000 - d.config.dKeytime * 100 ≤ d.now - 500) ∧
    (1000 - 500 < 25000 - ready.config.dKeytime * 100) ∧
    (let st := fun m : MonState => { ready with prot := { ready.prot with keytime := { Monitor.reset with st := m } } }
     (st .alert).prot.keytime.st = .alert ∧ (st .latched).prot.keytime.st ≠ .normal ∧
     (st .latched).prot.keytime.st ≠ .alert) ∧
    (∀ it ∈ ready.access.routine.items, it.kind ≠ .beacon) ∧
    (∃ it ∈ (ClassQueue.mk [item .beacon .beacon] none).items, it.kind = .beacon) := by decide +kernel

/-- The part with its beacon due and a BEACON item that still waits, or none. -/
def beaconing (l : List Item) (d : Device) : Device :=
  { d with neigh := (withNeighbour true).neigh, access := { d.access with routine := ⟨l, none⟩ } }

theorem wit_NeighbourEvents_offer :
    (∀ l ∈ [[], [item .beacon .beacon]],
      (beaconing l ready).resetLow = false ∧ (beaconing l ready).neigh.beaconDue = some 1000 ∧
      (beaconing l ready).holdInForce = false ∧ (beaconing l ready).inhibit = false ∧
      (beaconing l held).holdInForce = true) ∧
    (∀ it ∈ (beaconing [] ready).access.routine.items, it.kind ≠ .beacon) ∧
    (∃ it ∈ (beaconing [item .beacon .beacon] ready).access.routine.items, it.kind = .beacon) := by decide +kernel

theorem wit_RelayWaitExpiry_gone :
    ((waiting .distress ready).wait? .distress 1500 4 = some ⟨.distress, 1500, 4, 1000, false⟩ ∧
      ready.case? 1500 = none ∧ (caseRec .unacked).alert ≠ 5) ∧
    ((waiting .warning ready).wait? .warning 3000 7 = some ⟨.warning, 3000, 7, 1000, false⟩ ∧
      ready.holdInForce = false ∧ ready.warning? 3000 7 = none) := by decide +kernel

theorem wit_Flush_ends :
    (∀ o ∈ [Origin.relay, .console, .catchReport],
      let d := { withSlot { slotOf .ready with origin := o } with distress := held.distress }
      d.live = true ∧ d.completeExchange.holdInForce = true ∧ 0 < d.xfer.slots.length ∧
      (∀ e ∈ d.xfer.reasms, e.waiting = false) ∧ (d.slot 0).origin = o ∧ (d.slot 0).st ≠ .free ∧
      (d.slot 0).st ≠ .reserved ∧ (d.slot 0).st ≠ .outcomeOwed ∧ d.console.general.entries.length < 24) ∧
    24 ≤ (crowded (withSlot (slotOf .ready))).console.general.entries.length := by decide +kernel

theorem wit_Exchanges_serve :
    (let d := { ready with console := { ready.console with general := ⟨[], [.blocked, .loop]⟩ } }
     (d.lane .general).owed = [.blocked, .loop] ∧ d.laneRoom .general = true) ∧
    (crowded ready).laneRoom .general = false ∧ (ready.lane .general).owed = [] ∧
    (let up : UpFrame := ⟨[], some .general⟩
     let x : Entry := ⟨.channelBlocked, 0, .report [], 0⟩
     let d := { ready with console := { ready.console with general := ⟨[x], [.setup]⟩, exchange := .running up } }
     d.console.exchange = .running up ∧ (d.lane .general).entries = [x] ∧
     (d.entryContents x).length ≤ x.sent + 1) := by decide +kernel

theorem wit_Exchanges_marks :
    (ready.console.general = ⟨[], []⟩ ∧ ready.console.distress = ⟨[], []⟩ ∧ ready.access.blocked = false) ∧
    (({ ready.loop with kept := some ⟨.pass, 0, true, 22⟩ } : LoopTest).kept = some ⟨.pass, 0, true, 22⟩) ∧
    (let d := withSlot { slotOf .outcomeOwed with outcome := some .delivered }
     0 < d.xfer.slots.length ∧ (d.slot 0).outcome = some .delivered) ∧
    (withWeather.forecast? 5 true = some (forecastRec true) ∧ ready.forecast? 5 true = none ∧
      [(⟨5, 3000, 100⟩ : LastFreed)].find? (fun y => y.area == 5) = some ⟨5, 3000, 100⟩) ∧
    withWeather.warning? 3000 7 = some warningRec ∧
    (fished .normal).quota? cod.species = some (codQuota .normal 1700) ∧
    ((withCase .unacked).case? 1500 = some (caseRec .unacked) ∧ (caseRec .unacked).st ≠ .closed) ∧
    (let c := { caseRec .closed with closeReason := some .host }
     ({ ready with distress := { ready.distress with cases := [c] } }).case? 1500 = some c ∧ c.st = .closed ∧
     c.closeReason = some .host) ∧
    held.holdInForce = true ∧ ready.holdInForce = false := by decide +kernel

theorem wit_Restart_report :
    ({ ready with rep := { ready.rep with st := .inTransfer } }).completeExchange.rep.st ≠ .none ∧
    ready.completeExchange.rep.st = .none ∧
    ({ withWeather with weather := { withWeather.weather with
        warnings := [{ warningRec with relay := .offered }] } }).completeExchange.weather.warnings.any
      (fun w => w.relay == RelayState.offered) = true := by decide +kernel

/-! ### The hypotheses of route events, BEACON facts, a displaced wait, a closed case and the setting of marks -/

/-- The RELAY slot of a message for vessel 1500. -/
def relaySlot (st : SlotState) : Slot := { slotOf st with origin := .relay, dest := 1500, hop := some 1500, idx := 1 }

/-- The part with the given slot 0 and neighbour entries. -/
def routing (s : Slot) (es : List Neigh) : Device := { reached es with xfer := (withSlot s).xfer }

theorem wit_SlotTimers_routeEvents :
    let vessel := { neighbour true with station := 1500, avoidUntil := none }
    let port := { neighbour true with avoidUntil := none }
    (withSlot (slotOf .ready)).xfer.slots.length = 8 ∧ held.holdInForce = true ∧ ready.holdInForce = false ∧
    (∀ s ∈ [slotOf .awaitingRoute, slotOf .ready, { slotOf .refusalWait with idx := 1 }, slotOf .held],
      s.dest = (withSlot s).config.port ∧ s.onAir = false ∧ s.hop = some 2000 ∧
      (s.st = .awaitingRoute ∨ s.st = .ready ∨ s.st = .refusalWait ∨ s.st = .held)) ∧
    (∀ s ∈ [{ slotOf .ready with onAir := true }, slotOf .awaitingAck, Slot.free],
      ¬(s.st = .awaitingRoute ∨ s.st = .ready ∧ s.onAir = false ∨ s.st = .refusalWait ∨ s.st = .held)) ∧
    ((routing (slotOf .ready) [neighbour true]).route = none ∧
      (routing (slotOf .ready) [port]).route = some 2000 ∧ (slotOf .ready).hop = some 2000 ∧
      (routing (slotOf .ready) [relayer 50 50]).route = some 1500) ∧
    ((relaySlot .held).origin = .relay ∧ (relaySlot .held).hop = some 1500 ∧ (relaySlot .held).idx ≠ 0 ∧
      ((routing (relaySlot .held) [vessel]).neighbour? 1500).any (fun n => n.fresh && !ready.avoided n) = true ∧
      (routing (relaySlot .held) []).neighbour? 1500 = none) ∧
    (∃ it ∈ (offering 0 ready).access.routine.items, it.kind = .data ∧ it.owner = .slot 0) := by decide +kernel

/-- A BEACON of station 2000 with the given body, its check passed or not. -/
def beaconBurst (body : List Nat) (pass : Bool) : Burst :=
  ⟨.beacon, false, 2000, 262143, 0, body.length, body, 0, pass, 200, 1000⟩

theorem wit_HeaderFacts_beacon :
    let facts : Facts := ⟨true, some (-540000, 1079999), some (262142, 255)⟩
    (∀ b ∈ [true, false], (withNeighbour b).neighbour? 2000 = some (neighbour b) ∧ (neighbour b).fresh = b) ∧
    ((beaconBurst [] true).pass = true ∧ readBeaconBody (beaconBurst [] true).body = none ∧
      (beaconBurst [] false).pass = false ∧ ready.neighbour? (beaconBurst [] true).source = none ∧
      readBeaconBody (beaconBody facts) = some (0, facts) ∧ (neighbour true).facts ≠ some facts ∧
      ({ neighbour true with facts := some facts }).facts = some facts) ∧
    ((beaconBurst [] true).source = ready.config.port ∧ (3000 : Nat) ∈ ready.config.sources ∧
      (1500 : Nat) ∉ ready.config.sources) ∧
    ((∀ s ∈ beaconBody facts, s < 64) ∧ readBeaconBody (1 :: (beaconBody facts).tail) = some (1, facts) ∧
      readBeaconBody (2 :: (beaconBody facts).tail) = none) := by decide +kernel

/-- An ACK that is pending when another is offered. -/
theorem wit_ReassemblyTimers_pendingAck :
    (due .answer .ack).access.answer.items ≠ [] ∧
    ({ due .answer .ack with access := { ready.access with answer := ⟨[item .ack .answer], none⟩ } }).access.answer.items
      = [item .ack .answer] := by decide +kernel

/-- Eight waits: a WARNING wait and seven of other alerts. -/
theorem wit_CaseOrders_displaced :
    let d := { withCase .unacked with
      waits := ⟨.warning, 3000, 7, 1000, false⟩ ::
        (List.range 7).map fun i => ⟨.distress, 1501 + i, 4, 1000, false⟩ }
    d.case? 1500 = some (caseRec .unacked) ∧ d.config.distress = true ∧ (caseRec .unacked).st = .unacked ∧
    (caseRec .unacked).readable = true ∧ (caseRec .unacked).relay = .none ∧ d.distress.settled.length < 64 ∧
    d.wait? .distress 1500 (caseRec .unacked).alert = none ∧ 8 ≤ d.waits.length ∧
    (∃ w ∈ d.waits, w.kind = .warning) ∧
    ((d.examineCase 1500).waits.map fun w => (w.kind, w.station)) =
      (List.range 7).map (fun i => (.distress, 1501 + i)) ++ [(.distress, 1500)] := by decide +kernel

/-- The distress lane with 8 entries and the given marks. -/
def fullDistress (owed : List OwedRef) : Lane := ⟨List.replicate 8 ⟨.holdEnded, 0, .report [], 0⟩, owed⟩

theorem wit_DistressTimers_closes :
    (let d := { withCase .unacked with
        access := ready.access.onQueue .distress fun _ => ⟨[item .distressAck (.caseAck 1500 4)], none⟩ }
     (∃ it ∈ d.access.distress.items, it.owner = .caseAck 1500 4) ∧ d.distress.own.st = .idle ∧
     (∀ x ∈ d.distress.cases, x.station ≠ 1500 → x.st = .closed) ∧ d.case? 1500 = some (caseRec .unacked) ∧
     d.resetLow = false ∧ d.live = true ∧ d.completeExchange.case? 1500 = some (caseRec .unacked) ∧
     (1500 : Nat) < 262143 ∧ OwedRef.caseOf 1500 ∉ d.console.distress.owed ∧ d.console.distress.entries.length < 8) ∧
    ((∀ it ∈ ready.access.distress.items, it.owner ≠ .caseAck 1500 4) ∧
      (∃ x ∈ [caseRec .unacked, { caseRec .acked with station := 1600 }], x.station ≠ 1500 ∧ x.st ≠ .closed)) ∧
    (OwedRef.caseOf 1500 ∈ (fullDistress [.caseOf 1500]).owed ∧ OwedRef.caseOf 1500 ∉ (fullDistress []).owed ∧
      8 ≤ (fullDistress []).entries.length) := by decide +kernel

theorem wit_Exchanges_lanes :
    ready.console.general.entries.length < 24 ∧ ¬full.entries.length < 24 ∧ full.owed = [] ∧
    ready.console.distress.entries.length < 8 ∧ ¬(fullDistress []).entries.length < 8 ∧
    OwedRef.hold ∈ (fullDistress [.hold]).owed ∧ OwedRef.loop ∈ (⟨full.entries, [.loop]⟩ : Lane).owed := by
  decide +kernel

theorem wit_Exchanges_general :
    (let d := { ready with access := { ready.access with notClearSince := some 500 } }
     d.access.notClearSince = some 500 ∧ d.access.blocked = false) ∧
    (∀ st ∈ [LoopState.waiting, .looping], ({ ready with loop := { ready.loop with st := st } }).loop.st ≠ .idle) ∧
    (∀ cls ∈ [MsgClass.text, .catchReport],
      let e : Reasm := ⟨1500, 9, cls, 1001, 1500, 1, 1, 0, 111, 0, .running 1000, none, false, 0⟩
      let d := { ready with xfer := { ready.xfer with reasms := [e] } }
      d.reasm? 1500 9 = some e ∧ e.dest = d.config.own) ∧
    (let k := { forecastRec false with parts := [some ⟨5, 5, true, 10⟩] }
     let d := { withWeather with weather := { withWeather.weather with forecasts := [k] } }
     d.forecast? 5 false = some k ∧ none ∉ k.parts) ∧
    (withWeather.forecast? (forecastRec true).area true = some (forecastRec true) ∧
      (forecastRec true).parts.getD 0 none = none) ∧
    (let b := warningBurst 3000 1
     ready.warning? 3000 7 = none ∧ (warningHeader b.body).issuer = 3000 ∧ (warningHeader b.body).issue = 7 ∧
     (ready.store.reserve .warning (b.body.drop (11 + (warningHeader b.body).areas.length)).length).1 = .granted 0 ∧
     withWeather.warning? (warningHeader b.body).issuer (warningHeader b.body).issue = some warningRec) ∧
    (let d := { withWeather with console := { ready.console with general := ⟨full.entries, [.warning 3000 7]⟩ } }
     OwedRef.warning warningRec.issuer warningRec.issue ∈ d.console.general.owed) ∧
    ((fished .normal).quota? cod.species = some (codQuota .normal 1700) ∧ ready.rep.pending = none) := by
  decide +kernel

theorem wit_Exchanges_distress :
    ((own .alerting).distress.own.st = .alerting ∧ (own .acknowledged).distress.own.st = .acknowledged) ∧
    (ready.case? 1500 = none ∧ ready.distress.cases.length < 6 ∧
      ∀ st ∈ [CaseState.unacked, .acked, .closed],
        (withCase st).case? 1500 = some (caseRec st) ∧ (caseRec st).st = st ∧ (caseRec st).alert = 4 ∧
        (caseRec st).alert ≠ 5 ∧ (caseRec st).closeReason ≠ some .cancelled) ∧
    ((caseRec .acked).st = .acked ∧ (caseRec .acked).ownAck ≠ .offered ∧
      OwedRef.caseOf 1600 ∈ (fullDistress [.caseOf 1500, .caseOf 1600]).owed ∧
      OwedRef.caseOf 1600 ∉ (fullDistress [.caseOf 1500]).owed) ∧
    ((withCase .unacked).case? 1500 = some (caseRec .unacked) ∧ (caseRec .unacked).alert = (ackBurst 1500).seq ∧
      (ackBurst 1500).pass = true ∧ (withCase .unacked).distress.settled.length < 63) ∧
    (held.distress.holdTimer = some 5000 ∧ held.distress.holdSince = some 900 ∧ ready.distress.holdTimer = none ∧
      ready.distress.holdSince = none) := by decide +kernel

/-- R193: a full lane takes the mark once, and nothing more is queued for the record. -/
theorem test_marksOnce :
    let d := { ready with console := { ready.console with distress := fullDistress [] } }
    (d.reportOwn .sent).console.distress = fullDistress [.ownAlert] ∧
    ((d.reportOwn .sent).reportOwn .sent).console.distress = fullDistress [.ownAlert] := by decide +kernel

/-- R69: an entry with its facts unchanged by a BEACON raises no route event. -/
theorem test_beaconRaises :
    let b := beaconBurst (beaconBody ⟨true, none, none⟩) true
    ((withNeighbour true).beaconFacts b).2 = [2000] ∧
    (((withNeighbour true).beaconFacts b).1.beaconFacts b).2 = [] := by decide +kernel

end Sys2Proof.Tests
end

section
/-! PROOF. Characters, check and bodies on the working channel (O14 to O17). -/

namespace Sys2Proof.Machine

/-! ### Ranks of the four-mark patterns (R1) -/

/-- The element of a filtered range that stands at the place counting the elements below it is the number itself. -/
theorem filter_range_at_rank (p : Nat → Bool) {n N : Nat} (hn : n < N) (hp : p n = true) :
    ((List.range N).filter p)[((List.range n).filter p).length]? = some n := by
  obtain ⟨m, rfl⟩ : ∃ m, N = n + 1 + m := ⟨N - (n + 1), by omega⟩
  simp [List.range_add, List.range_succ, hp]

/-- More numbers of a kind lie below a larger number than below a smaller one of that kind. -/
theorem filter_range_length_lt (p : Nat → Bool) {n m : Nat} (h : n < m) (hp : p n = true) :
    ((List.range n).filter p).length < ((List.range m).filter p).length := by
  have hat := filter_range_at_rank p h hp
  exact (List.getElem?_eq_some_iff.1 hat).1

/-- Whether a number has four mark units. -/
def fourMarks (n : Nat) : Bool := marks n == 4

theorem fourMarks_count : ((List.range 256).filter fourMarks).length = 70 := by decide +kernel

theorem rankOf_eq_some {p : Pattern} {r : Nat} : rankOf p = some r ↔
    fourMarks p.toNat = true ∧ ((List.range p.toNat).filter fourMarks).length = r := by
  have hr : rankOf p = if fourMarks p.toNat then some ((List.range p.toNat).filter fourMarks).length else none := by
    simp only [rankOf, fourMarks, beq_iff_eq]; rfl
  rw [hr]; split <;> simp_all

theorem rankOf_isSome (p : Pattern) : (rankOf p).isSome = true ↔ marks p.toNat = 4 := by
  unfold rankOf; split <;> simp_all

/-- A rank is below 70, and its pattern is the one it was taken from (R1). -/
theorem rankOf_range {p : Pattern} {r : Nat} (h : rankOf p = some r) : r < 70 ∧ patternOf r = p := by
  obtain ⟨hm, rfl⟩ := rankOf_eq_some.1 h
  have hat := filter_range_at_rank fourMarks p.isLt hm
  refine ⟨?_, ?_⟩
  · rw [← fourMarks_count]
    exact filter_range_length_lt fourMarks p.isLt hm
  · unfold patternOf
    change BitVec.ofNat 8 (((List.range (2 ^ 8)).filter fourMarks).getD _ 0) = p
    rw [List.getD_eq_getElem?_getD, hat]
    simp

/-- Ranks rise with the patterns (R1). -/
theorem rankOf_lt {p q : Pattern} {r s : Nat} (hp : rankOf p = some r) (hq : rankOf q = some s) :
    p.toNat < q.toNat ↔ r < s := by
  obtain ⟨mp, rfl⟩ := rankOf_eq_some.1 hp
  obtain ⟨mq, rfl⟩ := rankOf_eq_some.1 hq
  refine ⟨fun h => filter_range_length_lt fourMarks h mp, fun h => ?_⟩
  rcases Nat.lt_trichotomy p.toNat q.toNat with hlt | heq | hgt
  · exact hlt
  · rw [heq] at h; omega
  · have := filter_range_length_lt fourMarks hgt mq; omega

/-- Settles O14: a four-mark pattern stands, among the four-mark numbers, at the place that counts those below it. -/
theorem patternRanks : Obligations.PatternRanks := by
  unfold Obligations.PatternRanks
  exact ⟨rankOf_isSome, fun _ _ h => rankOf_range h, fun _ _ _ _ hp hq => rankOf_lt hp hq,
    by decide +kernel, by decide +kernel, by decide +kernel, by decide +kernel, by decide +kernel⟩

/-! ### Lengths (R4, R9, R10) -/

@[simp] theorem toSyms_length (w v : Nat) : (toSyms w v).length = w := by
  induction w with
  | zero => rfl
  | succ w ih => simp [toSyms, ih]

/-- A burst of `L` body symbols has `16 + L` positions (R4). -/
theorem burstRanks_length (kind : BurstKind) (source dest : Station) (seq : Nat) (body : List Nat) :
    (burstRanks kind source dest seq body).length = 16 + body.length := by
  simp [burstRanks, coveredSyms]; omega

/-- Interleaving sends `N + 6` pairs (R9). -/
theorem interleave_length (ranks : List Nat) : (interleave ranks).length = 2 * (ranks.length + 6) := by
  simp [interleave, List.length_flatMap]; omega

/-- Settles O15, by the number of positions of a burst and of the pairs its interleaving sends. -/
theorem burstDurations : Obligations.BurstDurations := by
  unfold Obligations.BurstDurations
  intro kind source dest seq body
  refine ⟨?_, fun d it hk hb => ?_⟩
  · unfold charSequence
    split
    · simp [burstRanks_length]
    · simp only [interleave_length, burstRanks_length]; omega
  · subst hk hb; rfl

/-! ### The check (R7) -/

/-- One bit fed to the check: the register shifts up, and where its top bit and the fed bit differ the generator is
added. -/
theorem checkBit_eq (v : Nat) (b : Bool) : checkBit v b.toNat =
    (v <<< 1) % 2 ^ 16 ^^^ (if (v.testBit 15 ^^ b) = true then 4129 else 0) := by
  have hs : (v <<< 1) % 2 ^ 16 = v * 2 % 65536 := by rw [Nat.shiftLeft_eq]; norm_num
  have ht : v / 32768 % 2 = (v.testBit 15).toNat := (Nat.toNat_testBit v 15).symm
  unfold checkBit
  rw [ht, hs]
  cases v.testBit 15 <;> cases b <;> simp

/-- The check is linear in the register and the fed bit. -/
theorem checkBit_xor (v w : Nat) (b c : Bool) :
    checkBit (v ^^^ w) (b ^^ c).toNat = checkBit v b.toNat ^^^ checkBit w c.toNat := by
  simp only [checkBit_eq, Nat.shiftLeft_xor_distrib, Nat.xor_mod_two_pow, Nat.testBit_xor]
  generalize v <<< 1 % 2 ^ 16 = v', w <<< 1 % 2 ^ 16 = w'
  cases v.testBit 15 <;> cases w.testBit 15 <;> cases b <;> cases c <;>
    simp [Nat.xor_assoc, Nat.xor_comm, Nat.xor_left_comm]

theorem checkBit_lt (v : Nat) (b : Bool) : checkBit v b.toNat < 65536 := by
  rw [checkBit_eq]
  refine Nat.xor_lt_two_pow (n := 16) (Nat.mod_lt _ (by decide)) ?_
  split <;> decide

/-- Only the zero register is shifted to zero: the generator is odd. -/
theorem checkBit_eq_zero {v : Nat} (hv : v < 65536) (h : checkBit v 0 = 0) : v = 0 := by
  unfold checkBit at h
  dsimp only at h
  split at h
  · omega
  · have hx : v * 2 % 65536 = 4129 := by
      have : v * 2 % 65536 ^^^ 4129 = 0 := h
      exact Nat.xor_eq_zero_iff.1 this
    omega

/-- A symbol is fed bit by bit, most significant first. -/
theorem checkSym_eq (v s : Nat) : checkSym v s =
    [5, 4, 3, 2, 1, 0].foldl (fun a k => checkBit a (s.testBit k).toNat) v := by
  simp only [checkSym, List.foldl, Nat.toNat_testBit]

theorem checkSym_xor (v w s t : Nat) : checkSym (v ^^^ w) (s ^^^ t) = checkSym v s ^^^ checkSym w t := by
  simp only [checkSym_eq, List.foldl, Nat.testBit_xor, checkBit_xor]

theorem checkSym_lt (v s : Nat) : checkSym v s < 65536 := by
  rw [checkSym_eq]; exact checkBit_lt _ _

/-- Six zero bits take only the zero register to zero. -/
theorem checkSym_zero_eq_zero {v : Nat} (hv : v < 65536) (h : checkSym v 0 = 0) : v = 0 := by
  have hlt : ∀ a, checkBit a 0 < 65536 := fun a => checkBit_lt a false
  have h6 : checkBit (checkBit (checkBit (checkBit (checkBit (checkBit v 0) 0) 0) 0) 0) 0 = 0 := h
  exact checkBit_eq_zero hv <| checkBit_eq_zero (hlt _) <| checkBit_eq_zero (hlt _) <|
    checkBit_eq_zero (hlt _) <| checkBit_eq_zero (hlt _) <| checkBit_eq_zero (hlt _) h6

/-- No symbol but 0 keeps the zero register at zero. -/
theorem checkSym_of_zero_ne : ∀ z, z < 64 → z ≠ 0 → checkSym 0 z ≠ 0 := by decide

/-- Different registers stay different when the same symbol is fed. -/
theorem checkSym_left_inj {v w s : Nat} (hv : v < 65536) (hw : w < 65536) (h : checkSym v s = checkSym w s) :
    v = w := by
  have hx : checkSym (v ^^^ w) 0 = 0 := by
    have hl := checkSym_xor v w s s
    rwa [h, Nat.xor_self, Nat.xor_self] at hl
  exact Nat.xor_eq_zero_iff.1 (checkSym_zero_eq_zero (Nat.xor_lt_two_pow (n := 16) hv hw) hx)

/-- Different symbols fed to one register make it different. -/
theorem checkSym_right_inj {v x y : Nat} (hx : x < 64) (hy : y < 64) (h : checkSym v x = checkSym v y) : x = y := by
  by_contra hne
  have hz : checkSym 0 (x ^^^ y) = 0 := by
    have hl := checkSym_xor v v x y
    rwa [h, Nat.xor_self, Nat.xor_self] at hl
  exact checkSym_of_zero_ne _ (Nat.xor_lt_two_pow (n := 6) hx hy) (fun z => hne (Nat.xor_eq_zero_iff.1 z)) hz

/-- Different registers stay different whatever symbols are fed after them. -/
theorem foldl_checkSym_inj (r : List Nat) : ∀ {v w : Nat}, v < 65536 → w < 65536 →
    r.foldl checkSym v = r.foldl checkSym w → v = w := by
  induction r with
  | nil => exact fun _ _ h => h
  | cons s r ih =>
    exact fun hv hw h => checkSym_left_inj hv hw (ih (checkSym_lt _ _) (checkSym_lt _ _) h)

/-- Settles O16: the check is linear, so that two registers that differ stay different under the symbols that follow. -/
theorem checkSeesOneChangedSymbol : Obligations.CheckSeesOneChangedSymbol := by
  unfold Obligations.CheckSeesOneChangedSymbol
  intro l r x y hx hy hne _ h
  simp only [checkOf, List.foldl_append, List.foldl_cons] at h
  exact hne (checkSym_right_inj hx hy (foldl_checkSym_inj r (checkSym_lt _ _) (checkSym_lt _ _) h))

/-! ### Bodies (R6) -/

theorem toSyms_lt {w v s : Nat} (h : s ∈ toSyms w v) : s < 64 := by
  induction w with
  | zero => simp [toSyms] at h
  | succ w ih =>
    rcases List.mem_cons.1 h with rfl | h
    · exact Nat.mod_lt _ (by decide)
    · exact ih h

theorem positionSyms_lt {p : Option (Int × Int)} {s : Nat} (h : s ∈ positionSyms p) : s < 64 := by
  rcases p with _ | ⟨lat, lon⟩
  · simp [positionSyms] at h; omega
  · simp only [positionSyms, List.cons_append, List.mem_cons, List.mem_append] at h
    rcases h with rfl | h | h
    · decide
    · exact toSyms_lt h
    · exact toSyms_lt h

/-- A position within its ranges is read back from the head of a body (R6). -/
theorem readPosition_positionSyms {p : Option (Int × Int)} {r : List Nat} (hr : ∀ s ∈ r, s < 64)
    (hp : ∀ x, p = some x → -540000 ≤ x.1 ∧ x.1 ≤ 540000 ∧ -1080000 ≤ x.2 ∧ x.2 < 1080000) :
    readPosition (positionSyms p ++ r) = some (p, r) :=
  (readPosition_iff _ (fun s hs => (List.mem_append.1 hs).elim positionSyms_lt (hr s)) p r).2 ⟨rfl, hp⟩

/-- A DISTRESS body is read as the facts it was built from (R6, R115). -/
theorem readDistressBody_distressBody (f : DistressFacts) (hn : f.nature ≤ 9)
    (hp : ∀ p, f.pos = some p → -540000 ≤ p.1 ∧ p.1 ≤ 540000 ∧ -1080000 ≤ p.2 ∧ p.2 < 1080000)
    (ht : ∀ t, f.posTime = some t → t.1 ≤ 23 ∧ t.2 ≤ 59) (hc : ∀ n, f.persons = some n → n ≤ 62) :
    readDistressBody (distressBody f) = some f := by
  obtain ⟨nature, pos, time, persons⟩ := f
  have hpos := fun r hr => readPosition_positionSyms (r := r) hr hp
  unfold distressBody readDistressBody
  simp only [List.cons_append, List.append_assoc, Nat.not_lt.2 hn, if_false]
  rw [hpos]
  · rcases time with _ | ⟨hh, mm⟩ <;> rcases persons with _ | n <;>
      simp_all [readPosTime, readPersons]
  · rcases time with _ | ⟨hh, mm⟩ <;> rcases persons with _ | n <;> simp_all <;> omega

/-- A DATA body is read as the header and text it was built from (R6, R94). -/
theorem readDataBody_dataBody (idx cnt dest orig : Nat) (cls : MsgClass) (text : List Nat) (hc : cnt ≤ 16)
    (hi : idx < cnt) (hd : 1 ≤ dest) (hd' : dest < 262143) (ho : 1 ≤ orig) (ho' : orig < 262143) (ht : text ≠ [])
    (hl : idx + 1 ≠ cnt → text.length = 111) :
    readDataBody (dataBody ⟨idx, cnt, cls, dest, orig⟩ text) = some (⟨idx, cnt, cls, dest, orig⟩, text) := by
  generalize hb : dataBody ⟨idx, cnt, cls, dest, orig⟩ text = b
  have hcls : MsgClass.ofValue (symAt b 2) = some cls := by subst hb; cases cls <;> rfl
  have hidx : symAt b 0 = idx := by subst hb; rfl
  have hcnt : symAt b 1 = cnt := by subst hb; rfl
  have hdest : symsAt b 3 3 = dest := by subst hb; exact fromSyms_toSyms3 dest (by omega)
  have horig : symsAt b 6 3 = orig := by subst hb; exact fromSyms_toSyms3 orig (by omega)
  have hlen : b.length = 9 + text.length := by subst hb; simp [dataBody]; omega
  have hdrop : b.drop 9 = text := by subst hb; rfl
  have hpos : 0 < text.length := List.length_pos_iff.2 ht
  unfold readDataBody
  simp only [hcls, hidx, hcnt, hdest, horig, hdrop, allStations]
  rw [if_neg (by omega)]

/-- A BEACON body is read as the facts it was built from, with the station kind VESSEL (R6, R66). -/
theorem readBeaconBody_beaconBody (f : Facts)
    (hp : ∀ p, f.pos = some p → -540000 ≤ p.1 ∧ p.1 ≤ 540000 ∧ -1080000 ≤ p.2 ∧ p.2 < 1080000)
    (hq : ∀ p, f.port = some p → 1 ≤ p.1 ∧ p.1 < allStations ∧ p.2 ≤ 255) :
    readBeaconBody (beaconBody f) = some (0, f) := by
  obtain ⟨willing, pos, port⟩ := f
  have hpos := fun r hr => readPosition_positionSyms (r := r) hr hp
  rcases port with _ | ⟨id, q⟩
  · have hr := hpos [0] (by simp)
    cases willing <;> simp [beaconBody, readBeaconBody, hr]
  · obtain ⟨h1, h2, h3⟩ := hq _ rfl
    simp only [allStations] at h1 h2 h3
    have hr := hpos (1 :: (toSyms 3 id ++ toSyms 2 q)) (by
      intro s hs
      simp only [List.mem_cons, List.mem_append] at hs
      rcases hs with rfl | hs | hs
      · decide
      · exact toSyms_lt hs
      · exact toSyms_lt hs)
    have hid := fromSyms_toSyms3 id (by omega)
    have hqv := fromSyms_toSyms2 q (by omega)
    simp only [toSyms] at hid hqv hr
    cases willing <;> simp [beaconBody, readBeaconBody, toSyms, allStations] at * <;> simp [*]

/-- Settles O17, body by body: each field is read back from the symbols it was written in. -/
theorem bodyRoundTrips : Obligations.BodyRoundTrips := by
  unfold Obligations.BodyRoundTrips
  exact ⟨readDistressBody_distressBody, fun h => readDataBody_dataBody h.idx h.cnt h.dest h.orig h.cls,
    readBeaconBody_beaconBody⟩

end Sys2Proof.Machine
end

section
/-! PROOF. The carrier filter (O20) and the loop test (O29). -/

namespace Sys2Proof.Machine
namespace Device

/-! ### The debounce filter (R20) -/

theorem ready_of_live {d : Device} (h : d.live = true) : d.ready = true := ((live_iff d).1 h).2

theorem resetLow_of_live {d : Device} (h : d.live = true) : d.resetLow = false := ((live_iff d).1 h).1

theorem rawChange_ne {d : Device} {up : Bool} (hr : d.ready = true) (h : d.access.raw ≠ up) :
    d.rawChange up = { d with access := { d.access with raw := up, filterFrom := d.now } } := by
  simp [rawChange, hr, h, onAccess]

theorem rawChange_eq {d : Device} {up : Bool} (h : d.access.raw = up) : d.rawChange up = d := by
  simp [rawChange, h]

theorem debounceAt_of_ne {d : Device} (hk : d.keyLine = false) (h : d.access.raw ≠ d.access.debounced) :
    d.debounceAt = some (d.access.filterFrom + 60) := by
  simp [debounceAt, hk, h]

/-- The debounced carrier rises: nothing but the filter's value changes. -/
theorem debounce_rises {d : Device} (hk : d.keyLine = false) (hr : d.access.raw = true)
    (hd : d.access.debounced = false) :
    d.debounce = { d with
      now := max d.now (d.access.filterFrom + 60), access := { d.access with debounced := true } } := by
  unfold debounce
  rw [debounceAt_of_ne hk (by simp [hr, hd])]
  simp [onAccess, reach, hr]

/-- The debounced carrier falls: the receive record is told. -/
theorem debounce_falls {d : Device} (hk : d.keyLine = false) (hr : d.access.raw = false)
    (hd : d.access.debounced = true) :
    d.debounce = carrierFalls { d with
      now := max d.now (d.access.filterFrom + 60), access := { d.access with debounced := false } } := by
  unfold debounce
  rw [debounceAt_of_ne hk (by simp [hr, hd])]
  simp [onAccess, reach, hr]

/-- A carrier that falls in SYNCING or SKIPPING makes the record hunt, and counts nothing (entry 37). -/
theorem carrierFalls_uncounted {d : Device} (h : d.rx.st = .syncing ∨ d.rx.st = .skipping) :
    d.carrierFalls = { d with rx := Rx.blank .hunting } := by
  unfold carrierFalls; rcases h with h | h <;> rw [h]

/-- A carrier that falls during the reception of a burst abandons it (R17). -/
theorem carrierFalls_abandons {d : Device} (h : d.rx.st = .linked ∨ d.rx.st = .broadcast) :
    d.carrierFalls = { d with
      rx := Rx.blank .hunting, rxCounts := { d.rxCounts with abandoned := bump d.rxCounts.abandoned } } := by
  unfold carrierFalls; rcases h with h | h <;> rw [h] <;> rfl

theorem carrierFalls_idle {d : Device} (h : d.rx.st = .hunting ∨ d.rx.st = .closed) : d.carrierFalls = d := by
  unfold carrierFalls; rcases h with h | h <;> rw [h]

end Device

/-- Settles O20: the filter takes the raw value, and a fall tells the receive record, state by state. -/
theorem carrierFilter : Obligations.CarrierFilter := by
  unfold Obligations.CarrierFilter
  intro s hl
  have hlow := Device.resetLow_of_live hl
  have hready := Device.ready_of_live hl
  have falls : ∀ {X : Device}, s.dev.keyLine = false → s.dev.access.raw = false → s.dev.access.debounced = true →
      Device.carrierFalls { s.dev with
        now := max s.dev.now (s.dev.access.filterFrom + 60), access := { s.dev.access with debounced := false } } = X →
      exec .carrierDebounce s = .next { s with dev := X.settle } :=
    fun hk hr hd hX => exec_of_event Device.debounce rfl hlow ((Device.debounce_falls hk hr hd).trans hX)
  refine ⟨fun up h => ?_, fun up h => ?_, fun hk hr hd => ?_, fun hk hr hd => ⟨fun h => ?_, fun h => ?_, fun h => ?_⟩⟩
  · exact exec_of_event (fun d => d.rawChange up) rfl hlow (Device.rawChange_ne hready h)
  · exact exec_of_event (fun d => d.rawChange up) rfl hlow (Device.rawChange_eq h)
  · exact exec_of_event Device.debounce rfl hlow (Device.debounce_rises hk hr hd)
  · exact falls hk hr hd (Device.carrierFalls_uncounted h)
  · exact falls hk hr hd (Device.carrierFalls_abandons h)
  · exact falls hk hr hd (Device.carrierFalls_idle h)

/-! ### The loop test (R18, R49, R50) -/

namespace Device

theorem orderLoop_taken {d : Device} (tag : Nat) (hl : d.loop.st = .idle) (ho : d.distress.own.st = .idle)
    (hc : d.caseOpen = false) (hh : d.holdInForce = false) :
    orderLoop tag d = (.taken, { d with loop := { d.loop with st := .waiting, tag := some tag } }) := by
  simp [orderLoop, hl, ho, hc, hh, onLoop]

theorem orderLoop_busy {d : Device} (tag : Nat) (hl : d.loop.st ≠ .idle) : orderLoop tag d = (.busy, d) := by
  simp [orderLoop, hl]

theorem orderLoop_state {d : Device} (tag : Nat) (hl : d.loop.st = .idle)
    (h : d.distress.own.st ≠ .idle ∨ d.caseOpen = true ∨ d.holdInForce = true) :
    orderLoop tag d = (.state, d) := by
  simp [orderLoop, hl, h]

theorem canStartLoop_of {d : Device} (hw : d.loop.st = .waiting) (hc : d.access.chan ≠ .own)
    (hr : d.reception = false) : d.canStartLoop = true := by
  simp [canStartLoop, hw, hc, hr]

/-- LOOP RESULT finds room in the lane: it is queued last, and the record keeps nothing. -/
theorem reportLoop_room (d : Device) (k : LoopKept) (hm : OwedRef.loop ∉ d.console.general.owed)
    (hr : d.console.general.entries.length < 24) :
    d.reportLoop k = { d with console := { d.console with general := { d.console.general with
      entries := d.console.general.entries ++ [⟨.loopResult, k.tag, .report (loopData k), 0⟩] } } } := by
  simp [reportLoop, reportTagged, marked, lane, ReportKind.lane, laneRoom, queueEntry, hr, hm, LaneName.capacity, onLane,
    onConsole, onLoop]

/-- The 48 characters have come back: the loop path is released and the verdict reported. -/
theorem loopDone_looping {d : Device} (received : List Pattern) (h : d.loop.st = .looping) :
    loopDone received d = reportLoop { d with
      now := max d.now d.loop.endAt, rx := Rx.blank .hunting, loop := { d.loop with st := .idle } }
      (d.loopVerdict received) := by
  simp only [loopDone, h, if_true, leaveLoop, reach_loop]
  rfl

end Device

/-- A pattern's rank is the one it stands for (R1). -/
theorem rankOf_patternOf : ∀ r, r < 70 → rankOf (patternOf r) = some r := by decide +kernel

theorem isControl_patternOf {r k : Nat} (hr : r < 70) : isControl (patternOf r) k = decide (r = k) := by
  simp [isControl, rankOf_patternOf r hr]; rfl

theorem symbolOf_patternOf {r : Nat} (hr : r < 70) : symbolOf (patternOf r) = if r < 64 then some r else none := by
  simp [symbolOf, rankOf_patternOf r hr]

theorem loopBody_length : loopBody.length = 32 := rfl

/-- The symbols of the TEST burst that the check covers. -/
def loopCovered (own : Station) : List Nat := coveredSyms .test own own 0 loopBody

/-- The symbols of the TEST burst between its sync characters and END. -/
def loopSymbols (own : Station) : List Nat := loopCovered own ++ toSyms 3 (checkOf (loopCovered own))

theorem loopRanks_eq (own : Station) : loopRanks own = 64 :: 65 :: (loopSymbols own ++ [67]) := by
  simp [loopRanks, burstRanks, loopSymbols, loopCovered, syncARank, syncBRank, endRank]

theorem loopCovered_length (own : Station) : (loopCovered own).length = 42 := by
  simp [loopCovered, coveredSyms, loopBody_length]

theorem loopSymbols_length (own : Station) : (loopSymbols own).length = 45 := by
  simp [loopSymbols, loopCovered_length]

theorem loopSymbols_lt (own : Station) {s : Nat} (h : s ∈ loopSymbols own) : s < 64 := by
  have hb : ∀ x ∈ loopBody, x < 64 := by decide
  simp only [loopSymbols, loopCovered, coveredSyms, List.mem_append, List.mem_cons, List.cons_append,
    List.append_assoc, List.nil_append] at h
  rcases h with rfl | h | h | rfl | h | h | h
  · decide
  · exact toSyms_lt h
  · exact toSyms_lt h
  · decide
  · exact toSyms_lt h
  · exact hb _ h
  · exact toSyms_lt h

theorem checkOf_lt (l : List Nat) : checkOf l < 65536 := by
  unfold checkOf
  rcases List.eq_nil_or_concat l with rfl | ⟨l, s, rfl⟩
  · exact Nat.lt_succ_self _
  · rw [List.concat_eq_append, List.foldl_append, List.foldl_cons, List.foldl_nil]; exact checkSym_lt _ _

/-- Between the sync characters and END a character is mutilated when it is no data symbol (R1, R18). -/
theorem Device.loopMutilated_symbol {i : Nat} {p : Pattern} (h1 : 2 ≤ i) (h2 : i ≤ 46) :
    Device.loopMutilated i p = (symbolOf p).isNone := by
  unfold Device.loopMutilated
  rw [if_neg (by omega), if_neg (by omega), if_neg (by omega)]

/-- No character of the TEST burst as it was sent counts as mutilated. -/
theorem loopMutilated_sent (own : Station) {i : Nat} (hi : i < 48) :
    Device.loopMutilated i (((loopRanks own).map patternOf).getD i 0#8) = false := by
  rw [loopRanks_eq]
  have hlen := loopSymbols_length own
  rcases i with _ | _ | i
  · exact (by decide +kernel : Device.loopMutilated 0 (patternOf 64) = false)
  · exact (by decide +kernel : Device.loopMutilated 1 (patternOf 65) = false)
  · rcases Nat.lt_or_ge i 45 with hlt | hge
    · have hs := loopSymbols_lt own (List.getElem_mem (l := loopSymbols own) (n := i) (by omega))
      rw [Device.loopMutilated_symbol (by omega) (by omega)]
      simp [List.getElem?_append_left, hlen, hlt, symbolOf_patternOf (Nat.lt_trans hs (by decide)), hs]
    · obtain rfl : i = 45 := by omega
      simp [Device.loopMutilated, hlen, isControl_patternOf, endRank]

/-- The symbols read from the TEST burst as it was sent; its sync characters and END read as 63. -/
theorem loopSymbols_read (own : Station) : ((loopRanks own).map patternOf).map (fun p => (symbolOf p).getD 63) =
    63 :: 63 :: (loopSymbols own ++ [63]) := by
  have h64 : (symbolOf (patternOf 64)).getD 63 = 63 := by decide +kernel
  have h65 : (symbolOf (patternOf 65)).getD 63 = 63 := by decide +kernel
  have h67 : (symbolOf (patternOf 67)).getD 63 = 63 := by decide +kernel
  have hmid : ((loopSymbols own).map patternOf).map (fun p => (symbolOf p).getD 63) = loopSymbols own := by
    rw [List.map_map]
    refine (List.map_congr_left fun s hs => ?_).trans (List.map_id _)
    have := loopSymbols_lt own hs
    simp [symbolOf_patternOf (by omega : s < 70), this]
  rw [loopRanks_eq]
  simp only [List.map_cons, List.map_append, hmid, h64, h65, h67, List.map_nil]

/-- The check carried by the TEST burst is the one over its covered symbols. -/
theorem loopSymbols_check (own : Station) (l : List Nat) :
    checkOf (((63 :: 63 :: (loopSymbols own ++ l)).drop 2).take 42)
      = symsAt (63 :: 63 :: (loopSymbols own ++ l)) 44 3 := by
  have hc := loopCovered_length own
  have h1 : ((63 :: 63 :: (loopSymbols own ++ l)).drop 2).take 42 = loopCovered own := by
    simp [loopSymbols, hc]
  have h2 : symsAt (63 :: 63 :: (loopSymbols own ++ l)) 44 3 = fromSyms (toSyms 3 (checkOf (loopCovered own))) := by
    simp [symsAt, loopSymbols, hc]
  have := checkOf_lt (loopCovered own)
  rw [h1, h2, fromSyms_toSyms3 _ (by omega)]

namespace Device

/-- The loop test passes when the 48 characters come back as they were sent. -/
theorem loopVerdict_sent (d : Device) :
    d.loopVerdict ((loopRanks d.config.own).map patternOf) = ⟨.pass, 0, true, d.loop.tag.getD 0⟩ := by
  have hbad : ((List.range 48).filter fun i =>
      loopMutilated i (((loopRanks d.config.own).map patternOf).getD i 0#8)) = [] := by
    rw [List.filter_eq_nil_iff]
    intro i hi
    rw [loopMutilated_sent _ (List.mem_range.1 hi)]; decide
  unfold loopVerdict
  dsimp only
  rw [hbad, loopSymbols_read, loopSymbols_check]
  simp [loopTag]

/-- The positions of the TEST burst that came back mutilated. -/
def loopBad (received : List Pattern) : List Nat :=
  (List.range 48).filter fun i => loopMutilated i (received.getD i 0#8)

/-- The check passes when no position but the sync characters and END is mutilated and the carried check agrees. -/
theorem loopVerdict_check (d : Device) (received : List Pattern) :
    (d.loopVerdict received).check = true ↔ (∀ i ∈ loopBad received, i < 2 ∨ 46 < i) ∧
      checkOf (((received.map fun p => (symbolOf p).getD 63).drop 2).take 42)
        = symsAt (received.map fun p => (symbolOf p).getD 63) 44 3 := by
  have hv : (d.loopVerdict received).check =
      (checkOf (((received.map fun p => (symbolOf p).getD 63).drop 2).take 42)
        == symsAt (received.map fun p => (symbolOf p).getD 63) 44 3 &&
      !((loopBad received).any fun i => decide (2 ≤ i) && decide (i ≤ 46))) := rfl
  have hr : (∀ i ∈ loopBad received, i < 2 ∨ 46 < i) ↔ ∀ i ∈ loopBad received, 2 ≤ i → 46 < i :=
    forall₂_congr fun i _ => by omega
  rw [hv, hr]
  simp [and_comm]

theorem loopVerdict_outcome (d : Device) (received : List Pattern) :
    (d.loopVerdict received).outcome = if (loopBad received).isEmpty && (d.loopVerdict received).check &&
      received == (loopRanks d.config.own).map patternOf then .pass else .fail := rfl

theorem loopVerdict_pass (d : Device) (received : List Pattern) :
    (d.loopVerdict received).outcome = .pass ↔ loopBad received = [] ∧ (d.loopVerdict received).check = true ∧
      received = (loopRanks d.config.own).map patternOf := by
  rw [loopVerdict_outcome]
  simp [and_assoc]

theorem loopVerdict_fail (d : Device) (received : List Pattern) (h : (d.loopVerdict received).outcome ≠ .pass) :
    (d.loopVerdict received).outcome = .fail := by
  rw [loopVerdict_outcome] at *
  split at h
  · exact absurd rfl h
  · exact if_neg ‹_›

end Device

/-- Settles O29: the order's tests, the start, the result, and the verdict on what came back. -/
theorem loopTest : Obligations.LoopTest := by
  unfold Obligations.LoopTest
  refine ⟨⟨fun tag s hl => ⟨?_, ?_, ?_⟩, ?_, ?_, fun d _ => d.loopVerdict_sent⟩, ?_⟩
  · exact fun h1 h2 h3 h4 => exec_of_frame (Device.orderLoop tag) rfl hl (Device.orderLoop_taken tag h1 h2 h3 h4)
  · exact fun h => exec_of_frame (Device.orderLoop tag) rfl hl (Device.orderLoop_busy tag h)
  · exact fun h1 h2 => exec_of_frame (Device.orderLoop tag) rfl hl (Device.orderLoop_state tag h1 h2)
  · intro s hlow hw hc hr
    exact exec_of_event (fun d => if d.canStartLoop then d.startLoop else d) rfl hlow
      (if_pos (Device.canStartLoop_of hw hc hr))
  · intro received s hlow hs hm hr
    exact exec_of_event (Device.loopDone received) rfl hlow
      ((Device.loopDone_looping received hs).trans (Device.reportLoop_room _ _ hm hr))
  · exact fun d received _ => ⟨rfl, rfl, d.loopVerdict_check received, d.loopVerdict_pass received,
      d.loopVerdict_fail received⟩

end Sys2Proof.Machine
end

section
/-! PROOF. Reception (O18). -/

namespace Sys2Proof.Machine

/-! ### Control characters and header faults (R1, R4, R5) -/

/-- The control characters are single patterns. -/
theorem isControl_iff {p : Pattern} {k : Nat} (hk : k < 70) : isControl p k = true ↔ p = patternOf k := by
  constructor
  · intro h
    exact (rankOf_range (by simpa [isControl] using h)).2.symm
  · rintro rfl
    simp [isControl_patternOf hk]

theorem isControl_syncB (p : Pattern) : isControl p syncBRank = true ↔ p = 0xE1 := by
  rw [isControl_iff (by decide), (by decide +kernel : patternOf syncBRank = 0xE1)]

theorem isControl_idle (p : Pattern) : isControl p idleRank = true ↔ p = 0xE2 := by
  rw [isControl_iff (by decide), (by decide +kernel : patternOf idleRank = 0xE2)]

theorem isControl_end (p : Pattern) : isControl p endRank = true ↔ p = 0xE4 := by
  rw [isControl_iff (by decide), (by decide +kernel : patternOf endRank = 0xE4)]

theorem kindFault_linked (v : Nat) : kindFault true v = true ↔ v ≠ 1 ∧ v ≠ 2 := by
  rcases Nat.lt_or_ge v 11 with h | h
  · interval_cases v <;> decide
  · obtain ⟨n, rfl⟩ := Nat.exists_eq_add_of_le' h
    exact ⟨fun _ => by omega, fun _ => rfl⟩

theorem kindFault_broadcast (v : Nat) : kindFault false v = true ↔ v < 3 ∨ 9 < v := by
  rcases Nat.lt_or_ge v 11 with h | h
  · interval_cases v <;> decide
  · obtain ⟨n, rfl⟩ := Nat.exists_eq_add_of_le' h
    exact ⟨fun _ => by omega, fun _ => rfl⟩

namespace Device

/-- No position beyond the header is a header fault. -/
theorem headerFault_beyond (d : Device) (linked : Bool) {pos : Nat} (h : 11 < pos) (syms : List Nat) :
    d.headerFault linked pos syms = false := by
  unfold headerFault
  rw [if_neg (by omega), if_neg (by omega), if_neg (by omega), if_neg (by omega)]

/-- The header faults of linked framing (R4, R5). -/
theorem headerFault_linked (d : Device) (pos : Nat) (syms : List Nat) : d.headerFault true pos syms = true ↔
    (pos = 2 ∧ symAt syms 0 ≠ 1 ∧ symAt syms 0 ≠ 2) ∨
    (pos = 5 ∧ (symsAt syms 1 3 = 0 ∨ symsAt syms 1 3 = 262143 ∨ symsAt syms 1 3 = d.config.own)) ∨
    (pos = 8 ∧ (symsAt syms 4 3 = 0 ∨ symsAt syms 4 3 = 262143)) ∨
    (pos = 11 ∧ 120 < symsAt syms 8 2) := by
  unfold headerFault
  split
  · simp_all [kindFault_linked]
  split
  · simp_all [sourceFault, allStations, or_assoc]
  split
  · simp_all [destFault, allStations]
  split
  · simp_all [lengthFault]
  · simp_all

/-- The header faults of broadcast framing: the destination is not examined (R4, R5). -/
theorem headerFault_broadcast (d : Device) (pos : Nat) (syms : List Nat) : d.headerFault false pos syms = true ↔
    (pos = 2 ∧ (symAt syms 0 < 3 ∨ 9 < symAt syms 0)) ∨
    (pos = 5 ∧ (symsAt syms 1 3 = 0 ∨ symsAt syms 1 3 = 262143 ∨ symsAt syms 1 3 = d.config.own)) ∨
    (pos = 11 ∧ 120 < symsAt syms 8 2) := by
  unfold headerFault
  split
  · simp_all [kindFault_broadcast]
  split
  · simp_all [sourceFault, allStations, or_assoc]
  split
  · simp_all [destFault]
  split
  · simp_all [lengthFault]
  · simp_all

/-! ### SYNC A (R11) -/

theorem findSync_hunting {d : Device} (q : Nat) (h : d.rx.st = .hunting) (hc : d.access.debounced = true) :
    d.findSync q = { d with rx := { Rx.blank .syncing with qsum := q, nextChar := d.now + 80 } } :=
  if_pos ⟨h, hc⟩

theorem findSync_ignored {d : Device} (q : Nat) (h : d.rx.st ≠ .hunting ∨ d.access.debounced = false) :
    d.findSync q = d := by
  refine if_neg fun hc => ?_
  rcases h with h | h
  · exact h hc.1
  · rw [h] at hc; exact absurd hc.2 (by decide)

/-! ### One character (R11 to R14) -/

/-- The part at the end of a character: the timebase has come to it, and the next one is due 80 ms on. -/
def atCharacter (d : Device) : Device :=
  { d with now := max d.now d.rx.nextChar, rx := { d.rx with nextChar := d.rx.nextChar + 80 } }

theorem takeCharacter_syncing {d : Device} (p : Pattern) (q : Nat) (h : d.rx.st = .syncing) :
    d.takeCharacter p q = d.atCharacter.syncingChar p q := by
  unfold takeCharacter
  simp only [onRx_rx, reach_rx, h]
  rfl

theorem takeCharacter_linked {d : Device} (p : Pattern) (q : Nat) (h : d.rx.st = .linked) :
    d.takeCharacter p q = d.atCharacter.linkedChar p q := by
  unfold takeCharacter
  simp only [onRx_rx, reach_rx, h]
  rfl

theorem takeCharacter_broadcast {d : Device} (p : Pattern) (q : Nat) (h : d.rx.st = .broadcast) :
    d.takeCharacter p q = d.atCharacter.broadcastChar p q := by
  unfold takeCharacter
  simp only [onRx_rx, reach_rx, h]
  rfl

/-! SYNCING -/

theorem syncingChar_syncB_second {d : Device} (q : Nat) (h : d.rx.third = false) :
    d.syncingChar 0xE1 q = { d with rx := { d.rx with st := .linked, count := 2, qsum := d.rx.qsum + q } } := by
  unfold syncingChar
  rw [if_pos ((isControl_syncB _).2 rfl), if_neg (by rw [h]; decide)]
  rfl

theorem syncingChar_syncB_third {d : Device} (q : Nat) (h : d.rx.third = true) :
    d.syncingChar 0xE1 q = { d with rx := { d.rx with st := .broadcast, count := 3, qsum := d.rx.qsum + q } } := by
  unfold syncingChar
  rw [if_pos ((isControl_syncB _).2 rfl), if_pos h]
  rfl

theorem syncingChar_idle {d : Device} (q : Nat) (h : d.rx.third = false) :
    d.syncingChar 0xE2 q = { d with rx := { d.rx with third := true } } := by
  have hb : ¬ isControl 0xE2 syncBRank = true := by rw [isControl_syncB]; decide
  have hi : isControl 0xE2 idleRank = true := (isControl_idle _).2 rfl
  unfold syncingChar
  rw [if_neg hb, if_pos (by rw [hi, h]; rfl)]
  rfl

theorem syncingChar_other {d : Device} {p : Pattern} (q : Nat) (h1 : p ≠ 0xE1) (h2 : p ≠ 0xE2 ∨ d.rx.third = true) :
    d.syncingChar p q = { d with rx := Rx.blank .hunting } := by
  have hb : ¬ isControl p syncBRank = true := by rwa [isControl_syncB]
  have hi : ¬ (isControl p idleRank && !d.rx.third) = true := by
    rw [Bool.and_eq_true, isControl_idle]
    rintro ⟨hp, ht⟩
    rcases h2 with h | h
    · exact h hp
    · rw [h] at ht; cases ht
  unfold syncingChar
  rw [if_neg hb, if_neg hi]

/-! RECEIVING LINKED -/

theorem linkedChar_end {d : Device} (q : Nat) (h : 11 < d.rx.count ∧ d.rx.count = 15 + symsAt d.rx.syms 8 2) :
    d.linkedChar 0xE4 q = d.takeBurst { d.rx with qsum := d.rx.qsum + q } true true := by
  unfold linkedChar
  dsimp only
  rw [if_pos h, if_pos ((isControl_end _).2 rfl)]

theorem linkedChar_noEnd {d : Device} {p : Pattern} (q : Nat)
    (h : 11 < d.rx.count ∧ d.rx.count = 15 + symsAt d.rx.syms 8 2) (hp : p ≠ 0xE4) :
    d.linkedChar p q = d.damagedDiscard := by
  unfold linkedChar
  dsimp only
  rw [if_pos h, if_neg (by rwa [isControl_end])]

theorem linkedChar_mutilated {d : Device} {p : Pattern} (q : Nat)
    (h : ¬(11 < d.rx.count ∧ d.rx.count = 15 + symsAt d.rx.syms 8 2)) (hp : symbolOf p = none) :
    d.linkedChar p q = d.damagedDiscard := by
  unfold linkedChar
  dsimp only
  rw [if_neg h, hp]

/-- A data symbol before the END position: a header fault and a failed check discard the burst, and else the symbol is
taken at its position. -/
theorem linkedChar_symbol {d : Device} {p : Pattern} {v : Nat} (q : Nat)
    (h : ¬(11 < d.rx.count ∧ d.rx.count = 15 + symsAt d.rx.syms 8 2)) (hp : symbolOf p = some v) :
    d.linkedChar p q =
      if d.headerFault true d.rx.count (d.rx.syms ++ [v]) then d.headerDiscard
      else if 11 < d.rx.count ∧ d.rx.count = 14 + symsAt d.rx.syms 8 2 ∧ checkAgrees (d.rx.syms ++ [v]) = false
        then d.damagedDiscard
      else d.onRx fun r => { r with syms := d.rx.syms ++ [v], qsum := r.qsum + q, count := d.rx.count + 1 } := by
  unfold linkedChar
  dsimp only
  rw [if_neg h, hp]

/-! RECEIVING BROADCAST -/

theorem broadcastChar_first {d : Device} (p : Pattern) (q : Nat) (h : d.rx.count % 2 = 0) :
    d.broadcastChar p q =
      { d with rx := { d.rx with count := d.rx.count + 1, firsts := d.rx.firsts ++ [(p, q)] } } := by
  simp [broadcastChar, h, onRx]

/-- The repeats of the sync positions are not examined (R13). -/
theorem broadcastChar_unexamined {d : Device} (p : Pattern) (q : Nat) (h : d.rx.count % 2 = 1)
    (hk : d.rx.count / 2 < 8) :
    d.broadcastChar p q = { d with rx := { d.rx with count := d.rx.count + 1 } } := by
  simp [broadcastChar, h, hk, onRx]

theorem broadcastChar_repeat {d : Device} (p : Pattern) (q : Nat) {x : Pattern × Nat} {rest : List (Pattern × Nat)}
    (h : d.rx.count % 2 = 1) (hk : 8 ≤ d.rx.count / 2) (hf : d.rx.firsts = x :: rest) :
    d.broadcastChar p q = broadcastPosition { d with rx := { d.rx with count := d.rx.count + 1, firsts := rest } }
      (d.rx.count / 2 - 6) x (p, q) := by
  simp [broadcastChar, h, Nat.not_lt.2 hk, hf, onRx]

/-- The part at the end of a repeat: its first copy is taken from those that wait, which leaves `rest`. -/
def atRepeat (d : Device) (rest : List (Pattern × Nat)) : Device :=
  { d.atCharacter with rx := { d.atCharacter.rx with count := d.rx.count + 1, firsts := rest } }

/-- The position is the END position of the burst (R4). -/
def endPosition (d : Device) (pos : Nat) : Prop := 11 < pos ∧ pos = 15 + symsAt d.rx.syms 8 2

/-- What the two copies of a position give (R13). -/
def copiesTaken (d : Device) (pos : Nat) (x y : Pattern × Nat) : Option (Pattern × Nat) :=
  combine (fun p => if decide (11 < pos) && pos == 15 + symsAt d.rx.syms 8 2 then isControl p endRank
    else (symbolOf p).isSome) x y

/-- The better of two copies, when one is good: the first, unless the repeat alone is good or is another character of
higher quality (R13). -/
theorem combine_eq {valid : Pattern → Bool} {good : Pattern → Prop} (hg : ∀ p, good p ↔ valid p = true)
    (x y : Pattern × Nat) [Decidable (good x.1 ∧ (good y.1 → x.1 = y.1 ∨ y.2 ≤ x.2))] [Decidable (good y.1)] :
    combine valid x y = if good x.1 ∧ (good y.1 → x.1 = y.1 ∨ y.2 ≤ x.2) then some x
      else if good y.1 then some y else none := by
  simp only [hg] at *
  unfold combine
  cases hx : valid x.1 <;> cases hy : valid y.1
  case true.true =>
    by_cases he : x.1 = y.1
    · simp [he]
    · by_cases hq : y.2 ≤ x.2 <;> simp [he, hq, Nat.not_lt.2, Nat.not_le.1]
  all_goals simp

/-- A copy is good at the END position when it is END, and at any other when it is a data symbol (R13). -/
theorem goodCopy_iff {pos len : Nat} {atEnd : Prop} (he : atEnd ↔ 11 < pos ∧ pos = 15 + len)
    [Decidable atEnd] (y : Pattern) : (if atEnd then y = 0xE4 else symbolOf y ≠ none) ↔
    (if decide (11 < pos) && pos == 15 + len then isControl y endRank else (symbolOf y).isSome) = true := by
  by_cases h : 11 < pos ∧ pos = 15 + len
  · rw [if_pos (he.2 h), if_pos (by simpa using h), isControl_end]
  · rw [if_neg (fun z => h (he.1 z)), if_neg (by simpa using h), Option.isSome_iff_ne_none]

theorem broadcastPosition_symbol {d : Device} {pos k v : Nat} {x y : Pattern × Nat} {c : Pattern}
    (he : ¬d.endPosition pos) (hc : d.copiesTaken pos x y = some (c, k)) (hv : symbolOf c = some v) :
    d.broadcastPosition pos x y =
      if d.headerFault false pos (d.rx.syms ++ [v]) then d.headerDiscard
      else { d with rx := { d.rx with syms := d.rx.syms ++ [v], qsum := d.rx.qsum + k, run := 0 } } := by
  have hend : (decide (11 < pos) && pos == 15 + symsAt d.rx.syms 8 2) = false := by
    simpa [endPosition] using he
  unfold copiesTaken at hc
  unfold broadcastPosition
  dsimp only
  rw [hc, hend]
  simp [hv]

theorem broadcastPosition_endTaken {d : Device} {pos k : Nat} {x y : Pattern × Nat} {c : Pattern}
    (he : d.endPosition pos) (hc : d.copiesTaken pos x y = some (c, k)) :
    d.broadcastPosition pos x y = d.takeBurst { d.rx with qsum := d.rx.qsum + k, run := 0 } false
      (d.rx.erasures == 0 && !d.rx.bad && checkAgrees d.rx.syms) := by
  have hend : (decide (11 < pos) && pos == 15 + symsAt d.rx.syms 8 2) = true := by
    simpa [endPosition] using he
  unfold copiesTaken at hc
  unfold broadcastPosition
  dsimp only
  rw [hc, hend]
  simp [headerFault_beyond d false he.1]

/-- A broadcast burst passes when nothing of its body, check and END was erased and its check agrees (R14). -/
theorem broadcastPass_eq (d : Device) : (d.rx.erasures == 0 && !d.rx.bad && checkAgrees d.rx.syms) =
    decide (d.rx.erasures = 0 ∧ d.rx.bad = false ∧
      checkOf (d.rx.syms.take (10 + symsAt d.rx.syms 8 2)) = symsAt d.rx.syms (10 + symsAt d.rx.syms 8 2) 3) := by
  rw [Bool.eq_iff_iff]
  simp [checkAgrees, and_assoc]

/-- A position of which neither copy is good is erased; in the header that discards the burst (R14). -/
theorem broadcastPosition_erasedHeader {d : Device} {pos : Nat} {x y : Pattern × Nat}
    (hc : d.copiesTaken pos x y = none) (h : pos ≤ 11) : d.broadcastPosition pos x y = d.headerDiscard := by
  unfold copiesTaken at hc
  unfold broadcastPosition
  dsimp only
  rw [hc]
  simp [h]

/-- A run of eight erased positions abandons the reception, also when END completes the run (R14; entry 33). -/
theorem broadcastPosition_abandons {d : Device} {pos : Nat} {x y : Pattern × Nat}
    (hc : d.copiesTaken pos x y = none) (h : 11 < pos) (hr : 7 ≤ d.rx.run) :
    d.broadcastPosition pos x y = d.abandonReception .skipping := by
  unfold copiesTaken at hc
  unfold broadcastPosition
  dsimp only
  rw [hc]
  simp [Nat.not_le.2 h, headerFault_beyond d false h, hr]

theorem broadcastPosition_erasedSymbol {d : Device} {pos : Nat} {x y : Pattern × Nat}
    (hc : d.copiesTaken pos x y = none) (h : 11 < pos) (hr : d.rx.run < 7) (he : ¬d.endPosition pos) :
    d.broadcastPosition pos x y = { d with rx := { d.rx with
      syms := d.rx.syms ++ [63], run := d.rx.run + 1,
      erasures := if pos < 12 + symsAt d.rx.syms 8 2 then d.rx.erasures + 1 else d.rx.erasures,
      bad := d.rx.bad || decide (12 + symsAt d.rx.syms 8 2 ≤ pos) } } := by
  have hend : (decide (11 < pos) && pos == 15 + symsAt d.rx.syms 8 2) = false := by
    simpa [endPosition] using he
  have hcheck : decide (12 + symsAt d.rx.syms 8 2 ≤ pos) = !decide (pos < 12 + symsAt d.rx.syms 8 2) := by
    rw [← decide_not]; simp only [Nat.not_lt]
  unfold copiesTaken at hc
  unfold broadcastPosition
  dsimp only
  rw [hc, hend, hcheck]
  simp [Nat.not_le.2 h, headerFault_beyond d false h, Nat.not_le.2 hr, h]

theorem broadcastPosition_endErased {d : Device} {pos : Nat} {x y : Pattern × Nat}
    (hc : d.copiesTaken pos x y = none) (hr : d.rx.run < 7) (he : d.endPosition pos) :
    d.broadcastPosition pos x y = d.takeBurst { d.rx with run := d.rx.run + 1, bad := true } false false := by
  have hend : (decide (11 < pos) && pos == 15 + symsAt d.rx.syms 8 2) = true := by
    simpa [endPosition] using he
  have hbody : ¬ pos < 12 + symsAt d.rx.syms 8 2 := by have := he.2; omega
  unfold copiesTaken at hc
  unfold broadcastPosition
  dsimp only
  rw [hc, hend]
  simp [Nat.not_le.2 he.1, headerFault_beyond d false he.1, Nat.not_le.2 hr, he.1, hbody]

end Device

/-! ### The rows (O18) -/

theorem exec_syncAFound {q : Nat} {s : State} (h : s.dev.resetLow = false) {X : Device} (hX : s.dev.findSync q = X) :
    exec (.syncAFound q) s = .next { s with dev := X.settle } :=
  exec_of_event (fun d => d.findSync q) rfl h hX

theorem exec_character {p : Pattern} {q : Nat} {s : State} (h : s.dev.resetLow = false) {X : Device}
    (hr : s.dev.reception = true) (hX : s.dev.takeCharacter p q = X) :
    exec (.characterReceived p q) s = .next { s with dev := X.settle } :=
  exec_of_event (fun d => if d.reception then d.takeCharacter p q else d) rfl h (by rw [if_pos hr, hX])

theorem reception_of {d : Device} (h : d.rx.st = .syncing ∨ d.rx.st = .linked ∨ d.rx.st = .broadcast) :
    d.reception = true := by
  simp [Device.reception, or_assoc, h]

theorem exec_character_syncing {p : Pattern} {q : Nat} {s : State} (h : s.dev.resetLow = false)
    (hs : s.dev.rx.st = .syncing) {X : Device} (hX : s.dev.atCharacter.syncingChar p q = X) :
    exec (.characterReceived p q) s = .next { s with dev := X.settle } :=
  exec_character h (reception_of (.inl hs)) ((Device.takeCharacter_syncing p q hs).trans hX)

theorem exec_character_linked {p : Pattern} {q : Nat} {s : State} (h : s.dev.resetLow = false)
    (hs : s.dev.rx.st = .linked) {X : Device} (hX : s.dev.atCharacter.linkedChar p q = X) :
    exec (.characterReceived p q) s = .next { s with dev := X.settle } :=
  exec_character h (reception_of (.inr (.inl hs))) ((Device.takeCharacter_linked p q hs).trans hX)

theorem exec_character_broadcast {p : Pattern} {q : Nat} {s : State} (h : s.dev.resetLow = false)
    (hs : s.dev.rx.st = .broadcast) {X : Device} (hX : s.dev.atCharacter.broadcastChar p q = X) :
    exec (.characterReceived p q) s = .next { s with dev := X.settle } :=
  exec_character h (reception_of (.inr (.inr hs))) ((Device.takeCharacter_broadcast p q hs).trans hX)

/-- Settles O18: each row in each state of the receive record, character by character, and the hand-on by kind. -/
theorem receptionSteps : Obligations.ReceptionSteps := by
  unfold Obligations.ReceptionSteps
  refine ⟨fun q s hlow => ⟨fun h hc => ?_, fun h => ?_⟩, fun p q s hlow hst hpos => ?_, ?_, ?_⟩
  · exact exec_syncAFound hlow (Device.findSync_hunting q h hc)
  · exact exec_syncAFound hlow (Device.findSync_ignored q h)
  · have hend : ¬(11 < s.dev.rx.count ∧ s.dev.rx.count = 15 + symsAt s.dev.rx.syms 8 2) := by omega
    refine ⟨fun hp => ?_, fun v hp hf hc => ?_⟩
    · exact exec_character_linked hlow hst (Device.linkedChar_mutilated (d := s.dev.atCharacter) q hend hp)
    · refine exec_character_linked hlow hst ((Device.linkedChar_symbol (d := s.dev.atCharacter) q hend hp).trans ?_)
      have hc' : ¬(11 < s.dev.rx.count ∧ s.dev.rx.count = 14 + symsAt s.dev.rx.syms 8 2 ∧
          Device.checkAgrees (s.dev.rx.syms ++ [v]) = false) := by
        rintro ⟨h1, h2, h3⟩
        rcases hc with h | h | h
        · omega
        · exact h h2
        · rw [h] at h3; cases h3
      exact (if_neg (Bool.eq_false_iff.1 hf)).trans (if_neg hc')
  · intro p q s hlow r now goes discards taken
    refine ⟨fun hst => ⟨?_, ?_, ?_, ?_⟩, fun hst => ⟨?_, ?_, ?_⟩, fun hst => ⟨?_, ?_, ?_⟩⟩
    · rintro rfl ht
      exact exec_character_syncing hlow hst (Device.syncingChar_syncB_second q ht)
    · rintro rfl ht
      exact exec_character_syncing hlow hst (Device.syncingChar_syncB_third q ht)
    · rintro rfl ht
      exact exec_character_syncing hlow hst (Device.syncingChar_idle q ht)
    · intro h1 h2
      exact exec_character_syncing hlow hst (Device.syncingChar_other q h1 h2)
    · intro v hp hc syms hf
      have hend : ¬(11 < r.count ∧ r.count = 15 + symsAt r.syms 8 2) := by omega
      refine exec_character_linked hlow hst ((Device.linkedChar_symbol (d := s.dev.atCharacter) q hend hp).trans ?_)
      exact if_pos ((Device.headerFault_linked _ _ _).2 hf)
    · intro v hp hc hlen hk
      have hend : ¬(11 < r.count ∧ r.count = 15 + symsAt r.syms 8 2) := by omega
      refine exec_character_linked hlow hst ((Device.linkedChar_symbol (d := s.dev.atCharacter) q hend hp).trans ?_)
      have hf := Device.headerFault_beyond s.dev.atCharacter true hc (r.syms ++ [v])
      have hno : Device.checkAgrees (r.syms ++ [v]) = false := beq_eq_false_iff_ne.2 hk
      exact (if_neg (Bool.eq_false_iff.1 hf)).trans (if_pos ⟨hc, hlen, hno⟩)
    · intro hc hlen
      refine ⟨?_, fun hp => ?_⟩
      · rintro rfl
        exact exec_character_linked hlow hst (Device.linkedChar_end (d := s.dev.atCharacter) q ⟨hc, hlen⟩)
      · exact exec_character_linked hlow hst (Device.linkedChar_noEnd (d := s.dev.atCharacter) q ⟨hc, hlen⟩ hp)
    · intro h
      exact exec_character_broadcast hlow hst (Device.broadcastChar_first (d := s.dev.atCharacter) p q h)
    · intro h hk
      exact exec_character_broadcast hlow hst (Device.broadcastChar_unexamined (d := s.dev.atCharacter) p q h hk)
    · intro x rest hodd hk hfirsts pos len atEnd good chosen next
      have hrun : ∀ {X : Device}, (s.dev.atRepeat rest).broadcastPosition pos x (p, q) = X →
          exec (.characterReceived p q) s = .next { s with dev := X.settle } := fun hX =>
        exec_character_broadcast hlow hst
          ((Device.broadcastChar_repeat (d := s.dev.atCharacter) p q hodd hk hfirsts).trans hX)
      have hchosen : (s.dev.atRepeat rest).copiesTaken pos x (p, q) = chosen :=
        Device.combine_eq (fun y => Device.goodCopy_iff Iff.rfl y) x (p, q)
      refine ⟨fun y k v hc hv he => ?_, fun hc hpos => ?_, fun hc hpos hr => ?_, fun hc hpos hr he => ?_,
        fun y k hc he => ?_, fun hc he hr => ?_⟩
      · have hpos := Device.broadcastPosition_symbol (d := s.dev.atRepeat rest) he (hchosen.trans hc) hv
        refine ⟨fun hf => hrun (hpos.trans ?_), fun hf => hrun (hpos.trans ?_)⟩
        · exact if_pos ((Device.headerFault_broadcast _ _ _).2 hf)
        · exact if_neg fun z => hf ((Device.headerFault_broadcast _ _ _).1 z)
      · exact hrun (Device.broadcastPosition_erasedHeader (hchosen.trans hc) hpos)
      · exact hrun (Device.broadcastPosition_abandons (hchosen.trans hc) hpos hr)
      · exact hrun (Device.broadcastPosition_erasedSymbol (hchosen.trans hc) hpos hr he)
      · refine hrun ((Device.broadcastPosition_endTaken (d := s.dev.atRepeat rest) he (hchosen.trans hc)).trans ?_)
        rw [Device.broadcastPass_eq]
        rfl
      · exact hrun (Device.broadcastPosition_endErased (hchosen.trans hc) hr he)
  · intro d b h e
    refine ⟨fun hk => ?_, fun hk => ?_, fun hk => ?_, fun hk => ?_, fun hk => ?_, fun hk => ?_⟩
    · unfold Device.handOn; rw [hk]
    · unfold Device.handOn; rw [hk]
    · unfold Device.handOn; rw [hk]
    · unfold Device.handOn; rw [hk]
    · unfold Device.handOn; rw [hk]
    · unfold Device.handOn; rcases hk with hk | hk | hk | hk <;> rw [hk]

end Sys2Proof.Machine
end

section
/-! PROOF. The choice of contenders, the arbiter and the keying of an item (O22). -/

namespace Sys2Proof.Machine

theorem isOwn_iff (k : BurstKind) : k.isOwn = true ↔ k = .distress ∨ k = .cancel := by
  cases k <;> decide

/-! ### The item chosen (R23) -/

namespace ClassQueue

/-- The order of R23, written out: own items first, then the older ready time, the lower kind value, the earlier offer. -/
theorem before_iff (x y : Item) : before x y = true ↔
    x.kind.isOwn = true ∧ ¬y.kind.isOwn = true ∨ (x.kind.isOwn = true ↔ y.kind.isOwn = true) ∧
      (x.ready < y.ready ∨ x.ready = y.ready ∧
        (x.kind.value < y.kind.value ∨ x.kind.value = y.kind.value ∧ x.order < y.order)) := by
  unfold before
  split
  case isTrue h => cases hx : x.kind.isOwn <;> cases hy : y.kind.isOwn <;> simp_all
  case isFalse h =>
    have ho : x.kind.isOwn = y.kind.isOwn := by simpa using h
    rw [ho]
    split
    case isTrue hr => have := bne_iff_ne.1 hr; simp [this]
    case isFalse hr =>
      have hr : x.ready = y.ready := by simpa using hr
      split
      case isTrue hv => have := bne_iff_ne.1 hv; simp [hr, this]
      case isFalse hv =>
        have hv : x.kind.value = y.kind.value := by simpa using hv
        simp [hr, hv]

/-- The order by three numbers in turn is asymmetric. -/
theorem not_lex_swap {a b c a' b' c' : Nat} (h : a < a' ∨ a = a' ∧ (b < b' ∨ b = b' ∧ c < c')) :
    ¬(a' < a ∨ a' = a ∧ (b' < b ∨ b' = b ∧ c' < c)) := by
  omega

theorem before_irrefl (x : Item) : before x x = false := by simp [before]

theorem before_asymm {x y : Item} (h : before x y = true) : before y x = false := by
  rw [Bool.eq_false_iff]
  intro h'
  rw [before_iff] at h h'
  generalize x.kind.isOwn = a, y.kind.isOwn = b at h h'
  rcases h with ⟨ha, hb⟩ | ⟨hab, h⟩
  · rcases h' with ⟨hb', -⟩ | ⟨hab, -⟩
    · exact hb hb'
    · exact hb (hab.2 ha)
  · rcases h' with ⟨hb, ha⟩ | ⟨-, h'⟩
    · exact ha (hab.2 hb)
    · exact not_lex_swap h h'

/-- The item that stands before every other one of a class is the one chosen (R23). -/
theorem next?_eq_some {l : List Item} {it : Item} (hm : it ∈ l) (hb : ∀ y ∈ l, y = it ∨ before it y = true) :
    next? l = some it := by
  induction l with
  | nil => cases hm
  | cons x r ih =>
    have hr := fun y hy => hb y (List.mem_cons_of_mem x hy)
    unfold next?
    by_cases hi : it ∈ r
    · rw [ih hi hr]
      dsimp only
      rcases hb x List.mem_cons_self with rfl | hx
      · rw [before_irrefl]; rfl
      · rw [hx]; rfl
    · obtain rfl : it = x := (List.mem_cons.1 hm).resolve_right hi
      cases hn : next? r with
      | none => rfl
      | some y =>
        have hy := Device.next_mem r y hn
        rcases hr y hy with rfl | hlt
        · exact absurd hy hi
        · dsimp only
          rw [before_asymm hlt]; rfl

end ClassQueue

namespace Device

theorem selectContender_empty {d : Device} {c : AccessClass} (h : (d.access.queue c).waiting = []) :
    d.selectContender c = d := by
  unfold selectContender
  simp only [h, ClassQueue.next?]

theorem selectContender_free {d : Device} {c : AccessClass} {it : Item}
    (h : ClassQueue.next? (d.access.queue c).waiting = some it) (hc : (d.access.queue c).contender = none) :
    d.selectContender c = d.makeContender c it := by
  unfold selectContender
  simp only [h, hc]

/-- An own DISTRESS or CANCEL takes the place of another contender (R23). -/
theorem selectContender_displaces {d : Device} {c : AccessClass} {it : Item} {k : Contender}
    (h : ClassQueue.next? (d.access.queue c).waiting = some it) (hc : (d.access.queue c).contender = some k)
    (hi : it.kind.isOwn = true) (hk : k.item.kind.isOwn = false) :
    d.selectContender c = makeContender { d with access := d.access.onQueue c fun q =>
      { waiting := q.waiting ++ [k.item], contender := none } } c it := by
  unfold selectContender
  simp only [h, hc, hi, hk, and_self, if_true]
  rfl

theorem selectContender_keeps {d : Device} {c : AccessClass} {it : Item} {k : Contender}
    (h : ClassQueue.next? (d.access.queue c).waiting = some it) (hc : (d.access.queue c).contender = some k)
    (hi : ¬(it.kind.isOwn = true ∧ k.item.kind.isOwn = false)) : d.selectContender c = d := by
  unfold selectContender
  simp only [h, hc]
  exact if_neg hi

/-! ### Due contenders and the arbiter (R22, R26, R34) -/

theorem isBlindDue_iff (d : Device) : d.isBlindDue = true ↔ ∃ k, d.access.distress.contender = some k ∧
    d.access.chan = .busy ∧ (k.item.kind = .distress ∨ k.item.kind = .cancel) ∧ k.item.overdue = true := by
  unfold isBlindDue
  cases d.access.distress.contender with
  | none => simp
  | some k => simp [isOwn_iff, and_assoc]

theorem isDue_iff (d : Device) (c : AccessClass) : d.isDue c = true ↔ ∃ k, (d.access.queue c).contender = some k ∧
    d.access.chan = .clear ∧ k.eligible = true ∧ k.slotBase ≠ none ∧ k.counter = 0 := by
  unfold isDue
  cases (d.access.queue c).contender with
  | none => simp
  | some k => simp [and_assoc, Option.isSome_iff_ne_none]

/-- The classes in which no contender is due are passed over (R26). -/
theorem arbitrate_eq {d : Device} (hb : d.isBlindDue = false) : d.arbitrate =
    if d.isDue .answer then d.raiseKey .answer false else if d.isDue .distress then d.raiseKey .distress false
    else if d.isDue .priority then d.raiseKey .priority false
    else if d.isDue .routine then d.raiseKey .routine false else d := by
  unfold arbitrate
  simp only [hb, classOrder, List.find?]
  cases d.isDue .answer <;> cases d.isDue .distress <;> cases d.isDue .priority <;> cases d.isDue .routine <;> rfl

theorem arbitrate_blind {d : Device} (hb : d.isBlindDue = true) : d.arbitrate = d.raiseKey .distress true :=
  if_pos hb

theorem anyDue_iff (d : Device) : classOrder.any d.isDue = true ↔ ∃ c, d.isDue c = true := by
  rw [List.any_eq_true]
  refine ⟨fun ⟨c, _, h⟩ => ⟨c, h⟩, fun ⟨c, h⟩ => ⟨c, ?_, h⟩⟩
  cases c <;> decide

theorem arbiterInstant_due {d : Device} (h : ∃ c, d.isDue c = true) : d.arbiterInstant = d.countSlots :=
  if_pos ((anyDue_iff d).2 h)

theorem arbiterInstant_none {d : Device} (h : ∀ c, d.isDue c = false) : d.arbiterInstant = d := by
  refine if_neg fun hd => ?_
  obtain ⟨c, hc⟩ := (anyDue_iff d).1 hd
  rw [h c] at hc
  cases hc

theorem eligibleItem_iff (d : Device) (it : Item) : d.eligibleItem it = true ↔
    (d.holdInForce = false ∨ it.kind.cls = .distress) ∧
    (d.inhibit = false ∨ it.kind = .distress ∨ it.kind = .cancel) := by
  simp [eligibleItem, isOwn_iff]

/-! ### Contenders and their slots (R21, R22, R25) -/

/-- The contender that an item becomes, with `n` drawn for its counter. -/
def placed (d : Device) (c : AccessClass) (it : Item) (n draws : Nat) : Device :=
  { d with draws := draws, access := d.access.onQueue c fun q => {
      waiting := q.waiting.filter fun x => x.order != it.order,
      contender := some { item := it, counter := n, since := d.now, eligible := d.eligibleItem it,
                          slotBase := if d.eligibleItem it then d.slotStartNow c else none } } }

theorem makeContender_undrawn {d : Device} {c : AccessClass} {it : Item} (h : backoffMax it.kind it.cw = 0) :
    d.makeContender c it = d.placed c it 0 d.draws := by
  unfold makeContender
  rw [h]
  rfl

theorem makeContender_drawn {d : Device} {c : AccessClass} {it : Item} (h : 0 < backoffMax it.kind it.cw) :
    d.makeContender c it =
      d.placed c it (Config.draw d.draws % (backoffMax it.kind it.cw + 1)) (d.draws + 1) := by
  unfold makeContender
  dsimp only
  rw [if_neg (Nat.ne_of_gt h)]
  simp only [draw, Nat.zero_add, Nat.sub_zero]
  rfl

theorem refresh_contender {d : Device} {c : AccessClass} {k : Contender} (h : (d.access.queue c).contender = some k) :
    (d.refreshEligible.access.queue c).contender = some (d.refreshOne c k) := by
  rw [refresh_queue, h]; rfl

theorem count_contender {d : Device} {c : AccessClass} {k : Contender} (h : (d.access.queue c).contender = some k) :
    (d.countSlots.access.queue c).contender = some (d.countOne c k) := by
  rw [count_queue, h]; rfl

/-- Slots do not count for an ineligible contender, nor outside a clear spell (R22). -/
theorem countOne_stopped {d : Device} {c : AccessClass} {k : Contender}
    (h : k.eligible = false ∨ d.access.clearSince = none) : d.countOne c k = k := by
  unfold countOne
  split
  case isTrue he =>
    have hn : d.access.clearSince = none := h.resolve_left (by rw [he]; decide)
    rw [hn]
  case isFalse => rfl

theorem countOne_inGap {d : Device} {c : AccessClass} {k : Contender} {t : Time} (he : k.eligible = true)
    (ht : d.access.clearSince = some t) (hb : k.slotBase = none) (hg : d.now < t + gapOf c) : d.countOne c k = k := by
  unfold countOne
  simp only [he, ht, hb, if_true]
  rw [if_neg (Nat.not_le.2 hg)]

/-- The slots of 250 ms that have passed since `b` are counted (R22). -/
theorem countOne_counts {d : Device} {c : AccessClass} {k : Contender} {t b : Time} (he : k.eligible = true)
    (ht : d.access.clearSince = some t)
    (hb : k.slotBase = some b ∨ k.slotBase = none ∧ t + gapOf c ≤ d.now ∧ b = max (t + gapOf c) k.since) :
    d.countOne c k = { k with
      counter := k.counter - min k.counter ((d.now - b) / 250),
      slotBase := some (b + 250 * min k.counter ((d.now - b) / 250)) } := by
  unfold countOne
  rcases hb with hb | ⟨hb, hg, rfl⟩
  · simp only [he, ht, hb, if_true, Nat.mul_comm 250]
  · simp only [he, ht, hb, if_true, if_pos hg, Nat.mul_comm 250]

/-- The second part differs from the first in the queues of the classes at most. -/
def queuesOnly (d e : Device) : Prop := e = { d with access := { d.access with
  answer := e.access.answer, distress := e.access.distress, priority := e.access.priority,
  routine := e.access.routine } }

theorem queuesOnly.trans {d e f : Device} (h : queuesOnly d e) (g : queuesOnly e f) : queuesOnly d f := by
  unfold queuesOnly at *; rw [g, h]

theorem onQueue_queuesOnly (d : Device) (c : AccessClass) (f : ClassQueue → ClassQueue) :
    queuesOnly d (d.onAccess fun a => a.onQueue c f) := by
  cases c <;> rfl

theorem foldl_queuesOnly {α : Type} (f : Device → α → Device) (h : ∀ d x, queuesOnly d (f d x)) (l : List α)
    (d : Device) : queuesOnly d (l.foldl f d) := by
  induction l generalizing d with
  | nil => rfl
  | cons x r ih => exact (h d x).trans (ih _)

theorem refreshEligible_queuesOnly (d : Device) : queuesOnly d d.refreshEligible :=
  foldl_queuesOnly _ (fun _ _ => onQueue_queuesOnly _ _ _) _ _

theorem countSlots_queuesOnly (d : Device) : queuesOnly d d.countSlots :=
  foldl_queuesOnly _ (fun _ _ => onQueue_queuesOnly _ _ _) _ _

/-- Eligibility and slot counting change the classes' contenders alone. -/
theorem refresh_or_count_keeps {d f : Device} (c : AccessClass) (hf : f = d.refreshEligible ∨ f = d.countSlots) :
    queuesOnly d f ∧ (f.access.queue c).waiting = (d.access.queue c).waiting ∧
    ((d.access.queue c).contender = none → (f.access.queue c).contender = none) := by
  rcases hf with rfl | rfl
  · exact ⟨refreshEligible_queuesOnly d, by rw [refresh_queue], fun h => by rw [refresh_queue, h]; rfl⟩
  · exact ⟨countSlots_queuesOnly d, by rw [count_queue], fun h => by rw [count_queue, h]; rfl⟩

/-! ### Keying (R8, R11, R17, R27, R38) -/

/-- The part with an item of class `c` keyed, before the item's owner is told. -/
def keyed (d : Device) (c : AccessClass) (it : Item) (blind : Bool) : Device := { d with
  rx := Rx.blank .closed,
  rxCounts := if d.rx.st = .linked ∨ d.rx.st = .broadcast
    then { d.rxCounts with abandoned := bump d.rxCounts.abandoned } else d.rxCounts,
  tx := some (d.txFor it),
  access := Access.onQueue { d.access with
    onAir := some ⟨it, d.now, 0⟩, chan := .own, clearSince := none, debounced := false, keyTime := 0,
    notClearSince := if d.access.chan = .clear then some d.now else d.access.notClearSince,
    answer := d.access.answer.freeze, distress := d.access.distress.freeze,
    priority := d.access.priority.freeze, routine := d.access.routine.freeze,
    counts := { d.access.counts with
      keyings := bump d.access.counts.keyings,
      blindSends := if blind then bump d.access.counts.blindSends else d.access.counts.blindSends } }
    c fun q => { q with contender := none } }

/-- The receive record closes at key raised, and a reception of a burst is abandoned and counted (R11, R17). -/
theorem closeRx_eq (d : Device) : d.closeRx = { d with
    rx := Rx.blank .closed,
    rxCounts := if d.rx.st = .linked ∨ d.rx.st = .broadcast
      then { d.rxCounts with abandoned := bump d.rxCounts.abandoned } else d.rxCounts } := by
  unfold closeRx
  cases d.rx.st <;> rfl

theorem keyItem_eq (d : Device) (c : AccessClass) (it : Item) (blind : Bool) :
    d.keyItem c it blind = (d.keyed c it blind).burstKeyed it := by
  unfold keyItem
  dsimp only
  rw [closeRx_eq]
  cases c <;> rfl

theorem raiseKey_eq {d : Device} {c : AccessClass} {k : Contender} (blind : Bool)
    (h : (d.access.queue c).contender = some k) :
    d.raiseKey c blind = (d.keyed c k.item blind).burstKeyed k.item := by
  unfold raiseKey
  rw [h]
  exact keyItem_eq d c k.item blind

theorem keyed_contender (d : Device) (c : AccessClass) (it : Item) (blind : Bool) :
    ((d.keyed c it blind).access.queue c).contender = none := by
  cases c <;> rfl

/-- What the owner does when its item is on air leaves the Modem, the key and the channel as they are, and makes no
item a contender. -/
def ownerOnly (d e : Device) : Prop :=
  e.rx = d.rx ∧ e.tx = d.tx ∧ e.now = d.now ∧ ∃ q : ClassQueue,
    e.access = { d.access with distress := q } ∧ (d.access.distress.contender = none → q.contender = none)

theorem enterSettled_ownerOnly (d : Device) (st alert : Nat) : ownerOnly d (d.enterSettled st alert) := by
  unfold enterSettled
  dsimp only
  split
  · exact ⟨rfl, rfl, rfl, _, rfl, id⟩
  · split
    · exact ⟨rfl, rfl, rfl, _, rfl, fun h => by simp [ClassQueue.withdraw, h]⟩
    · exact ⟨rfl, rfl, rfl, _, rfl, id⟩

theorem burstKeyed_ownerOnly (d : Device) (it : Item) : ownerOnly d (d.burstKeyed it) := by
  unfold burstKeyed
  split
  · exact ⟨rfl, rfl, rfl, _, rfl, id⟩
  · exact enterSettled_ownerOnly _ _ _
  · exact ⟨rfl, rfl, rfl, _, rfl, id⟩

/-- A class's contender stays none whatever the owner does. -/
theorem ownerOnly.contender {d e : Device} (h : ownerOnly d e) (c : AccessClass)
    (hc : (d.access.queue c).contender = none) : (e.access.queue c).contender = none := by
  obtain ⟨-, -, -, q, ha, hq⟩ := h
  rw [ha]
  cases c
  case distress => exact hq hc
  all_goals exact hc

/-- The facts of the keying that no owner changes (R27, R38). -/
theorem raiseKey_facts {d : Device} {c : AccessClass} {k : Contender} (blind : Bool)
    (h : (d.access.queue c).contender = some k) :
    (d.raiseKey c blind).keyLine = true ∧ (d.raiseKey c blind).access.chan = .own ∧
    (d.raiseKey c blind).keyTime = 0 ∧ (d.raiseKey c blind).rx.st = .closed ∧
    (d.raiseKey c blind).access.debounced = false ∧
    (d.raiseKey c blind).tx = some (d.txFor k.item) ∧
    (d.raiseKey c blind).access.onAir = some ⟨k.item, d.now, 0⟩ ∧
    ((d.raiseKey c blind).access.queue c).contender = none ∧
    (d.raiseKey c blind).access.counts.keyings = bump d.access.counts.keyings := by
  rw [raiseKey_eq blind h]
  have ho := burstKeyed_ownerOnly (d.keyed c k.item blind) k.item
  have hcont := ho.contender c (keyed_contender d c k.item blind)
  obtain ⟨hrx, htx, hnow, q, ha, -⟩ := ho
  generalize (d.keyed c k.item blind).burstKeyed k.item = e at *
  have hair : e.access.onAir = some ⟨k.item, d.now, 0⟩ := by rw [ha]; cases c <;> rfl
  refine ⟨?_, ?_, ?_, ?_, ?_, htx, hair, hcont, ?_⟩
  · rw [keyLine, hair]; rfl
  · rw [ha]; cases c <;> rfl
  · rw [keyTime, hair, hnow]; exact Nat.sub_self _
  · rw [hrx]; rfl
  · rw [ha]; cases c <;> rfl
  · rw [ha]; cases c <;> rfl

theorem burstKeyed_slot {d : Device} {it : Item} {i : Nat} (ho : it.owner = .slot i) (hi : i < d.xfer.slots.length) :
    d.burstKeyed it = { d with xfer := { d.xfer with slots := d.xfer.slots.set i { d.slot i with onAir := true } } } := by
  unfold burstKeyed
  rw [ho]
  exact onSlot_set d i _ hi

theorem burstKeyed_caseRelay {d : Device} {it : Item} {st alert : Nat} (ho : it.owner = .caseRelay st alert) :
    d.burstKeyed it = (enterSettled { d with distress := { d.distress with
      cases := d.distress.cases.map fun x =>
        if x.station = st then (if x.alert = alert then { x with relay := .relayed } else x) else x } } st alert
      ).onDistressCounts fun c => { c with relaysSent := bump c.relaysSent } := by
  unfold burstKeyed
  rw [ho]
  dsimp only [caseRelayKeyed]
  rw [onCase_map]

theorem burstKeyed_other {d : Device} {it : Item} (hs : ∀ i, it.owner ≠ .slot i)
    (hr : ∀ st alert, it.owner ≠ .caseRelay st alert) : d.burstKeyed it = d := by
  unfold burstKeyed
  cases ho : it.owner with
  | slot i => exact absurd ho (hs i)
  | caseRelay st alert => exact absurd ho (hr st alert)
  | _ => rfl

end Device

/-- Settles O22: the arbiter's choice, the item chosen in a class, its contender's slots, and its keying. -/
theorem arbiterKeys : Obligations.ArbiterKeys := by
  unfold Obligations.ArbiterKeys
  refine ⟨⟨fun d hb => ?_, fun d c k blind h => Device.raiseKey_facts blind h⟩, fun d => Device.arbitrate_blind,
    fun d => ⟨d.isBlindDue_iff, d.isDue_iff, rfl, Device.arbiterInstant_due, Device.arbiterInstant_none⟩, ?_,
    Device.eligibleItem_iff, ?_, ?_⟩
  · rw [Device.arbitrate_eq hb]
    refine ⟨fun h => ?_, fun h1 h2 => ?_, fun h1 h2 h3 => ?_, fun h1 h2 h3 h4 => ?_, fun h => ?_⟩ <;> simp [*]
  · intro d c it own precedes waiting chosen
    have hchosen : chosen → ClassQueue.next? waiting = some it := fun ⟨hm, hb⟩ =>
      ClassQueue.next?_eq_some hm fun y hy => (hb y hy).imp_right fun h =>
        (ClassQueue.before_iff it y).2 (by simpa only [isOwn_iff] using h)
    refine ⟨Device.selectContender_empty, fun h hc => Device.selectContender_free (hchosen h) hc,
      fun k h hc => ⟨fun hi hk => ?_, fun hn => ?_⟩⟩
    · exact Device.selectContender_displaces (hchosen h) hc ((isOwn_iff _).2 hi)
        (Bool.eq_false_iff.2 fun z => hk ((isOwn_iff _).1 z))
    · refine Device.selectContender_keeps (hchosen h) hc fun ⟨hi, hk⟩ => ?_
      rcases hn with hn | hn
      · exact hn ((isOwn_iff _).1 hi)
      · exact absurd ((isOwn_iff _).2 hn) (by rw [hk]; decide)
  · intro d c it gap start top e placed
    have hgap : gap = gapOf c := by cases c <;> rfl
    have hstart : start = d.slotStartNow c := by cases c <;> rfl
    have htop : top = backoffMax it.kind it.cw := by
      unfold backoffMax; cases hk : it.kind <;> simp only [top, hk]
    have hplaced : placed = d.placed c it := by
      funext n draws; unfold Device.placed; rw [← hstart]
    rw [hplaced]
    refine ⟨fun h => Device.makeContender_undrawn (htop ▸ h), fun h => ?_, fun k hk => ⟨?_, fun h => ?_, fun t he ht =>
      ⟨fun hb hg => ?_, fun b hb => ?_⟩⟩, fun f hf => Device.refresh_or_count_keeps c hf⟩
    · rw [htop] at h ⊢
      exact Device.makeContender_drawn h
    · rw [Device.refresh_contender hk, hstart]; rfl
    · rw [Device.count_contender hk, Device.countOne_stopped h]
    · rw [Device.count_contender hk, Device.countOne_inGap he ht hb (hgap ▸ hg)]
    · rw [Device.count_contender hk, Device.countOne_counts he ht (hgap ▸ hb)]
  · intro d c k blind h e frozen keyed
    have he : e = (d.keyed c k.item blind).burstKeyed k.item := Device.raiseKey_eq blind h
    have hkeyed : keyed = d.keyed c k.item blind := rfl
    rw [he, hkeyed]
    exact ⟨fun i ho hi => Device.burstKeyed_slot ho hi, fun st alert ho => Device.burstKeyed_caseRelay ho,
      Device.burstKeyed_other⟩

end Sys2Proof.Machine
end

section
/-! PROOF. The burst on air and what its owner does at its end (O23). -/

namespace Sys2Proof.Machine
namespace Device

/-! ### The settle time and the end of the burst (R8, R28) -/

theorem settleEnds_of {d : Device} {x : Tx} (h : d.tx = some x) (hp : x.passing = false) :
    d.settleEnds = { d with now := max d.now x.startAt, tx := some { x with passing := true } } := by
  unfold settleEnds
  rw [h]
  dsimp only
  rw [if_neg (by rw [hp]; decide)]
  rfl

theorem burstEnds_of {d : Device} {a : OnAir} {x : Tx} (ha : d.access.onAir = some a) (hx : d.tx = some x) :
    d.burstEnds = ((d.reach (x.startAt + x.duration)).dropKey false).burstSent a.item := by
  unfold burstEnds
  simp only [ha, hx]

/-- What the key drop at the end of a burst leaves as it is, and the key-time count it stops at (R28). -/
theorem dropKey_frame (d : Device) (limit : Bool) :
    (∀ c, (d.dropKey limit).access.queue c = d.access.queue c) ∧ (d.dropKey limit).store = d.store ∧
    (d.dropKey limit).xfer = d.xfer ∧ (d.dropKey limit).distress = d.distress ∧ (d.dropKey limit).log = d.log ∧
    (d.dropKey limit).neigh = d.neigh ∧ (d.dropKey limit).keyTime = d.keyTime := by
  obtain ⟨_, _, _, _, _, h⟩ := dropKey_eq d limit
  rw [h]
  exact ⟨fun c => by cases c <;> rfl, rfl, rfl, rfl, rfl, rfl, rfl⟩

/-! ### DATA, beacons and warnings (R85, R101, R145) -/

theorem dataSent_unmarked {d : Device} {i : Nat} (h : (d.slot i).onAir = false) : d.dataSent i =
    { d with xfer := { d.xfer with counts := { d.xfer.counts with dataSent := bump d.xfer.counts.dataSent } } } := by
  unfold dataSent
  dsimp only
  exact if_neg (show ¬(d.slot i).onAir = true by rw [h]; decide)

theorem dataSent_awaits {d : Device} {i : Nat} (h : (d.slot i).onAir = true) (hh : d.holdInForce = false) :
    d.dataSent i = { d with xfer := { d.xfer with
      counts := { d.xfer.counts with dataSent := bump d.xfer.counts.dataSent },
      slots := modAt d.xfer.slots i fun x =>
        { x with st := .awaitingAck, onAir := false, ackDue := some (d.now + 3200), ackWaiting := false } } } := by
  unfold dataSent
  dsimp only
  refine (if_pos (show (d.slot i).onAir = true from h)).trans (if_neg ?_)
  exact show ¬d.holdInForce = true by rw [hh]; decide

theorem dataSent_held {d : Device} {i : Nat} (h : (d.slot i).onAir = true) (hh : d.holdInForce = true) :
    d.dataSent i = goHeld { d with xfer := { d.xfer with
      counts := { d.xfer.counts with dataSent := bump d.xfer.counts.dataSent } } } i .awaitingAck := by
  unfold dataSent
  dsimp only
  exact (if_pos (show (d.slot i).onAir = true from h)).trans (if_pos (show d.holdInForce = true from hh))

theorem orPending_none {d : Device} {i : Nat} (h : (d.slot i).pendingEnd = none) (k : Device → Device) :
    d.orPending i k = k d := by
  unfold orPending; rw [h]

theorem goHeld_pending {d : Device} {i : Nat} {o : Outcome} (from' : SlotState)
    (h : (d.slot i).pendingEnd = some o) : d.goHeld i from' = d.endTransfer i o := by
  unfold goHeld orPending
  simp only [h]

/-- A slot without a pending ending goes to HELD (R101). -/
theorem goHeld_slot {d : Device} {i : Nat} (from' : SlotState) (hi : i < d.xfer.slots.length)
    (h : (d.slot i).pendingEnd = none) :
    (d.goHeld i from').slot i = { d.slot i with
      st := .held, heldFrom := from', onAir := false, ackDue := none, ackWaiting := false,
      heldRefusal := (match (d.slot i).refusalEnd with | none => 0 | some t => t - d.now), refusalEnd := none } ∧
    (∀ j, j ≠ i → (d.goHeld i from').slot j = d.slot j) ∧ (d.goHeld i from').access = d.access ∧
    (d.goHeld i from').store = d.store := by
  have he : d.goHeld i from' = d.onSlot i fun s => { s with
      st := .held, heldFrom := from', onAir := false, ackDue := none, ackWaiting := false,
      heldRefusal := (match s.refusalEnd with | none => 0 | some t => t - d.now), refusalEnd := none } := orPending_none h _
  rw [he]
  refine ⟨?_, fun j hj => ?_, rfl, rfl⟩
  · rw [slot_onSlot, if_pos ⟨rfl, hi⟩]
  · rw [slot_onSlot, if_neg fun z => hj z.1]

theorem warningSent_facts (d : Device) (issuer issue : Nat) :
    (d.warningSent issuer issue).weather.counts
      = { d.weather.counts with relaysSent := bump d.weather.counts.relaysSent } ∧
    ∀ w, d.warning? issuer issue = some w → w.relay = .offered →
      (d.warningSent issuer issue).warning? issuer issue = some { w with relay := .relayed } := by
  refine ⟨rfl, fun w hw ho => ?_⟩
  have hone := warning_onWarning d issuer issue
    (fun w => if w.relay = .offered then { w with relay := .relayed } else w)
    (fun x h1 h2 => by split <;> exact ⟨h1, h2⟩) issuer issue
  rw [if_pos ⟨rfl, rfl⟩, hw, Option.map_some, if_pos ho] at hone
  exact hone

/-! ### The hold timer at a distress-class burst of the part's own (R125) -/

/-- The hold timer started at the hold length. -/
def holdRestarted (d : Device) : DistressUnit :=
  { d.distress with holdTimer := some (d.now + d.config.hold * 60000) }

theorem restartHold_inForce {d : Device} (cause : Nat) (st : Station) (h : d.holdInForce = true) :
    d.restartHold cause st = { d with distress := d.holdRestarted } := by
  unfold restartHold
  dsimp only
  rw [if_pos h]
  rfl

theorem restartHold_starts {d : Device} (cause : Nat) (st : Station) (h : d.holdInForce = false) :
    d.restartHold cause st = startHold { d with distress := d.holdRestarted } cause st := by
  unfold restartHold
  dsimp only
  rw [if_neg (by rw [h]; decide)]
  rfl

theorem holdInForce_of_own {d : Device} (h : d.distress.own.st ≠ .idle) : d.holdInForce = true := by
  unfold holdInForce
  simp [h]

/-- The hold comes into force with the burst: its timer runs from the full length, and it counts from now (R125). -/
theorem restartHold_begins {d : Device} (cause : Nat) (st : Station) (h : d.holdInForce = false) :
    (d.restartHold cause st).distress.holdTimer = some (d.now + d.config.hold * 60000) ∧
    (d.restartHold cause st).distress.holdSince = some d.now := by
  rw [restartHold_starts cause st h]
  obtain ⟨-, -, -, -, -, -, -, hsince, htimer, -⟩ := startHold_keeps { d with distress := d.holdRestarted } cause st
  exact ⟨htimer, hsince⟩

/-! ### The part's own DISTRESS-ACK and DISTRESS-RELAY (R121, R124) -/

theorem enterSettled_hold (d : Device) (st alert : Nat) :
    (d.enterSettled st alert).distress.holdTimer = d.distress.holdTimer ∧
    (d.enterSettled st alert).distress.holdSince = d.distress.holdSince := by
  have h := enterSettled_steady d st alert
  exact ⟨congrArg Steady.holdTimer h, congrArg Steady.holdSince h⟩

theorem reportCase_eq (d : Device) (st : Station) (e : CaseEvent) :
    d.reportCase st e = { d with console := (d.reportCase st e).console } := by
  unfold reportCase
  split
  · rfl
  · exact report_eq _ _ _ _

theorem reportCase_told {d : Device} {st : Station} {c : Case} (e : CaseEvent) (hc : d.case? st = some c)
    (hm : OwedRef.caseOf st ∉ d.console.distress.owed) (hr : d.console.distress.entries.length < 8) :
    (d.reportCase st e).console.distress.entries
      = d.console.distress.entries ++ [⟨.caseUpdate, 0, .report (d.caseData c e), 0⟩] := by
  unfold reportCase
  rw [hc]
  dsimp only
  rw [report_distress_room _ _ _ _ rfl hr hm]

theorem holdsAlert_iff {d : Device} {st alert : Nat} : d.holdsAlert st alert = true ↔
    ∃ c, d.case? st = some c ∧ c.alert = alert := by
  unfold holdsAlert
  cases d.case? st <;> simp

theorem caseAckSent_inForce {d : Device} (st alert : Nat) (h : d.holdInForce = true) : d.caseAckSent st alert =
    enterSettled { d with distress := { d.holdRestarted with
      counts := { d.distress.counts with acksSent := bump d.distress.counts.acksSent },
      cases := d.distress.cases.map fun c =>
        if c.station = st then (if c.alert = alert then { c with ownAck := .sent } else c) else c } } st alert := by
  have h' : (d.onDistressCounts fun c => { c with acksSent := bump c.acksSent }).holdInForce = true := h
  unfold caseAckSent
  dsimp only
  rw [restartHold_inForce _ _ h', onCase_map]
  rfl

theorem caseAckSent_begins {d : Device} (st alert : Nat) (h : d.holdInForce = false) :
    (d.caseAckSent st alert).distress.holdTimer = some (d.now + d.config.hold * 60000) ∧
    (d.caseAckSent st alert).distress.holdSince = some d.now := by
  have h' : (d.onDistressCounts fun c => { c with acksSent := bump c.acksSent }).holdInForce = false := h
  have hb := restartHold_begins (Config.ownBurstHoldCause d.now % 5) st h'
  unfold caseAckSent
  dsimp only
  rw [(enterSettled_hold _ _ _).1, (enterSettled_hold _ _ _).2, onCase_map]
  exact hb

theorem caseRelaySent_eq (d : Device) (st alert : Nat) : d.caseRelaySent st alert =
    { d.restartHold (Config.ownBurstHoldCause d.now % 5) st with console := (d.caseRelaySent st alert).console } := by
  unfold caseRelaySent
  dsimp only
  split
  · exact reportCase_eq _ _ _
  · rfl

theorem caseRelaySent_begins {d : Device} (st alert : Nat) (h : d.holdInForce = false) :
    (d.caseRelaySent st alert).distress.holdTimer = some (d.now + d.config.hold * 60000) ∧
    (d.caseRelaySent st alert).distress.holdSince = some d.now := by
  rw [caseRelaySent_eq]
  exact restartHold_begins _ st h

/-- A relayed alert that its case still holds is reported RELAYED (R124). -/
theorem caseRelaySent_reports {d : Device} {st alert : Nat} {c : Case} (h : d.holdInForce = true)
    (hc : d.case? st = some c) (ha : c.alert = alert) (hm : OwedRef.caseOf st ∉ d.console.distress.owed)
    (hr : d.console.distress.entries.length < 8) :
    (d.caseRelaySent st alert).console.distress.entries
      = d.console.distress.entries ++ [⟨.caseUpdate, 0, .report (d.caseData c .relayed), 0⟩] := by
  have hc' : case? { d with distress := d.holdRestarted } st = some c := hc
  unfold caseRelaySent
  rw [restartHold_inForce _ _ h]
  dsimp only
  rw [if_pos (holdsAlert_iff.2 ⟨c, hc', ha⟩)]
  exact reportCase_told .relayed hc' hm hr

theorem caseRelaySent_silent {d : Device} {st alert : Nat} (h : d.holdInForce = true)
    (hc : ∀ c, d.case? st = some c → c.alert ≠ alert) : (d.caseRelaySent st alert).console = d.console := by
  unfold caseRelaySent
  rw [restartHold_inForce _ _ h]
  dsimp only
  rw [if_neg]
  intro hh
  obtain ⟨c, h1, h2⟩ := holdsAlert_iff.1 hh
  exact hc c h1 h2

/-! ### The own alert's bursts (R110, R113) -/

/-- The part with the hold timer restarted and its own alert changed to `o`. -/
def ownAfter (d : Device) (o : OwnAlert) : Device := { d with distress := { d.holdRestarted with own := o } }

/-- OWN ALERT STATE with room in its lane is queued last, and tells of the alert as it stands. -/
theorem reportOwn_told {d : Device} {o : OwnAlert} (event : OwnEvent)
    (hm : OwedRef.ownAlert ∉ d.console.distress.owed) (hr : d.console.distress.entries.length < 8) :
    ((d.ownAfter o).reportOwn event).console.distress.entries = d.console.distress.entries ++
      [⟨.ownAlertState, 0, .report (ownAlertData { d with distress := { d.distress with own := o } } event o.num
        (o.ackedBy.getD 0)), 0⟩] :=
  reportOwn_room (d.ownAfter o) event hr hm

theorem reportOwn_keeps (d : Device) (event : OwnEvent) : (d.reportOwn event).distress = d.distress ∧
    (d.reportOwn event).access = d.access ∧ (d.reportOwn event).now = d.now ∧
    (d.reportOwn event).console.fix = d.console.fix := by
  obtain ⟨he, hf⟩ := reportOwn_eq d event
  refine ⟨?_, ?_, ?_, hf⟩ <;> rw [he]

/-- An own distress request offers the item the record asks for, now, and keeps the alert and the hold timer (R107). -/
theorem offerOwn_offers (d : Device) :
    (∃ x ∈ d.offerOwn.access.distress.waiting, x.kind = d.ownKind ∧ x.owner = .own ∧ x.seq = d.distress.own.num ∧
      x.ready = d.now ∧ x.body = d.ownBody) ∧
    d.offerOwn.distress.holdTimer = d.distress.holdTimer ∧ d.offerOwn.distress.own.st = d.distress.own.st ∧
    d.offerOwn.distress.own.num = d.distress.own.num := by
  obtain ⟨e, he, hown, hfix, -, -, htimer, hnow, -⟩ := offerOwn_form d
  have hst : e.distress.own.st = d.distress.own.st := by rw [hown]
  have hnum : e.distress.own.num = d.distress.own.num := by rw [hown]
  have hkind : e.ownKind = d.ownKind := by unfold ownKind; rw [hst]
  have hbody : e.ownBody = d.ownBody := by unfold ownBody; rw [hown, hfix]
  rw [he, placeOwn_eq]
  exact ⟨⟨_, List.mem_append_right _ (List.mem_singleton.2 rfl), hkind, rfl, hnum, hnow, hbody⟩, htimer, hst, hnum⟩

/-- The part as its own DISTRESS burst is reported sent: no repeat is asked for any more. -/
def distressReported (d : Device) : Device :=
  (d.ownAfter { d.distress.own with repeatAsked := false }).reportOwn .sent

theorem distressReported_keeps (d : Device) :
    d.distressReported.distress = { d.holdRestarted with own := { d.distress.own with repeatAsked := false } } ∧
    d.distressReported.access = d.access ∧ d.distressReported.now = d.now ∧
    d.distressReported.console.fix = d.console.fix :=
  reportOwn_keeps _ _

theorem distressReported_eq {d : Device} (h : d.distress.own.st ≠ .idle) :
    ((d.onOwn fun o => { o with repeatAsked := false }).restartHold HoldCause.ownAlert.code d.config.own).reportOwn .sent
      = d.distressReported := by
  have hh : (d.onOwn fun o => { o with repeatAsked := false }).holdInForce = true := holdInForce_of_own h
  rw [restartHold_inForce _ _ hh]
  rfl

theorem distressReported_st (d : Device) : d.distressReported.distress.own.st = d.distress.own.st := by
  rw [d.distressReported_keeps.1]

/-- An alert still ALERTING is repeated after a drawn time (R110). -/
theorem ownDistressSent_alerting {d : Device} (h : d.distress.own.st = .alerting)
    (ha : d.distress.own.repeatAsked = false) :
    d.ownDistressSent = (d.distressReported.draw 0 30).2.onOwn fun o => { o with
      repeatDue := some (d.distressReported.now + 240000 + (d.distressReported.draw 0 30).1 * 1000) } := by
  have hrep := distressReported_eq (d := d) (by rw [h]; decide)
  have hst := d.distressReported_st.trans h
  unfold ownDistressSent
  dsimp only [onOwn, onDistress] at *
  rw [hrep, hst, ha]
  rfl

/-- A repeat asked for during the burst, and a CANCEL ordered during it, are requested now (R110, R113). -/
theorem ownDistressSent_requests {d : Device}
    (h : d.distress.own.st = .alerting ∧ d.distress.own.repeatAsked = true ∨ d.distress.own.st = .cancelling) :
    d.ownDistressSent = d.distressReported.offerOwn := by
  have hne : d.distress.own.st ≠ .idle := by rcases h with ⟨h, -⟩ | h <;> rw [h] <;> decide
  have hrep := distressReported_eq hne
  have hst := d.distressReported_st
  unfold ownDistressSent
  dsimp only [onOwn, onDistress] at *
  rw [hrep, hst]
  rcases h with ⟨h, ha⟩ | h
  · rw [h, ha]; rfl
  · rw [h]

theorem ownDistressSent_acknowledged {d : Device} (h : d.distress.own.st = .acknowledged) :
    d.ownDistressSent = d.distressReported := by
  have hrep := distressReported_eq (d := d) (by rw [h]; decide)
  have hst := d.distressReported_st.trans h
  unfold ownDistressSent
  dsimp only [onOwn, onDistress] at *
  rw [hrep, hst]

/-- The report of a DISTRESS burst sent, with room in its lane. -/
theorem distressReported_told {d : Device} (hm : OwedRef.ownAlert ∉ d.console.distress.owed)
    (hr : d.console.distress.entries.length < 8) :
    d.distressReported.console.distress.entries = d.console.distress.entries ++
      [⟨.ownAlertState, 0, .report (ownAlertData { d with distress := { d.distress with own := d.distress.own } } .sent
        d.distress.own.num (d.distress.own.ackedBy.getD 0)), 0⟩] :=
  reportOwn_told .sent hm hr

/-- Whatever follows, the hold timer runs from the full length, and the alert keeps its state and number. -/
theorem ownDistressSent_keeps {d : Device} (h : d.distress.own.st ≠ .idle) :
    d.ownDistressSent.distress.holdTimer = some (d.now + d.config.hold * 60000) ∧
    d.ownDistressSent.distress.own.st = d.distress.own.st ∧
    d.ownDistressSent.distress.own.num = d.distress.own.num := by
  have hrep : d.distressReported.distress.holdTimer = some (d.now + d.config.hold * 60000) ∧
      d.distressReported.distress.own.st = d.distress.own.st ∧
      d.distressReported.distress.own.num = d.distress.own.num := by
    rw [d.distressReported_keeps.1]
    exact ⟨rfl, rfl, rfl⟩
  have hoffer : d.distressReported.offerOwn.distress.holdTimer = some (d.now + d.config.hold * 60000) ∧
      d.distressReported.offerOwn.distress.own.st = d.distress.own.st ∧
      d.distressReported.offerOwn.distress.own.num = d.distress.own.num := by
    obtain ⟨-, htimer, hst, hnum⟩ := d.distressReported.offerOwn_offers
    rwa [htimer, hst, hnum]
  cases hs : d.distress.own.st with
  | idle => exact absurd hs h
  | alerting =>
    cases ha : d.distress.own.repeatAsked with
    | false => rw [ownDistressSent_alerting hs ha, ← hs]; exact hrep
    | true => rw [ownDistressSent_requests (.inl ⟨hs, ha⟩), ← hs]; exact hoffer
  | acknowledged => rw [ownDistressSent_acknowledged hs, ← hs]; exact hrep
  | cancelling => rw [ownDistressSent_requests (.inr hs), ← hs]; exact hoffer

/-- The item that a request at the end of a DISTRESS burst offers. -/
theorem ownDistressSent_offers {d : Device}
    (h : d.distress.own.st = .alerting ∧ d.distress.own.repeatAsked = true ∨ d.distress.own.st = .cancelling) :
    ∃ x ∈ d.ownDistressSent.access.distress.waiting, x.kind = d.ownKind ∧ x.owner = .own ∧
      x.seq = d.distress.own.num ∧ x.ready = d.now ∧ x.body = d.ownBody := by
  obtain ⟨hdist, -, hnow, hfix⟩ := d.distressReported_keeps
  obtain ⟨⟨x, hx, hkind, howner, hseq, hready, hbody⟩, -⟩ := d.distressReported.offerOwn_offers
  rw [ownDistressSent_requests h]
  refine ⟨x, hx, ?_, howner, ?_, hready.trans hnow, ?_⟩
  · rw [hkind, ownKind, hdist]; rfl
  · rw [hseq, hdist]
  · rw [hbody, ownBody, hdist, hfix]; rfl

/-- A first CANCEL has been sent: the second is due 60 s on (R113). -/
theorem ownCancelSent_first {d : Device} (h : d.distress.own.st = .cancelling) (hc : d.distress.own.cancelCount = 0) :
    d.ownCancelSent = (d.ownAfter { d.distress.own with
      cancelCount := 1, cancelDue := some (d.now + 60000) }).reportOwn .cancelSent := by
  have hh : d.holdInForce = true := holdInForce_of_own (by rw [h]; decide)
  unfold ownCancelSent
  rw [restartHold_inForce _ _ hh]
  simp only [onOwn, onDistress, holdRestarted, hc]
  rfl

/-- The second CANCEL has been sent: the alert is over (R113). -/
theorem ownCancelSent_second {d : Device} (h : d.distress.own.st = .cancelling) (hc : d.distress.own.cancelCount = 1) :
    d.ownCancelSent = ((d.ownAfter { d.distress.own with
      cancelCount := 2, st := .idle, cancelDue := none }).reportOwn .idle).cutIfQuiet := by
  have hh : d.holdInForce = true := holdInForce_of_own (by rw [h]; decide)
  unfold ownCancelSent
  rw [restartHold_inForce _ _ hh]
  simp only [onOwn, onDistress, holdRestarted, hc]
  rfl

/-- With the own alert over, the hold timer is cut to 60 s unless a case is open (R126). -/
theorem cutIfQuiet_idle {d : Device} (h : d.distress.own.st = .idle) : d.cutIfQuiet = { d with
    distress := { d.distress with holdTimer := if d.caseOpen = true then d.distress.holdTimer
      else d.distress.holdTimer.map fun t => min t (d.now + 60000) } } := by
  unfold cutIfQuiet
  cases hc : d.caseOpen
  · rw [if_pos ⟨h, rfl⟩]; rfl
  · rw [if_neg (fun z => by cases z.2)]; rfl

/-- The end of the second CANCEL: the alert is IDLE and reported, and the hold timer cut unless a case is open. -/
theorem ownCancelSent_over {d : Device} (h : d.distress.own.st = .cancelling) (hc : d.distress.own.cancelCount = 1) :
    d.ownCancelSent.distress = { d.holdRestarted with
      own := { d.distress.own with cancelCount := 2, st := .idle, cancelDue := none },
      holdTimer := if d.caseOpen = true then some (d.now + d.config.hold * 60000)
        else some (min (d.now + d.config.hold * 60000) (d.now + 60000)) } ∧
    d.ownCancelSent.access = d.access ∧
    d.ownCancelSent.console = ((d.ownAfter { d.distress.own with
      cancelCount := 2, st := .idle, cancelDue := none }).reportOwn .idle).console := by
  rw [ownCancelSent_second h hc]
  obtain ⟨hdist, hacc, hnow, -⟩ := reportOwn_keeps (d.ownAfter { d.distress.own with
    cancelCount := 2, st := .idle, cancelDue := none }) .idle
  generalize (d.ownAfter { d.distress.own with
    cancelCount := 2, st := .idle, cancelDue := none }).reportOwn .idle = e at *
  have hopen : e.caseOpen = d.caseOpen := by rw [caseOpen, hdist]; rfl
  rw [cutIfQuiet_idle (by rw [hdist]; rfl), hopen]
  refine ⟨?_, hacc, rfl⟩
  rw [hdist, hnow]
  rfl

end Device

/-! ### The rows and the owners (O23) -/

theorem exec_settleEnd {s : State} {x : Tx} (h : s.dev.resetLow = false) (hx : s.dev.tx = some x)
    (hp : x.passing = false) : exec .settleEnd s = .next { s with dev := Device.settle { s.dev with
      now := max s.dev.now x.startAt, tx := some { x with passing := true } } } :=
  exec_of_event Device.settleEnds rfl h (Device.settleEnds_of hx hp)

/-- BURST_END on air: the key drops, and then the owner is told (R8, R28). -/
theorem exec_burstEnd {s : State} {a : OnAir} {x : Tx} (h : s.dev.resetLow = false) (ha : s.dev.access.onAir = some a)
    (hx : s.dev.tx = some x) : exec .burstEnd s = .next { s with
      dev := (((s.dev.reach (x.startAt + x.duration)).dropKey false).burstSent a.item).settle } :=
  exec_of_event Device.burstEnds rfl h (Device.burstEnds_of ha hx)

theorem Device.keyTime_onAir {d : Device} {a : OnAir} (h : d.access.onAir = some a) :
    d.keyTime = d.now - a.keyedAt := by
  unfold Device.keyTime; rw [h]

theorem Device.burstSent_beacon {d : Device} {it : Item} (h : it.owner = .beacon) :
    (d.burstSent it).neigh.counts.beaconsSent = bump d.neigh.counts.beaconsSent := by
  unfold Device.burstSent; rw [h]; rfl

/-- Settles O23: the two rows, and the end of the burst owner by owner. -/
theorem burstOnAir : Obligations.BurstOnAir := by
  unfold Obligations.BurstOnAir
  refine ⟨fun x s h hx hp => exec_settleEnd h hx hp, fun a x s h ha hx => ?_, fun d it => ?_⟩
  · have hrow := exec_burstEnd h ha hx
    have hair := Device.keyTime_onAir (d := s.dev.reach (x.startAt + x.duration)) ha
    obtain ⟨hup, htx, hrx, hchan, hclear, hnow, hcounts, -, -, -, hmon⟩ :=
      Device.dropKey_keeps (s.dev.reach (x.startAt + x.duration)) false
    obtain ⟨hqueue, hstore, hxfer, hdist, hlog, hneigh, hkt⟩ :=
      Device.dropKey_frame (s.dev.reach (x.startAt + x.duration)) false
    refine ⟨_, hrow, hnow, ?_, htx, hrx, hchan, ?_, ?_, fun m => (hmon m).1, hcounts, hqueue, hstore, hxfer, hdist,
      hlog, fun ho => ?_⟩
    · rw [Device.keyLine, hup]; rfl
    · rw [hclear, hnow]
    · rw [hkt, hnow, hair]
    · rw [Device.burstSent_beacon ho, hneigh]; rfl
  · intro e timed counted told
    have he : e = d.burstSent it := rfl
    unfold Device.burstSent at he
    refine ⟨fun ho => ?_, fun i ho hi => ⟨fun hm => ?_, fun hm hh => ?_, fun hm hh hp => ?_, fun o hm hh hp => ?_⟩,
      fun issuer issue ho => ?_, fun ho hk hne => ?_, fun ho hk hst => ?_, fun st alert ho hh => ?_,
      fun st alert ho hh => ?_, fun st alert ho hh => ?_⟩
    · rw [he, ho]
    · rw [he, ho]; exact Device.dataSent_unmarked hm
    · rw [he, ho]; exact Device.dataSent_awaits hm hh
    · rw [he, ho]
      dsimp only
      rw [Device.dataSent_held hm hh]
      exact Device.goHeld_slot (d := { d with xfer := counted }) .awaitingAck hi hp
    · rw [he, ho]
      exact (Device.dataSent_held hm hh).trans (Device.goHeld_pending (d := { d with xfer := counted }) _ hp)
    · rw [he, ho]
      exact ⟨rfl, d.warningSent_facts issuer issue⟩
    · have he : e = d.ownDistressSent := by rw [he, ho, hk]; rfl
      obtain ⟨htimer, hst, hnum⟩ := Device.ownDistressSent_keeps hne
      obtain ⟨-, hacc, hnow, -⟩ := d.distressReported_keeps
      rw [he]
      refine ⟨htimer, hst, hnum, fun hs ha => ?_, fun hs ha => ?_, fun hs => ?_, fun hs => ?_⟩
      · have hsent := Device.ownDistressSent_alerting hs ha
        rw [hsent]
        refine ⟨⟨_, (d.distressReported.draw_range 0 30 (by decide)).2, ?_⟩, hacc, fun hm hr => ?_⟩
        · rw [← hnow]; rfl
        · rw [he, hsent]; exact Device.distressReported_told hm hr
      · obtain ⟨x, hx, hkind, hrest⟩ := Device.ownDistressSent_offers (.inl ⟨hs, ha⟩)
        exact ⟨x, hx, by rw [hkind, Device.ownKind, hs]; rfl, hrest⟩
      · have hsent := Device.ownDistressSent_acknowledged hs
        rw [hsent]
        refine ⟨by rw [d.distressReported_keeps.1], hacc, fun hm hr => ?_⟩
        rw [he, hsent]; exact Device.distressReported_told hm hr
      · obtain ⟨x, hx, hkind, howner, hseq, hready, hbody⟩ := Device.ownDistressSent_offers (.inr hs)
        exact ⟨x, hx, by rw [hkind, Device.ownKind, hs]; rfl, howner, hseq, hready,
          by rw [hbody, Device.ownBody, hs]; rfl⟩
    · have he : e = d.ownCancelSent := by rw [he, ho, hk]; rfl
      refine ⟨fun hc => ?_, fun hc => ?_⟩
      · have hsent := Device.ownCancelSent_first hst hc
        rw [he.trans hsent]
        obtain ⟨hdist, hacc, -⟩ := Device.reportOwn_keeps (d.ownAfter _) .cancelSent
        refine ⟨hdist, hacc, fun hm hr => ?_⟩
        rw [he.trans hsent]; exact Device.reportOwn_told .cancelSent hm hr
      · obtain ⟨hdist, hacc, hcon⟩ := Device.ownCancelSent_over hst hc
        rw [← he] at hdist hacc hcon
        exact ⟨hdist, hacc, fun hm hr => by rw [hcon]; exact Device.reportOwn_told .idle hm hr⟩
    · rw [he, ho]; exact Device.caseAckSent_inForce st alert hh
    · rw [he, ho]
      refine ⟨?_, fun c hc ha hm hr => Device.caseRelaySent_reports hh hc ha hm hr, Device.caseRelaySent_silent hh⟩
      have := d.caseRelaySent_eq st alert
      rwa [Device.restartHold_inForce _ _ hh] at this
    · rcases ho with ho | ho <;> rw [he, ho]
      · exact Device.caseAckSent_begins st alert hh
      · exact Device.caseRelaySent_begins st alert hh

end Sys2Proof.Machine
end

section
/-! PROOF. What a hard reset leaves (O7), gaps and backoff (O19, O21), and the access limits (O25). -/

namespace Sys2Proof.Machine

/-! ### The reset line (R37, R48, R58, R79, R107, R148, R173, R203) -/

theorem getD_replicate_free (i : Nat) : (List.replicate 8 Slot.free).getD i Slot.free = Slot.free := by
  rw [List.getD_eq_getElem?_getD, List.getElem?_replicate]
  split <;> rfl

theorem slot_afterReset (draws i : Nat) : ((Device.afterReset draws).slot i) = Slot.free :=
  getD_replicate_free i

/-- Settles O7: the reset state, field by field, and the part held in reset beside it. -/
theorem resetLine : Obligations.ResetLine := by
  unfold Obligations.ResetLine
  refine ⟨fun s => ⟨Device.afterReset s.dev.draws, rfl, ?_⟩, fun s => ⟨rfl, rfl, rfl, rfl, rfl, rfl⟩⟩
  refine ⟨rfl, rfl, rfl, rfl, fun c => ?_, rfl, rfl, rfl, fun m => ?_, rfl, rfl, rfl, rfl, rfl, rfl, fun h => rfl,
    rfl, fun i => ?_, rfl, rfl, rfl, rfl, rfl, rfl, rfl, rfl, rfl, rfl, rfl, rfl, rfl, rfl⟩
  · cases c <;> rfl
  · cases m <;> rfl
  · rw [slot_afterReset]; rfl

/-! ### Gaps and backoff (R21, R22, R23) -/

namespace Device

theorem queue_onQueue (a : Access) (c : AccessClass) (f : ClassQueue → ClassQueue) :
    (a.onQueue c f).queue c = f (a.queue c) := by
  cases c <;> rfl

theorem placed_contender (d : Device) (c : AccessClass) (it : Item) (n draws : Nat) :
    ((d.placed c it n draws).access.queue c).contender = some {
      item := it
      eligible := d.eligibleItem it
      counter := n
      slotBase := if d.eligibleItem it then d.slotStartNow c else none
      since := d.now } := by
  unfold placed
  rw [queue_onQueue]

/-- The contender's counter: 0 with nothing to draw, and else the next free draw in its range, one draw used. -/
theorem makeContender_counter (d : Device) (c : AccessClass) (it : Item) : ∃ k : Contender,
    ((d.makeContender c it).access.queue c).contender = some k ∧ k.item = it ∧
    k.counter = (if backoffMax it.kind it.cw = 0 then 0 else Config.draw d.draws % (backoffMax it.kind it.cw + 1)) ∧
    (d.makeContender c it).draws = (if backoffMax it.kind it.cw = 0 then d.draws else d.draws + 1) := by
  by_cases h : backoffMax it.kind it.cw = 0
  · rw [makeContender_undrawn h, if_pos h, if_pos h]
    exact ⟨_, placed_contender _ _ _ _ _, rfl, rfl, rfl⟩
  · rw [makeContender_drawn (Nat.pos_of_ne_zero h), if_neg h, if_neg h]
    exact ⟨_, placed_contender _ _ _ _ _, rfl, rfl, rfl⟩

end Device

/-- Settles O19: the counter is drawn in the range of the item's kind. -/
theorem gapsAndBackoff : Obligations.GapsAndBackoff := by
  unfold Obligations.GapsAndBackoff
  refine ⟨rfl, rfl, rfl, rfl, fun d c it => ?_⟩
  obtain ⟨k, hk, hit, hcount, hdraws⟩ := d.makeContender_counter c it
  refine ⟨k, hk, hit, fun h => ?_, fun h => ?_, fun h => ?_, fun h hcw => ?_, fun h hcw => ?_, fun h => ?_⟩
  · rw [hcount, hdraws, h]; exact ⟨rfl, rfl⟩
  · rw [hcount, hdraws]; rcases h with h | h | h | h <;> rw [h] <;> exact ⟨rfl, rfl⟩
  · rw [hcount, hdraws, h]; exact ⟨rfl, rfl⟩
  · rw [hcount, h]
    show (if it.cw - 1 = 0 then 0 else Config.draw d.draws % (it.cw - 1 + 1)) = Config.draw d.draws % it.cw
    split
    case isTrue h1 => rw [show it.cw = 1 by omega, Nat.mod_one]
    case isFalse => rw [Nat.sub_add_cancel hcw]
  · rw [hdraws, h]
    exact if_neg (show ¬ it.cw - 1 = 0 by omega)
  · rw [hcount, hdraws, h]; exact ⟨rfl, rfl⟩

/-! ### The end of a gap and of a slot (R22) -/

namespace Device

theorem gapEnds_of {d : Device} {c : AccessClass} {k : Contender} {t : Time}
    (hk : (d.access.queue c).contender = some k) (he : k.eligible = true) (ht : d.access.clearSince = some t)
    (hb : k.slotBase = none) : d.gapEnds c = (d.reach (t + gapOf c)).countSlots := by
  simp [gapEnds, hk, gapEndAt, ht, he, hb]

theorem slotEnds_of {d : Device} {c : AccessClass} {k : Contender} {b : Time}
    (hk : (d.access.queue c).contender = some k) (he : k.eligible = true) (hb : k.slotBase = some b)
    (hc : 0 < k.counter) : d.slotEnds c = (d.reach (b + 250)).countSlots := by
  simp [slotEnds, slotEndAt, hk, he, hb, hc]

theorem reach_of_ge {d : Device} {t : Time} (h : d.now ≤ t) : d.reach t = { d with now := t } := by
  rw [reach, Nat.max_eq_right h]

/-- Counting the slots moves neither the timebase nor the channel state. -/
theorem countSlots_keeps (d : Device) : d.countSlots.now = d.now ∧ d.countSlots.access.chan = d.access.chan := by
  have h := countSlots_queuesOnly d
  unfold queuesOnly at h
  rw [h]
  exact ⟨rfl, rfl⟩

/-- A contender that has counted to 0 in a slot is due on a CLEAR channel. -/
theorem isDue_counted {d : Device} {c : AccessClass} {k : Contender} {b : Time}
    (hk : (d.access.queue c).contender = some k) (he : k.eligible = true) (hb : k.slotBase = some b)
    (hc : d.access.chan = .clear) (h0 : k.counter = 0) : d.isDue c = true :=
  (isDue_iff d c).2 ⟨k, hk, hc, he, by rw [hb]; exact Option.some_ne_none _, h0⟩

end Device

/-- Settles O21: at the moment the row names, counting gives the contender its first slot, or one slot less. -/
theorem gapAndSlot : Obligations.GapAndSlot := by
  unfold Obligations.GapAndSlot
  intro c k t s hlow hk he ht
  refine ⟨fun hb hnow => ?_, fun b hb hpos hnow => ?_⟩
  · have hrow : exec (.gapEnd c) s = _ :=
      exec_of_event (fun d => d.gapEnds c) rfl hlow (Device.gapEnds_of hk he ht hb)
    rw [Device.reach_of_ge hnow] at hrow
    obtain ⟨hn, hch⟩ := Device.countSlots_keeps { s.dev with now := t + gapOf c }
    have hone : Device.countOne { s.dev with now := t + gapOf c } c k
        = { k with slotBase := some (max (t + gapOf c) k.since) } := by
      rw [Device.countOne_counts (d := { s.dev with now := t + gapOf c }) he ht (.inr ⟨hb, Nat.le_refl _, rfl⟩)]
      simp
    have hcont := (Device.count_contender (d := { s.dev with now := t + gapOf c }) hk).trans (congrArg some hone)
    exact ⟨_, hrow, hn, hcont, fun hcl h0 => Device.isDue_counted hcont he rfl (hch.trans hcl) h0⟩
  · have hrow : exec (.backoffSlot c) s = _ :=
      exec_of_event (fun d => d.slotEnds c) rfl hlow (Device.slotEnds_of hk he hb hpos)
    rw [Device.reach_of_ge hnow] at hrow
    obtain ⟨hn, hch⟩ := Device.countSlots_keeps { s.dev with now := b + 250 }
    have hone : Device.countOne { s.dev with now := b + 250 } c k
        = { k with counter := k.counter - 1, slotBase := some (b + 250) } := by
      rw [Device.countOne_counts (d := { s.dev with now := b + 250 }) he ht (.inl hb)]
      have h1 : min k.counter ((b + 250 - b) / 250) = 1 := by omega
      rw [h1]
    have hcont := (Device.count_contender (d := { s.dev with now := b + 250 }) hk).trans (congrArg some hone)
    exact ⟨_, hrow, hn, hcont, fun hcl h1 => Device.isDue_counted hcont he rfl (hch.trans hcl) (by
      show k.counter - 1 = 0
      rw [h1])⟩

/-! ### The ACK limit, the blind timer and the blocked channel (R31, R33, R34) -/

namespace Device

theorem withdraw_all (q : ClassQueue) : q.withdraw (fun _ => true) = ⟨[], none⟩ := by
  unfold ClassQueue.withdraw
  cases q.contender <;> simp

/-- The pending ACK is dropped 1 s after the DATA burst it answers, and counted. -/
theorem ackLimit_of {d : Device} {it : Item} {r : List Item} (h : d.access.answer.items = it :: r) :
    d.ackLimit = { d with
      now := max d.now (it.ackEnd + 1000),
      access := { d.access with
        answer := ⟨[], none⟩,
        counts := { d.access.counts with acksDropped := bump d.access.counts.acksDropped } } } := by
  have hat : d.ackLimitAt = some (it.ackEnd + 1000) := by simp [ackLimitAt, h]
  unfold ackLimit
  rw [hat]
  simp only [withdraw, bumpAcksDropped, onAccess, Access.onQueue, reach, withdraw_all]

theorem blindReached_of {d : Device} {t : Time} (h : d.blindAt = some t) :
    d.blindReached = { d with
      now := max d.now t,
      access := { d.access with distress :=
        { waiting := d.access.distress.waiting.map fun it =>
            if it.owner = .own then { it with overdue := true } else it,
          contender := d.access.distress.contender.map fun k =>
            { k with item := if k.item.owner = .own then { k.item with overdue := true } else k.item } } } } := by
  unfold blindReached
  rw [h]
  have hw : ∀ k : Contender, (if isOwnItem k.item then { k with item := { k.item with overdue := true } } else k)
      = { k with item := if k.item.owner = .own then { k.item with overdue := true } else k.item } := by
    intro k
    simp only [isOwnItem, beq_iff_eq]
    split <;> rfl
  simp only [onAccess, Access.onQueue, reach, ClassQueue.rewrite, mapIf, hw]
  simp only [isOwnItem, beq_iff_eq]

/-- The blind time of the one own item that waits, until it is overdue (R34). -/
theorem blindAt_of {d : Device} {it : Item} (hm : it ∈ d.access.distress.items) (ho : it.owner = .own)
    (hu : ∀ x ∈ d.access.distress.items, x.owner = .own → x = it) :
    d.blindAt = if it.overdue then none else some (it.blindFrom + 30000) := by
  unfold blindAt
  cases hover : it.overdue
  case true =>
    have hn : (d.access.distress.items.find? fun x => isOwnItem x && !x.overdue) = none := by
      rw [List.find?_eq_none]
      intro x hx hp
      simp only [isOwnItem, Bool.and_eq_true, beq_iff_eq, Bool.not_eq_true'] at hp
      rw [hu x hx hp.1, hover] at hp
      exact absurd hp.2 (by decide)
    rw [hn]; rfl
  case false =>
    cases hf : d.access.distress.items.find? fun x => isOwnItem x && !x.overdue with
    | none => exact absurd (List.find?_eq_none.1 hf it hm) (by simp [isOwnItem, ho, hover])
    | some x =>
      have hp := List.find?_some hf
      simp only [isOwnItem, Bool.and_eq_true, beq_iff_eq] at hp
      rw [hu x (List.mem_of_find?_eq_some hf) hp.1]
      rfl

/-- The channel has been blocked for 120 s: it is marked, and CHANNEL BLOCKED is queued (R33). -/
theorem channelBlocks_room {d : Device} {t : Time} (ht : d.access.notClearSince = some t)
    (hb : d.access.blocked = false) (hm : OwedRef.blocked ∉ d.console.general.owed)
    (hr : d.console.general.entries.length < 24) :
    d.channelBlocks = { d with
      now := max d.now (t + 120000),
      access := { d.access with blocked := true },
      console := { d.console with general := { d.console.general with
        entries := d.console.general.entries ++ [⟨.channelBlocked, 0, .report [], 0⟩] } } } := by
  have hrow : d.channelBlocks
      = ((d.reach (t + 120000)).onAccess fun a => { a with blocked := true }).report .channelBlocked .blocked [] := by
    unfold channelBlocks
    rw [ht]
    exact if_neg (by rw [hb]; decide)
  exact hrow.trans (report_general_room _ .channelBlocked _ _ rfl hr hm)

end Device

/-- Settles O25: the three rows, the blind timer's moment, and the blind send. -/
theorem accessLimits : Obligations.AccessLimits := by
  unfold Obligations.AccessLimits
  refine ⟨fun it r s hlow h => ?_, ⟨fun t s hlow h => ?_, fun d it hm ho hu => Device.blindAt_of hm ho hu,
    Device.isBlindDue_iff, fun d => Device.arbitrate_blind⟩, fun t s hlow ht hb hm hr => ?_⟩
  · exact exec_of_event Device.ackLimit rfl hlow (Device.ackLimit_of h)
  · exact exec_of_event Device.blindReached rfl hlow (Device.blindReached_of h)
  · exact exec_of_event Device.channelBlocks rfl hlow (Device.channelBlocks_room ht hb hm hr)

end Sys2Proof.Machine
end

section
/-! PROOF. Bringing the blocks into step, part by part (O4). -/

namespace Sys2Proof.Machine
namespace Device

theorem settle_steady (d : Device) : d.settle.steady = d.steady := by
  have hinstant : ∀ e : Device, e.arbiterInstant.steady = e.steady := by
    intro e
    unfold arbiterInstant
    split
    · exact countSlots_steady e
    · rfl
  simp [settle, hinstant]

theorem slotOrder_eq : slotOrder = List.range 8 := rfl

theorem mem_slotsWhere {d : Device} {p : Slot → Bool} {i : Nat} : i ∈ d.slotsWhere p ↔ i < 8 ∧ p (d.slot i) = true := by
  rw [slotsWhere, slotOrder_eq, List.mem_filter, List.mem_range]

theorem slotsWhere_rising (d : Device) (p : Slot → Bool) : (d.slotsWhere p).Pairwise (· ≤ ·) :=
  (List.pairwise_le_range (n := 8)).filter _

theorem reception_iff (d : Device) :
    d.reception = true ↔ d.rx.st = .syncing ∨ d.rx.st = .linked ∨ d.rx.st = .broadcast := by
  simp [reception, or_assoc]

/-! ### The waiting ACK timeout (R85) -/

/-- The slot awaits an ACK, and its timeout has come while a reception was in progress. -/
def timeoutWaits (d : Device) (i : Nat) : Prop := i < 8 ∧ (d.slot i).st = .awaitingAck ∧ (d.slot i).ackWaiting = true

theorem mem_timeoutWaits {d : Device} {i : Nat} :
    (i ∈ d.slotsWhere fun s => s.st == .awaitingAck && s.ackWaiting) ↔ d.timeoutWaits i := by
  rw [mem_slotsWhere, Bool.and_eq_true, beq_iff_eq]
  rfl

theorem takeWaitingTimeout_none {d : Device} (h : d.reception = true ∨ ∀ i, ¬ d.timeoutWaits i) :
    d.takeWaitingTimeout = d := by
  unfold takeWaitingTimeout
  rcases h with h | h
  · exact if_pos h
  · have hnil : (d.slotsWhere fun s => s.st == .awaitingAck && s.ackWaiting) = [] :=
      List.eq_nil_iff_forall_not_mem.2 fun i hi => h i (mem_timeoutWaits.1 hi)
    rw [hnil]
    exact ite_self d

theorem takeWaitingTimeout_first {d : Device} {i : Nat} (hr : d.reception = false) (hi : d.timeoutWaits i)
    (hfirst : ∀ j, j < i → ¬ d.timeoutWaits j) : d.takeWaitingTimeout = d.takeTimeout i := by
  unfold takeWaitingTimeout
  rw [if_neg (by rw [hr]; decide)]
  have hmem := mem_timeoutWaits.2 hi
  have hrise := d.slotsWhere_rising fun s => s.st == .awaitingAck && s.ackWaiting
  cases hl : d.slotsWhere fun s => s.st == .awaitingAck && s.ackWaiting with
  | nil => rw [hl] at hmem; exact absurd hmem List.not_mem_nil
  | cons j r =>
    have hj : d.timeoutWaits j := mem_timeoutWaits.1 (by rw [hl]; exact List.mem_cons_self)
    rw [hl, List.pairwise_cons] at hrise
    rw [hl] at hmem
    have hji : j = i := by
      rcases List.mem_cons.1 hmem with h | h
      · exact h.symm
      · exact le_antisymm (hrise.1 i h) (Nat.le_of_not_lt fun hlt => hfirst j hlt hj)
    rw [hji]

/-! ### The DATA item (R84) -/

/-- No fragment may be offered: under the hold, with a DATA burst on air, or while a slot awaits its ACK. -/
def dataBarred (d : Device) : Prop :=
  d.holdInForce = true ∨ (∃ a, d.access.onAir = some a ∧ a.item.kind = .data) ∨
    ∃ s ∈ d.xfer.slots, s.st = .awaitingAck ∨ s.onAir = true

/-- The READY slot with the oldest ready since, the lowest-numbered of equal ones. -/
def firstReady (d : Device) (i : Nat) : Prop :=
  i < 8 ∧ (d.slot i).st = .ready ∧ ∀ j, j < 8 → (d.slot j).st = .ready →
    (d.slot i).readySince < (d.slot j).readySince ∨ (d.slot i).readySince = (d.slot j).readySince ∧ i ≤ j

theorem onAirKind_data (d : Device) :
    (d.onAirKind == some .data) = true ↔ ∃ a, d.access.onAir = some a ∧ a.item.kind = .data := by
  rw [beq_iff_eq, onAirKind, Option.map_eq_some_iff]

theorem dataBarred_iff (d : Device) : d.dataBarred ↔
    (d.holdInForce || d.onAirKind == some .data
      || (d.xfer.slots.any fun s => s.st == .awaitingAck || s.onAir)) = true := by
  rw [Bool.or_eq_true, Bool.or_eq_true, onAirKind_data, or_assoc]
  simp only [dataBarred, List.any_eq_true, Bool.or_eq_true, beq_iff_eq]

theorem dataSlot_none {d : Device} (h : d.dataBarred ∨ ∀ i, i < 8 → (d.slot i).st ≠ .ready) : d.dataSlot? = none := by
  unfold dataSlot?
  rcases h with h | h
  · exact if_pos (d.dataBarred_iff.1 h)
  · have hnil : (d.slotsWhere fun s => s.st == .ready) = [] := by
      refine List.eq_nil_iff_forall_not_mem.2 fun i hi => ?_
      obtain ⟨h8, hst⟩ := mem_slotsWhere.1 hi
      exact h i h8 (beq_iff_eq.1 hst)
    rw [hnil]
    exact ite_self none

theorem lex_antisymm {a b i j : Nat} (h : a < b ∨ a = b ∧ i ≤ j) (h' : b < a ∨ b = a ∧ j ≤ i) : i = j := by
  omega

theorem dataSlot_first {d : Device} {i : Nat} (h : ¬ d.dataBarred) (hi : d.firstReady i) : d.dataSlot? = some i := by
  unfold dataSlot?
  rw [if_neg (fun hb => h (d.dataBarred_iff.2 hb))]
  obtain ⟨h8, hst, hleast⟩ := hi
  have hmem : i ∈ d.slotsWhere fun s => s.st == .ready := mem_slotsWhere.2 ⟨h8, beq_iff_eq.2 hst⟩
  obtain ⟨hsome, hnone⟩ := minBy_spec (fun i => (d.slot i).readySince) (· ≤ ·) (fun _ => Nat.le_refl _) _
    (d.slotsWhere_rising fun s => s.st == .ready)
  cases hm : minBy? (fun i => (d.slot i).readySince) (d.slotsWhere fun s => s.st == .ready) with
  | none => rw [hnone.1 hm] at hmem; exact absurd hmem List.not_mem_nil
  | some j =>
    obtain ⟨hj, hjleast⟩ := hsome j hm
    obtain ⟨hj8, hjst⟩ := mem_slotsWhere.1 hj
    rw [lex_antisymm (hleast j hj8 (beq_iff_eq.1 hjst)) (hjleast i hmem)]

theorem dataOffered_none {d : Device} (h : (d.access.routine.items.find? fun it => it.kind == .data) = none) :
    d.dataOffered? = none := by
  unfold dataOffered?
  rw [h]

theorem dataOffered_slot {d : Device} {it : Item} {j : Nat}
    (h : (d.access.routine.items.find? fun it => it.kind == .data) = some it) (ho : it.owner = .slot j) :
    d.dataOffered? = some j := by
  unfold dataOffered?
  rw [h]
  dsimp only
  rw [ho]

theorem dataOffered_other {d : Device} {it : Item} {i : Nat}
    (h : (d.access.routine.items.find? fun it => it.kind == .data) = some it) (ho : it.owner ≠ .slot i) :
    d.dataOffered? ≠ some i := by
  unfold dataOffered?
  rw [h]
  dsimp only
  cases hown : it.owner <;> simp
  rename_i j
  rintro rfl
  exact ho hown

/-- The device without the DATA item. -/
def dataWithdrawn (d : Device) : Device :=
  { d with access := { d.access with routine := d.access.routine.withdraw fun it => it.kind == .data } }

/-- The item that offers the slot's current fragment (R82, R84). -/
def dataItem (d : Device) (i : Nat) : Item :=
  { d.newItem .data ((d.slot i).hop.getD 0) (d.slot i).num (d.fragmentBody (d.slot i)) (.slot i) with
    cw := (d.slot i).cw, order := d.access.nextOffer }

theorem refreshData_same {d : Device} (h : d.dataSlot? = d.dataOffered?) : d.refreshData = d := by
  unfold refreshData
  exact if_pos h

theorem refreshData_withdraws {d : Device} (hw : d.dataSlot? = none) (ho : d.dataOffered? ≠ none) :
    d.refreshData = d.dataWithdrawn := by
  unfold refreshData
  rw [hw, if_neg ho.symm]
  rfl

theorem refreshData_offers {d : Device} {i : Nat} (hw : d.dataSlot? = some i) (ho : d.dataOffered? ≠ some i) :
    d.refreshData = { d.dataWithdrawn with access := { d.dataWithdrawn.access with
      routine := { d.dataWithdrawn.access.routine with
        waiting := d.dataWithdrawn.access.routine.waiting ++ [d.dataItem i] },
      nextOffer := d.access.nextOffer + 1 } } := by
  unfold refreshData
  rw [hw, if_neg ho.symm]
  rfl

/-! ### The channel state (R19, R22, R33) -/

theorem busyCondition_iff (d : Device) :
    d.busyCondition = true ↔ d.access.debounced = true ∨ d.reception = true ∨ d.loop.st = .looping := by
  rw [busyCondition, Bool.or_eq_true, Bool.or_eq_true, beq_iff_eq, or_assoc]

/-- How long the channel has not been CLEAR, in the seconds that CHANNEL CLEARED carries. -/
def spell (d : Device) : Nat :=
  match d.access.notClearSince with
  | none => 0
  | some t => min ((d.now - t) / 1000) 65535

/-- The channel CLEAR from now on, before any report of it. -/
def cleared (d : Device) : Device :=
  { d with access := { d.access with
    chan := .clear, clearSince := some d.now, notClearSince := none, blocked := false,
    lastBlocked := if d.access.blocked then d.spell else d.access.lastBlocked } }

theorem settleChannel_stays {d : Device} (h : d.access.chan = .own ∨ d.access.chan = .clear ∧ ¬ d.busyCondition = true ∨
    d.access.chan = .busy ∧ d.busyCondition = true) : d.settleChannel = d := by
  unfold settleChannel
  rcases h with h | ⟨h, hb⟩ | ⟨h, hb⟩ <;> rw [h]
  · exact if_neg hb
  · exact if_pos hb

theorem settleChannel_busy {d : Device} (h : d.access.chan = .clear) (hb : d.busyCondition = true) :
    d.settleChannel = { d with access := { d.access with
      chan := .busy, clearSince := none, notClearSince := some d.now,
      answer := d.access.answer.freeze, distress := d.access.distress.freeze, priority := d.access.priority.freeze,
      routine := d.access.routine.freeze } } := by
  unfold settleChannel
  rw [h]
  dsimp only
  rw [if_pos hb, leaveClear, onAccess, h]
  rfl

theorem settleChannel_clear {d : Device} (h : d.access.chan = .busy) (hb : ¬ d.busyCondition = true) :
    d.settleChannel = d.enterClear := by
  unfold settleChannel
  rw [h]
  exact if_neg hb

/-- A blocked channel that clears reports its spell (R33). -/
theorem enterClear_split (d : Device) : d.enterClear =
    if d.access.blocked then d.cleared.report .channelCleared .blocked [.num 2 d.spell] else d.cleared := by
  have hsat : sat16 d.spell = d.spell := by
    unfold spell
    split
    · rfl
    · exact min_eq_left (Nat.min_le_right _ _)
  have hrow : d.enterClear =
    if d.access.blocked then d.cleared.report .channelCleared .blocked [.num 2 (sat16 d.spell)] else d.cleared := rfl
  rw [hrow, hsat]

theorem enterClear_unblocked {d : Device} (h : d.access.blocked = false) : d.enterClear = d.cleared := by
  rw [enterClear_split, if_neg (by rw [h]; decide)]

/-- CHANNEL CLEARED is queued, or owed in a full lane, unless it is owed already. -/
theorem enterClear_lane {d : Device} (h : d.access.blocked = true) : d.enterClear =
    if OwedRef.blocked ∈ d.console.general.owed then d.cleared
    else if d.console.general.entries.length < 24 then { d.cleared with console := { d.console with
      general := { d.console.general with
        entries := d.console.general.entries ++ [⟨.channelCleared, 0, .report [.num 2 d.spell], 0⟩] } } }
    else { d.cleared with console := { d.console with
      general := { d.console.general with owed := d.console.general.owed ++ [.blocked] } } } := by
  rw [enterClear_split, if_pos h]
  exact reportTagged_generalLane d.cleared .channelCleared 0 .blocked _ rfl

/-! ### Pins (R63) -/

theorem pinned_iff (d : Device) (st : Station) : d.pinned st = true ↔
    (∃ s ∈ d.xfer.slots, (s.st = .ready ∨ s.st = .awaitingAck) ∧ s.hop = some st) ∨
      ∃ e ∈ d.xfer.reasms, e.source = st := by
  simp only [pinned, Bool.or_eq_true, List.any_eq_true, Bool.and_eq_true, beq_iff_eq]

end Device

/-- Settles O4, a clause for each part of `settle`. -/
theorem settleLeavesSteady : Obligations.SettleLeavesSteady := by
  unfold Obligations.SettleLeavesSteady
  refine ⟨Device.settle_steady, fun _ => rfl, fun d => ⟨d.reception_iff, Device.takeWaitingTimeout_none,
    fun i hr hi => Device.takeWaitingTimeout_first hr hi⟩, fun d => ⟨fun hw => ?_, fun hb i hi => ?_⟩,
    fun d => ⟨fun h => ?_, fun h hb => ?_, fun h hb => ?_, Device.enterClear_unblocked, fun h hm => ?_, fun h hm => ?_⟩,
    fun d => ⟨d.pinned_iff, rfl⟩⟩
  · have hnone := Device.dataSlot_none hw
    refine ⟨fun ho => Device.refreshData_same (hnone.trans (Device.dataOffered_none ho).symm), fun it j ho hj => ?_⟩
    exact Device.refreshData_withdraws hnone (by rw [Device.dataOffered_slot ho hj]; exact Option.some_ne_none j)
  · have hsome := Device.dataSlot_first hb hi
    refine ⟨fun it ho hj => Device.refreshData_same (hsome.trans (Device.dataOffered_slot ho hj).symm), fun ho => ?_⟩
    refine Device.refreshData_offers hsome ?_
    rcases ho with ho | ⟨it, ho, hj⟩
    · rw [Device.dataOffered_none ho]; exact (Option.some_ne_none i).symm
    · exact Device.dataOffered_other ho hj
  · rw [← Device.busyCondition_iff] at h; exact Device.settleChannel_stays h
  · exact Device.settleChannel_busy h (d.busyCondition_iff.2 hb)
  · exact Device.settleChannel_clear h (fun hc => hb (d.busyCondition_iff.1 hc))
  · rw [Device.enterClear_lane h, if_pos hm]; rfl
  · rw [Device.enterClear_lane h, if_neg hm]
    exact ⟨fun hr => if_pos hr, fun hf => if_neg (Nat.not_lt.2 hf)⟩

end Sys2Proof.Machine
end

section
/-! PROOF. The key-time limit and aborted bursts (O24). -/

namespace Sys2Proof.Machine
namespace Device

/-! ### The limit (R29, R41, R42, R45) -/

theorem keyLimit_of {d : Device} {a : OnAir} (h : d.access.onAir = some a) :
    d.keyLimit = ((d.reach (a.keyedAt + 25000)).abortBurst .keytime).tripKeytime 25000 := by
  unfold keyLimit
  rw [h]

/-- The quiet timer stopped (R45). -/
def quietStopped (d : Device) : Device := { d with prot := { d.prot with quietEnd := none } }

theorem tripKeytime_eq (d : Device) (count : Nat) : d.tripKeytime count = afterInhibit d.inhibit
    (if d.prot.keytime.st = .normal ∨ d.prot.keytime.st = .alert
      then d.quietStopped.moveMonitor .keytime .latched 0 .keyTimeLimit count else d.quietStopped) := rfl

/-- KEYTIME from NORMAL or ALERT latches at the key-time limit: the inhibit stands and the quiet timer stops. -/
theorem tripKeytime_latches {d : Device} (count : Nat) (h : d.prot.keytime.st = .normal ∨ d.prot.keytime.st = .alert) :
    (d.tripKeytime count).prot.keytime.st = .latched ∧ (d.tripKeytime count).inhibit = true ∧
    (d.tripKeytime count).prot.quietEnd = none ∧ (d.tripKeytime count).prot.trips = d.prot.trips ∧
    (d.tripKeytime count).now = d.now ∧ (d.tripKeytime count).tx = d.tx ∧
    (d.tripKeytime count).access.onAir = d.access.onAir ∧ (d.tripKeytime count).access.counts = d.access.counts := by
  let moved := d.quietStopped.moveMonitor .keytime .latched 0 .keyTimeLimit count
  have hrow : d.tripKeytime count = afterInhibit d.inhibit moved := by rw [tripKeytime_eq, if_pos h]
  obtain ⟨hprot, htx, hnow, -, hair, hcounts⟩ := afterInhibit_facts d.inhibit moved
  obtain ⟨hst, -, -, -, htrips, hquiet⟩ :=
    monitor_moveMonitor d.quietStopped .keytime .keytime .latched 0 .keyTimeLimit count
  have hmoved : moved = { d.quietStopped with prot := moved.prot, console := moved.console } :=
    moveMonitor_same _ _ _ _ _ _
  have hlatched : (afterInhibit d.inhibit moved).prot.keytime.st = .latched := by rw [hprot]; exact hst
  rw [hrow, hprot, htx, hnow, hair, hcounts]
  refine ⟨hst, inhibit_of _ .keytime (.inr hlatched), hquiet, htrips, ?_⟩
  rw [hmoved]
  exact ⟨rfl, rfl, rfl, rfl⟩

/-- Cut at the limit, the burst is gone and counted, and KEYTIME latched. -/
theorem keyLimit_facts {d : Device} {a : OnAir} (h : d.access.onAir = some a)
    (hk : d.prot.keytime.st = .normal ∨ d.prot.keytime.st = .alert) :
    d.keyLimit.now = max d.now (a.keyedAt + 25000) ∧ d.keyLimit.keyLine = false ∧ d.keyLimit.tx = none ∧
    d.keyLimit.prot.keytime.st = .latched ∧ d.keyLimit.inhibit = true ∧ d.keyLimit.prot.quietEnd = none ∧
    d.keyLimit.prot.trips = d.prot.trips ∧ d.keyLimit.access.counts.aborts = bump d.access.counts.aborts := by
  obtain ⟨hair, htx, -, -, -, hnow, haborts, -, -, htrips, -, hmon⟩ :=
    abortBurst_facts (d.reach (a.keyedAt + 25000)) a .keytime h
  have hstay : ((d.reach (a.keyedAt + 25000)).abortBurst .keytime).prot.keytime.st = d.prot.keytime.st :=
    (hmon .keytime).2.trans (if_neg fun hn => hn.2 ⟨rfl, rfl⟩)
  obtain ⟨tst, tinhibit, tquiet, ttrips, tnow, ttx, tair, tcounts⟩ := tripKeytime_latches 25000 (hstay ▸ hk)
  rw [keyLimit_of h, keyLine, tst, tinhibit, tquiet, ttrips, tnow, ttx, tair, tcounts, hair, htx, hnow, haborts, htrips]
  exact ⟨rfl, rfl, rfl, rfl, rfl, rfl, rfl, rfl⟩

/-! ### The abort of a keying (R30) -/

theorem abortBurst_drops {d : Device} {a : OnAir} (r : AbortReason) (h : d.access.onAir = some a) : ∃ e : Device,
    d.abortBurst r = e.accountAbort a.item r ∧ e.prot.trips = d.prot.trips ∧ e.prot.quietEnd = d.prot.quietEnd ∧
    e = { d with
      tx := none, rx := Rx.blank .hunting, prot := e.prot, console := e.console,
      access := { d.access with
        onAir := none, keyTime := d.keyTime, filterFrom := d.now, chan := .clear, clearSince := some d.now,
        notClearSince := none, blocked := false, lastBlocked := e.access.lastBlocked,
        counts := { d.access.counts with
          aborts := bump d.access.counts.aborts,
          preemptions := if r = .preempted then bump d.access.counts.preemptions
            else d.access.counts.preemptions } } } := by
  obtain ⟨D, htrips, hquiet, -, lb, hdrop⟩ := dropKey_eq d (r == .keytime)
  refine ⟨(d.dropKey (r == .keytime)).onAccess fun x => { x with counts := { x.counts with
    aborts := bump x.counts.aborts,
    preemptions := if r = .preempted then bump x.counts.preemptions else x.counts.preemptions } }, ?_, ?_, ?_, ?_⟩
  · unfold abortBurst
    rw [h]
  · rw [hdrop]; exact htrips
  · rw [hdrop]; exact hquiet
  · rw [hdrop]; rfl

/-! ### What the owner of an aborted burst does (R43, R73, R85, R111, R145) -/

theorem accountAbort_reason (d : Device) (it : Item) {r : AbortReason} (hr : r ≠ .restart) :
    d.accountAbort it r = d.accountAbort it .trip := by
  cases r
  case restart => exact absurd rfl hr
  all_goals
    unfold accountAbort
    cases it.owner <;> rfl

/-- The slot's burst is aborted while it may go back to READY (R85). -/
theorem dataAborted_ready {d : Device} {i : Nat} (hi : i < d.xfer.slots.length) (hair : (d.slot i).onAir = true)
    (hp : (d.slot i).pendingEnd = none) (hh : d.holdInForce = false) :
    d.dataAborted i = d.onSlot i fun x => { x with onAir := false, readySince := d.now } := by
  unfold dataAborted
  rw [if_pos hair, if_neg (by rw [hh]; decide)]
  have hslot : (d.onSlot i fun s => { s with onAir := false }).slot i = { d.slot i with onAir := false } := by
    rw [slot_onSlot, if_pos ⟨rfl, hi⟩]
  rw [orPending_none (by rw [hslot]; exact hp), onSlot_set _ _ _ (by rw [slots_onSlot]; exact hi), hslot,
    onSlot_set _ _ _ hi, onSlot_set _ _ _ hi]
  simp only [List.set_set]

/-- Under the hold the slot goes to HELD (R101). -/
theorem dataAborted_held {d : Device} {i : Nat} (hair : (d.slot i).onAir = true)
    (hp : (d.slot i).pendingEnd = none) (hh : d.holdInForce = true) :
    d.dataAborted i = d.onSlot i fun x => { x with
      st := .held, heldFrom := .ready, onAir := false, ackDue := none, ackWaiting := false,
      heldRefusal := (match x.refusalEnd with | none => 0 | some t => t - d.now), refusalEnd := none } := by
  unfold dataAborted
  rw [if_pos hair, if_pos hh]
  exact orPending_none hp _

theorem dataAborted_endsHeld {d : Device} {i : Nat} {o : Outcome} (hair : (d.slot i).onAir = true)
    (hp : (d.slot i).pendingEnd = some o) (hh : d.holdInForce = true) : d.dataAborted i = d.endTransfer i o := by
  unfold dataAborted
  rw [if_pos hair, if_pos hh, goHeld_pending _ hp]

theorem dataAborted_ends {d : Device} {i : Nat} {o : Outcome} (hi : i < d.xfer.slots.length)
    (hair : (d.slot i).onAir = true) (hp : (d.slot i).pendingEnd = some o) (hh : d.holdInForce = false) :
    d.dataAborted i = (d.onSlot i fun x => { x with onAir := false }).endTransfer i o := by
  have hslot : (d.onSlot i fun s => { s with onAir := false }).slot i = { d.slot i with onAir := false } := by
    rw [slot_onSlot, if_pos ⟨rfl, hi⟩]
  unfold dataAborted
  rw [if_pos hair, if_neg (by rw [hh]; decide), orPending, hslot]
  dsimp only
  rw [hp]

theorem warningAborted_offered {d : Device} {it : Item} {issuer issue : Nat} {w : Warning}
    (hw : d.warning? issuer issue = some w) (ho : w.relay = .offered) :
    d.warningAborted it issuer issue = d.offer it := by
  unfold warningAborted
  rw [hw]
  exact if_pos ho

theorem warningAborted_gone {d : Device} {it : Item} {issuer issue : Nat}
    (hw : ∀ w, d.warning? issuer issue = some w → w.relay ≠ .offered) : d.warningAborted it issuer issue = d := by
  unfold warningAborted
  cases h : d.warning? issuer issue with
  | none => rfl
  | some w => exact if_neg (hw w h)

end Device

/-- Settles O24: the limit's cut and latch, the abort of any burst, and what each owner accounts. -/
theorem keyTimeLimit : Obligations.KeyTimeLimit := by
  unfold Obligations.KeyTimeLimit
  refine ⟨fun a s hlow ha hk => ?_, fun a s hlow ha => ?_, fun d a r ha => Device.abortBurst_drops r ha,
    fun d it r => ⟨fun hr => ?_, fun hr => ?_⟩⟩
  · exact ⟨s.dev.keyLimit, exec_of_event Device.keyLimit rfl hlow rfl, Device.keyLimit_facts ha hk⟩
  · exact exec_of_event Device.keyLimit rfl hlow (Device.keyLimit_of ha)
  · subst hr; rfl
  · rw [Device.accountAbort_reason d it hr]
    unfold Device.accountAbort
    refine ⟨fun ho => ?_, fun ho => ?_, fun i ho hi => ?_, fun issuer issue ho => ?_, fun st alert ho => ?_,
      fun st alert ho => ?_, fun ho => ?_⟩ <;> rw [ho] <;> dsimp only
    · rfl
    · refine ⟨fun hair => ?_, fun hair hp hh => ?_, fun hair hp hh => ?_, fun o hair hp hh => ?_,
        fun o hair hp hh => ?_⟩
      · exact if_neg (by rw [hair]; decide)
      · exact Device.dataAborted_ready hi hair hp hh
      · exact Device.dataAborted_held hair hp hh
      · exact Device.dataAborted_endsHeld hair hp hh
      · exact Device.dataAborted_ends hi hair hp hh
    · exact ⟨fun ⟨w, hw, hr⟩ => Device.warningAborted_offered hw hr, fun hw => Device.warningAborted_gone hw⟩
    · rfl
    · exact ⟨_, rfl, rfl⟩

end Sys2Proof.Machine
end

section
/-! PROOF. Protection checks, recovery and the quiet timer (O27). -/

namespace Sys2Proof.Machine
namespace Device

/-! ### What a sample does to the shared counts, and to the monitors (R40, R45) -/

/-- A trip raises the count and stops the quiet timer; any other sample leaves both. -/
theorem sampleMonitor_counts (d : Device) (m : MonitorId) (x : Bool) [Decidable (d.willTrip m x)] :
    (d.sampleMonitor m x).1 = decide (d.willTrip m x) ∧
    (d.sampleMonitor m x).2.prot.trips = (if d.willTrip m x then min 255 (d.prot.trips + 1) else d.prot.trips) ∧
    (d.sampleMonitor m x).2.prot.quietEnd = (if d.willTrip m x then none else d.prot.quietEnd) := by
  obtain ⟨htrip, hnot⟩ := sampleMonitor_facts d m x
  by_cases h : d.willTrip m x
  · obtain ⟨h1, h2, h3, -⟩ := htrip h
    simp [h1, h2, h3, h]
  · obtain ⟨h1, h2, h3⟩ := hnot h
    simp [h1, h2, h3, h]

/-- The device as the check finds it before each monitor's sample: TUNE, REFLECT and SUPPLY in this order (R39), then
KEYTIME (log entry 73). -/
def beforeSample (b : Device) (x : MonitorId → Bool) : MonitorId → Device
  | .tune => b
  | .reflect => (b.sampleMonitor .tune (x .tune)).2
  | .supply => ((b.sampleMonitor .tune (x .tune)).2.sampleMonitor .reflect (x .reflect)).2
  | .keytime => (((b.sampleMonitor .tune (x .tune)).2.sampleMonitor .reflect (x .reflect)).2.sampleMonitor .supply
      (x .supply)).2

/-- Some monitor with an input trips in the check. -/
def checkTrips (b : Device) (x : MonitorId → Bool) : Bool :=
  (b.sampleMonitor .tune (x .tune)).1 || ((b.beforeSample x .reflect).sampleMonitor .reflect (x .reflect)).1
    || ((b.beforeSample x .supply).sampleMonitor .supply (x .supply)).1

theorem beforeSample_same (b : Device) (x : MonitorId → Bool) (m : MonitorId) : sameBut b (b.beforeSample x m) := by
  have hone := sampleMonitor_same b .tune (x .tune)
  have htwo := hone.trans (sampleMonitor_same _ .reflect (x .reflect))
  cases m
  · exact sameBut.refl b
  · exact hone
  · exact htwo
  · exact htwo.trans (sampleMonitor_same _ .supply (x .supply))

/-- No sample touches a monitor that is sampled later. -/
theorem beforeSample_monitor (b : Device) (x : MonitorId → Bool) (m : MonitorId) :
    m ≠ .keytime → ((b.beforeSample x m).monitor m).st = (b.monitor m).st ∧
    ((b.beforeSample x m).monitor m).run = (b.monitor m).run ∧
    ((b.beforeSample x m).monitor m).resting = (b.monitor m).resting := by
  intro hm
  cases m
  · exact ⟨rfl, rfl, rfl⟩
  · exact sampleMonitor_other b .tune .reflect _ (by decide)
  · obtain ⟨h1, h2, h3⟩ := sampleMonitor_other b .tune .supply (x .tune) (by decide)
    obtain ⟨g1, g2, g3⟩ := sampleMonitor_other (b.beforeSample x .reflect) .reflect .supply (x .reflect) (by decide)
    exact ⟨g1.trans h1, g2.trans h2, g3.trans h3⟩
  · exact absurd rfl hm

/-- Nor one that was sampled before. -/
theorem afterSamples_monitor (b : Device) (x : MonitorId → Bool) (m : MonitorId) (hm : m ≠ .keytime) :
    ((b.beforeSample x .keytime).monitor m).st
      = (((b.beforeSample x m).sampleMonitor m (x m)).2.monitor m).st ∧
    ((b.beforeSample x .keytime).monitor m).run
      = (((b.beforeSample x m).sampleMonitor m (x m)).2.monitor m).run := by
  have hlast := sampleMonitor_other (b.beforeSample x .supply) .supply m (x .supply)
  cases m
  · obtain ⟨h1, h2, -⟩ := hlast (by decide)
    obtain ⟨g1, g2, -⟩ := sampleMonitor_other (b.beforeSample x .reflect) .reflect .tune (x .reflect) (by decide)
    exact ⟨h1.trans g1, h2.trans g2⟩
  · obtain ⟨h1, h2, -⟩ := hlast (by decide)
    exact ⟨h1, h2⟩
  · exact ⟨rfl, rfl⟩
  · exact absurd rfl hm

theorem afterSamples_keytime (b : Device) (x : MonitorId → Bool) :
    (b.beforeSample x .keytime).prot.keytime.st = b.prot.keytime.st := by
  have h1 := (sampleMonitor_other b .tune .keytime (x .tune) (by decide)).1
  have h2 := (sampleMonitor_other (b.beforeSample x .reflect) .reflect .keytime (x .reflect) (by decide)).1
  have h3 := (sampleMonitor_other (b.beforeSample x .supply) .supply .keytime (x .supply) (by decide)).1
  exact h3.trans (h2.trans h1)

/-- Whether a sample trips its monitor is known at the check's beginning. -/
theorem willTrip_beforeSample (b : Device) (x : MonitorId → Bool) (m : MonitorId) (hm : m ≠ .keytime) :
    (b.beforeSample x m).willTrip m (x m) ↔ b.willTrip m (x m) := by
  obtain ⟨hst, hrun, hrest⟩ := beforeSample_monitor b x m hm
  unfold willTrip
  rw [hst, hrun, hrest, (beforeSample_same b x m).delay]

/-- The trip count and the quiet timer after the three samples, and whether one of them tripped. -/
theorem afterSamples_counts (b : Device) (x : MonitorId → Bool) :
    ((∀ m, m ≠ .keytime → ¬ b.willTrip m (x m)) → b.checkTrips x = false ∧
      (b.beforeSample x .keytime).prot.trips = b.prot.trips ∧
      (b.beforeSample x .keytime).prot.quietEnd = b.prot.quietEnd) ∧
    ∀ m, m ≠ .keytime → b.willTrip m (x m) → b.checkTrips x = true ∧
      (b.beforeSample x .keytime).prot.quietEnd = none ∧
      (b.prot.trips < 255 → b.prot.trips < (b.beforeSample x .keytime).prot.trips) := by
  classical
  obtain ⟨t1, c1, q1⟩ := sampleMonitor_counts b .tune (x .tune)
  obtain ⟨t2, c2, q2⟩ := sampleMonitor_counts (b.beforeSample x .reflect) .reflect (x .reflect)
  obtain ⟨t3, c3, q3⟩ := sampleMonitor_counts (b.beforeSample x .supply) .supply (x .supply)
  simp only [willTrip_beforeSample b x .reflect (by decide), willTrip_beforeSample b x .supply (by decide)]
    at t2 c2 q2 t3 c3 q3
  have hc : (b.beforeSample x .keytime).prot.trips = _ := c3
  have hq : (b.beforeSample x .keytime).prot.quietEnd = _ := q3
  rw [show (b.beforeSample x .supply).prot.trips = _ from c2,
    show (b.beforeSample x .reflect).prot.trips = _ from c1] at hc
  rw [show (b.beforeSample x .supply).prot.quietEnd = _ from q2,
    show (b.beforeSample x .reflect).prot.quietEnd = _ from q1] at hq
  unfold checkTrips
  rw [t1, t2, t3, hc, hq]
  refine ⟨fun hn => ?_, fun m hm ht => ?_⟩
  · simp only [hn .tune (by decide), hn .reflect (by decide), hn .supply (by decide), if_false, decide_false,
      Bool.or_false, and_self]
  · cases m
    case keytime => exact absurd rfl hm
    all_goals
      simp only [ht, if_true, decide_true, Bool.true_or, Bool.or_true, ite_self, true_and]
      intro hlt
      split_ifs <;> omega

/-- A monitor that tripped in the check is TRIPPED or LATCHED after it. -/
theorem afterSamples_tripped (b : Device) (x : MonitorId → Bool) (m : MonitorId) (hm : m ≠ .keytime)
    (ht : b.willTrip m (x m)) : ((b.beforeSample x .keytime).monitor m).st = .tripped ∨
      ((b.beforeSample x .keytime).monitor m).st = .latched := by
  rw [(afterSamples_monitor b x m hm).1]
  obtain ⟨-, -, -, hst⟩ := (sampleMonitor_facts (b.beforeSample x m) m (x m)).1 ((willTrip_beforeSample b x m hm).2 ht)
  exact hst

/-! ### The whole check (R39, R41, R43, R73) -/

/-- What the three inputs show each monitor. -/
def inputs (tuneF refl supLo : Bool) : MonitorId → Bool
  | .tune => tuneF
  | .reflect => refl
  | .supply => supLo
  | .keytime => false

/-- The device at the check's own moment, the levels sampled and the check counted. -/
def checkBegun (d : Device) (a : OnAir) (tuneF refl supLo : Bool) : Device :=
  { d with
    now := max d.now (a.keyedAt + 100 * (a.checks + 1)), pins := ⟨tuneF, refl, supLo⟩,
    access := { d.access with onAir := some { a with checks := a.checks + 1 } } }

/-- The device with all four monitors sampled. -/
def checked (d : Device) (a : OnAir) (tuneF refl supLo : Bool) : Device :=
  afterInhibit d.inhibit
    ((d.checkBegun a tuneF refl supLo).beforeSample (inputs tuneF refl supLo) .keytime).sampleKeytime

theorem protectionCheck_eq {d : Device} {a : OnAir} (h : d.access.onAir = some a) (tuneF refl supLo : Bool) :
    d.protectionCheck tuneF refl supLo =
      if ((d.checkBegun a tuneF refl supLo).checkTrips (inputs tuneF refl supLo) && !a.item.kind.isOwn) = true
      then (d.checked a tuneF refl supLo).abortBurst .trip else d.checked a tuneF refl supLo := by
  have hat : d.checkAt = some (a.keyedAt + 100 * (a.checks + 1)) := by rw [checkAt, h]; rfl
  unfold protectionCheck
  rw [h, hat]
  rfl

theorem afterInhibit_eq (b : Bool) (d : Device) :
    afterInhibit b d = if b = false ∧ d.inhibit = true then d.dropBeacon else d := by
  unfold afterInhibit
  cases b <;> simp

/-- The sampling of the monitors changes them and the console, and may drop the BEACON item; the radio side stays. -/
theorem checked_facts (d : Device) (a : OnAir) (tuneF refl supLo : Bool) :
    (d.checked a tuneF refl supLo).now = max d.now (a.keyedAt + 100 * (a.checks + 1)) ∧
    (d.checked a tuneF refl supLo).pins = ⟨tuneF, refl, supLo⟩ ∧ (d.checked a tuneF refl supLo).tx = d.tx ∧
    (d.checked a tuneF refl supLo).access.onAir = some { a with checks := a.checks + 1 } ∧
    (d.checked a tuneF refl supLo).access.counts = d.access.counts ∧
    (d.checked a tuneF refl supLo).prot
      = ((d.checkBegun a tuneF refl supLo).beforeSample (inputs tuneF refl supLo) .keytime).sampleKeytime.prot := by
  have hsame := (beforeSample_same (d.checkBegun a tuneF refl supLo) (inputs tuneF refl supLo) .keytime).trans
    (sampleKeytime_same _)
  unfold checked
  obtain ⟨hprot, htx, hnow, hpins, hair, hcounts⟩ := afterInhibit_facts d.inhibit
    ((d.checkBegun a tuneF refl supLo).beforeSample (inputs tuneF refl supLo) .keytime).sampleKeytime
  rw [hprot, htx, hnow, hpins, hair, hcounts]
  refine ⟨?_, ?_, ?_, ?_, ?_, rfl⟩ <;> rw [hsame] <;> rfl

theorem checked_monitor (d : Device) (a : OnAir) (tuneF refl supLo : Bool) (m : MonitorId) (hm : m ≠ .keytime) :
    let b := d.checkBegun a tuneF refl supLo
    let x := inputs tuneF refl supLo
    ((d.checked a tuneF refl supLo).monitor m).st = ((b.beforeSample x .keytime).monitor m).st ∧
    ((d.checked a tuneF refl supLo).monitor m).run = ((b.beforeSample x .keytime).monitor m).run := by
  obtain ⟨-, -, -, -, -, hprot⟩ := d.checked_facts a tuneF refl supLo
  obtain ⟨hmon, -⟩ := sampleKeytime_facts
    ((d.checkBegun a tuneF refl supLo).beforeSample (inputs tuneF refl supLo) .keytime)
  have hsame : (d.checked a tuneF refl supLo).monitor m = monitor
      ((d.checkBegun a tuneF refl supLo).beforeSample (inputs tuneF refl supLo) .keytime).sampleKeytime m := by
    unfold monitor
    rw [hprot]
  rw [hsame]
  exact hmon m hm

/-- The trip count and the quiet timer, and KEYTIME at its warning point (R41). -/
theorem checked_prot (d : Device) (a : OnAir) (tuneF refl supLo : Bool) :
    let b := d.checkBegun a tuneF refl supLo
    let x := inputs tuneF refl supLo
    (d.checked a tuneF refl supLo).prot.trips = (b.beforeSample x .keytime).prot.trips ∧
    (d.checked a tuneF refl supLo).prot.quietEnd = (b.beforeSample x .keytime).prot.quietEnd ∧
    (d.prot.keytime.st = .normal → (d.checked a tuneF refl supLo).prot.keytime.st =
      if 25000 - d.config.dKeytime * 100 ≤ b.now - a.keyedAt then .alert else .normal) := by
  obtain ⟨-, -, -, -, -, hprot⟩ := d.checked_facts a tuneF refl supLo
  obtain ⟨-, htrips, hquiet, hkey⟩ := sampleKeytime_facts
    ((d.checkBegun a tuneF refl supLo).beforeSample (inputs tuneF refl supLo) .keytime)
  have hst := afterSamples_keytime (d.checkBegun a tuneF refl supLo) (inputs tuneF refl supLo)
  have hsame := beforeSample_same (d.checkBegun a tuneF refl supLo) (inputs tuneF refl supLo) .keytime
  intro b x
  rw [hprot]
  refine ⟨htrips, hquiet, fun hn => (hkey (hst.trans hn)).trans ?_⟩
  have htime : (b.beforeSample x .keytime).keyTime = b.now - a.keyedAt :=
    (keyTime_onAir (a := { a with checks := a.checks + 1 }) (by rw [hsame]; rfl)).trans (by rw [hsame])
  have hwarn : (b.beforeSample x .keytime).warningPoint = 25000 - d.config.dKeytime * 100 := by rw [hsame]; rfl
  rw [htime, hwarn]

theorem isOwn_of_kinds {k : BurstKind} : k.isOwn = true ↔ k = .distress ∨ k = .cancel := by
  cases k <;> decide

/-- A check that trips nothing goes through R40's table. -/
theorem protectionCheck_quiet {d : Device} {a : OnAir} (h : d.access.onAir = some a) {tuneF refl supLo : Bool}
    (hn : ∀ m, ¬ d.willTrip m (inputs tuneF refl supLo m)) :
    d.protectionCheck tuneF refl supLo = d.checked a tuneF refl supLo ∧
    (d.checked a tuneF refl supLo).prot.trips = d.prot.trips ∧
    (d.checked a tuneF refl supLo).prot.quietEnd = d.prot.quietEnd := by
  obtain ⟨hflag, htrips, hquiet⟩ :=
    (afterSamples_counts (d.checkBegun a tuneF refl supLo) (inputs tuneF refl supLo)).1 fun m _ => hn m
  obtain ⟨ktrips, kquiet, -⟩ := d.checked_prot a tuneF refl supLo
  refine ⟨?_, ktrips.trans htrips, kquiet.trans hquiet⟩
  rw [protectionCheck_eq h, hflag]
  exact if_neg (by simp)

theorem checked_table {d : Device} (a : OnAir) {tuneF refl supLo : Bool}
    (hn : ∀ m, ¬ d.willTrip m (inputs tuneF refl supLo m)) (m : MonitorId) (hm : m ≠ .keytime) :
    let c := (d.checked a tuneF refl supLo).monitor m
    ((d.monitor m).st = .tripped ∨ (d.monitor m).st = .latched → c.st = (d.monitor m).st) ∧
    ((d.monitor m).resting = false →
      ((d.monitor m).st = .normal ∨ (d.monitor m).st = .alert → inputs tuneF refl supLo m = false →
        c.st = .normal ∧ c.run = 0) ∧
      ((d.monitor m).st = .normal → inputs tuneF refl supLo m = true → c.st = .alert ∧ c.run = 1) ∧
      ((d.monitor m).st = .alert → inputs tuneF refl supLo m = true →
        c.st = .alert ∧ c.run = min 255 ((d.monitor m).run + 1))) := by
  let b := d.checkBegun a tuneF refl supLo
  let x := inputs tuneF refl supLo
  obtain ⟨cst, crun⟩ := d.checked_monitor a tuneF refl supLo m hm
  obtain ⟨ast, arun⟩ := afterSamples_monitor b x m hm
  obtain ⟨bst, brun, brest⟩ := beforeSample_monitor b x m hm
  intro c
  rw [show c.st = _ from cst.trans ast, show c.run = _ from crun.trans arun]
  exact sampleMonitor_table _ m (x m) (fun ht => hn m ((willTrip_beforeSample b x m hm).1 ht)) (d.monitor m) bst brun
    brest

/-- A check that trips a monitor: the inhibit, the count and the stopped quiet timer. -/
theorem checked_tripped {d : Device} (a : OnAir) {tuneF refl supLo : Bool} {m : MonitorId}
    (ht : d.willTrip m (inputs tuneF refl supLo m)) :
    let c := d.checked a tuneF refl supLo
    (d.checkBegun a tuneF refl supLo).checkTrips (inputs tuneF refl supLo) = true ∧
    ((c.monitor m).st = .tripped ∨ (c.monitor m).st = .latched) ∧ c.prot.quietEnd = none ∧
    (d.prot.trips < 255 → d.prot.trips < c.prot.trips) := by
  let b := d.checkBegun a tuneF refl supLo
  let x := inputs tuneF refl supLo
  have hm : m ≠ .keytime := by
    rintro rfl
    exact absurd ht.1 Bool.false_ne_true
  obtain ⟨hflag, hquiet, hlt⟩ := (afterSamples_counts b x).2 m hm ht
  obtain ⟨ktrips, kquiet, -⟩ := d.checked_prot a tuneF refl supLo
  obtain ⟨cst, -⟩ := d.checked_monitor a tuneF refl supLo m hm
  intro c
  refine ⟨hflag, ?_, kquiet.trans hquiet, fun h => ?_⟩
  · rw [show (c.monitor m).st = _ from cst]
    exact afterSamples_tripped b x m hm ht
  · rw [show c.prot.trips = _ from ktrips]
    exact hlt h

/-- The abort of the tripping check leaves a tripped monitor tripped, and no monitor in ALERT (R28, R40). -/
theorem abortBurst_monitors {d : Device} {a : OnAir} (h : d.access.onAir = some a) (m : MonitorId) :
    ((d.abortBurst .trip).monitor m).st ≠ .alert ∧ ((d.abortBurst .trip).monitor m).resting = false ∧
    ((d.monitor m).st = .tripped ∨ (d.monitor m).st = .latched →
      ((d.abortBurst .trip).monitor m).st = (d.monitor m).st) := by
  obtain ⟨-, -, -, -, -, -, -, -, -, -, -, hmon⟩ := abortBurst_facts d a .trip h
  obtain ⟨hrest, hst⟩ := hmon m
  rw [hst]
  refine ⟨?_, hrest, fun hinh => if_neg ?_⟩
  · split
    · decide
    · rename_i hn
      exact fun ha => hn ⟨ha, fun hl => absurd hl.1 (by decide)⟩
  · rintro ⟨ha, -⟩
    rcases hinh with hi | hi <;> rw [hi] at ha <;> cases ha

/-- The check with any inputs: what it changes when nothing trips, and what a trip does. -/
theorem protectionCheck_facts {d : Device} {a : OnAir} (h : d.access.onAir = some a) (tuneF refl supLo : Bool) :
    let x := inputs tuneF refl supLo
    let e := d.protectionCheck tuneF refl supLo
    e.now = max d.now (a.keyedAt + 100 * (a.checks + 1)) ∧ e.pins = ⟨tuneF, refl, supLo⟩ ∧
    ((∀ m, ¬ d.willTrip m (x m)) →
      e.access.onAir = some { a with checks := a.checks + 1 } ∧ e.tx = d.tx ∧ e.prot.trips = d.prot.trips ∧
      e.prot.quietEnd = d.prot.quietEnd ∧
      (∀ m, m ≠ .keytime →
        ((d.monitor m).st = .tripped ∨ (d.monitor m).st = .latched → (e.monitor m).st = (d.monitor m).st) ∧
        ((d.monitor m).resting = false →
          ((d.monitor m).st = .normal ∨ (d.monitor m).st = .alert → x m = false →
            (e.monitor m).st = .normal ∧ (e.monitor m).run = 0) ∧
          ((d.monitor m).st = .normal → x m = true → (e.monitor m).st = .alert ∧ (e.monitor m).run = 1) ∧
          ((d.monitor m).st = .alert → x m = true →
            (e.monitor m).st = .alert ∧ (e.monitor m).run = min 255 ((d.monitor m).run + 1)))) ∧
      (d.prot.keytime.st = .normal → e.prot.keytime.st =
        if 25000 - d.config.dKeytime * 100 ≤ e.now - a.keyedAt then .alert else .normal)) ∧
    ∀ m, d.willTrip m (x m) →
      ((e.monitor m).st = .tripped ∨ (e.monitor m).st = .latched) ∧ e.inhibit = true ∧ e.prot.quietEnd = none ∧
      (d.prot.trips < 255 → d.prot.trips < e.prot.trips) ∧
      (a.item.kind = .distress ∨ a.item.kind = .cancel →
        e.access.onAir = some { a with checks := a.checks + 1 } ∧ e.tx = d.tx) ∧
      (a.item.kind ≠ .distress → a.item.kind ≠ .cancel →
        e.keyLine = false ∧ e.tx = none ∧ e.rx = Rx.blank .hunting ∧ e.access.chan = .clear ∧
        e.access.clearSince = some e.now ∧ e.access.counts.aborts = bump d.access.counts.aborts ∧
        ∀ m', (e.monitor m').st ≠ .alert ∧ (e.monitor m').resting = false) := by
  intro x e
  obtain ⟨cnow, cpins, ctx, cair, ccounts, -⟩ := d.checked_facts a tuneF refl supLo
  obtain ⟨anair, atx, arx, achan, aclear, anow, aborts, -, -, atrips, aquiet, -⟩ :=
    abortBurst_facts (d.checked a tuneF refl supLo) _ .trip cair
  have he : e = if ((d.checkBegun a tuneF refl supLo).checkTrips x && !a.item.kind.isOwn) = true
      then (d.checked a tuneF refl supLo).abortBurst .trip else d.checked a tuneF refl supLo :=
    protectionCheck_eq h tuneF refl supLo
  refine ⟨?_, ?_, fun hn => ?_, fun m ht => ?_⟩
  · rw [he]
    split
    · exact anow.trans cnow
    · exact cnow
  · rw [he]
    split
    · exact (abortBurst_pins _ _ _ cair).trans cpins
    · exact cpins
  · obtain ⟨hc, ktrips, kquiet⟩ := protectionCheck_quiet h hn
    obtain ⟨-, -, kkey⟩ := d.checked_prot a tuneF refl supLo
    rw [show e = _ from hc, cnow]
    exact ⟨cair, ctx, ktrips, kquiet, checked_table a hn, kkey⟩
  · obtain ⟨hflag, hst, hquiet, hlt⟩ := checked_tripped a ht
    rw [hflag, Bool.true_and] at he
    by_cases hown : a.item.kind = .distress ∨ a.item.kind = .cancel
    · rw [if_neg (by rw [isOwn_of_kinds.2 hown]; decide)] at he
      rw [he]
      exact ⟨hst, inhibit_of _ m hst, hquiet, hlt, fun _ => ⟨cair, ctx⟩,
        fun hd hc => absurd hown fun hk => hk.elim hd hc⟩
    · rw [if_pos (by rw [Bool.not_eq_true', ← Bool.not_eq_true, isOwn_of_kinds]; exact hown)] at he
      have hmon := fun m' => abortBurst_monitors cair (m := m')
      obtain ⟨-, -, hkeep⟩ := hmon m
      rw [he, keyLine, anair, atx, arx, achan, aclear, anow, aborts, ccounts, atrips, aquiet, hkeep hst]
      exact ⟨hst, inhibit_of _ m (by rw [hkeep hst]; exact hst), hquiet, hlt, fun hk => absurd hk hown,
        fun _ _ => ⟨rfl, rfl, rfl, rfl, rfl, rfl, fun m' => ⟨(hmon m').1, (hmon m').2.1⟩⟩⟩

/-! ### The check with every input inactive (R40, R41) -/

theorem sampleMonitor_idle {d : Device} {m : MonitorId} (hst : (d.monitor m).st = .normal)
    (hrest : (d.monitor m).resting = false) :
    d.sampleMonitor m false = (false, d.onMonitor m fun x => { x with run := 0 }) := by
  unfold sampleMonitor
  dsimp only
  rw [if_neg (by rw [hrest]; decide), hst]

theorem sampleKeytime_before {d : Device} (h : d.keyTime < d.warningPoint) : d.sampleKeytime = d := by
  unfold sampleKeytime
  exact if_neg fun hw => absurd hw.2 (Nat.not_le.2 h)

theorem protectionCheck_idle {d : Device} {a : OnAir} (ha : d.access.onAir = some a)
    (htune : d.prot.tune.st = .normal) (hreflect : d.prot.reflect.st = .normal) (hsupply : d.prot.supply.st = .normal)
    (hkey : d.prot.keytime.st = .normal) (rtune : d.prot.tune.resting = false)
    (rreflect : d.prot.reflect.resting = false) (rsupply : d.prot.supply.resting = false)
    (hnow : d.now ≤ a.keyedAt + 100 * (a.checks + 1)) (hwarn : 100 * (a.checks + 1) < 25000 - d.config.dKeytime * 100) :
    d.protectionCheck false false false = { d with
      now := a.keyedAt + 100 * (a.checks + 1), pins := ⟨false, false, false⟩,
      access := { d.access with onAir := some { a with checks := a.checks + 1 } },
      prot := { d.prot with
        tune := { d.prot.tune with run := 0 }, reflect := { d.prot.reflect with run := 0 },
        supply := { d.prot.supply with run := 0 } } } := by
  have hn : ∀ m, ¬ d.willTrip m (inputs false false false m) := by
    intro m ht
    cases m <;> exact absurd ht.1 Bool.false_ne_true
  have hbegun : d.checkBegun a false false false = { d with
      now := a.keyedAt + 100 * (a.checks + 1), pins := ⟨false, false, false⟩,
      access := { d.access with onAir := some { a with checks := a.checks + 1 } } } := by
    unfold checkBegun
    rw [Nat.max_eq_right hnow]
  have hsampled : (d.checkBegun a false false false).beforeSample (inputs false false false) .keytime
      = (((d.checkBegun a false false false).onMonitor .tune fun x => { x with run := 0 }).onMonitor .reflect
          fun x => { x with run := 0 }).onMonitor .supply fun x => { x with run := 0 } := by
    simp only [beforeSample, inputs]
    rw [sampleMonitor_idle (d := d.checkBegun a false false false) (m := .tune) htune rtune]
    dsimp only
    rw [sampleMonitor_idle (d := (d.checkBegun a false false false).onMonitor .tune _) (m := .reflect) hreflect
      rreflect]
    dsimp only
    rw [sampleMonitor_idle (d := ((d.checkBegun a false false false).onMonitor .tune _).onMonitor .reflect _)
      (m := .supply) hsupply rsupply]
  rw [(protectionCheck_quiet ha hn).1, checked, hsampled, hbegun, sampleKeytime_before, afterInhibit_eq, if_neg]
  · rfl
  · have hinhibit : ∀ e : Device, e.prot.tune.st = .normal → e.prot.reflect.st = .normal → e.prot.supply.st = .normal →
        e.prot.keytime.st = .normal → e.inhibit = false := by
      intro e h1 h2 h3 h4
      simp [inhibit, inhibits, h1, h2, h3, h4]
    exact fun h => Bool.false_ne_true ((hinhibit _ htune hreflect hsupply hkey).symm.trans h.2)
  · show a.keyedAt + 100 * (a.checks + 1) - a.keyedAt < 25000 - d.config.dKeytime * 100
    rw [Nat.add_sub_cancel_left]
    exact hwarn

/-! ### Recovery and the quiet timer (R44, R45) -/

theorem reportKeyTime_eq (d : Device) :
    d.reportKeyTime = match d.access.onAir with | none => 0 | some a => d.now - a.keyedAt := by
  unfold reportKeyTime keyLine keyTime
  cases d.access.onAir <;> rfl

/-- The recovering monitor on trial, its timer run out, and the quiet timer started. -/
def onTrial (d : Device) (m : MonitorId) (t : Time) : Device :=
  onMonitor { d with
    now := max d.now t, prot := { d.prot with quietEnd := some (max d.now t + 300000) } } m
    fun x => { x with recoverAt := none, resting := d.keyLine }

theorem recoveryTime_of {d : Device} {m : MonitorId} {t : Time} (hst : (d.monitor m).st = .tripped)
    (ht : (d.monitor m).recoverAt = some t) : d.recoveryTime m = (d.onTrial m t).moveMonitor m .normal 0 .recoveryTime
      (match d.access.onAir with | none => 0 | some a => max d.now t - a.keyedAt) := by
  have hrow : d.recoveryTime m = (d.reach t).recoverMonitor m := by
    unfold recoveryTime
    rw [hst, ht]
  rw [hrow, recoverMonitor, reportKeyTime_eq]
  cases m <;> rfl

/-- A change of one monitor's state leaves the others as they were, owed report included. -/
theorem moveMonitor_other (d : Device) {m m' : MonitorId} (h : m' ≠ m) (st : MonState) (run : Nat) (c : ProtCause)
    (k : Nat) : (d.moveMonitor m st run c k).monitor m' = d.monitor m' := by
  have hreport : ∀ (e : Device) (r : OwedRef) (x : List Datum),
      (e.report .protection r x).monitor m' = e.monitor m' := by
    intro e r x
    rw [report_eq]
    cases m' <;> rfl
  unfold moveMonitor reportMonitor
  dsimp only
  split <;> simp only [monitor_onMonitor, hreport, if_neg h]

theorem recoveryTime_facts {d : Device} {m : MonitorId} {t : Time} (hst : (d.monitor m).st = .tripped)
    (ht : (d.monitor m).recoverAt = some t) :
    let e := d.recoveryTime m
    e.now = max d.now t ∧ (e.monitor m).st = .normal ∧ (e.monitor m).run = 0 ∧ (e.monitor m).recoverAt = none ∧
    (e.monitor m).resting = d.keyLine ∧ e.prot.quietEnd = some (e.now + 300000) ∧ e.prot.trips = d.prot.trips ∧
    (∀ m', m' ≠ m → e.monitor m' = d.monitor m') ∧ e.access = d.access ∧ e.store = d.store := by
  intro e
  have he : e = (d.onTrial m t).moveMonitor m .normal 0 .recoveryTime _ := recoveryTime_of hst ht
  have hsame : sameBut (d.onTrial m t) e := by
    rw [he]
    exact moveMonitor_same _ _ _ _ _ _
  have htrial : (d.onTrial m t).monitor m = { d.monitor m with recoverAt := none, resting := d.keyLine } := by
    cases m <;> rfl
  have hnow : e.now = max d.now t := by rw [hsame]; rfl
  obtain ⟨hm, hrun, hrec, hrest, htrips, hquiet⟩ := monitor_moveMonitor (d.onTrial m t) m m .normal 0 .recoveryTime
    (match d.access.onAir with | none => 0 | some a => max d.now t - a.keyedAt)
  rw [← he] at hm hrun hrec hrest htrips hquiet
  rw [hm, hrun, hrec, hrest, hquiet, htrips, hnow, htrial, if_pos rfl, if_pos rfl]
  refine ⟨rfl, rfl, rfl, rfl, rfl, ?_, ?_, fun m' hm' => ?_, ?_, ?_⟩
  · cases m <;> rfl
  · cases m <;> rfl
  · rw [he, moveMonitor_other _ hm', onTrial, monitor_onMonitor, if_neg hm']
    cases m' <;> rfl
  · rw [hsame]; rfl
  · rw [hsame]; rfl

theorem quietTime_of {d : Device} {t : Time} (h : d.prot.quietEnd = some t) :
    d.quietTime = { d with now := max d.now t, prot := { d.prot with trips := 0, quietEnd := none } } := by
  unfold quietTime
  rw [h]
  rfl

/-! ### KEYTIME, and the BEACON item (R41, R73) -/

theorem sampleKeytime_warns {d : Device} (hst : d.prot.keytime.st = .normal)
    (hw : 25000 - d.config.dKeytime * 100 ≤ d.keyTime) :
    d.sampleKeytime = d.moveMonitor .keytime .alert 0 .activeSample
      (match d.access.onAir with | none => 0 | some a => d.now - a.keyedAt) := by
  rw [← reportKeyTime_eq]
  unfold sampleKeytime
  exact if_pos ⟨hst, hw⟩

theorem sampleKeytime_stays {d : Device}
    (h : d.prot.keytime.st ≠ .normal ∨ d.keyTime < 25000 - d.config.dKeytime * 100) : d.sampleKeytime = d := by
  unfold sampleKeytime
  exact if_neg fun hw => h.elim (fun hn => hn hw.1) fun hlt => absurd hw.2 (Nat.not_le.2 hlt)

theorem hasBeacon_iff (d : Device) :
    d.hasItem .routine isBeacon = true ↔ ∃ it ∈ d.access.routine.items, it.kind = .beacon := by
  simp only [hasItem, isBeacon, List.any_eq_true, beq_iff_eq]
  rfl

theorem dropBeacon_none {d : Device} (h : ∀ it ∈ d.access.routine.items, it.kind ≠ .beacon) : d.dropBeacon = d := by
  unfold dropBeacon
  refine if_neg fun hb => ?_
  obtain ⟨it, hmem, hk⟩ := d.hasBeacon_iff.1 hb
  exact h it hmem hk

theorem dropBeacon_some {d : Device} (h : ∃ it ∈ d.access.routine.items, it.kind = .beacon) :
    d.dropBeacon = (d.withdraw .routine isBeacon).skipBeacon := by
  unfold dropBeacon
  exact if_pos (d.hasBeacon_iff.2 h)

end Device

/-- Settles O27: each row through R40's table, and the orders of reports clause by clause. -/
theorem protectionEvents : Obligations.ProtectionEvents := by
  unfold Obligations.ProtectionEvents
  refine ⟨⟨?_, ?_, ?_, ?_⟩, ?_, fun d => ⟨fun limit => ?_, ?_, ?_, fun count => ⟨?_, ?_⟩, ?_, ?_, ?_⟩⟩
  · intro a s hlow ha htune hreflect hsupply hkey rtune rreflect rsupply hnow hwarn
    exact exec_of_event (fun d => d.protectionCheck false false false) rfl hlow
      (Device.protectionCheck_idle ha htune hreflect hsupply hkey rtune rreflect rsupply hnow hwarn)
  · intro m t s hlow hst ht
    exact ⟨_, exec_of_event (Device.recoveryTime m) rfl hlow rfl, Device.recoveryTime_facts hst ht⟩
  · intro t s hlow ht
    exact exec_of_event Device.quietTime rfl hlow (Device.quietTime_of ht)
  · intro a tuneF refl supLo s hlow ha sample trips
    have hsample : sample = Device.inputs tuneF refl supLo := by
      funext m
      cases m <;> rfl
    have htrips : ∀ m, trips m ↔ s.dev.willTrip m (Device.inputs tuneF refl supLo m) := by
      intro m
      rw [← hsample]
      exact Iff.rfl
    refine ⟨_, exec_of_event (fun d => d.protectionCheck tuneF refl supLo) rfl hlow rfl, ?_⟩
    obtain ⟨hnow, hpins, hq, ht⟩ := Device.protectionCheck_facts ha tuneF refl supLo
    rw [hsample]
    simp only [htrips]
    exact ⟨hnow, hpins, hq, ht⟩
  · intro m t s hlow hst ht
    exact exec_of_event (Device.recoveryTime m) rfl hlow (Device.recoveryTime_of hst ht)
  · rfl
  · exact Device.sampleKeytime_warns
  · exact Device.sampleKeytime_stays
  · intro h
    rw [Device.tripKeytime_eq, if_pos h, Device.afterInhibit_eq]
    rfl
  · intro hn ha
    rw [Device.tripKeytime_eq, if_neg (fun h => h.elim hn ha), Device.afterInhibit_eq]
    rfl
  · intro a tuneF refl supLo s hlow ha begun one two three after
    refine exec_of_event (fun d => d.protectionCheck tuneF refl supLo) rfl hlow
      ((Device.protectionCheck_eq ha tuneF refl supLo).trans ?_)
    have hafter : s.dev.checked a tuneF refl supLo = after := Device.afterInhibit_eq _ _
    have hflag : ((s.dev.checkBegun a tuneF refl supLo).checkTrips (Device.inputs tuneF refl supLo)
          && !a.item.kind.isOwn) = true ↔
        (one.1 = true ∨ two.1 = true ∨ three.1 = true) ∧ a.item.kind ≠ .distress ∧ a.item.kind ≠ .cancel := by
      rw [Bool.and_eq_true, Bool.not_eq_true', ← Bool.not_eq_true, Device.isOwn_of_kinds, not_or, Device.checkTrips,
        Bool.or_eq_true, Bool.or_eq_true, or_assoc]
      rfl
    rw [hafter]
    exact if_congr hflag rfl rfl
  · exact Device.dropBeacon_none
  · exact Device.dropBeacon_some

end Sys2Proof.Machine
end

section
/-! PROOF. DISTRESS and CANCEL from the host, the abandoned loop test, and the hold that begins (O39). -/

namespace Sys2Proof.Machine
namespace Device

/-! ### An own request, block by block (R32, R49, R50) -/

/-- The own item the record asks for waits after an own request, and the rest of the alert stays (R109). -/
theorem offerOwn_result (d : Device) :
    (∃ it ∈ d.offerOwn.access.distress.waiting, it.kind = d.ownKind ∧ it.owner = .own ∧ it.dest = 262143 ∧
      it.seq = d.distress.own.num ∧ it.body = d.ownBody ∧ it.ready = d.now) ∧
    ownSame d.offerOwn.distress.own d.distress.own ∧ d.offerOwn.console.fix = d.console.fix ∧
    d.offerOwn.console.distress = d.console.distress ∧ d.offerOwn.distress.holdSince = d.distress.holdSince ∧
    d.offerOwn.now = d.now ∧ d.offerOwn.loop.st = .idle := by
  obtain ⟨e, he, hown, hfix, hlane, hsince, -, hnow, -, hloop, -⟩ := offerOwn_form d
  have hst : e.distress.own.st = d.distress.own.st := by rw [hown]
  have hnum : e.distress.own.num = d.distress.own.num := by rw [hown]
  have hkind : e.ownKind = d.ownKind := by unfold ownKind; rw [hst]
  have hbody : e.ownBody = d.ownBody := by unfold ownBody; rw [hown, hfix]
  rw [he, placeOwn_eq]
  exact ⟨⟨_, List.mem_append_right _ (List.mem_singleton.2 rfl), hkind, rfl, rfl, hnum, hbody, hnow⟩,
    hown, hfix, hlane, hsince, hnow, hloop⟩

/-- A PRIORITY or ROUTINE burst on air is preempted (R32). -/
theorem offerOwn_preempts {d : Device} (h : d.preempts) :
    d.offerOwn.keyLine = false ∧ d.offerOwn.tx = none ∧ d.offerOwn.access.chan = .clear ∧
    d.offerOwn.access.clearSince = some d.now ∧
    d.offerOwn.access.counts.preemptions = bump d.access.counts.preemptions := by
  obtain ⟨e, he, -, -, -, -, -, -, -, -, hpre, -⟩ := offerOwn_form d
  obtain ⟨hair, htx, hchan, hclear, hcount, -⟩ := hpre h
  rw [he, placeOwn_eq]
  exact ⟨Option.isSome_eq_false_iff.2 (Option.isNone_iff_eq_none.2 hair), htx, hchan, hclear, hcount⟩

/-- With no such burst on air, only the record of the loop test and the DISTRESS class change. -/
theorem offerOwn_keeps {d : Device} (h : ¬ d.preempts) :
    d.offerOwn.access.onAir = d.access.onAir ∧ d.offerOwn.tx = d.tx ∧ d.offerOwn.store = d.store ∧
    d.offerOwn.log = d.log := by
  obtain ⟨e, he, -, -, -, -, -, -, -, -, -, hnot, -⟩ := offerOwn_form d
  obtain ⟨hacc, htx, hstore, hlog, -⟩ := hnot h
  have hair : e.access.onAir = d.access.onAir := by rw [hacc]
  rw [he, placeOwn_eq]
  exact ⟨hair, htx, hstore, hlog⟩

/-- With no own burst on air, the items of the class are those that waited and the one offered. -/
theorem offerOwn_items {d : Device} (h : d.ownOnAir = false) (it : Item)
    (hit : it ∈ d.offerOwn.access.distress.items) :
    it ∈ d.access.distress.items ∨
      it.kind = d.ownKind ∧ it.body = d.ownBody ∧ it.seq = d.distress.own.num := by
  obtain ⟨e, he, -, hfix, -, -, -, -, -, -, -, -, hquiet⟩ := offerOwn_form d
  obtain ⟨hqueue, hown⟩ := hquiet h
  rw [he, placeOwn_eq] at hit
  unfold ClassQueue.items at hit ⊢
  dsimp only at hit
  rw [hqueue, List.append_assoc, List.mem_append, List.mem_append, List.mem_singleton] at hit
  rw [List.mem_append]
  rcases hit with hit | hit | hit
  · exact .inl (.inl hit)
  · refine .inr ?_
    rw [hit]
    refine ⟨?_, ?_, ?_⟩
    · show e.ownKind = d.ownKind
      unfold ownKind
      rw [hown]
    · show e.ownBody = d.ownBody
      unfold ownBody
      rw [hown, hfix]
    · show e.distress.own.num = _
      rw [hown]
  · exact .inl (.inr hit)

theorem offerOwn_own {d : Device} (h : d.ownOnAir = false) : d.offerOwn.distress.own = d.distress.own := by
  obtain ⟨e, he, -, -, -, -, -, -, -, -, -, -, hquiet⟩ := offerOwn_form d
  rw [he, placeOwn_eq]
  exact (hquiet h).2

theorem not_preempts {d : Device}
    (h : ∀ a, d.access.onAir = some a → a.item.kind.cls = .answer ∨ a.item.kind.cls = .distress) : ¬ d.preempts := by
  rintro ⟨a, ha, hk⟩
  rcases h a ha with hc | hc <;> rw [hc] at hk <;> rcases hk with hk | hk <;> cases hk

/-! ### DISTRESS with the alert IDLE (R108) -/

/-- The own alert as a DISTRESS with the alert IDLE makes it. -/
def alertStarted (d : Device) (nature : Nat) (persons : Option Nat) : OwnAlert :=
  { d.distress.own with st := .alerting, num := (d.distress.own.num + 1) % 64, nature := nature, persons := persons,
                        cancelCount := 0, ackedBy := none, repeatAsked := false }

/-- The device with the alert started and reported, and the hold begun if none was in force. -/
def alertHeld (d : Device) (nature : Nat) (persons : Option Nat) : Device :=
  let told := (d.onOwn fun _ => d.alertStarted nature persons).reportOwn .started
  if d.holdInForce then told else told.startHold HoldCause.ownAlert.code told.config.own

theorem startAlert_eq (d : Device) (nature : Nat) (persons : Option Nat) :
    d.startAlert nature persons = (d.alertHeld nature persons).offerOwn := rfl

theorem alertHeld_facts (d : Device) (nature : Nat) (persons : Option Nat) :
    let e := d.alertHeld nature persons
    e.distress.own = d.alertStarted nature persons ∧ e.console.fix = d.console.fix ∧ e.access.onAir = d.access.onAir ∧
    e.access.counts = d.access.counts ∧ e.tx = d.tx ∧ e.now = d.now ∧
    (d.holdInForce = false → e.distress.holdSince = some d.now) ∧
    ∃ l, e.console.distress.entries
      = ((d.onOwn fun _ => d.alertStarted nature persons).reportOwn .started).console.distress.entries ++ l := by
  let told := (d.onOwn fun _ => d.alertStarted nature persons).reportOwn .started
  obtain ⟨htold, tfix⟩ := reportOwn_eq (d.onOwn fun _ => d.alertStarted nature persons) .started
  intro e
  cases hh : d.holdInForce
  case true =>
    have he : e = told := if_pos hh
    rw [he]
    refine ⟨?_, tfix, ?_, ?_, ?_, ?_, fun h => absurd h (by decide), [], (List.append_nil _).symm⟩ <;>
      rw [show told = _ from htold] <;> rfl
  case false =>
    have he : e = told.startHold HoldCause.ownAlert.code told.config.own := if_neg (by rw [hh]; decide)
    obtain ⟨sown, sfix, sair, scounts, -, stx, snow, ssince, -, -, -, slane⟩ :=
      startHold_keeps told HoldCause.ownAlert.code told.config.own
    rw [he, sown, sfix, sair, scounts, stx, snow, ssince]
    refine ⟨?_, tfix, ?_, ?_, ?_, ?_, fun _ => ?_, slane⟩ <;> rw [show told = _ from htold] <;> rfl

theorem preempts_congr {d e : Device} (h : e.access.onAir = d.access.onAir) : e.preempts ↔ d.preempts := by
  unfold preempts
  rw [h]

/-- OWN ALERT STATE tells of the alert as it stands after the request. -/
theorem ownAlertData_congr {d e : Device} (hst : e.distress.own.st = d.distress.own.st)
    (hnature : e.distress.own.nature = d.distress.own.nature)
    (hpersons : e.distress.own.persons = d.distress.own.persons)
    (hcancel : e.distress.own.cancelCount = d.distress.own.cancelCount) (hfix : e.console.fix = d.console.fix)
    (hnow : e.now = d.now) (event : OwnEvent) (num : Nat) (st : Station) :
    e.ownAlertData event num st = d.ownAlertData event num st := by
  have hpos : e.positionFlag = d.positionFlag := by
    unfold positionFlag fixStale
    rw [hfix, hnow]
  unfold ownAlertData
  dsimp only
  rw [hst, hnature, hpersons, hcancel, hpos]

theorem startAlert_facts {d : Device} (nature : Nat) (persons : Option Nat) :
    let e := d.startAlert nature persons
    e.distress.own.st = .alerting ∧ e.distress.own.num = (d.distress.own.num + 1) % 64 ∧
    e.distress.own.nature = nature ∧ e.distress.own.persons = persons ∧ e.distress.own.cancelCount = 0 ∧
    e.distress.own.ackedBy = none ∧ e.holdInForce = true ∧
    (d.holdInForce = false → e.distress.holdSince = some d.now) ∧
    (∃ it ∈ e.access.distress.waiting, it.kind = .distress ∧ it.owner = .own ∧ it.dest = 262143 ∧
      it.seq = e.distress.own.num ∧ it.body = distressBody ⟨nature, d.console.fix.map fun f => (f.lat, f.lon),
        d.console.fix.map fun f => (f.hour, f.minute), persons⟩ ∧ it.ready = d.now) ∧
    (d.console.distress.entries.length < 8 → OwedRef.ownAlert ∉ d.console.distress.owed →
      ⟨.ownAlertState, 0, .report (e.ownAlertData .started e.distress.own.num 0), 0⟩ ∈ e.console.distress.entries) ∧
    e.loop.st = .idle := by
  let held := d.alertHeld nature persons
  intro e
  obtain ⟨hown, hfix, -, -, -, hnow, hsince, l, hlane⟩ := d.alertHeld_facts nature persons
  obtain ⟨⟨it, hit, hkind, howner, hdest, hseq, hbody, hready⟩, oown, ofix, olane, osince, onow, oloop⟩ :=
    held.offerOwn_result
  have he : e = held.offerOwn := d.startAlert_eq nature persons
  have hst : held.distress.own.st = .alerting := by rw [show held.distress.own = _ from hown]; rfl
  have hownKind : held.ownKind = .distress := by
    unfold ownKind
    rw [hst]
    rfl
  have hownBody : held.ownBody = distressBody ⟨nature, d.console.fix.map fun f => (f.lat, f.lon),
      d.console.fix.map fun f => (f.hour, f.minute), persons⟩ := by
    unfold ownBody
    rw [hst, if_neg (by decide), show held.console.fix = _ from hfix, show held.distress.own = _ from hown]
    rfl
  have hnum : held.offerOwn.distress.own.num = held.distress.own.num := by rw [oown]
  have hafter : held.offerOwn.distress.own = { d.alertStarted nature persons with
      repeatAsked := held.offerOwn.distress.own.repeatAsked } := by
    rw [← hown]
    exact oown
  rw [he]
  refine ⟨?_, ?_, ?_, ?_, ?_, ?_, ?_, fun hh => ?_,
    ⟨it, hit, hkind.trans hownKind, howner, hdest, hseq.trans hnum.symm, hbody.trans hownBody, hready.trans hnow⟩,
    fun hroom howed => ?_, oloop⟩
  · rw [hafter]; rfl
  · rw [hafter]; rfl
  · rw [hafter]; rfl
  · rw [hafter]; rfl
  · rw [hafter]; rfl
  · rw [hafter]; rfl
  · refine holdInForce_of_own ?_
    rw [hafter]
    exact fun hidle => by cases hidle
  · rw [osince]; exact hsince hh
  · have hentry := reportOwn_room (d.onOwn fun _ => d.alertStarted nature persons) .started hroom howed
    have hdata := ownAlertData_congr (d := d.onOwn fun _ => d.alertStarted nature persons) (e := held.offerOwn)
      (by rw [hafter]; rfl) (by rw [hafter]; rfl) (by rw [hafter]; rfl) (by rw [hafter]; rfl)
      (ofix.trans hfix) (onow.trans hnow) .started held.offerOwn.distress.own.num 0
    rw [olane, show held.console.distress.entries = _ from hlane, hentry, hdata, hnum,
      show held.distress.own = _ from hown]
    exact List.mem_append_left l (List.mem_append_right _ (List.mem_singleton.2 rfl))

/-- A PRIORITY or ROUTINE burst on air gives way to the alert, and another goes on (R32). -/
theorem startAlert_onAir {d : Device} (nature : Nat) (persons : Option Nat) {a : OnAir} (ha : d.access.onAir = some a) :
    let e := d.startAlert nature persons
    (a.item.kind.cls = .routine ∨ a.item.kind.cls = .priority →
      e.keyLine = false ∧ e.tx = none ∧ e.access.chan = .clear ∧ e.access.clearSince = some d.now ∧
      e.access.counts.preemptions = bump d.access.counts.preemptions) ∧
    (a.item.kind.cls = .answer ∨ a.item.kind.cls = .distress → e.access.onAir = some a ∧ e.tx = d.tx) := by
  obtain ⟨-, -, hair, hcounts, htx, hnow, -⟩ := d.alertHeld_facts nature persons
  intro e
  have he : e = (d.alertHeld nature persons).offerOwn := d.startAlert_eq nature persons
  rw [he]
  refine ⟨fun hk => ?_, fun hk => ?_⟩
  · obtain ⟨hup, otx, hchan, hclear, hcount⟩ := offerOwn_preempts ((preempts_congr hair).2 ⟨a, ha, hk⟩)
    rw [hnow] at hclear
    rw [hcounts] at hcount
    exact ⟨hup, otx, hchan, hclear, hcount⟩
  · have hnot : ¬ (d.alertHeld nature persons).preempts := by
      refine not_preempts fun b hb => ?_
      rw [hair, ha, Option.some_inj] at hb
      exact hb ▸ hk
    obtain ⟨oair, otx, -⟩ := offerOwn_keeps hnot
    exact ⟨oair.trans (hair.trans ha), otx.trans htx⟩

/-! ### DISTRESS with the alert ALERTING or ACKNOWLEDGED, and CANCEL (R109, R113) -/

/-- The own alert as a DISTRESS with the alert ALERTING or ACKNOWLEDGED makes it. -/
def alertAgain (d : Device) (nature : Nat) (persons : Option Nat) : OwnAlert :=
  { d.distress.own with st := .alerting, nature := nature, persons := persons, ackedBy := none }

/-- The device with the alert raised again and reported. -/
def toldAgain (d : Device) (nature : Nat) (persons : Option Nat) : Device :=
  (d.onOwn fun _ => d.alertAgain nature persons).reportOwn
    (if d.distress.own.st = .alerting then .updated else .raisedAgain)

theorem raiseAgain_eq (d : Device) (nature : Nat) (persons : Option Nat) :
    d.raiseAgain nature persons = (d.toldAgain nature persons).repeatNow := rfl

theorem toldAgain_eq (d : Device) (nature : Nat) (persons : Option Nat) :
    d.toldAgain nature persons = { d with
      distress := { d.distress with own := d.alertAgain nature persons },
      console := (d.toldAgain nature persons).console } ∧
    (d.toldAgain nature persons).console.fix = d.console.fix :=
  reportOwn_eq (d.onOwn fun _ => d.alertAgain nature persons) _

theorem ownOnAir_congr {d e : Device} (h : e.access.onAir = d.access.onAir) : e.ownOnAir = d.ownOnAir := by
  unfold ownOnAir
  rw [h]

theorem ownWaits_iff (d : Device) : d.ownWaits = true ↔ ∃ it ∈ d.access.distress.items, it.owner = .own := by
  simp only [ownWaits, hasItem, isOwnItem, List.any_eq_true, beq_iff_eq]
  rfl

theorem repeatNow_onAir {d : Device} (h : d.ownOnAir = true) :
    d.repeatNow = d.onOwn fun o => { o with repeatAsked := true } := by
  unfold repeatNow
  exact if_pos h

theorem repeatNow_waits {d : Device} (h : d.ownOnAir = false) (hw : ∃ it ∈ d.access.distress.items, it.owner = .own) :
    d.repeatNow = { d with access := { d.access with
      distress := d.access.distress.rewrite isOwnItem fun it => { it with body := d.ownBody } } } := by
  unfold repeatNow
  rw [if_neg (by rw [h]; decide), if_pos (d.ownWaits_iff.2 hw)]
  rfl

theorem repeatNow_offers {d : Device} (h : d.ownOnAir = false)
    (hw : ∀ it ∈ d.access.distress.items, it.owner ≠ .own) :
    d.repeatNow = (d.onOwn fun o => { o with repeatDue := none }).offerOwn := by
  unfold repeatNow
  rw [if_neg (by rw [h]; decide), if_neg]
  intro hn
  obtain ⟨it, hit, ho⟩ := d.ownWaits_iff.1 hn
  exact hw it hit ho

/-- The queue with the own items' bodies replaced. -/
theorem rewrite_own (q : ClassQueue) (body : List Nat) :
    (q.rewrite isOwnItem fun it => { it with body := body }) =
      { waiting := q.waiting.map fun it => if it.owner = .own then { it with body := body } else it,
        contender := q.contender.map fun k =>
          if k.item.owner = .own then { k with item := { k.item with body := body } } else k } := by
  simp only [ClassQueue.rewrite, mapIf, isOwnItem, beq_iff_eq]

/-- Rewriting the own items changes each item's body at most. -/
theorem mem_items_rewrite {q : ClassQueue} {body : List Nat} {it : Item} :
    it ∈ (q.rewrite isOwnItem fun it => { it with body := body }).items ↔
      ∃ x ∈ q.items, it = if x.owner = .own then { x with body := body } else x := by
  rw [rewrite_own]
  unfold ClassQueue.items
  cases q.contender with
  | none => simp only [List.append_nil, Option.map_none, List.mem_map, eq_comm]
  | some k =>
    simp only [Option.map_some, List.mem_append, List.mem_map, List.mem_singleton, or_and_right, exists_or, eq_comm,
      exists_eq_left]
    refine or_congr Iff.rfl ?_
    split <;> exact Iff.rfl

/-- The own item's body, from the record and the fix (R109). -/
theorem toldAgain_body (d : Device) (nature : Nat) (persons : Option Nat) :
    (d.toldAgain nature persons).ownKind = .distress ∧
    (d.toldAgain nature persons).ownBody = distressBody ⟨nature, d.console.fix.map fun f => (f.lat, f.lon),
      d.console.fix.map fun f => (f.hour, f.minute), persons⟩ := by
  obtain ⟨ht, hfix⟩ := d.toldAgain_eq nature persons
  have hown : (d.toldAgain nature persons).distress.own = d.alertAgain nature persons := by rw [ht]
  unfold ownKind ownBody
  rw [hown, hfix]
  exact ⟨rfl, rfl⟩

/-- Each way a raised alert goes on: a repeat asked for, a waiting item's body replaced, or an item offered. -/
theorem raiseAgain_onAir {d : Device} (nature : Nat) (persons : Option Nat) (h : d.ownOnAir = true) :
    d.raiseAgain nature persons = (d.toldAgain nature persons).onOwn fun o => { o with repeatAsked := true } := by
  obtain ⟨ht, -⟩ := d.toldAgain_eq nature persons
  rw [raiseAgain_eq]
  exact repeatNow_onAir ((ownOnAir_congr (by rw [ht])).trans h)

theorem raiseAgain_waits {d : Device} (nature : Nat) (persons : Option Nat) (h : d.ownOnAir = false)
    (hw : ∃ it ∈ d.access.distress.items, it.owner = .own) :
    d.raiseAgain nature persons = { d.toldAgain nature persons with access := { d.access with
      distress := d.access.distress.rewrite isOwnItem fun it =>
        { it with body := (d.toldAgain nature persons).ownBody } } } := by
  obtain ⟨ht, -⟩ := d.toldAgain_eq nature persons
  have hacc : (d.toldAgain nature persons).access = d.access := by rw [ht]
  rw [raiseAgain_eq, repeatNow_waits ((ownOnAir_congr (by rw [ht])).trans h) (by rw [hacc]; exact hw), hacc]

theorem raiseAgain_offers {d : Device} (nature : Nat) (persons : Option Nat) (h : d.ownOnAir = false)
    (hw : ∀ it ∈ d.access.distress.items, it.owner ≠ .own) :
    d.raiseAgain nature persons
      = ((d.toldAgain nature persons).onOwn fun o => { o with repeatDue := none }).offerOwn := by
  obtain ⟨ht, -⟩ := d.toldAgain_eq nature persons
  have hacc : (d.toldAgain nature persons).access = d.access := by rw [ht]
  rw [raiseAgain_eq, repeatNow_offers ((ownOnAir_congr (by rw [ht])).trans h) (by rw [hacc]; exact hw)]

/-- The alert as it stands after it was raised again, whichever way it goes on. -/
theorem raiseAgain_own (d : Device) (nature : Nat) (persons : Option Nat) :
    let o := (d.raiseAgain nature persons).distress.own
    o.st = .alerting ∧ o.num = d.distress.own.num ∧ o.nature = nature ∧ o.persons = persons ∧ o.ackedBy = none ∧
    (d.access.onAir = none →
      (d.raiseAgain nature persons).store = d.store ∧ (d.raiseAgain nature persons).log = d.log) := by
  obtain ⟨ht, -⟩ := d.toldAgain_eq nature persons
  intro o
  have ho : o = (d.raiseAgain nature persons).distress.own := rfl
  rw [ho]
  cases h : d.ownOnAir
  case true =>
    rw [raiseAgain_onAir nature persons h, ht]
    exact ⟨rfl, rfl, rfl, rfl, rfl, fun _ => ⟨rfl, rfl⟩⟩
  case false =>
    by_cases hw : ∃ it ∈ d.access.distress.items, it.owner = .own
    · rw [raiseAgain_waits nature persons h hw, ht]
      exact ⟨rfl, rfl, rfl, rfl, rfl, fun _ => ⟨rfl, rfl⟩⟩
    · have hn : ∀ it ∈ d.access.distress.items, it.owner ≠ .own := fun it hit hown => hw ⟨it, hit, hown⟩
      rw [raiseAgain_offers nature persons h hn,
        offerOwn_own ((ownOnAir_congr (by rw [ht]; rfl)).trans h), ht]
      refine ⟨rfl, rfl, rfl, rfl, rfl, fun hair => ?_⟩
      obtain ⟨-, -, hstore, hlog⟩ := offerOwn_keeps
        (d := onOwn { d with
          distress := { d.distress with own := d.alertAgain nature persons },
          console := (d.toldAgain nature persons).console } fun o => { o with repeatDue := none })
        (not_preempts fun a ha => absurd (hair.symm.trans ha) (Option.some_ne_none a).symm)
      exact ⟨hstore, hlog⟩

theorem raiseAgain_items {d : Device} (nature : Nat) (persons : Option Nat) (h : d.ownOnAir = false) :
    let e := d.raiseAgain nature persons
    let body := distressBody ⟨nature, d.console.fix.map fun f => (f.lat, f.lon),
      d.console.fix.map fun f => (f.hour, f.minute), persons⟩
    (∃ it ∈ e.access.distress.items, it.owner = .own) ∧
    (∀ it ∈ e.access.distress.items, it.owner = .own → it.body = body) ∧
    ((∃ it ∈ d.access.distress.items, it.owner = .own) →
      e.access = { d.access with distress :=
        { waiting := d.access.distress.waiting.map fun it => if it.owner = .own then { it with body := body } else it,
          contender := d.access.distress.contender.map fun k =>
            if k.item.owner = .own then { k with item := { k.item with body := body } } else k } }) ∧
    ((∀ it ∈ d.access.distress.items, it.owner ≠ .own) →
      e.distress.own.repeatDue = none ∧
      ∃ it ∈ e.access.distress.waiting, it.kind = .distress ∧ it.owner = .own ∧ it.dest = 262143 ∧
        it.seq = d.distress.own.num ∧ it.ready = d.now) := by
  obtain ⟨hkind, hbody⟩ := d.toldAgain_body nature persons
  obtain ⟨ht, -⟩ := d.toldAgain_eq nature persons
  intro e body
  have hebody : (d.toldAgain nature persons).ownBody = body := hbody
  by_cases hw : ∃ it ∈ d.access.distress.items, it.owner = .own
  · have he : e = _ := raiseAgain_waits nature persons h hw
    rw [he, hebody]
    obtain ⟨it, hit, ho⟩ := hw
    refine ⟨⟨{ it with body := body }, mem_items_rewrite.2 ⟨it, hit, by rw [if_pos ho]⟩, ho⟩, fun x hx hxo => ?_,
      fun _ => by rw [rewrite_own], fun hn => absurd ho (hn it hit)⟩
    obtain ⟨y, -, hy⟩ := mem_items_rewrite.1 hx
    by_cases hyo : y.owner = .own
    · rw [hy, if_pos hyo]
    · rw [if_neg hyo] at hy
      exact absurd (hy ▸ hxo) hyo
  · have hn : ∀ it ∈ d.access.distress.items, it.owner ≠ .own := fun it hit hown => hw ⟨it, hit, hown⟩
    let asked := (d.toldAgain nature persons).onOwn fun o => { o with repeatDue := none }
    have he : e = asked.offerOwn := raiseAgain_offers nature persons h hn
    have hquiet : asked.ownOnAir = false :=
      (ownOnAir_congr (show (d.toldAgain nature persons).access.onAir = d.access.onAir by rw [ht])).trans h
    have hitems : asked.access = d.access := show (d.toldAgain nature persons).access = d.access by rw [ht]
    obtain ⟨⟨it, hit, ikind, iown, idest, iseq, ibody, iready⟩, -⟩ := asked.offerOwn_result
    rw [he]
    refine ⟨⟨it, List.mem_append_left _ hit, iown⟩, fun x hx hxo => ?_, fun hsome => absurd hsome hw, fun _ => ⟨?_,
      it, hit, ikind.trans hkind, iown, idest, iseq.trans ?_, iready.trans ?_⟩⟩
    · rcases offerOwn_items hquiet x hx with hold | ⟨-, hxb, -⟩
      · rw [hitems] at hold
        exact absurd hxo (hn x hold)
      · exact hxb.trans hbody
    · rw [offerOwn_own hquiet]; rfl
    · show (d.toldAgain nature persons).distress.own.num = _
      rw [ht]; rfl
    · show (d.toldAgain nature persons).now = _
      rw [ht]

/-- The own alert as a CANCEL makes it (R113). -/
def alertCancelling (d : Device) : OwnAlert :=
  { d.distress.own with st := .cancelling, cancelCount := 0, repeatDue := none, repeatAsked := false }

/-- The device with the alert CANCELLING and reported. -/
def toldCancelling (d : Device) : Device := (d.onOwn fun _ => d.alertCancelling).reportOwn .cancelling

theorem toldCancelling_eq (d : Device) : d.toldCancelling = { d with
    distress := { d.distress with own := d.alertCancelling }, console := d.toldCancelling.console } :=
  (reportOwn_eq (d.onOwn fun _ => d.alertCancelling) .cancelling).1

theorem orderCancel_refused {d : Device} (h : d.distress.own.st = .idle ∨ d.distress.own.st = .cancelling) :
    d.orderCancel = (.state, d) := by
  unfold orderCancel
  rcases h with h | h <;> rw [h]

theorem distress_inRange {nature persons : Nat} (hn : nature ≤ 9) (hp : persons ≤ 62 ∨ persons = 255) :
    ¬ (9 < nature ∨ persons ≠ 255 ∧ 62 < persons) := by
  omega

theorem orderDistress_idle {d : Device} {nature persons : Nat} (hn : nature ≤ 9) (hp : persons ≤ 62 ∨ persons = 255)
    (h : d.distress.own.st = .idle) : d.orderDistress nature persons
      = (.taken, d.startAlert nature (if persons = 255 then none else some persons)) := by
  unfold orderDistress
  rw [if_neg (distress_inRange hn hp), h]

theorem orderDistress_again {d : Device} {nature persons : Nat} (hn : nature ≤ 9) (hp : persons ≤ 62 ∨ persons = 255)
    (h : d.distress.own.st = .alerting ∨ d.distress.own.st = .acknowledged) : d.orderDistress nature persons
      = (.taken, d.raiseAgain nature (if persons = 255 then none else some persons)) := by
  unfold orderDistress
  rw [if_neg (distress_inRange hn hp)]
  rcases h with h | h <;> rw [h]

theorem orderDistress_cancelling {d : Device} {nature persons : Nat} (hn : nature ≤ 9)
    (hp : persons ≤ 62 ∨ persons = 255) (h : d.distress.own.st = .cancelling) :
    d.orderDistress nature persons = (.state, d) := by
  unfold orderDistress
  rw [if_neg (distress_inRange hn hp), h]

theorem orderCancel_alert {d : Device} (h : d.distress.own.st = .alerting ∨ d.distress.own.st = .acknowledged) :
    d.orderCancel = (.taken, if d.ownOnAir then d.toldCancelling
      else (d.toldCancelling.withdraw .distress isOwnItem).offerOwn) := by
  have hair : d.toldCancelling.ownOnAir = d.ownOnAir := ownOnAir_congr (by rw [toldCancelling_eq])
  rw [← hair]
  unfold orderCancel
  rcases h with h | h <;> rw [h] <;> rfl

theorem orderCancel_facts {d : Device} :
    let e := if d.ownOnAir then d.toldCancelling else (d.toldCancelling.withdraw .distress isOwnItem).offerOwn
    e.distress.own.st = .cancelling ∧ e.distress.own.cancelCount = 0 ∧ e.distress.own.repeatDue = none ∧
    e.distress.own.num = d.distress.own.num ∧ (d.ownOnAir = true → e.access = d.access) ∧
    (d.ownOnAir = false →
      (∀ it ∈ e.access.distress.items, it.owner = .own →
        it.kind = .cancel ∧ it.body = [] ∧ it.seq = d.distress.own.num) ∧
      ∃ it ∈ e.access.distress.waiting, it.kind = .cancel ∧ it.owner = .own ∧ it.body = [] ∧
        it.seq = d.distress.own.num) := by
  have htold := d.toldCancelling_eq
  intro e
  cases h : d.ownOnAir
  case true =>
    have he : e = d.toldCancelling := if_pos h
    rw [he, htold]
    exact ⟨rfl, rfl, rfl, rfl, fun _ => rfl, fun hf => absurd hf (by decide)⟩
  case false =>
    let bare := d.toldCancelling.withdraw .distress isOwnItem
    have he : e = bare.offerOwn := if_neg (by rw [h]; decide)
    have hown : bare.distress.own = d.alertCancelling :=
      show d.toldCancelling.distress.own = d.alertCancelling by rw [htold]
    have hquiet : bare.ownOnAir = false :=
      (ownOnAir_congr (show d.toldCancelling.access.onAir = d.access.onAir by rw [htold])).trans h
    have hkind : bare.ownKind = .cancel := by unfold ownKind; rw [hown]; rfl
    have hbody : bare.ownBody = [] := by unfold ownBody; rw [hown]; rfl
    have hnum : bare.distress.own.num = d.distress.own.num := by rw [hown]; rfl
    obtain ⟨⟨it, hit, ikind, iown, -, iseq, ibody, -⟩, -⟩ := bare.offerOwn_result
    rw [he, offerOwn_own hquiet, hown]
    refine ⟨rfl, rfl, rfl, rfl, fun hf => absurd hf (by decide), fun _ => ⟨fun x hx hxo => ?_,
      it, hit, ikind.trans hkind, iown, ibody.trans hbody, iseq.trans hnum⟩⟩
    rcases offerOwn_items hquiet x hx with hold | ⟨xkind, xbody, xseq⟩
    · obtain ⟨-, hp⟩ := (mem_items_withdraw d.toldCancelling.access.distress isOwnItem x).1 hold
      rw [isOwnItem, hxo] at hp
      exact absurd hp (by decide)
    · exact ⟨xkind.trans hkind, xbody.trans hbody, xseq.trans hnum⟩

/-! ### The abandoned loop test (R49, R50) -/

/-- With no burst to preempt, an own request queues LOOP RESULT ABANDONED and takes the loop record to IDLE. -/
theorem offerOwn_abandons {d : Device} (hl : d.loop.st ≠ .idle) (hm : OwedRef.loop ∉ d.console.general.owed)
    (hr : d.console.general.entries.length < 24) (hp : ¬ d.preempts) :
    d.offerOwn.loop = { d.loop with st := .idle } ∧ d.offerOwn.console.general.entries = d.console.general.entries ++
      [⟨.loopResult, d.loop.tag.getD 0, .report [.num 1 2, .num 2 0, .num 1 1], 0⟩] := by
  have habandon := abandonLoop_room d hl hm hr
  have hplace : d.offerOwn = d.abandonLoop.placeOwn := by
    unfold offerOwn
    have hair : d.abandonLoop.onAirKind = d.onAirKind := by rw [habandon]; rfl
    dsimp only
    rw [hair, onAirKind]
    cases ha : d.access.onAir with
    | none => rfl
    | some a => exact congrArg placeOwn (if_neg fun hk => hp ⟨a, ha, hk⟩)
  rw [hplace, placeOwn_eq, habandon]
  exact ⟨rfl, rfl⟩

/-! ### The beginning of the hold (R101, R127) -/

/-- The hold noted as begun, its cause and station with it. -/
def holdNoted (d : Device) (cause : Nat) (st : Station) : Device :=
  d.onDistress fun u => { u with holdSince := some d.now, holdCause := cause, holdStation := st }

/-- The beginning of the hold in the transfer tables: slots, paused times, and the DATA items withdrawn. -/
theorem holdTransfers_facts {d : Device} (hlen : d.xfer.slots.length = 8)
    (hp : ∀ i, i < 8 → (d.slot i).pendingEnd = none) :
    let e := d.holdTransfers
    (∀ i, i < 8 → e.slot i = if holdTest (d.slot i) = true then holdOne d.now (d.slot i) else d.slot i) ∧
    e.now = d.now ∧
    e.xfer.reasms = d.xfer.reasms.map (fun x => { x with timer := .paused (x.timer.left d.now) }) ∧
    e.xfer.recents = d.xfer.recents.map (fun x => { x with timer := .paused (x.timer.left d.now) }) ∧
    e.rep = d.rep ∧ e.console = d.console ∧ e.loop = d.loop ∧
    ∀ it ∈ e.access.routine.items, it ∈ d.access.routine.items := by
  have hmem : ∀ i, i ∈ slotOrder ↔ i < 8 := fun i => by rw [slotOrder_eq, List.mem_range]
  obtain ⟨hslot, hnow, hreasms, hrecents, hrep, hconsole, hloop, hitems⟩ :=
    holdTransfers_foldl slotOrder (by decide) d.holdPaused (fun i hi => ((hmem i).1 hi).trans_eq hlen.symm)
      (fun i hi => hp i ((hmem i).1 hi))
  intro e
  rw [show e = _ from d.holdTransfers_fold]
  refine ⟨fun i hi => (hslot i).trans ?_, hnow, hreasms, hrecents, hrep, hconsole, hloop, hitems⟩
  by_cases ht : holdTest (d.slot i) = true
  · exact (if_pos ⟨(hmem i).2 hi, ht⟩).trans (if_pos ht).symm
  · exact (if_neg fun h => ht h.2).trans (if_neg ht).symm

theorem dropBeacon_facts (d : Device) :
    d.dropBeacon.xfer = d.xfer ∧ d.dropBeacon.now = d.now ∧ d.dropBeacon.rep = d.rep ∧ d.dropBeacon.loop = d.loop ∧
    d.dropBeacon.console = d.console ∧ d.dropBeacon.distress = d.distress ∧
    ∀ it ∈ d.dropBeacon.access.routine.items, it ∈ d.access.routine.items ∧ it.kind ≠ .beacon := by
  by_cases h : ∃ it ∈ d.access.routine.items, it.kind = .beacon
  · rw [dropBeacon_some h]
    refine ⟨rfl, rfl, rfl, rfl, rfl, rfl, fun it hit => ?_⟩
    obtain ⟨hmem, hk⟩ := (mem_items_withdraw d.access.routine isBeacon it).1 hit
    exact ⟨hmem, fun hb => by rw [isBeacon, hb] at hk; exact absurd hk (by decide)⟩
  · have hn : ∀ it ∈ d.access.routine.items, it.kind ≠ .beacon := fun it hit hb => h ⟨it, hit, hb⟩
    rw [dropBeacon_none hn]
    exact ⟨rfl, rfl, rfl, rfl, rfl, rfl, fun it hit => ⟨hit, hn it hit⟩⟩

/-- The device as HOLD STARTED finds it: transfers held, beacons dropped, the report's deadline stopped. -/
def holdBegun (d : Device) (cause : Nat) (st : Station) : Device :=
  (d.holdNoted cause st).holdTransfers.dropBeacon.onRep fun r =>
    { r with deadline := r.deadline.map fun c => c.pause (d.holdNoted cause st).holdTransfers.dropBeacon.now }

theorem startHold_eq {d : Device} (cause : Nat) (st : Station)
    (hloop : (d.holdNoted cause st).holdTransfers.dropBeacon.loop.st ≠ .waiting) :
    d.startHold cause st
      = (d.holdBegun cause st).report .holdStarted .hold ((d.holdBegun cause st).holdStartedData cause st) := by
  have hskip : (if (d.holdNoted cause st).holdTransfers.dropBeacon.loop.st = .waiting
      then (d.holdNoted cause st).holdTransfers.dropBeacon.abandonLoop
      else (d.holdNoted cause st).holdTransfers.dropBeacon) = (d.holdNoted cause st).holdTransfers.dropBeacon :=
    if_neg hloop
  unfold startHold
  dsimp only
  rw [show (d.onDistress fun u => { u with holdSince := some d.now, holdCause := cause, holdStation := st })
    = d.holdNoted cause st from rfl, hskip]
  rfl

theorem slot_congr {d e : Device} (h : e.xfer = d.xfer) (i : Nat) : e.slot i = d.slot i := by
  unfold slot
  rw [h]

theorem holdTest_iff (s : Slot) : holdTest s = true ↔
    s.st = .ready ∧ s.onAir = false ∨ s.st = .awaitingAck ∨ s.st = .refusalWait := by
  simp [holdTest, or_assoc]

theorem startHold_facts {d : Device} (cause : Nat) (st : Station) (hlen : d.xfer.slots.length = 8)
    (hp : ∀ i, i < 8 → (d.slot i).pendingEnd = none) (hwait : d.loop.st ≠ .waiting) :
    let e := d.startHold cause st
    e.distress.holdSince = some d.now ∧
    (∀ i, i < 8 → e.slot i = if holdTest (d.slot i) = true then holdOne d.now (d.slot i) else d.slot i) ∧
    e.xfer.reasms = d.xfer.reasms.map (fun x => { x with timer := .paused (x.timer.left d.now) }) ∧
    e.xfer.recents = d.xfer.recents.map (fun x => { x with timer := .paused (x.timer.left d.now) }) ∧
    (∀ x, d.rep.deadline = some x → e.rep.deadline = some (.paused (x.left d.now))) ∧
    (∀ it ∈ e.access.routine.items, it ∈ d.access.routine.items ∧ it.kind ≠ .beacon) ∧
    (d.console.distress.entries.length < 8 → OwedRef.hold ∉ d.console.distress.owed →
      e.console.distress.entries = d.console.distress.entries ++ [⟨.holdStarted, 0, .report [.num 1 cause, .num 3 st,
        .num 2 (match d.distress.holdTimer with | none => 0 | some t => min 65535 ((t - d.now) / 1000))], 0⟩]) := by
  obtain ⟨tslot, tnow, treasms, trecents, trep, tconsole, tloop, titems⟩ :=
    holdTransfers_facts (d := d.holdNoted cause st) hlen hp
  obtain ⟨bxfer, bnow, brep, bloop, bconsole, bdistress, bitems⟩ :=
    dropBeacon_facts (d.holdNoted cause st).holdTransfers
  have tdistress := (d.holdNoted cause st).holdTransfers_distress
  have heq := startHold_eq (d := d) cause st (by rw [bloop, tloop]; exact hwait)
  have hxfer : (d.holdBegun cause st).xfer = (d.holdNoted cause st).holdTransfers.xfer := (onRep_xfer _ _).trans bxfer
  have hnow : (d.holdBegun cause st).now = d.now := (onRep_now _ _).trans (bnow.trans tnow)
  have hdistress : (d.holdBegun cause st).distress = (d.holdNoted cause st).distress :=
    (onRep_distress _ _).trans (bdistress.trans tdistress)
  have hconsole : (d.holdBegun cause st).console = d.console := (onRep_console _ _).trans (bconsole.trans tconsole)
  have haccess : (d.holdBegun cause st).access = (d.holdNoted cause st).holdTransfers.dropBeacon.access :=
    onRep_access _ _
  have hdeadline : (d.holdBegun cause st).rep.deadline = d.rep.deadline.map fun c => c.pause d.now := by
    rw [holdBegun, onRep_rep, bnow, tnow, brep, trep]
    rfl
  intro e
  have he : e = _ := heq
  refine ⟨?_, fun i hi => ?_, ?_, ?_, fun x hx => ?_, fun it hit => ?_, fun hroom howed => ?_⟩
  · rw [he, report_distress, hdistress]; rfl
  · refine (slot_congr ?_ i).trans (tslot i hi)
    rw [he, report_xfer, hxfer]
  · rw [he, report_xfer, hxfer]; exact treasms
  · rw [he, report_xfer, hxfer]; exact trecents
  · rw [he, report_rep, hdeadline, hx]; rfl
  · rw [he, report_access, haccess] at hit
    obtain ⟨hmem, hk⟩ := bitems it hit
    exact ⟨titems it hmem, hk⟩
  · have hdata : (d.holdBegun cause st).holdStartedData cause st = [.num 1 cause, .num 3 st,
        .num 2 (match d.distress.holdTimer with | none => 0 | some t => min 65535 ((t - d.now) / 1000))] := by
      have htimer : (d.holdBegun cause st).distress.holdTimer = d.distress.holdTimer := by rw [hdistress]; rfl
      unfold holdStartedData holdSeconds
      rw [htimer, hnow]
      cases d.distress.holdTimer with
      | none => rfl
      | some t => rw [sat16, Nat.min_comm]
    rw [he, report_distress_room _ _ _ _ rfl (by rw [hconsole]; exact hroom)
      (by rw [hconsole]; exact howed), hdata, hconsole]

end Device

/-- Settles O39: the two orders in every state of the own alert, the abandoned loop test, and the hold that begins. -/
theorem ownAlertOrders : Obligations.OwnAlertOrders := by
  unfold Obligations.OwnAlertOrders
  refine ⟨fun tag nature persons s hlive => ?_, fun tag s hlive => ?_,
    fun d hl hm hr hair => Device.offerOwn_abandons hl hm hr (Device.not_preempts hair),
    fun d cause st hlen hp hwait => ?_⟩
  · intro c aboard body
    refine ⟨fun hn hps hst => ?_, fun hn hps hst => ?_, fun hbad => ?_, fun hn hps hst => ?_⟩
    · have hrow := exec_of_frame (Device.orderDistress nature persons) (i := .distress tag nature persons) rfl hlive
        (Device.orderDistress_idle (d := c) hn hps hst)
      obtain ⟨h1, h2, h3, h4, h5, h6, h7, h8, h9, h10, h11⟩ := Device.startAlert_facts (d := c) nature aboard
      exact ⟨_, hrow, h1, h2, h3, h4, h5, h6, h7, h8, h9, h10, h11,
        fun a ha => (Device.startAlert_onAir nature aboard ha).1,
        fun a ha => (Device.startAlert_onAir nature aboard ha).2⟩
    · have hrow := exec_of_frame (Device.orderDistress nature persons) (i := .distress tag nature persons) rfl hlive
        (Device.orderDistress_again (d := c) hn hps hst)
      obtain ⟨h1, h2, h3, h4, h5, h6⟩ := c.raiseAgain_own nature aboard
      refine ⟨_, hrow, h1, h2, h3, h4, h5, h6, fun hon => ?_, Device.raiseAgain_items nature aboard⟩
      rw [Device.raiseAgain_onAir nature aboard hon, (c.toldAgain_eq nature aboard).1]
      exact ⟨rfl, rfl⟩
    · exact exec_of_frame (Device.orderDistress nature persons) rfl hlive (if_pos hbad)
    · exact exec_of_frame (Device.orderDistress nature persons) rfl hlive (Device.orderDistress_cancelling hn hps hst)
  · intro c
    refine ⟨fun hst => ?_, fun hst => ?_⟩
    · exact ⟨_, exec_of_frame Device.orderCancel rfl hlive (Device.orderCancel_alert hst), Device.orderCancel_facts⟩
    · exact exec_of_frame Device.orderCancel rfl hlive (Device.orderCancel_refused hst)
  · obtain ⟨hsince, hslot, hreasms, hrecents, hdead, hitems, hlane⟩ := Device.startHold_facts cause st hlen hp hwait
    refine ⟨hsince, fun i hi => ⟨fun ht => ?_, fun hn => ?_⟩, hreasms, hrecents, hdead, hitems, hlane⟩
    · rw [hslot i hi, if_pos ((Device.holdTest_iff _).2 ht)]
      rfl
    · rw [hslot i hi, if_neg]
      rw [Device.holdTest_iff]
      rintro (⟨h1, h2⟩ | h1 | h1) <;> simp_all

end Sys2Proof.Machine
end

section
/-! PROOF. RESTART (O60). -/

namespace Sys2Proof.Machine
namespace Device

/-! ### Distress items offered again (R36, R111) -/

/-- What an offer does to the queue of each class. -/
theorem queue_offer (d : Device) (it : Item) (c : AccessClass) : (d.offer it).access.queue c =
    if c = it.kind.cls then
      { d.access.queue c with waiting := (d.access.queue c).waiting ++ [{ it with order := d.access.nextOffer }] }
    else d.access.queue c := by
  unfold offer
  cases hc : it.kind.cls <;> cases c <;> rfl

/-- The item as RESTART offers it again: its body unchanged, its ready time and its blind time new. -/
def renewed (now : Time) (it : Item) : Item := { it with ready := now, blindFrom := now, overdue := false }

/-- One item after the other is offered again. -/
def offerList (l : List Item) (d : Device) : Device := l.foldl (fun d it => d.offer (renewed d.now it)) d

theorem offerList_cons (x : Item) (l : List Item) (d : Device) :
    offerList (x :: l) d = offerList l (d.offer (renewed d.now x)) := rfl

/-- The key and the counts stay, and no item becomes contender by being offered. -/
theorem offerList_keeps (l : List Item) (d : Device) :
    (offerList l d).access.onAir = d.access.onAir ∧ (offerList l d).access.counts = d.access.counts ∧
    ∀ c, ((offerList l d).access.queue c).contender = (d.access.queue c).contender := by
  induction l generalizing d with
  | nil => exact ⟨rfl, rfl, fun _ => rfl⟩
  | cons x r ih =>
    obtain ⟨hair, hcounts, hcont⟩ := ih (d.offer (renewed d.now x))
    obtain ⟨-, -, -, oair, -, ocounts, -⟩ := offer_facts d (renewed d.now x)
    rw [offerList_cons]
    refine ⟨hair.trans oair, hcounts.trans ocounts, fun c => (hcont c).trans ?_⟩
    rw [queue_offer]
    split <;> rfl

/-- What waits after the offers waited before, or is an item offered again. -/
theorem offerList_waiting (l : List Item) (d : Device) (c : AccessClass) (it : Item)
    (h : it ∈ ((offerList l d).access.queue c).waiting) :
    it ∈ (d.access.queue c).waiting ∨ ∃ x ∈ l, it = { renewed d.now x with order := it.order } := by
  induction l generalizing d with
  | nil => exact .inl h
  | cons x r ih =>
    rcases ih (d.offer (renewed d.now x)) h with hw | ⟨y, hy, he⟩
    · rw [queue_offer] at hw
      split at hw
      · rcases List.mem_append.1 hw with hw | hw
        · exact .inl hw
        · rw [List.mem_singleton] at hw
          exact .inr ⟨x, List.mem_cons_self, by rw [hw]⟩
      · exact .inl hw
    · exact .inr ⟨y, List.mem_cons_of_mem _ hy, he⟩

/-- What waited goes on waiting, and every item offered again waits in its class. -/
theorem offerList_offers (l : List Item) (d : Device) :
    (∀ c, ∀ it ∈ (d.access.queue c).waiting, it ∈ ((offerList l d).access.queue c).waiting) ∧
    ∀ x ∈ l, ∃ it ∈ ((offerList l d).access.queue x.kind.cls).waiting,
      it = { renewed d.now x with order := it.order } := by
  induction l generalizing d with
  | nil => exact ⟨fun _ _ h => h, fun x h => absurd h List.not_mem_nil⟩
  | cons y r ih =>
    obtain ⟨hkeep, hnew⟩ := ih (d.offer (renewed d.now y))
    rw [offerList_cons]
    refine ⟨fun c it hit => hkeep c it ?_, fun x hx => ?_⟩
    · rw [queue_offer]
      split
      · exact List.mem_append_left _ hit
      · exact hit
    · rcases List.mem_cons.1 hx with rfl | hx
      · refine ⟨{ renewed d.now x with order := d.access.nextOffer }, hkeep _ _ ?_, rfl⟩
        rw [queue_offer, if_pos (show x.kind.cls = (renewed d.now x).kind.cls from rfl)]
        exact List.mem_append_right _ (List.mem_singleton.2 rfl)
      · exact hnew x hx

/-! ### The Controller's part (R36) -/

/-- RESTART empties the queues; a burst of the distress class goes on, any other is aborted and counted. -/
theorem restartAccess_facts (d : Device) :
    (∀ c, d.restartAccess.access.queue c = ⟨[], none⟩) ∧
    (∀ a, d.access.onAir = some a → a.item.kind.cls = .distress → d.restartAccess.access.onAir = some a ∧
      d.restartAccess.tx = d.tx ∧ d.restartAccess.access.counts = d.access.counts) ∧
    (∀ a, d.access.onAir = some a → a.item.kind.cls ≠ .distress → d.restartAccess.access.onAir = none ∧
      d.restartAccess.tx = none ∧ d.restartAccess.access.counts.aborts = bump d.access.counts.aborts) := by
  refine ⟨fun c => by cases c <;> rfl, fun a ha hk => ?_, fun a ha hk => ?_⟩
  · have hair : d.onAirKind = some a.item.kind := by rw [onAirKind, ha]; rfl
    have hrow : d.restartAccess = d.onAccess fun a => a.onQueues fun _ => .empty := by
      unfold restartAccess
      rw [hair]
      exact congrArg (fun e : Device => e.onAccess fun a => a.onQueues fun _ => .empty) (if_pos hk)
    rw [hrow]
    exact ⟨ha, rfl, rfl⟩
  · have hair : d.onAirKind = some a.item.kind := by rw [onAirKind, ha]; rfl
    have hrow : d.restartAccess = (d.abortBurst .restart).onAccess fun a => a.onQueues fun _ => .empty := by
      unfold restartAccess
      rw [hair]
      exact congrArg (fun e : Device => e.onAccess fun a => a.onQueues fun _ => .empty) (if_neg hk)
    obtain ⟨bair, btx, -, -, -, -, baborts, -⟩ := abortBurst_facts d a .restart ha
    rw [hrow]
    exact ⟨bair, btx, baborts⟩

/-! ### The records (R105, R145, R172, R186) -/

/-- A catch report in flight ends LOST. -/
def lostReport (d : Device) : Device := if d.rep.st = .none then d else (d.closeReport .lost).countEnding .lost

/-- No monitor owes a report any more (R47). -/
def owedCleared (d : Device) : Device :=
  monitorOrder.foldl (fun d m => d.onMonitor m fun x => { x with owedFrom := none }) d

theorem owedCleared_eq (d : Device) : ∃ p : Protection, d.owedCleared = { d with prot := p } := by
  have hone : ∀ (e : Device) (m : MonitorId) (f : Monitor → Monitor),
      ∃ p : Protection, e.onMonitor m f = { e with prot := p } :=
    fun e m f => ⟨(e.onMonitor m f).prot, rfl⟩
  unfold owedCleared monitorOrder
  simp only [List.foldl]
  obtain ⟨p1, h1⟩ := hone d .tune fun x => { x with owedFrom := none }
  rw [h1]
  exact ⟨_, rfl⟩

/-- The slots, the pages and the records cleared, once the catch report has ended. -/
def tablesCleared (d : Device) : Device :=
  let d := d.onRep fun r => { r with pending := none }
  let d := d.onXfer fun t => { t with slots := List.replicate 8 Slot.free, reasms := [], recents := [] }
  let d := d.onStore fun s =>
    { s with grants := s.grants.filter fun g => g.holder == .forecast || g.holder == .warning }
  d.onWeather fun w =>
    { w with warnings := mapIf (fun x => x.relay == .offered) (fun x => { x with relay := .suppressed }) w.warnings }

theorem tablesCleared_eq (d : Device) : d.tablesCleared = { d with
  rep := { d.rep with pending := none },
  xfer := { d.xfer with slots := List.replicate 8 Slot.free, reasms := [], recents := [] },
  store := { d.store with grants := d.store.grants.filter fun g => g.holder == .forecast || g.holder == .warning },
  weather := { d.weather with
    warnings := mapIf (fun x => x.relay == .offered) (fun x => { x with relay := .suppressed }) d.weather.warnings } } :=
  rfl

/-- Those, and the owed reports of monitors and quotas. -/
def recordsCleared (d : Device) : Device :=
  d.tablesCleared.owedCleared.onLog fun l => { l with quotas := l.quotas.map fun q => { q with owedFrom := none } }

theorem leaveLoop_eq (d : Device) : d.leaveLoop = { d with
    rx := if d.loop.st = .looping then Rx.blank .hunting else d.rx, loop := { d.loop with st := .idle } } := by
  unfold leaveLoop
  dsimp only
  split <;> rfl

theorem restartRecords_eq (d : Device) :
    d.restartRecords = d.lostReport.recordsCleared.leaveLoop.onLoop fun l => { l with kept := none } := rfl

theorem restartRecords_facts (d : Device) :
    let e := d.restartRecords
    let l := d.lostReport
    e.now = l.now ∧ e.config = l.config ∧ e.access = l.access ∧ e.tx = l.tx ∧ e.console = l.console ∧
    e.neigh = l.neigh ∧ e.waits = l.waits ∧ e.distress = l.distress ∧
    e.xfer = { l.xfer with slots := List.replicate 8 Slot.free, reasms := [], recents := [] } ∧
    e.rep = { l.rep with pending := none } ∧ e.loop.st = .idle ∧
    e.weather = { l.weather with
      warnings := mapIf (fun x => x.relay == .offered) (fun x => { x with relay := .suppressed }) l.weather.warnings } ∧
    e.log.hauls = l.log.hauls ∧ e.log.counter = l.log.counter ∧ e.log.cells = l.log.cells ∧
    e.store.grants = l.store.grants.filter fun g => g.holder == .forecast || g.holder == .warning := by
  rw [restartRecords_eq, leaveLoop_eq]
  generalize d.lostReport = l
  obtain ⟨p, hp⟩ := l.tablesCleared.owedCleared_eq
  rw [recordsCleared, hp, tablesCleared_eq]
  exact ⟨rfl, rfl, rfl, rfl, rfl, rfl, rfl, rfl, rfl, rfl, rfl, rfl, rfl, rfl, rfl, rfl⟩

/-- A part without a catch report in flight has nothing to end. -/
theorem lostReport_none {d : Device} (h : d.rep.st = .none) : d.lostReport = d := if_pos h

/-- The report in flight ends LOST and is counted, its pages go, and its amounts are unreported again (R186). -/
theorem lostReport_some {d : Device} (h : d.rep.st ≠ .none) : d.lostReport = { d with
    rep := { d.rep with
      st := .none, num := none, kind := none, buildUtc := none, lineCount := 0, grant := none, deadline := none,
      early := none, lastEnding := d.rep.num.map fun n => (n, .lost),
      counts := { d.rep.counts with lost := bump d.rep.counts.lost } },
    log := { d.log with cells := d.log.cells.map fun x => x.onAmounts fun a => a.settle false },
    store := match d.rep.grant with
      | none => d.store
      | some id => d.store.release id } := by
  have hrow : d.lostReport = (d.closeReport .lost).countEnding .lost := if_neg h
  have hgrant : ∀ f : CatchLog → CatchLog, (d.onLog f).rep.grant = d.rep.grant := fun _ => rfl
  rw [hrow]
  unfold closeReport
  dsimp only
  rw [hgrant]
  cases d.rep.grant <;> rfl

/-- The report's end touches the report record, the tally cells and the pages, and reads nothing else. -/
theorem lostReport_radio (d : Device) (a : Access) (p : Protection) (c : Console) (t : Option Tx) (r : Rx) :
    lostReport { d with access := a, prot := p, console := c, tx := t, rx := r }
      = { d.lostReport with access := a, prot := p, console := c, tx := t, rx := r } := by
  by_cases h : d.rep.st = .none
  · rw [lostReport_none (d := { d with access := a, prot := p, console := c, tx := t, rx := r }) h, lostReport_none h]
  · rw [lostReport_some (d := { d with access := a, prot := p, console := c, tx := t, rx := r }) h, lostReport_some h]

theorem lostReport_same (d : Device) :
    let l := d.lostReport
    l.config = d.config ∧ l.neigh = d.neigh ∧ l.waits = d.waits ∧ l.distress = d.distress ∧ l.xfer = d.xfer ∧
    l.weather = d.weather ∧ l.log.hauls = d.log.hauls ∧ l.log.counter = d.log.counter ∧ l.now = d.now := by
  by_cases h : d.rep.st = .none
  · rw [lostReport_none h]
    exact ⟨rfl, rfl, rfl, rfl, rfl, rfl, rfl, rfl, rfl⟩
  · rw [lostReport_some h]
    exact ⟨rfl, rfl, rfl, rfl, rfl, rfl, rfl, rfl, rfl⟩

theorem lostReport_st (d : Device) : d.lostReport.rep.st = .none := by
  by_cases h : d.rep.st = .none
  · rw [lostReport_none h]
    exact h
  · rw [lostReport_some h]

theorem restart_eq (d : Device) : d.restart =
    (.taken, (offerList (sortBy (fun it => it.order) d.access.distress.items)
      d.restartAccess.restartRecords).restartConsole) := rfl

/-! ### What an aborted burst's reports leave of the Console Link -/

/-- The Console Link differs in the general lane at most. -/
def generalOnly (d e : Device) : Prop := e.console = { d.console with general := e.console.general }

theorem generalOnly.refl (d : Device) : generalOnly d d := rfl

theorem generalOnly.trans {d e f : Device} (h : generalOnly d e) (g : generalOnly e f) : generalOnly d f := by
  unfold generalOnly at *
  rw [g, h]

theorem report_generalOnly (d : Device) (k : ReportKind) (r : OwedRef) (x : List Datum) (hk : k.lane = .general) :
    generalOnly d (d.report k r x) := by
  unfold generalOnly report
  rw [reportTagged_generalLane d k 0 r x hk]
  split
  · rfl
  · split <;> rfl

theorem moveMonitor_generalOnly (d : Device) (m : MonitorId) (st : MonState) (run : Nat) (c : ProtCause) (k : Nat) :
    generalOnly d (d.moveMonitor m st run c k) := by
  have hone : ∀ (e : Device) (f : Monitor → Monitor), generalOnly e (e.onMonitor m f) := fun _ _ => rfl
  unfold moveMonitor reportMonitor
  dsimp only
  refine (hone d fun x => { x with st := st, run := run }).trans ?_
  split
  · exact (report_generalOnly _ _ _ _ rfl).trans (hone _ _)
  · exact report_generalOnly _ _ _ _ rfl

theorem enterClear_generalOnly (d : Device) : generalOnly d d.enterClear := by
  rw [enterClear_split]
  split
  · exact report_generalOnly d.cleared _ _ _ rfl
  · rfl

theorem dropKey_generalOnly (d : Device) (limit : Bool) : generalOnly d (d.dropKey limit) := by
  have halerts : ∀ (l : List MonitorId) (e : Device) (k : Nat), generalOnly e (l.foldl (fun d m =>
      if (d.monitor m).st = .alert ∧ ¬(limit = true ∧ m = .keytime)
      then d.moveMonitor m .normal 0 .keyDropped k else d) e) := by
    intro l
    induction l with
    | nil => exact fun e _ => generalOnly.refl e
    | cons m r ih =>
      intro e k
      rw [List.foldl_cons]
      refine generalOnly.trans ?_ (ih _ k)
      split
      · exact moveMonitor_generalOnly _ _ _ _ _ _
      · exact generalOnly.refl e
  unfold dropKey endAlerts
  dsimp only
  refine generalOnly.trans ?_ (halerts monitorOrder _ _)
  exact enterClear_generalOnly (({ d with tx := none, rx := Rx.blank .hunting } : Device).onAccess fun a =>
    { a with onAir := none, keyTime := d.keyTime, filterFrom := d.now })

/-- For reason RESTART no owner accounts for its burst (R202). -/
theorem accountAbort_restart (d : Device) (it : Item) : d.accountAbort it .restart = d := rfl

theorem abortBurst_generalOnly (d : Device) : generalOnly d (d.abortBurst .restart) := by
  have haccess : ∀ (e : Device) (f : Access → Access), generalOnly e (e.onAccess f) := fun _ _ => rfl
  unfold abortBurst
  cases d.access.onAir with
  | none => exact generalOnly.refl d
  | some a =>
    dsimp only
    rw [accountAbort_restart]
    exact (dropKey_generalOnly d _).trans (haccess _ _)

theorem restartAccess_generalOnly (d : Device) : generalOnly d d.restartAccess := by
  have haccess : ∀ (e : Device) (f : Access → Access), generalOnly e (e.onAccess f) := fun _ _ => rfl
  unfold restartAccess
  dsimp only
  refine generalOnly.trans ?_ (haccess _ _)
  split
  · exact generalOnly.refl d
  · split
    · exact generalOnly.refl d
    · exact abortBurst_generalOnly d

/-! ### The whole of RESTART -/

/-- The Controller's part and the report's end touch different blocks. -/
theorem restartAccess_lostReport (d : Device) : ∃ (p : Protection) (g : Lane) (r : Rx),
    d.restartAccess.lostReport = { d.lostReport with
      access := d.restartAccess.access, prot := p, console := { d.console with general := g },
      tx := d.restartAccess.tx, rx := r } := by
  obtain ⟨p, c, r, hc, hA⟩ : ∃ (p : Protection) (c : Console) (r : Rx), c = { d.console with general := c.general } ∧
      d.restartAccess = { d with
        access := d.restartAccess.access, prot := p, console := c, tx := d.restartAccess.tx, rx := r } :=
    ⟨_, _, _, d.restartAccess_generalOnly, d.restartAccess_keeps⟩
  generalize d.restartAccess.access = a at hA ⊢
  generalize d.restartAccess.tx = t at hA ⊢
  rw [hA, lostReport_radio, hc]
  exact ⟨p, c.general, r, rfl⟩

/-- The device as RESTART leaves it. -/
def restarted (d : Device) : Device := d.restart.2

/-- The items that RESTART offers again, in the order of their offers. -/
def restartItems (d : Device) : List Item := sortBy (fun it => it.order) d.access.distress.items

/-- The last two parts of RESTART: the Controller, and the Console Link. -/
theorem restarted_eq (d : Device) : d.restarted = { d.restartAccess.restartRecords with
    access := (offerList d.restartItems d.restartAccess.restartRecords).access,
    console := { d.restartAccess.restartRecords.console with
      distress := ⟨[], []⟩, general := ⟨[⟨.started, 0, .report [.num 1 1, .num 1 1], 0⟩], []⟩, deliveries := [],
      submit := none } } := by
  have hoff : offerList d.restartItems d.restartAccess.restartRecords
      = { d.restartAccess.restartRecords with
          access := (offerList d.restartItems d.restartAccess.restartRecords).access } :=
    offerAgain_keeps d.access.distress.items _
  exact congrArg restartConsole hoff

/-- RESTART keeps configuration, time and fix, neighbours, waits, the own alert and the hold, the records of hauls and
forecasts, and empties the rest (R202). -/
theorem restarted_facts (d : Device) :
    let e := d.restarted
    e.console.general = ⟨[⟨.started, 0, .report [.num 1 1, .num 1 1], 0⟩], []⟩ ∧ e.console.distress = ⟨[], []⟩ ∧
    e.console.deliveries = [] ∧ e.console.submit = none ∧ e.console.utc = d.console.utc ∧
    e.console.fix = d.console.fix ∧ e.ready = d.ready ∧ e.config = d.config ∧ e.neigh = d.neigh ∧ e.waits = d.waits ∧
    e.distress = d.distress ∧ e.tx = d.restartAccess.tx ∧
    e.xfer = { d.xfer with slots := List.replicate 8 Slot.free, reasms := [], recents := [] } ∧
    e.rep = { d.lostReport.rep with pending := none } ∧ e.loop.st = .idle ∧
    e.weather = { d.weather with
      warnings := mapIf (fun x => x.relay == .offered) (fun x => { x with relay := .suppressed }) d.weather.warnings } ∧
    e.log.hauls = d.log.hauls ∧ e.log.counter = d.log.counter ∧ e.log.cells = d.lostReport.log.cells ∧
    e.store.grants = d.lostReport.store.grants.filter fun g => g.holder == .forecast || g.holder == .warning := by
  obtain ⟨p, g, r, hended⟩ := d.restartAccess_lostReport
  obtain ⟨-, hconfig, -, htx, hconsole, hneigh, hwaits, hdistress, hxfer, hrep, hloop, hweather, hhauls, hcounter,
    hcells, hgrants⟩ := d.restartAccess.restartRecords_facts
  rw [hended] at hconfig htx hconsole hneigh hwaits hdistress hxfer hrep hweather hhauls hcounter hcells hgrants
  obtain ⟨lconfig, lneigh, lwaits, ldistress, lxfer, lweather, lhauls, lcounter, -⟩ := d.lostReport_same
  intro e
  rw [show e = _ from d.restarted_eq]
  unfold ready
  dsimp only at hconfig htx hconsole hneigh hwaits hdistress hxfer hrep hweather hhauls hcounter hcells hgrants ⊢
  rw [hconsole, hxfer, hweather, lxfer, lweather]
  exact ⟨rfl, rfl, rfl, rfl, rfl, rfl, rfl, hconfig.trans lconfig, hneigh.trans lneigh, hwaits.trans lwaits,
    hdistress.trans ldistress, htx, rfl, hrep, hloop, rfl, hhauls.trans lhauls, hcounter.trans lcounter, hcells,
    hgrants⟩

/-- What waits after RESTART is what was offered again, and the key is as RESTART leaves it. -/
theorem restarted_access (d : Device) :
    let e := d.restarted
    (∀ q, (e.access.queue q).contender = none ∧ ∀ it ∈ (e.access.queue q).waiting,
      ∃ x ∈ d.access.distress.items, it = { renewed d.now x with order := it.order }) ∧
    (∀ x ∈ d.access.distress.items, ∃ it ∈ (e.access.queue x.kind.cls).waiting,
      it = { renewed d.now x with order := it.order }) ∧
    e.access.onAir = d.restartAccess.access.onAir ∧ e.access.counts = d.restartAccess.access.counts := by
  obtain ⟨hqueue, -⟩ := d.restartAccess_facts
  obtain ⟨p, g, r, hended⟩ := d.restartAccess_lostReport
  obtain ⟨-, -, -, -, -, -, -, -, lnow⟩ := d.lostReport_same
  obtain ⟨hnow, -, hacc, -⟩ := d.restartAccess.restartRecords_facts
  have hclock : d.restartAccess.restartRecords.now = d.now := by rw [hnow, hended]; exact lnow
  have haccess : d.restartAccess.restartRecords.access = d.restartAccess.access := by rw [hacc, hended]
  have hmem : ∀ x, x ∈ d.restartItems ↔ x ∈ d.access.distress.items := fun x => (sortBy_perm _ _).mem_iff
  obtain ⟨kair, kcounts, kcont⟩ := offerList_keeps d.restartItems d.restartAccess.restartRecords
  obtain ⟨-, hoffers⟩ := offerList_offers d.restartItems d.restartAccess.restartRecords
  have hwaits := offerList_waiting d.restartItems d.restartAccess.restartRecords
  rw [haccess] at kair kcounts
  simp only [haccess, hqueue] at kcont hwaits
  rw [hclock] at hoffers
  simp only [hclock, hmem] at hoffers hwaits
  intro e
  rw [show e = _ from d.restarted_eq]
  exact ⟨fun q => ⟨kcont q, fun it hit => (hwaits q it hit).resolve_left List.not_mem_nil⟩, hoffers, kair, kcounts⟩

end Device

/-- Settles O60: what RESTART keeps and empties, block by block, and the distress items it offers again. -/
theorem restart : Obligations.Restart := by
  unfold Obligations.Restart
  intro tag s hlive c
  have hrow : exec (.restart tag) s = .next { s with dev := (c.restarted.echo tag .taken).settle } :=
    exec_of_frame Device.restart rfl hlive (Device.restart_eq c)
  obtain ⟨hgeneral, hdist, hdeliv, hsubmit, hutc, hfix, hready, hconfig, hneigh, hwaits, hdistress, htx, hxfer, hrep,
    hloop, hweather, hhauls, hcounter, hcells, hgrants⟩ := c.restarted_facts
  obtain ⟨hqueues, hoffered, hair, hcounts⟩ := c.restarted_access
  obtain ⟨-, hgoes, habort⟩ := c.restartAccess_facts
  refine ⟨c.restarted, hrow, hgeneral, hdist, hdeliv, hsubmit, fun i => ?_, ?_, ?_, ?_, ?_, hloop, fun q => ?_, hconfig,
    ?_, hutc, hfix, ?_, hwaits, ?_, ?_, ?_, hhauls, hcounter, fun x hx hk => ?_, fun a ha hk => ?_, fun a ha hk => ?_,
    ?_, fun hst => ?_, fun hst => ?_, ?_⟩
  · rw [Device.slot, hxfer]
    exact getD_replicate_free i
  · rw [hxfer]
  · rw [hxfer]
  · rw [hrep]; exact c.lostReport_st
  · rw [hrep]
  · obtain ⟨hcont, hall⟩ := hqueues q
    refine ⟨hcont, fun it hit => ?_⟩
    obtain ⟨x, hx, he⟩ := hall it hit
    exact ⟨x, hx, by rw [he]; exact ⟨rfl, rfl, rfl, rfl⟩⟩
  · rw [hready]
    exact (Device.completeExchange_ready s.dev).trans (Device.ready_of_live hlive)
  · rw [hneigh]
  · rw [hdistress]
  · rw [hdistress]
  · rw [hweather]
  · have hx' := hoffered x hx
    rw [hk] at hx'
    exact hx'
  · obtain ⟨h1, h2, h3⟩ := hgoes a ha hk
    exact ⟨hair.trans h1, htx.trans h2, hcounts.trans h3⟩
  · obtain ⟨h1, h2, h3⟩ := habort a ha hk
    exact ⟨hair.trans h1, htx.trans h2, by rw [hcounts]; exact h3⟩
  · rw [hweather]
    simp only [mapIf, beq_iff_eq]
  · rw [hrep, hcells, Device.lostReport_none hst]
    exact ⟨rfl, rfl⟩
  · rw [hrep, hcells, Device.lostReport_some hst]
    exact ⟨rfl, rfl⟩
  · refine hgrants.trans (congrArg (fun st : Store => st.grants.filter _) ?_)
    by_cases hst : c.rep.st = .none
    · exact (congrArg Device.store (Device.lostReport_none hst)).trans (if_pos hst).symm
    · exact (congrArg Device.store (Device.lostReport_some hst)).trans (if_neg hst).symm

end Sys2Proof.Machine
end

section
/-! PROOF. Received DATA, reassembly and its timers, and the recent pairs (O38). -/

namespace Sys2Proof.Machine
namespace Device

/-! ### The two timers (R98, R99, R100) -/

theorem reasm_keys {d : Device} {src num : Nat} {e : Reasm} (h : d.reasm? src num = some e) :
    e.source = src ∧ e.num = num := by
  have hp := List.find?_some h
  rw [Bool.and_eq_true, beq_iff_eq, beq_iff_eq] at hp
  exact hp

theorem inactivityTime_of {d : Device} {src num : Nat} {e : Reasm} {t : Time} (h : d.reasm? src num = some e)
    (ht : e.timer = .running t) : d.inactivityTime src num = (d.reach t).reasmExpires e := by
  unfold inactivityTime
  rw [h]
  dsimp only
  rw [ht]

/-- A reassembly entry discarded with its pages, its relay slot still as it was. -/
def entryDropped (d : Device) (e : Reasm) : Device := (d.removeReasm e.source e.num).releaseGrant e.grant

theorem discardReasm_bare {d : Device} {e : Reasm} (h : e.relaySlot = none) : d.discardReasm e = d.entryDropped e := by
  unfold discardReasm
  rw [h]
  rfl

theorem discardReasm_slot {d : Device} {e : Reasm} {i : Nat} (h : e.relaySlot = some i) :
    d.discardReasm e = ((d.entryDropped e).onSlot i fun _ => Slot.free).slotFreed := by
  unfold discardReasm
  rw [h]
  rfl

theorem recentTime_of {d : Device} {src num : Nat} {r : Recent} {t : Time}
    (h : d.xfer.recents.find? (isPair src num) = some r) (ht : r.timer = .running t) :
    d.recentTime src num = { d with
      now := max d.now t,
      xfer := { d.xfer with recents := d.xfer.recents.filter fun x => !isPair src num x } } := by
  unfold recentTime
  rw [h]
  dsimp only
  rw [ht]
  rfl

/-- A freed slot is of no use to a report unless one waits for it and may be built (R178). -/
theorem slotFreed_same {d : Device} (h : d.rep.st ≠ .none ∨ d.catchAllowed = false ∨ d.rep.pending = none) :
    d.slotFreed = d := by
  rcases h with h | h | h
  · exact if_neg fun hb => h hb.1
  · exact if_neg fun hb => absurd hb.2 (by rw [h]; decide)
  · exact slotFreed_none d h

theorem slotFreed_builds {d : Device} {k : ReportReason} (hst : d.rep.st = .none) (ha : d.catchAllowed = true)
    (hp : d.rep.pending = some k) : d.slotFreed = (d.onRep fun r => { r with pending := none }).tryBuild k := by
  have hrow : d.slotFreed = d.buildPending := if_pos ⟨hst, ha⟩
  rw [hrow]
  unfold buildPending
  rw [hp]

/-! ### The ACK given (R31, R96) -/

/-- The counts with the answer given. -/
def ackGiven (c : XferCounts) : AckAnswer → XferCounts
  | .accepted => { c with gaveAccepted := bump c.gaveAccepted }
  | .full => { c with gaveFull := bump c.gaveFull }
  | .noRelay => { c with gaveNoRelay := bump c.gaveNoRelay }
  | .unknown => { c with gaveUnknown := bump c.gaveUnknown }

/-- The ACK item that answers the burst. -/
def ackItem (d : Device) (b : Burst) (idx : Nat) (a : AckAnswer) : Item :=
  { d.newItem .ack b.source b.seq [idx, a.value] .answer with ackEnd := b.endTime, order := d.access.nextOffer }

theorem answerData_split (d : Device) (b : Burst) (idx : Nat) (a : AckAnswer) : d.answerData b idx a =
    (d.onXferCounts fun c => ackGiven c a).offerAck b.source b.seq idx a.value b.endTime := by
  cases a <;> rfl

/-- The device with the ACK waiting behind whatever waits in its class. -/
def ackOffered (d : Device) (b : Burst) (idx : Nat) (a : AckAnswer) : Device :=
  d.offer { d.newItem .ack b.source b.seq [idx, a.value] .answer with ackEnd := b.endTime }

theorem ackOffered_eq (d : Device) (b : Burst) (idx : Nat) (a : AckAnswer) : d.ackOffered b idx a = { d with
    access := { d.access with
      nextOffer := d.access.nextOffer + 1,
      answer := { d.access.answer with waiting := d.access.answer.waiting ++ [d.ackItem b idx a] } } } := rfl

/-- With no ACK pending, the answer is counted and its ACK offered. -/
theorem answerData_alone {d : Device} (b : Burst) (idx : Nat) (a : AckAnswer) (h : d.access.answer = ⟨[], none⟩) :
    d.answerData b idx a = { d with
      xfer := { d.xfer with counts := ackGiven d.xfer.counts a },
      access := { d.access with
        nextOffer := d.access.nextOffer + 1,
        answer := ⟨[d.ackItem b idx a], none⟩ } } := by
  let counted := d.onXferCounts fun c => ackGiven c a
  have hnone : counted.hasItem .answer (fun _ => true) = false := by
    show d.access.answer.items.any _ = false
    rw [h]
    rfl
  have hrow : counted.offerAck b.source b.seq idx a.value b.endTime = counted.ackOffered b idx a :=
    congrArg (fun e : Device => e.ackOffered b idx a) (if_neg (by rw [hnone]; decide))
  rw [answerData_split, hrow, ackOffered_eq, show counted.access = d.access from rfl, h]
  rfl

/-- A pending ACK is dropped for it, and the drop counted (R31). -/
theorem answerData_replaces {d : Device} (b : Burst) (idx : Nat) (a : AckAnswer) (h : d.access.answer.items ≠ []) :
    d.answerData b idx a = { d with
      xfer := { d.xfer with counts := ackGiven d.xfer.counts a },
      access := { d.access with
        nextOffer := d.access.nextOffer + 1,
        counts := { d.access.counts with acksDropped := bump d.access.counts.acksDropped },
        answer := ⟨[d.ackItem b idx a], none⟩ } } := by
  let counted := d.onXferCounts fun c => ackGiven c a
  let bare := (counted.withdraw .answer fun _ => true).bumpAcksDropped
  have hsome : counted.hasItem .answer (fun _ => true) = true := by
    show d.access.answer.items.any _ = true
    obtain ⟨x, hx⟩ := List.exists_mem_of_ne_nil _ h
    exact List.any_eq_true.2 ⟨x, hx, rfl⟩
  have hrow : counted.offerAck b.source b.seq idx a.value b.endTime = bare.ackOffered b idx a :=
    congrArg (fun e : Device => e.ackOffered b idx a) (if_pos hsome)
  have hbare : bare.access = { d.access with
      answer := ⟨[], none⟩,
      counts := { d.access.counts with acksDropped := bump d.access.counts.acksDropped } } :=
    congrArg (fun q : ClassQueue => ({ d.access with
      answer := q,
      counts := { d.access.counts with acksDropped := bump d.access.counts.acksDropped } } : Access))
      (withdraw_all d.access.answer)
  rw [answerData_split, hrow, ackOffered_eq, hbare]
  rfl

/-! ### The recent pairs (R99) -/

theorem enterRecent_room {d : Device} (src num : Nat) (h : d.xfer.recents.length < 8) :
    d.enterRecent src num = { d with xfer := { d.xfer with
      recents := d.xfer.recents ++ [⟨src, num, .running (d.now + 600000)⟩] } } := by
  unfold enterRecent
  dsimp only
  rw [if_pos h]
  rfl

/-- In a full list the pair with the least time left gives way, unless its entry waits for its hand-over. -/
theorem enterRecent_full {d : Device} (src num : Nat) (h : 8 ≤ d.xfer.recents.length)
    (hw : ∃ r ∈ d.xfer.recents, d.handOverWaits r = false) :
    ∃ r ∈ d.xfer.recents, d.handOverWaits r = false ∧
      (∀ x ∈ d.xfer.recents, d.handOverWaits x = false → r.timer.left d.now ≤ x.timer.left d.now) ∧
      d.enterRecent src num = { d with xfer := { d.xfer with
        recents := (d.xfer.recents.filter fun x => !(x.source == r.source && x.num == r.num))
          ++ [⟨src, num, .running (d.now + 600000)⟩] } } := by
  have hmem : ∀ x, x ∈ (d.xfer.recents.filter fun r => !d.handOverWaits r) ↔
      x ∈ d.xfer.recents ∧ d.handOverWaits x = false := fun x => by
    rw [List.mem_filter, Bool.not_eq_true']
  obtain ⟨hsome, hnone⟩ := minBy_spec (fun r : Recent => r.timer.left d.now) (fun _ _ => True) (fun _ => trivial)
    (d.xfer.recents.filter fun r => !d.handOverWaits r) (List.pairwise_of_forall fun _ _ => trivial)
  cases hr : minBy? (fun r : Recent => r.timer.left d.now) (d.xfer.recents.filter fun r => !d.handOverWaits r) with
  | none =>
    obtain ⟨x, hx, hxw⟩ := hw
    have hin := (hmem x).2 ⟨hx, hxw⟩
    rw [hnone.1 hr] at hin
    exact absurd hin List.not_mem_nil
  | some r =>
    obtain ⟨hin, hleast⟩ := hsome r hr
    obtain ⟨hr1, hr2⟩ := (hmem r).1 hin
    refine ⟨r, hr1, hr2, fun x hx hxw => ?_, ?_⟩
    · rcases hleast x ((hmem x).2 ⟨hx, hxw⟩) with hlt | ⟨heq, -⟩
      · exact Nat.le_of_lt hlt
      · exact Nat.le_of_eq heq
    · unfold enterRecent
      dsimp only
      rw [if_neg (Nat.not_lt.2 h), hr]
      rfl

theorem enterRecent_eq (d : Device) (src num : Nat) : ∃ l : List Recent,
    d.enterRecent src num = { d with xfer := { d.xfer with recents := l } } := by
  unfold enterRecent
  dsimp only
  split
  · exact ⟨_, rfl⟩
  · split
    · exact ⟨_, rfl⟩
    · exact ⟨_, rfl⟩

/-! ### A DATA burst, rule by rule (R94, R95, R96) -/

theorem receiveData_held {d : Device} (b : Burst) (h : d.holdInForce = true) :
    d.receiveData b = d.onXferCounts fun c => { c with heldData := bump c.heldData } := if_pos h

theorem receiveData_malformed {d : Device} {b : Burst} (h : d.holdInForce = false) (hb : readDataBody b.body = none) :
    d.receiveData b = d.onXferCounts fun c => { c with malformed := bump c.malformed } := by
  unfold receiveData
  rw [if_neg (by rw [h]; decide), hb]

theorem isPair_iff {src num : Nat} {r : Recent} : isPair src num r = true ↔ r.source = src ∧ r.num = num := by
  rw [isPair, Bool.and_eq_true, beq_iff_eq, beq_iff_eq]

/-- A burst of a recent pair is answered ACCEPTED. -/
theorem receiveData_recent {d : Device} {b : Burst} {h : DataHeader} {text : List Nat} (hh : d.holdInForce = false)
    (hb : readDataBody b.body = some (h, text)) (hr : ∃ r ∈ d.xfer.recents, r.source = b.source ∧ r.num = b.seq) :
    d.receiveData b = d.answerData b h.idx .accepted := by
  have hany : d.xfer.recents.any (isPair b.source b.seq) = true := by
    obtain ⟨r, hmem, hk⟩ := hr
    exact List.any_eq_true.2 ⟨r, hmem, isPair_iff.2 hk⟩
  unfold receiveData
  rw [if_neg (by rw [hh]; decide), hb]
  exact if_pos hany

/-- Any other burst goes on to the rules for its entry, or for a message without one. -/
theorem receiveData_fresh {d : Device} {b : Burst} {h : DataHeader} {text : List Nat} (hh : d.holdInForce = false)
    (hb : readDataBody b.body = some (h, text)) (hr : ∀ r ∈ d.xfer.recents, r.source ≠ b.source ∨ r.num ≠ b.seq) :
    (d.reasm? b.source b.seq = none → d.receiveData b =
      if h.idx = 0 then d.openReasm b h text else d.answerData b h.idx .unknown) ∧
    ∀ e, d.reasm? b.source b.seq = some e → d.receiveData b = d.nextFragment b h text e := by
  have hany : ¬ d.xfer.recents.any (isPair b.source b.seq) = true := by
    intro ha
    obtain ⟨r, hmem, hk⟩ := List.any_eq_true.1 ha
    obtain ⟨h1, h2⟩ := isPair_iff.1 hk
    exact (hr r hmem).elim (fun hn => hn h1) fun hn => hn h2
  unfold receiveData
  rw [if_neg (by rw [hh]; decide), hb]
  dsimp only
  rw [if_neg hany]
  refine ⟨fun he => ?_, fun e he => ?_⟩ <;> rw [he]

/-- The conditions under which a message is taken for forwarding (R95). -/
def forwards (d : Device) (dest : Station) : Prop :=
  d.config.message = true ∧ d.relayAvailable = true ∧ ∃ n, d.neighbour? dest = some n ∧ n.fresh = true ∧ n.kind = .port

theorem mayForward_iff (d : Device) (dest : Station) : d.mayForward dest = true ↔ d.forwards dest := by
  unfold mayForward forwards
  cases d.neighbour? dest <;> simp [and_assoc]

theorem forward_refused {d : Device} {dest : Station} :
    (decide (dest ≠ d.config.own) && !d.mayForward dest) = true ↔ dest ≠ d.config.own ∧ ¬ d.forwards dest := by
  rw [Bool.and_eq_true, decide_eq_true_iff, Bool.not_eq_true', ← Bool.not_eq_true, mayForward_iff]

theorem openReasm_noRelay {d : Device} (b : Burst) {h : DataHeader} (text : List Nat) (hd : h.dest ≠ d.config.own)
    (hf : ¬ d.forwards h.dest) : d.openReasm b h text = d.answerData b h.idx .noRelay := by
  unfold openReasm
  exact if_pos (forward_refused.2 ⟨hd, hf⟩)

theorem openReasm_full {d : Device} (b : Burst) {h : DataHeader} (text : List Nat)
    (hf : h.dest = d.config.own ∨ d.forwards h.dest) (hfull : 4 ≤ d.xfer.reasms.length) :
    d.openReasm b h text = d.answerData b h.idx .full := by
  unfold openReasm
  dsimp only
  rw [if_neg, if_pos hfull]
  rw [forward_refused]
  exact fun hn => hf.elim hn.1 hn.2

/-- A new reassembly entry (R95). -/
def newEntry (d : Device) (b : Burst) (h : DataHeader) (text : List Nat) (slot : Option Nat) : Reasm :=
  { source := b.source, num := b.seq, cls := h.cls, dest := h.dest, orig := h.orig, cnt := h.cnt, next := 1,
    grant := d.store.nextId, len := text.length, lastActivity := b.endTime, timer := .running (b.endTime + 120000),
    relaySlot := slot, waiting := false, doneAt := 0 }

/-- A message taken into its first entry: its text stored, its fragment answered, and it completed when it is its
only one. -/
def entryTaken (d : Device) (b : Burst) (h : DataHeader) (text : List Nat) (e : Reasm) : Device :=
  let d := (d.writeText e.grant 0 text).onXfer fun t => { t with reasms := t.reasms ++ [e] }
  let d := d.answerData b h.idx .accepted
  if h.cnt = 1 then d.completeMessage b.source b.seq else d

theorem reserve_granted {s y : Store} {holder : Holder} {size id : Nat}
    (h : s.reserve holder size = (.granted id, y)) : id = s.nextId := by
  unfold Store.reserve at h
  dsimp only at h
  split at h
  · exact ((Reserved.granted.inj (congrArg Prod.fst h))).symm
  · split at h
    · cases congrArg Prod.fst h
    · split at h
      · cases congrArg Prod.fst h
      · exact ((Reserved.granted.inj (congrArg Prod.fst h))).symm

/-- With an entry to spare the pages decide: none granted is answered FULL, and else the message is taken. -/
theorem openReasm_asks {d : Device} (b : Burst) {h : DataHeader} (text : List Nat) {r : Reserved} {y : Store}
    (hf : h.dest = d.config.own ∨ d.forwards h.dest) (hroom : d.xfer.reasms.length < 4)
    (hr : d.store.reserve .inbound (h.cnt * 111) = (r, y)) :
    (r ≠ .granted d.store.nextId → d.openReasm b h text = answerData { d with store := y } b h.idx .full) ∧
    (r = .granted d.store.nextId →
      (h.dest = d.config.own →
        d.openReasm b h text = entryTaken { d with store := y } b h text (d.newEntry b h text none)) ∧
      ∀ i, h.dest ≠ d.config.own → d.freeSlot? = some i →
        d.openReasm b h text = entryTaken (takeSlot { d with store := y } i .reserved .relay 0 h.cls h.dest h.orig
          none 0) b h text (d.newEntry b h text (some i))) := by
  have hres : d.reserve .inbound (h.cnt * 111) = (r, { d with store := y }) := by
    unfold reserve
    rw [hr]
  unfold openReasm
  dsimp only
  rw [if_neg (by rw [forward_refused]; exact fun hn => hf.elim hn.1 hn.2), if_neg (Nat.not_le.2 hroom), hres]
  refine ⟨fun hn => ?_, fun hg => ?_⟩
  · cases r with
    | granted id => exact absurd (congrArg Reserved.granted (reserve_granted hr)) hn
    | refusedCap => rfl
    | refusedPool => rfl
  · subst hg
    refine ⟨fun hd => ?_, fun i hd hi => ?_⟩
    · have hslot : (if decide (h.dest ≠ d.config.own) = true then freeSlot? { d with store := y } else none) = none :=
        if_neg (by simp [hd])
      dsimp only
      rw [hslot]
      rfl
    · have hslot : (if decide (h.dest ≠ d.config.own) = true then freeSlot? { d with store := y } else none) = some i :=
        (if_pos (decide_eq_true hd)).trans hi
      dsimp only
      rw [hslot]
      rfl

theorem entryTaken_first {d : Device} (b : Burst) {h : DataHeader} (text : List Nat) (e : Reasm) (hi : h.idx = 0) :
    d.entryTaken b h text e =
      (let taken := answerData { d with
        store := d.store.writeSyms e.grant 0 text,
        xfer := { d.xfer with reasms := d.xfer.reasms ++ [e] } } b 0 .accepted
      if h.cnt = 1 then taken.completeMessage b.source b.seq else taken) := by
  unfold entryTaken
  rw [hi]
  rfl

/-- An entry's change, in the list of entries. -/
theorem onReasm_map (d : Device) (src num : Nat) (f : Reasm → Reasm) : d.onReasm src num f = { d with
    xfer := { d.xfer with
      reasms := d.xfer.reasms.map fun x => if x.source = src ∧ x.num = num then f x else x } } := by
  unfold onReasm onXfer
  simp only [mapIf, Bool.and_eq_true, beq_iff_eq]

/-- Two changes of one entry, the first of which leaves its keys. -/
theorem map_keyed_twice (l : List Reasm) (src num : Nat) {f g : Reasm → Reasm}
    (hf : ∀ x, (f x).source = x.source ∧ (f x).num = x.num) :
    ((l.map fun x => if x.source = src ∧ x.num = num then f x else x).map fun x =>
      if x.source = src ∧ x.num = num then g x else x)
    = l.map fun x => if x.source = src ∧ x.num = num then g (f x) else x := by
  rw [List.map_map]
  refine List.map_congr_left fun x _ => ?_
  obtain ⟨h1, h2⟩ := hf x
  by_cases hk : x.source = src ∧ x.num = num
  · simp only [Function.comp_apply, if_pos hk, h1, h2]
  · simp only [Function.comp_apply, if_neg hk]

/-- Activity of an entry (R96). -/
def touched (b : Burst) (x : Reasm) : Reasm :=
  { x with lastActivity := b.endTime, timer := .running (b.endTime + 120000) }

/-- The device with the burst's entry changed and the pages as given. -/
def entryChanged (d : Device) (b : Burst) (f : Reasm → Reasm) (y : Store) : Device := { d with
  store := y,
  xfer := { d.xfer with
    reasms := d.xfer.reasms.map fun x => if x.source = b.source ∧ x.num = b.seq then f x else x } }

theorem touch_eq (d : Device) (b : Burst) : d.touch b = d.entryChanged b (touched b) d.store :=
  onReasm_map d b.source b.seq (touched b)

theorem agrees_iff {e : Reasm} {h : DataHeader} :
    agrees e h = true ↔ e.cnt = h.cnt ∧ e.cls = h.cls ∧ e.dest = h.dest ∧ e.orig = h.orig := by
  simp only [agrees, Bool.and_eq_true, beq_iff_eq, and_assoc]

/-- The next fragment with its text written, the entry one fragment further. -/
theorem fragment_written (d : Device) (b : Burst) (grant i : Nat) (text : List Nat) :
    ((d.touch b).writeText grant i text).onReasm b.source b.seq (fun e =>
      { e with len := e.len + text.length, next := e.next + 1 })
    = d.entryChanged b (fun x => { touched b x with len := x.len + text.length, next := x.next + 1 })
        (d.store.writeSyms grant i text) := by
  have htwice := map_keyed_twice d.xfer.reasms b.source b.seq (f := touched b)
    (g := fun e => { e with len := e.len + text.length, next := e.next + 1 }) fun _ => ⟨rfl, rfl⟩
  rw [touch_eq, onReasm_map]
  exact congrArg (fun l => { d with
    store := d.store.writeSyms grant i text,
    xfer := { d.xfer with reasms := l } }) htwice

/-- The fragment that comes next is stored and answered ACCEPTED, and the last one completes the message. -/
theorem nextFragment_stored {d : Device} (b : Burst) {h : DataHeader} (text : List Nat) {e : Reasm} (h0 : h.idx ≠ 0)
    (hn : h.idx = e.next) (hs : agrees e h = true) :
    let stored := (d.entryChanged b (fun x => { touched b x with len := x.len + text.length, next := x.next + 1 })
      (d.store.writeSyms e.grant (111 * h.idx) text)).answerData b h.idx .accepted
    d.nextFragment b h text e = if h.idx + 1 = h.cnt then stored.completeMessage b.source b.seq else stored := by
  unfold nextFragment
  rw [if_neg h0, if_pos hn]
  dsimp only
  rw [if_pos hs, fragment_written]

theorem nextFragment_differs {d : Device} (b : Burst) {h : DataHeader} (text : List Nat) {e : Reasm} (h0 : h.idx ≠ 0)
    (hn : h.idx = e.next) (hs : ¬ agrees e h = true) :
    d.nextFragment b h text e = (d.entryChanged b (touched b) d.store).answerData b h.idx .unknown := by
  unfold nextFragment
  rw [if_neg h0, if_pos hn]
  dsimp only
  rw [if_neg hs, touch_eq]

theorem nextFragment_repeated {d : Device} (b : Burst) {h : DataHeader} (text : List Nat) {e : Reasm} (h0 : h.idx ≠ 0)
    (hn : h.idx + 1 = e.next) :
    d.nextFragment b h text e = (d.entryChanged b (touched b) d.store).answerData b h.idx .accepted := by
  unfold nextFragment
  rw [if_neg h0, if_neg (by omega), if_pos hn, touch_eq]

theorem nextFragment_unknown {d : Device} (b : Burst) {h : DataHeader} (text : List Nat) {e : Reasm} (h0 : h.idx ≠ 0)
    (hn : h.idx ≠ e.next) (hr : h.idx + 1 ≠ e.next) :
    d.nextFragment b h text e = d.answerData b h.idx .unknown := by
  unfold nextFragment
  rw [if_neg h0, if_neg hn, if_neg hr]

theorem nextFragment_again {d : Device} (b : Burst) {h : DataHeader} (text : List Nat) (e : Reasm) (h0 : h.idx = 0) :
    d.nextFragment b h text e = (d.discardReasm e).openReasm b h text := if_pos h0

/-! ### A completed message (R97) -/

/-- The pair entered among the recent ones, and the entry's moment of completion noted. -/
def completed (d : Device) (src num : Nat) : Device :=
  (d.enterRecent src num).onReasm src num fun e => { e with doneAt := d.now }

theorem completed_reasm {d : Device} {src num : Nat} {e : Reasm} (h : d.reasm? src num = some e) :
    (d.completed src num).reasm? src num = some { e with doneAt := d.now } := by
  obtain ⟨l, hl⟩ := d.enterRecent_eq src num
  have hfind := find_mapIf_same (fun x : Reasm => x.source == src && x.num == num)
    (fun x => { x with doneAt := d.now }) d.xfer.reasms fun x hx => hx
  have hreasm : (d.completed src num).xfer.reasms = mapIf (fun x : Reasm => x.source == src && x.num == num)
      (fun x => { x with doneAt := d.now }) d.xfer.reasms := by
    unfold completed
    rw [hl]
    rfl
  unfold reasm? at h ⊢
  rw [hreasm, hfind, h]
  rfl

/-- Removing the entry undoes the note of its completion. -/
theorem filter_mapIf_removed {α : Type} (p : α → Bool) (f : α → α) (l : List α)
    (hf : ∀ x, p x = true → p (f x) = true) :
    ((mapIf p f l).filter fun x => !p x) = l.filter fun x => !p x := by
  unfold mapIf
  induction l with
  | nil => rfl
  | cons x r ih =>
    rw [List.map_cons]
    cases hx : p x
    case true => simp [hx, hf x hx, ih]
    case false => simp [hx, ih]

theorem completed_removed (d : Device) (src num : Nat) : (d.completed src num).removeReasm src num =
    { d.enterRecent src num with xfer := { (d.enterRecent src num).xfer with
      reasms := d.xfer.reasms.filter fun x => !(x.source == src && x.num == num) } } := by
  obtain ⟨l, hl⟩ := d.enterRecent_eq src num
  have hgone := filter_mapIf_removed (fun x : Reasm => x.source == src && x.num == num)
    (fun x => { x with doneAt := d.now }) d.xfer.reasms fun x hx => hx
  unfold completed
  rw [hl]
  exact congrArg (fun q => { d with xfer := { d.xfer with recents := l, reasms := q } }) hgone

/-- The message's own record (R97). -/
def messageOf (e : Reasm) : Message := ⟨e.source, e.orig, e.cls, e.num, e.len, e.grant⟩

/-- A message for the part itself goes to its owner, by its class. -/
def handedOn (d : Device) (m : Message) : MsgClass → Device
  | .text | .catchReport => d.deliver m
  | .receipt => d.receipt m
  | .quota => d.quotaNotice m

theorem enterRecent_config (d : Device) (src num : Nat) : (d.enterRecent src num).config = d.config := by
  obtain ⟨l, hl⟩ := d.enterRecent_eq src num
  rw [hl]

theorem enterRecent_console (d : Device) (src num : Nat) : (d.enterRecent src num).console = d.console := by
  obtain ⟨l, hl⟩ := d.enterRecent_eq src num
  rw [hl]

theorem completed_store (d : Device) (src num : Nat) : (d.completed src num).store = d.store := by
  obtain ⟨l, hl⟩ := d.enterRecent_eq src num
  unfold completed
  rw [hl]
  rfl

theorem completeMessage_own {d : Device} {src num : Nat} {e : Reasm} (h : d.reasm? src num = some e)
    (hd : e.dest = d.config.own) :
    d.completeMessage src num = ((d.completed src num).removeReasm src num).handedOn (messageOf e) e.cls := by
  have hc : (d.completed src num).config = d.config := d.enterRecent_config src num
  unfold completeMessage
  dsimp only
  rw [show (d.enterRecent src num).onReasm src num (fun e => { e with doneAt := d.now })
    = d.completed src num from rfl, completed_reasm h]
  dsimp only
  rw [hc, if_pos hd]
  unfold handedOn messageOf
  cases h : e.cls <;> rfl

theorem completeMessage_relay {d : Device} {src num : Nat} {e : Reasm} (h : d.reasm? src num = some e)
    (hd : e.dest ≠ d.config.own) :
    d.completeMessage src num = (d.completed src num).handOverRelay { e with doneAt := d.now } := by
  have hc : (d.completed src num).config = d.config := d.enterRecent_config src num
  unfold completeMessage
  dsimp only
  rw [show (d.enterRecent src num).onReasm src num (fun e => { e with doneAt := d.now })
    = d.completed src num from rfl, completed_reasm h]
  dsimp only
  rw [hc, if_neg hd]

/-- The delivery's record kept, before its report. -/
def deliveryAdded (d : Device) (m : Message) : Device :=
  d.onConsole fun c =>
    { c with
      deliveries := c.deliveries ++ [⟨d.console.nextDelivery, m.source, m.orig, m.cls, m.num, m.len, m.grant⟩],
      nextDelivery := d.console.nextDelivery + 1 }

/-- A delivery with room in its lane. -/
theorem deliver_room {d : Device} (m : Message) (h : d.console.general.entries.length < 24) :
    d.deliver m = { d with console := { d.console with
      deliveries := d.console.deliveries ++ [⟨d.console.nextDelivery, m.source, m.orig, m.cls, m.num, m.len, m.grant⟩],
      nextDelivery := d.console.nextDelivery + 1,
      general := { d.console.general with
        entries := d.console.general.entries ++ [⟨.delivery, 0, .delivery d.console.nextDelivery, 0⟩] } } } := by
  have hroom : (d.deliveryAdded m).laneRoom .general = true := decide_eq_true h
  have hqueued : d.deliver m
      = (d.deliveryAdded m).queueEntry .general ⟨.delivery, 0, .delivery d.console.nextDelivery, 0⟩ := if_pos hroom
  exact hqueued.trans (if_pos hroom)

/-- What the hand-over of the completed entry asks of the pages, and what becomes of it (R97, R100). -/
theorem handOverRelay_refused {d : Device} {e : Reasm} {i : Nat} {y : Store} (hs : e.relaySlot = some i)
    (hy : d.store.handOver e.grant .outbound = (false, y)) :
    d.handOverRelay e = onReasm { d with store := y } e.source e.num fun x => { x with waiting := true } := by
  unfold handOverRelay
  rw [hs]
  dsimp only
  rw [hy]
  rfl

theorem handOverRelay_taken {d : Device} {e : Reasm} {i : Nat} {y : Store} (hs : e.relaySlot = some i)
    (hy : d.store.handOver e.grant .outbound = (true, y)) :
    d.handOverRelay e = (startRelay { d with store := y } i e).removeReasm e.source e.num := by
  unfold handOverRelay
  rw [hs]
  dsimp only
  rw [hy]
  rfl

theorem completed_waits (d : Device) (src num : Nat) (y : Store) :
    onReasm { d.completed src num with store := y } src num (fun x => { x with waiting := true }) =
      { d.enterRecent src num with
        store := y,
        xfer := { (d.enterRecent src num).xfer with reasms := d.xfer.reasms.map fun x =>
          if x.source = src ∧ x.num = num then { x with doneAt := d.now, waiting := true } else x } } := by
  obtain ⟨l, hl⟩ := d.enterRecent_eq src num
  have htwice := map_keyed_twice d.xfer.reasms src num (f := fun x => { x with doneAt := d.now })
    (g := fun x => { x with waiting := true }) fun _ => ⟨rfl, rfl⟩
  unfold completed
  rw [hl, onReasm_map, onReasm_map]
  exact congrArg (fun q => { d with store := y, xfer := { d.xfer with recents := l, reasms := q } }) htwice

/-- The RELAY slot as the hand-over fills it, before its route is asked for. -/
def relayFilled (s : Slot) (e : Reasm) : Slot :=
  { s with cls := e.cls, dest := e.dest, orig := e.orig, grant := some e.grant, len := e.len,
           cnt := (e.len + 110) / 111, idx := 0, retries := 0, refusals := 0, restarts := 0, cw := 8 }

theorem routeFor_relay {d : Device} {s : Slot} (h : s.origin = .relay) :
    d.routeFor s = none ∨ d.routeFor s = some s.dest := by
  unfold routeFor
  rw [h]
  dsimp only
  cases d.neighbour? s.dest with
  | none => exact .inl rfl
  | some n =>
    dsimp only
    split
    · exact .inr rfl
    · exact .inl rfl

/-- A slot that starts afresh at a hop is READY there, or HELD under the hold (R82). -/
theorem goReady_slot {d : Device} {i : Nat} (hi : i < d.xfer.slots.length) :
    ((d.goReady i).slot i).st = (if d.holdInForce then .held else .ready) ∧
    ((d.goReady i).slot i).hop = (d.slot i).hop ∧ ((d.goReady i).slot i).idx = (d.slot i).idx ∧
    ((d.goReady i).slot i).num = (d.slot i).num := by
  cases hh : d.holdInForce
  case true =>
    have hrow : d.goReady i = d.onSlot i fun s => { s with st := .held, heldFrom := .ready, refusalEnd := none } :=
      if_pos hh
    rw [hrow, slot_onSlot, if_pos ⟨rfl, hi⟩]
    exact ⟨rfl, rfl, rfl, rfl⟩
  case false =>
    have hrow : d.goReady i
        = d.onSlot i fun s => { s with st := .ready, readySince := d.now, onAir := false, refusalEnd := none } :=
      if_neg (by rw [hh]; decide)
    rw [hrow, slot_onSlot, if_pos ⟨rfl, hi⟩]
    exact ⟨rfl, rfl, rfl, rfl⟩

/-- What a relay's route question leaves in its slot: no hop yet, or the destination as hop and the start there. -/
theorem startRoute_relay {d : Device} {i : Nat} (hi : i < d.xfer.slots.length) (ho : (d.slot i).origin = .relay)
    (h0 : (d.slot i).idx = 0) :
    let s := (d.startRoute i).slot i
    s.num = (d.slot i).num ∧ s.idx = 0 ∧
    (s.st = .awaitingRoute ∨ s.hop = some (d.slot i).dest ∧ s.st = (if d.holdInForce then .held else .ready)) := by
  let asked := d.onSlot i fun s => { s with st := .awaitingRoute, hop := none }
  have hlen : i < asked.xfer.slots.length := by rw [slots_onSlot]; exact hi
  have hslot : asked.slot i = { d.slot i with st := .awaitingRoute, hop := none } := by
    rw [slot_onSlot, if_pos ⟨rfl, hi⟩]
  have hrow : d.startRoute i = asked.takeAnswer i (asked.routeFor (d.slot i)) := by
    have hport : asked.portBound (d.slot i) = true := by
      unfold portBound
      rw [ho]
      rfl
    unfold startRoute
    exact congrArg (asked.takeAnswer i) (if_pos hport)
  rw [hrow]
  rcases routeFor_relay (d := asked) ho with hr | hr <;> rw [hr]
  · have hnone : asked.takeAnswer i none = (asked.withdrawData i).onSlot i fun s =>
        { s with hop := none, st := .awaitingRoute, refusalEnd := none } := rfl
    rw [hnone, slot_onSlot, if_pos ⟨rfl, hlen⟩, show (asked.withdrawData i).slot i = _ from hslot]
    exact ⟨rfl, h0, .inl rfl⟩
  · let fresh := (asked.withdrawData i).onSlot i fun s => afresh s (d.slot i).dest
    have hsome : asked.takeAnswer i (some (d.slot i).dest) = fresh.goReady i := by
      unfold takeAnswer
      rw [hslot]
      exact if_neg (Option.some_ne_none _).symm
    have hfresh : fresh.slot i = afresh (asked.slot i) (d.slot i).dest := by
      rw [slot_onSlot, if_pos ⟨rfl, hlen⟩]
      rfl
    obtain ⟨hst, hhop, hidx, hnum⟩ := goReady_slot (d := fresh) (i := i) (by rw [slots_onSlot]; exact hlen)
    rw [hsome]
    dsimp only
    rw [hnum, hidx, hst, hhop, hfresh, hslot]
    exact ⟨rfl, rfl, .inr ⟨rfl, rfl⟩⟩

theorem startRoute_store (d : Device) (i : Nat) : (d.startRoute i).store = d.store := by
  unfold startRoute takeAnswer goReady
  dsimp only
  repeat' split
  all_goals rfl

/-- The RELAY slot that a completed message is handed over to (R97). -/
theorem startRelay_facts {d : Device} {i : Nat} {e : Reasm} (hi : i < d.xfer.slots.length)
    (ho : (d.slot i).origin = .relay) :
    let f := d.startRelay i e
    f.store = d.store ∧ (f.slot i).grant = some e.grant ∧ (f.slot i).len = e.len ∧
    (f.slot i).cnt = (e.len + 110) / 111 ∧ (f.slot i).cls = e.cls ∧ (f.slot i).dest = e.dest ∧
    (f.slot i).orig = e.orig ∧ (f.slot i).idx = 0 ∧ (f.slot i).num = (d.slot i).num ∧
    (f.slot i).lifetimeEnd = (d.slot i).lifetimeEnd ∧
    ((f.slot i).st = .awaitingRoute ∨ (f.slot i).hop = some e.dest ∧
      (f.slot i).st = (if d.holdInForce then .held else .ready)) := by
  let filled := d.onSlot i fun s => relayFilled s e
  have hslot : filled.slot i = relayFilled (d.slot i) e := by rw [slot_onSlot, if_pos ⟨rfl, hi⟩]
  have hlen : i < filled.xfer.slots.length := by rw [slots_onSlot]; exact hi
  obtain ⟨hnum, hidx, hst⟩ := startRoute_relay (d := filled) hlen (by rw [hslot]; exact ho) (by rw [hslot]; rfl)
  obtain ⟨-, -, hcls, hdest, horig, hgrant, hsize, hcnt, hlife⟩ := startRoute_slot filled i i
  have hstore := filled.startRoute_store i
  rw [hslot] at hnum hcls hdest horig hgrant hsize hcnt hlife hst
  intro f
  exact ⟨hstore, hgrant, hsize, hcnt, hcls, hdest, horig, hidx, hnum, hlife, hst⟩

theorem reasm_removed (d : Device) (src num : Nat) : (d.removeReasm src num).reasm? src num = none := by
  refine List.find?_eq_none.2 fun x hx hp => ?_
  obtain ⟨-, hn⟩ := List.mem_filter.1 hx
  rw [hp] at hn
  exact absurd hn (by decide)

/-- The part of a completed message for another station: its pages and its RELAY slot (R97, R100). -/
theorem completeMessage_handedOver {d : Device} {src num i : Nat} {e : Reasm} {y : Store}
    (h : d.reasm? src num = some e) (hd : e.dest ≠ d.config.own) (hs : e.relaySlot = some i)
    (hi : i < d.xfer.slots.length) (ho : (d.slot i).origin = .relay)
    (hy : d.store.handOver e.grant .outbound = (true, y)) :
    let f := d.completeMessage src num
    f.store = y ∧ f.reasm? src num = none ∧ (f.slot i).grant = some e.grant ∧ (f.slot i).len = e.len ∧
    (f.slot i).cnt = (e.len + 110) / 111 ∧ (f.slot i).cls = e.cls ∧ (f.slot i).dest = e.dest ∧
    (f.slot i).orig = e.orig ∧ (f.slot i).idx = 0 ∧ (f.slot i).num = (d.slot i).num ∧
    (f.slot i).lifetimeEnd = (d.slot i).lifetimeEnd ∧
    ((f.slot i).st = .awaitingRoute ∨ (f.slot i).hop = some e.dest ∧
      (f.slot i).st = (if d.holdInForce then .held else .ready)) := by
  obtain ⟨l, hl⟩ := d.enterRecent_eq src num
  obtain ⟨hsrc, hnum⟩ := reasm_keys h
  let stored : Device := { d.completed src num with store := y }
  have hc : d.completed src num = { d with xfer := (d.completed src num).xfer } ∧
      (d.completed src num).xfer.slots = d.xfer.slots := by
    unfold completed
    rw [hl]
    exact ⟨rfl, rfl⟩
  obtain ⟨hsame, hslots⟩ := hc
  have hslot : stored.slot i = d.slot i := by
    show (d.completed src num).xfer.slots.getD i Slot.free = _
    rw [hslots]
    rfl
  have hhold : stored.holdInForce = d.holdInForce := by
    show (d.completed src num).holdInForce = _
    rw [hsame]
    rfl
  have hstore : (d.completed src num).store = d.store := by rw [hsame]
  have hrow : d.completeMessage src num
      = (stored.startRelay i { e with doneAt := d.now }).removeReasm src num := by
    have htaken := handOverRelay_taken (d := d.completed src num) (e := { e with doneAt := d.now }) (y := y) hs
      (by rw [hstore]; exact hy)
    rw [completeMessage_relay h hd, htaken]
    exact congrArg₂ (removeReasm (stored.startRelay i { e with doneAt := d.now })) hsrc hnum
  have hfacts := startRelay_facts (d := stored) (i := i) (e := { e with doneAt := d.now })
    (by rw [show stored.xfer.slots = _ from hslots]; exact hi) (by rw [hslot]; exact ho)
  rw [hslot, hhold] at hfacts
  obtain ⟨fstore, frest⟩ := hfacts
  rw [hrow]
  generalize stored.startRelay i { e with doneAt := d.now } = f at fstore frest ⊢
  exact ⟨fstore, reasm_removed f src num, frest⟩

end Device

/-- Settles O38: the two timers, the answers given, R95's and R96's rules case by case, and the completed message. -/
theorem reassemblyTimers : Obligations.ReassemblyTimers := by
  unfold Obligations.ReassemblyTimers
  refine ⟨⟨?_, fun d => ⟨Device.slotFreed_same, fun k => Device.slotFreed_builds⟩, ?_, ?_, ?_, ?_, ?_⟩, ?_⟩
  · intro src num e t s hlow he ht
    have hrow := exec_of_event (i := .inactivityExpiry src num) (Device.inactivityTime src num) rfl hlow
      (Device.inactivityTime_of he ht)
    refine ⟨fun hs => ?_, fun i hs => ?_⟩
    · refine hrow.trans ?_
      rw [Device.reasmExpires, Device.discardReasm_bare hs]
      rfl
    · refine hrow.trans ?_
      rw [Device.reasmExpires, Device.discardReasm_slot hs]
      rfl
  · intro src num r t s hlow hr ht
    exact exec_of_event (Device.recentTime src num) rfl hlow (Device.recentTime_of hr ht)
  · intro d b idx a h
    refine ⟨_, rfl, ?_⟩
    rw [Device.answerData_alone b idx a h]
    refine ⟨rfl, rfl, ?_, ?_, ?_, ?_⟩ <;> (rintro rfl; rfl)
  · intro d b
    refine ⟨Device.receiveData_held b, Device.receiveData_malformed, fun h text hh hb =>
      ⟨Device.receiveData_recent hh hb, fun hr => ?_⟩⟩
    obtain ⟨hnone, hsome⟩ := Device.receiveData_fresh hh hb hr
    intro forwards entry taken
    refine ⟨fun he => ?_, fun e he => ?_⟩
    · rw [hnone he]
      refine ⟨fun h0 => if_neg h0, fun h0 hd hf => ?_, fun h0 hf hfull => ?_, fun h0 hf hroom r y hy => ?_⟩
      · rw [if_pos h0, Device.openReasm_noRelay b text hd hf, h0]
      · rw [if_pos h0, Device.openReasm_full b text hf hfull, h0]
      · obtain ⟨hno, hyes⟩ := Device.openReasm_asks b text hf hroom hy
        rw [if_pos h0]
        refine ⟨fun hn => ?_, fun hg => ⟨fun hd => ?_, fun i hd hi => ?_⟩⟩
        · rw [hno hn, h0]
        · rw [(hyes hg).1 hd, Device.entryTaken_first b text _ h0]
          rfl
        · rw [(hyes hg).2 i hd hi, Device.entryTaken_first b text _ h0]
          rfl
    · rw [hsome e he]
      intro touched onEntry same dropped
      refine ⟨fun h0 hs => ?_, fun i h0 hs => ?_, fun h0 hn hs => ?_, fun h0 hn hs => ?_, fun h0 hn => ?_,
        fun h0 hn hr => ?_⟩
      · rw [Device.nextFragment_again b text e h0, Device.discardReasm_bare hs]
        rfl
      · rw [Device.nextFragment_again b text e h0, Device.discardReasm_slot hs]
        rfl
      · exact Device.nextFragment_stored b text h0 hn (Device.agrees_iff.2 hs)
      · exact Device.nextFragment_differs b text h0 hn fun ha => hs (Device.agrees_iff.1 ha)
      · exact Device.nextFragment_repeated b text h0 hn
      · exact Device.nextFragment_unknown b text h0 hn hr
  · intro d src num
    exact ⟨Device.enterRecent_room src num, Device.enterRecent_full src num⟩
  · intro d src num e he m freed
    have hcon : freed.console = d.console := Device.enterRecent_console d src num
    refine ⟨fun hd => ?_, fun i y hd hs hi ho => ⟨fun hy => ?_, fun hy => ?_⟩⟩
    · have hrow := Device.completeMessage_own he hd
      rw [Device.completed_removed] at hrow
      refine ⟨fun hk hroom => ?_, fun hk => ?_, fun hk => ?_⟩
      · have hdel := Device.deliver_room (d := freed) (Device.messageOf e) (by rw [hcon]; exact hroom)
        have hclass : freed.handedOn (Device.messageOf e) e.cls = freed.deliver (Device.messageOf e) :=
          hk.elim (fun hk => congrArg (freed.handedOn (Device.messageOf e)) hk)
            fun hk => congrArg (freed.handedOn (Device.messageOf e)) hk
        rw [hcon] at hdel
        exact hrow.trans (hclass.trans hdel)
      · exact hrow.trans (congrArg (freed.handedOn (Device.messageOf e)) hk)
      · exact hrow.trans (congrArg (freed.handedOn (Device.messageOf e)) hk)
    · have hstore : (d.completed src num).store = d.store := Device.completed_store d src num
      obtain ⟨hsrc, hnum⟩ := Device.reasm_keys he
      have hrefused := Device.handOverRelay_refused (d := d.completed src num) (e := { e with doneAt := d.now })
        (y := y) hs (by rw [hstore]; exact hy)
      rw [Device.completeMessage_relay he hd, hrefused, hsrc, hnum]
      exact Device.completed_waits d src num y
    · exact ⟨_, rfl, Device.completeMessage_handedOver he hd hs hi ho hy⟩
  · intro d b idx a h
    refine ⟨_, rfl, ?_⟩
    rw [Device.answerData_replaces b idx a h]
    refine ⟨rfl, rfl, ?_⟩
    cases a <;> rfl

end Sys2Proof.Machine
end

section
/-! PROOF. One sample, one trip, one change of state, and its PROTECTION report (O26). -/

namespace Sys2Proof.Machine
namespace Device

/-! ### A sample, by the monitor's state (R40, R44) -/

theorem sampleMonitor_rests {d : Device} {m : MonitorId} (h : (d.monitor m).resting = true) (x : Bool) :
    d.sampleMonitor m x = (false, d) := if_pos h

/-- A monitor that does not rest is sampled by its state. -/
theorem sampleMonitor_awake {d : Device} {m : MonitorId} (h : (d.monitor m).resting = false) (x : Bool) :
    d.sampleMonitor m x = match (d.monitor m).st, x with
      | .normal, false => (false, d.onMonitor m fun y => { y with run := 0 })
      | .normal, true =>
        if d.tripDelay m ≤ 1 then (true, d.tripMonitor m)
        else (false, d.moveMonitor m .alert 1 .activeSample d.reportKeyTime)
      | .alert, false => (false, d.moveMonitor m .normal 0 .inactiveSample d.reportKeyTime)
      | .alert, true =>
        if d.tripDelay m ≤ (d.monitor m).run + 1 then (true, d.tripMonitor m)
        else (false, d.onMonitor m fun y => { y with run := min 255 (y.run + 1) })
      | _, _ => (false, d) := if_neg (by rw [h]; decide)

theorem sampleMonitor_inhibited {d : Device} {m : MonitorId} (hr : (d.monitor m).resting = false)
    (h : inhibits (d.monitor m) = true) (x : Bool) : d.sampleMonitor m x = (false, d) := by
  rw [sampleMonitor_awake hr]
  unfold inhibits at h
  cases hs : (d.monitor m).st
  case normal | alert => rw [hs] at h; exact absurd h (by decide)
  case tripped | latched => rfl

theorem sampleMonitor_normal_active {d : Device} {m : MonitorId} (hr : (d.monitor m).resting = false)
    (hs : (d.monitor m).st = .normal) : d.sampleMonitor m true =
      if d.tripDelay m ≤ 1 then (true, d.tripMonitor m)
      else (false, d.moveMonitor m .alert 1 .activeSample d.reportKeyTime) := by
  rw [sampleMonitor_awake hr, hs]

theorem sampleMonitor_alert_inactive {d : Device} {m : MonitorId} (hr : (d.monitor m).resting = false)
    (hs : (d.monitor m).st = .alert) : d.sampleMonitor m false =
      (false, d.moveMonitor m .normal 0 .inactiveSample d.reportKeyTime) := by
  rw [sampleMonitor_awake hr, hs]

theorem sampleMonitor_alert_active {d : Device} {m : MonitorId} (hr : (d.monitor m).resting = false)
    (hs : (d.monitor m).st = .alert) : d.sampleMonitor m true =
      if d.tripDelay m ≤ (d.monitor m).run + 1 then (true, d.tripMonitor m)
      else (false, d.onMonitor m fun x => { x with run := min 255 (x.run + 1) }) := by
  rw [sampleMonitor_awake hr, hs]

theorem onMonitor_congr {d : Device} {m : MonitorId} {f g : Monitor → Monitor}
    (h : f (d.monitor m) = g (d.monitor m)) : d.onMonitor m f = d.onMonitor m g := by
  have hconst : ∀ k : Monitor → Monitor, d.onMonitor m k = d.onMonitor m fun _ => k (d.monitor m) := by
    intro k
    cases m <;> rfl
  rw [hconst f, hconst g, h]

/-- A change of state gives the monitor the new state and run. -/
theorem moveMonitor_self (d : Device) (m : MonitorId) (st : MonState) (run : Nat) (c : ProtCause) (k : Nat) :
    ((d.moveMonitor m st run c k).monitor m).st = st ∧ ((d.moveMonitor m st run c k).monitor m).run = run ∧
    ((d.moveMonitor m st run c k).monitor m).recoverAt = (d.monitor m).recoverAt := by
  obtain ⟨hst, hrun, hrec, -⟩ := monitor_moveMonitor d m m st run c k
  rw [hst, hrun, hrec, if_pos rfl, if_pos rfl]
  exact ⟨rfl, rfl, rfl⟩

/-! ### A trip (R44, R45) -/

theorem latches_iff (d : Device) (trips : Nat) :
    d.latches trips = true ↔ d.config.latch ≠ 0 ∧ d.config.latch ≤ trips := by
  simp [latches]

/-- The device with the trip counted and the quiet timer stopped (R45). -/
def tripCounted (d : Device) : Device :=
  { d with prot := { d.prot with trips := min 255 (d.prot.trips + 1), quietEnd := none } }

theorem tripCounted_monitor (d : Device) (m : MonitorId) : d.tripCounted.monitor m = d.monitor m := by
  cases m <;> rfl

theorem tripMonitor_latches {d : Device} (m : MonitorId)
    (h : d.config.latch ≠ 0 ∧ d.config.latch ≤ min 255 (d.prot.trips + 1)) :
    d.tripMonitor m = d.tripCounted.moveMonitor m .latched 0 .latchLimit d.reportKeyTime :=
  if_pos ((latches_iff d.tripCounted _).2 h)

theorem tripMonitor_recovers {d : Device} (m : MonitorId)
    (h : d.config.latch = 0 ∨ min 255 (d.prot.trips + 1) < d.config.latch) :
    d.tripMonitor m = (d.tripCounted.onMonitor m fun x => { x with
        recoverAt := if d.config.recovery = 0 then none else some (d.now + d.config.recovery * 1000) }).moveMonitor m
      .tripped 0 .runComplete d.reportKeyTime := by
  refine if_neg fun hl => ?_
  obtain ⟨h0, hle⟩ := (latches_iff d.tripCounted _).1 hl
  exact h.elim h0 fun hlt => absurd hle (Nat.not_le.2 hlt)

theorem tripMonitor_latched {d : Device} (m : MonitorId)
    (h : d.config.latch ≠ 0 ∧ d.config.latch ≤ min 255 (d.prot.trips + 1)) :
    ((d.tripMonitor m).monitor m).st = .latched ∧ ((d.tripMonitor m).monitor m).run = 0 ∧
    ((d.tripMonitor m).monitor m).recoverAt = (d.monitor m).recoverAt := by
  rw [tripMonitor_latches m h]
  obtain ⟨hst, hrun, hrec⟩ := moveMonitor_self d.tripCounted m .latched 0 .latchLimit d.reportKeyTime
  exact ⟨hst, hrun, hrec.trans (by rw [tripCounted_monitor])⟩

theorem tripMonitor_tripped {d : Device} (m : MonitorId)
    (h : d.config.latch = 0 ∨ min 255 (d.prot.trips + 1) < d.config.latch) :
    ((d.tripMonitor m).monitor m).st = .tripped ∧ ((d.tripMonitor m).monitor m).run = 0 ∧
    ((d.tripMonitor m).monitor m).recoverAt
      = if d.config.recovery = 0 then none else some (d.now + d.config.recovery * 1000) := by
  rw [tripMonitor_recovers m h]
  obtain ⟨hst, hrun, hrec⟩ := moveMonitor_self (d.tripCounted.onMonitor m fun x => { x with
    recoverAt := if d.config.recovery = 0 then none else some (d.now + d.config.recovery * 1000) }) m .tripped 0
    .runComplete d.reportKeyTime
  exact ⟨hst, hrun, hrec.trans (by rw [monitor_onMonitor, if_pos rfl])⟩

/-- Either way the run is cleared. -/
theorem tripMonitor_run (d : Device) (m : MonitorId) : ((d.tripMonitor m).monitor m).run = 0 := by
  by_cases h : d.config.latch ≠ 0 ∧ d.config.latch ≤ min 255 (d.prot.trips + 1)
  · exact (tripMonitor_latched m h).2.1
  · exact (tripMonitor_tripped m (by omega)).2.1

/-! ### The report of a change of state (R47, R193) -/

theorem onMonitor_facts (d : Device) (m m' : MonitorId) (f : Monitor → Monitor) :
    (d.onMonitor m f).monitor m' = (if m' = m then f (d.monitor m) else d.monitor m') ∧
    d.onMonitor m f = { d with prot := (d.onMonitor m f).prot } ∧
    (d.onMonitor m f).prot.trips = d.prot.trips ∧ (d.onMonitor m f).prot.quietEnd = d.prot.quietEnd := by
  refine ⟨monitor_onMonitor d m m' f, rfl, ?_, ?_⟩ <;> cases m <;> rfl

/-- The PROTECTION entry of a change of state. -/
def protectionEntry (d : Device) (m : MonitorId) (st : MonState) (cause : ProtCause) (keyTime : Nat) : Entry :=
  ⟨.protection, 0, .report (protectionData m (d.monitor m).st st cause d.prot.trips keyTime), 0⟩

/-- A change of state is queued; with a full lane it is owed, with the state before it; while the mark stands it is
not reported. -/
theorem moveMonitor_eq (d : Device) (m : MonitorId) (st : MonState) (run : Nat) (cause : ProtCause) (keyTime : Nat) :
    d.moveMonitor m st run cause keyTime =
      if OwedRef.monitor m ∈ d.console.general.owed then d.onMonitor m fun x => { x with st := st, run := run }
      else if d.console.general.entries.length < 24 then { d.onMonitor m fun x => { x with st := st, run := run } with
        console := { d.console with general :=
        { d.console.general with
          entries := d.console.general.entries ++ [d.protectionEntry m st cause keyTime] } } }
      else onMonitor { d with console := { d.console with general :=
        { d.console.general with owed := d.console.general.owed ++ [.monitor m] } } } m
          fun x => { x with st := st, run := run, owedFrom := some (d.monitor m).st } := by
  let moved := d.onMonitor m fun x => { x with st := st, run := run }
  have hst : (moved.monitor m).st = st := by rw [monitor_onMonitor, if_pos rfl]
  obtain ⟨-, -, htrips, -⟩ := onMonitor_facts d m m fun x => { x with st := st, run := run }
  have hrow : d.moveMonitor m st run cause keyTime = moved.reportMonitor m (d.monitor m).st cause keyTime := rfl
  have hmarked : ∀ e : Device, e.marked .general (.monitor m) = decide (OwedRef.monitor m ∈ e.console.general.owed) :=
    fun e => List.contains_eq_mem ..
  rw [hrow, reportMonitor]
  dsimp only
  rw [report, reportTagged_generalLane _ _ _ _ _ rfl, hst, htrips, hmarked, hmarked]
  by_cases ho : OwedRef.monitor m ∈ d.console.general.owed
  · rw [if_pos (show OwedRef.monitor m ∈ moved.console.general.owed from ho), if_pos ho, if_neg]
    exact fun hn => absurd (decide_eq_false_iff_not.1 hn.1) (not_not_intro ho)
  · rw [if_neg (show OwedRef.monitor m ∉ moved.console.general.owed from ho), if_neg ho]
    by_cases hr : d.console.general.entries.length < 24
    · rw [if_pos (show moved.console.general.entries.length < 24 from hr), if_pos hr, if_neg]
      · rfl
      · exact fun hn => absurd (of_decide_eq_true hn.2) ho
    · rw [if_neg (show ¬ moved.console.general.entries.length < 24 from hr), if_neg hr, if_pos]
      · cases m <;> rfl
      · exact ⟨decide_eq_false ho, decide_eq_true (List.mem_append_right _ (List.mem_singleton.2 rfl))⟩

end Device

/-- Settles O26: a sample by the monitor's state, a trip with and without the latch, and the report's three cases. -/
theorem monitorTable : Obligations.MonitorTable := by
  unfold Obligations.MonitorTable
  refine ⟨⟨fun d m _ => ⟨Device.sampleMonitor_rests, fun hr => ⟨fun hs => ?_, fun hs hD => ?_, fun hs hD => ?_,
      fun hs => ?_, fun hs hD hlt => ?_, fun hs hD => ?_, Device.sampleMonitor_inhibited hr⟩⟩,
    fun d m _ => ?_⟩, rfl, rfl, rfl, Device.onMonitor_facts,
    fun d m st run cause keyTime => ⟨fun ho => ?_, fun ho hroom => ?_, fun ho hfull => ?_⟩,
    fun d m _ => ?_⟩
  · rw [Device.sampleMonitor_idle hs hr, Device.monitor_onMonitor, if_pos rfl]
    exact ⟨rfl, rfl⟩
  · rw [Device.sampleMonitor_normal_active hr hs, if_pos hD]
  · rw [Device.sampleMonitor_normal_active hr hs, if_neg (by omega)]
    obtain ⟨hst, hrun, -⟩ := d.moveMonitor_self m .alert 1 .activeSample _
    exact ⟨hst, hrun, rfl⟩
  · rw [Device.sampleMonitor_alert_inactive hr hs]
    obtain ⟨hst, hrun, -⟩ := d.moveMonitor_self m .normal 0 .inactiveSample _
    exact ⟨hst, hrun⟩
  · rw [Device.sampleMonitor_alert_active hr hs, if_neg (by omega)]
    refine congrArg (Prod.mk false) (Device.onMonitor_congr ?_)
    rw [Nat.min_eq_right (by omega)]
  · rw [Device.sampleMonitor_alert_active hr hs, if_pos hD]
  · obtain ⟨htrips, hquiet, hst⟩ := d.tripMonitor_self m
    refine ⟨htrips, hquiet, d.tripMonitor_run m, Device.inhibit_of _ m hst, fun h => ?_, fun h => ?_⟩
    · obtain ⟨hlatched, -, hrec⟩ := Device.tripMonitor_latched m h
      exact ⟨hlatched, hrec⟩
    · obtain ⟨htripped, -, hrec⟩ := Device.tripMonitor_tripped m h
      exact ⟨htripped, hrec⟩
  · exact (d.moveMonitor_eq m st run cause keyTime).trans (if_pos ho)
  · exact (d.moveMonitor_eq m st run cause keyTime).trans ((if_neg ho).trans (if_pos hroom))
  · exact (d.moveMonitor_eq m st run cause keyTime).trans ((if_neg ho).trans (if_neg (Nat.not_lt.2 hfull)))
  · intro keyTime trips counted
    rw [show keyTime = d.reportKeyTime from d.reportKeyTime_eq.symm]
    refine ⟨fun hr => ⟨fun hs => Device.sampleMonitor_idle hs hr, fun hs hD => ?_,
      Device.sampleMonitor_alert_inactive hr, fun hs hD => ?_⟩,
      Device.tripMonitor_latches m, Device.tripMonitor_recovers m⟩
    · exact (Device.sampleMonitor_normal_active hr hs).trans (if_neg (Nat.not_le.2 hD))
    · exact (Device.sampleMonitor_alert_active hr hs).trans (if_neg (Nat.not_le.2 hD))

end Sys2Proof.Machine
end

section
/-! PROOF. RECOVER (O28). -/

namespace Sys2Proof.Machine
namespace Device

/-! ### One monitor returns to NORMAL, or stays as it is (R46) -/

/-- What RECOVER does to one monitor: a TRIPPED or LATCHED one returns to NORMAL and is reported. -/
def recoverOne (keyTime : Nat) (d : Device) (m : MonitorId) : Device :=
  if inhibits (d.monitor m) then
    (d.onMonitor m fun x => { x with recoverAt := none }).moveMonitor m .normal 0 .recover keyTime
  else d

/-- A monitor before RECOVER and after it. -/
def recovered (x y : Monitor) : Prop :=
  (inhibits x = true → y.st = .normal ∧ y.run = 0 ∧ y.recoverAt = none) ∧ (inhibits x = false → y = x)

theorem inhibits_iff (x : Monitor) : inhibits x = true ↔ x.st = .tripped ∨ x.st = .latched := by
  simp [inhibits]

theorem recovered.inhibits_eq {x y : Monitor} (h : recovered x y) : inhibits y = false := by
  obtain ⟨hin, hout⟩ := h
  cases hx : inhibits x
  · rw [hout hx, hx]
  · obtain ⟨hst, -, -⟩ := hin hx
    rw [inhibits, hst]
    decide

theorem recoverOne_self (k : Nat) (d : Device) (m : MonitorId) :
    recovered (d.monitor m) ((d.recoverOne k m).monitor m) := by
  refine ⟨fun h => ?_, fun h => ?_⟩
  · obtain ⟨hst, hrun, hrec⟩ :=
      moveMonitor_self (d.onMonitor m fun x => { x with recoverAt := none }) m .normal 0 .recover k
    rw [recoverOne, if_pos h]
    exact ⟨hst, hrun, hrec.trans (by rw [monitor_onMonitor, if_pos rfl])⟩
  · rw [recoverOne, if_neg (by rw [h]; decide)]

theorem recoverOne_other (k : Nat) (d : Device) {m m' : MonitorId} (h : m' ≠ m) :
    (d.recoverOne k m).monitor m' = d.monitor m' := by
  unfold recoverOne
  split
  · rw [moveMonitor_other _ h, monitor_onMonitor, if_neg h]
  · rfl

theorem recoverOne_same (k : Nat) (d : Device) (m : MonitorId) : sameBut d (d.recoverOne k m) := by
  unfold recoverOne
  split
  · exact (onMonitor_same _ _ _).trans (moveMonitor_same _ _ _ _ _ _)
  · exact sameBut.refl d

theorem recoverOne_counts (k : Nat) (d : Device) (m : MonitorId) :
    (d.recoverOne k m).prot.trips = d.prot.trips ∧ (d.recoverOne k m).prot.quietEnd = d.prot.quietEnd := by
  obtain ⟨-, -, htrips, hquiet⟩ := onMonitor_facts d m m fun x => { x with recoverAt := none }
  unfold recoverOne
  split
  · exact ⟨(moveMonitor_trips _ _ _ _ _ _).trans htrips, (moveMonitor_quietEnd _ _ _ _ _ _).trans hquiet⟩
  · exact ⟨rfl, rfl⟩

/-! ### All four, one after the other (log entry 63) -/

/-- Each monitor of the list is recovered once, the others stay, and the shared counts stay. -/
theorem foldl_recoverOne (k : Nat) (l : List MonitorId) (hl : l.Nodup) (d : Device) :
    let e := l.foldl (recoverOne k) d
    (∀ m ∈ l, recovered (d.monitor m) (e.monitor m)) ∧ (∀ m, m ∉ l → e.monitor m = d.monitor m) ∧
    e.prot.trips = d.prot.trips ∧ e.prot.quietEnd = d.prot.quietEnd := by
  induction l generalizing d with
  | nil => exact ⟨fun m hm => absurd hm (List.not_mem_nil), fun _ _ => rfl, rfl, rfl⟩
  | cons x r ih =>
    obtain ⟨hx, hr⟩ := List.nodup_cons.1 hl
    obtain ⟨hin, hout, htrips, hquiet⟩ := ih hr (d.recoverOne k x)
    obtain ⟨t, q⟩ := recoverOne_counts k d x
    refine ⟨fun m hm => ?_, fun m hm => ?_, htrips.trans t, hquiet.trans q⟩
    · by_cases h : m = x
      · subst h
        exact (hout m hx).symm ▸ recoverOne_self k d m
      · rw [← recoverOne_other k d h]
        exact hin m (List.mem_of_ne_of_mem h hm)
    · exact (hout m fun h => hm (List.mem_cons_of_mem x h)).trans
        (recoverOne_other k d fun h => hm (h ▸ List.mem_cons_self))

/-- The device with the trip count and the quiet timer cleared (R46). -/
def countCleared (d : Device) : Device := { d with prot := { d.prot with trips := 0, quietEnd := none } }

theorem countCleared_monitor (d : Device) (m : MonitorId) : d.countCleared.monitor m = d.monitor m := by
  cases m <;> rfl

theorem sameBut.reportKeyTime {d e : Device} (h : sameBut d e) : e.reportKeyTime = d.reportKeyTime := by
  rw [h]
  rfl

/-- Every report of one RECOVER carries the key-time count at the command. -/
theorem recoverAll_eq (d : Device) : d.recoverAll = monitorOrder.foldl (recoverOne d.reportKeyTime) d.countCleared := by
  have hfold : ∀ (l : List MonitorId) (e : Device), e.reportKeyTime = d.reportKeyTime →
      l.foldl (fun e m => recoverOne e.reportKeyTime e m) e = l.foldl (recoverOne d.reportKeyTime) e := by
    intro l
    induction l with
    | nil => exact fun _ _ => rfl
    | cons x r ih =>
      intro e he
      rw [List.foldl_cons, List.foldl_cons, he]
      exact ih _ ((recoverOne_same _ e x).reportKeyTime.trans he)
  exact hfold monitorOrder d.countCleared rfl

theorem inhibit_iff (d : Device) : d.inhibit = true ↔ ∃ m, inhibits (d.monitor m) = true := by
  constructor
  · intro h
    simp only [inhibit, Bool.or_eq_true, or_assoc] at h
    exact h.elim (fun h => ⟨.tune, h⟩) fun h => h.elim (fun h => ⟨.reflect, h⟩) fun h =>
      h.elim (fun h => ⟨.supply, h⟩) fun h => ⟨.keytime, h⟩
  · rintro ⟨m, h⟩
    exact inhibit_of d m ((inhibits_iff _).1 h)

theorem recoverAll_facts (d : Device) :
    (∀ m, recovered (d.monitor m) (d.recoverAll.monitor m)) ∧ d.recoverAll.prot.trips = 0 ∧
    d.recoverAll.prot.quietEnd = none ∧ d.recoverAll.inhibit = false ∧ d.recoverAll.access = d.access ∧
    d.recoverAll.store = d.store := by
  have hsame : sameBut d.countCleared d.recoverAll := by
    rw [recoverAll_eq]
    exact foldl_same _ (recoverOne_same _) _ _
  obtain ⟨hin, -, htrips, hquiet⟩ := foldl_recoverOne d.reportKeyTime monitorOrder (by decide) d.countCleared
  have hrec : ∀ m, recovered (d.monitor m) (d.recoverAll.monitor m) := by
    intro m
    rw [recoverAll_eq, ← countCleared_monitor d m]
    exact hin m (by cases m <;> decide)
  refine ⟨hrec, ?_, ?_, ?_, by rw [hsame]; rfl, by rw [hsame]; rfl⟩
  · rw [recoverAll_eq]; exact htrips
  · rw [recoverAll_eq]; exact hquiet
  · refine Bool.eq_false_iff.2 fun h => ?_
    obtain ⟨m, hm⟩ := (inhibit_iff _).1 h
    exact absurd ((hrec m).inhibits_eq.symm.trans hm) Bool.false_ne_true

end Device

/-- Settles O28: the four monitors one after the other, each with its report. -/
theorem recover : Obligations.Recover := by
  unfold Obligations.Recover
  have hrow : ∀ (tag : Nat) (s : State), s.dev.live = true → exec (.recover tag) s
      = .next { s with dev := (s.dev.completeExchange.recoverAll.echo tag .taken).settle } :=
    fun tag s hl => exec_of_frame (fun d => (.taken, d.recoverAll)) rfl hl rfl
  refine ⟨fun tag s hl => ?_, fun tag s hl => ?_⟩
  · obtain ⟨hrec, htrips, hquiet, hinhibit, haccess, hstore⟩ := s.dev.completeExchange.recoverAll_facts
    exact ⟨_, hrow tag s hl, fun m => (hrec m).1, fun m => (hrec m).2, htrips, hquiet, hinhibit, haccess, hstore⟩
  · intro begun keyTime recovered
    have hkey : keyTime = begun.reportKeyTime := begun.reportKeyTime_eq.symm
    have hone : recovered = Device.recoverOne begun.reportKeyTime := by
      rw [← hkey]
      funext e m
      exact if_congr (Device.inhibits_iff _).symm rfl rfl
    rw [hrow tag s hl, Device.recoverAll_eq, hone]
    rfl

end Sys2Proof.Machine
end

section
/-! PROOF. The report lanes and the exchanges (O52, its first half). -/

namespace Sys2Proof.Machine

/-- A lane after a record's report: unchanged while its mark stands, one entry more with room, else its mark (R193). -/
def Lane.told (room : Nat) (l : Lane) (kind : ReportKind) (tag : Nat) (mark : OwedRef) (data : List Datum) : Lane :=
  if mark ∈ l.owed then l
  else if l.entries.length < room then { l with entries := l.entries ++ [⟨kind, tag, .report data, 0⟩] }
  else { l with owed := l.owed ++ [mark] }

namespace Device

/-! ### What a lane reads after an update, and a record's report (R191, R193) -/

theorem lane_onLane (d : Device) (n : LaneName) (f : Lane → Lane) : (d.onLane n f).lane n = f (d.lane n) := by
  cases n <;> rfl

theorem laneRoom_iff (d : Device) (n : LaneName) : d.laneRoom n = true ↔ (d.lane n).entries.length < n.capacity :=
  decide_eq_true_iff

theorem reportTagged_generalTold (d : Device) {kind : ReportKind} (tag : Nat) (mark : OwedRef) (data : List Datum)
    (hk : kind.lane = .general) : d.reportTagged kind tag mark data = { d with console := { d.console with
      general := d.console.general.told 24 kind tag mark data } } := by
  rw [reportTagged_generalLane d kind tag mark data hk]
  unfold Lane.told
  split
  · rfl
  · split <;> rfl

theorem reportTagged_distressTold (d : Device) {kind : ReportKind} (tag : Nat) (mark : OwedRef) (data : List Datum)
    (hk : kind.lane = .distress) : d.reportTagged kind tag mark data = { d with console := { d.console with
      distress := d.console.distress.told 8 kind tag mark data } } := by
  rw [reportTagged_distressLane d kind tag mark data hk]
  unfold Lane.told
  split
  · rfl
  · split <;> rfl

theorem report_generalTold (d : Device) {kind : ReportKind} (mark : OwedRef) (data : List Datum)
    (hk : kind.lane = .general) : d.report kind mark data = { d with console := { d.console with
      general := d.console.general.told 24 kind 0 mark data } } :=
  d.reportTagged_generalTold 0 mark data hk

theorem report_distressTold (d : Device) {kind : ReportKind} (mark : OwedRef) (data : List Datum)
    (hk : kind.lane = .distress) : d.report kind mark data = { d with console := { d.console with
      distress := d.console.distress.told 8 kind 0 mark data } } :=
  d.reportTagged_distressTold 0 mark data hk

theorem reportTagged_general_room {d : Device} {kind : ReportKind} (tag : Nat) {mark : OwedRef} (data : List Datum)
    (hk : kind.lane = .general) (hroom : d.console.general.entries.length < 24)
    (hm : mark ∉ d.console.general.owed) : d.reportTagged kind tag mark data = { d with console := { d.console with
      general := { d.console.general with
        entries := d.console.general.entries ++ [⟨kind, tag, .report data, 0⟩] } } } := by
  rw [reportTagged_generalLane d kind tag mark data hk, if_neg hm, if_pos hroom]

theorem queueEntry_general {d : Device} (e : Entry) (hroom : d.console.general.entries.length < 24) :
    d.queueEntry .general e = { d with console := { d.console with
      general := { d.console.general with entries := d.console.general.entries ++ [e] } } } :=
  if_pos (decide_eq_true hroom)

/-! ### CSEL and the up frame (R187, R188, R192) -/

/-- The bytes of the up frame that carries an entry's next frame (R206). -/
def frameBytes (d : Device) (e : Entry) : List Nat :=
  [d.console.echoTag, d.console.echoDisp.code,
    e.kind.code + (if e.sent + 1 = (d.entryContents e).length then 128 else 0), e.tag, e.sent % 256]
    ++ (d.entryContents e).getD e.sent [0, 0, 0, 0, 0, 0, 0]

theorem entryFrame_echoed (d : Device) (e : Entry) :
    [d.console.echoTag, d.console.echoDisp.code] ++ d.entryFrame e = d.frameBytes e := by
  unfold entryFrame frameBytes
  simp only [beq_iff_eq]
  rfl

theorem settledUpFrame_distress {d : Device} {e : Entry} {r : List Entry} (h : d.console.distress.entries = e :: r) :
    d.settledUpFrame = ⟨d.frameBytes e, some .distress⟩ := by
  unfold settledUpFrame
  rw [h, ← entryFrame_echoed]

theorem settledUpFrame_general {d : Device} {e : Entry} {r : List Entry} (hd : d.console.distress.entries = [])
    (h : d.console.general.entries = e :: r) : d.settledUpFrame = ⟨d.frameBytes e, some .general⟩ := by
  unfold settledUpFrame
  rw [hd, h, ← entryFrame_echoed]

theorem settledUpFrame_idle {d : Device} (hd : d.console.distress.entries = []) (h : d.console.general.entries = []) :
    d.settledUpFrame = ⟨[d.console.echoTag, d.console.echoDisp.code] ++ List.replicate 10 0, none⟩ := by
  unfold settledUpFrame
  rw [hd, h]

/-- The device with an exchange in progress that sends the frame `up`. -/
def exchanging (d : Device) (up : UpFrame) : Device :=
  { d with console := { d.console with exchange := .running up, reoffer := none } }

theorem assertCsel_reoffers {d : Device} {up : UpFrame} (h : d.console.reoffer = some up) :
    d.assertCsel = d.exchanging up := by
  unfold assertCsel
  rw [h]
  rfl

theorem assertCsel_settles {d : Device} (h : d.console.reoffer = none) :
    d.assertCsel = d.exchanging d.settledUpFrame := by
  unfold assertCsel
  rw [h]
  rfl

theorem releaseCsel_finished {d : Device} (h : d.console.exchange = .finished) :
    d.releaseCsel = { d with console := { d.console with exchange := .idle } } := by
  unfold releaseCsel
  rw [h]
  rfl

theorem releaseCsel_running {d : Device} {up : UpFrame} (h : d.console.exchange = .running up) :
    d.releaseCsel = { d with console := { d.console with
      exchange := .idle, reoffer := some up,
      counts := { d.console.counts with void := bump d.console.counts.void } } } := by
  unfold releaseCsel
  rw [h]
  rfl

/-- ATTN (R190). -/
theorem attn_iff (d : Device) : d.attn = true ↔
    (d.console.distress.entries ≠ [] ∨ d.console.general.entries ≠ []) ∧ d.console.exchange = .idle := by
  simp [attn]

/-! ### Owed marks served (R193) -/

theorem serveOwed_none {d : Device} {n : LaneName} (h : (d.lane n).owed = []) (k : Nat) : d.serveOwed n k = d := by
  cases k with
  | zero => rfl
  | succ k => rw [serveOwed, h]

theorem serveOwed_full {d : Device} {n : LaneName} (h : d.laneRoom n = false) (k : Nat) : d.serveOwed n k = d := by
  cases k with
  | zero => rfl
  | succ k =>
    rw [serveOwed]
    split
    · rfl
    · exact if_neg (by rw [h]; decide)

theorem serveOwed_serves {d : Device} {n : LaneName} {mark : OwedRef} {rest : List OwedRef}
    (h : (d.lane n).owed = mark :: rest) (hroom : d.laneRoom n = true) (k : Nat) :
    d.serveOwed n (k + 1) = ((d.onLane n fun l => { l with owed := rest }).serveMark mark).serveOwed n k := by
  rw [serveOwed, h]
  exact if_pos hroom

/-! ### A complete exchange (R187, R192, R194) -/

/-- The exchange complete and counted. -/
def exchanged (d : Device) : Device :=
  { d with console := { d.console with
    exchange := .finished,
    counts := { d.console.counts with complete := bump d.console.counts.complete } } }

theorem lane_exchanged (d : Device) (n : LaneName) : d.exchanged.lane n = d.lane n := by
  cases n <;> rfl

/-- An exchange runs for the frame that completes it, asserted for it when none was in progress (log entry 7). -/
theorem completeExchange_asserts {d : Device} (h : d.console.exchange = .idle ∨ d.console.exchange = .finished) :
    d.completeExchange = (d.exchanging (d.console.reoffer.getD d.settledUpFrame)).completeExchange := by
  have hrun : d.running = (d.exchanging (d.console.reoffer.getD d.settledUpFrame)).running := by
    unfold running
    rcases h with h | h <;> rw [h] <;> rfl
  unfold completeExchange
  rw [hrun]

theorem completeExchange_idleFrame {d : Device} {up : UpFrame} (h : d.console.exchange = .running up)
    (hl : up.lane = none) : d.completeExchange = d.exchanged := by
  unfold completeExchange running
  rw [h]
  dsimp only
  rw [hl]
  rfl

theorem completeExchange_drains {d : Device} {up : UpFrame} {n : LaneName} (h : d.console.exchange = .running up)
    (hl : up.lane = some n) : d.completeExchange = d.exchanged.drainLane n := by
  unfold completeExchange running
  rw [h]
  dsimp only
  rw [hl]
  rfl

/-- The device with the last frame of a lane's first entry gone up: the entry has left, a DELIVERY's record with it. -/
def lastSent (d : Device) (n : LaneName) (x : Entry) (rest : List Entry) : Device :=
  match x.body with
  | .report _ => d.onLane n fun l => { l with entries := rest }
  | .delivery id => (d.onLane n fun l => { l with entries := rest }).freeDelivery id

theorem freeDelivery_none {d : Device} {id : Nat} (h : d.console.deliveries.find? (fun y => y.id == id) = none) :
    d.freeDelivery id = d := by
  unfold freeDelivery
  rw [h]

theorem freeDelivery_some {d : Device} {id : Nat} {r : Delivery}
    (h : d.console.deliveries.find? (fun y => y.id == id) = some r) : d.freeDelivery id = { d with
      store := d.store.release r.grant,
      console := { d.console with deliveries := d.console.deliveries.filter fun y => y.id != id } } := by
  unfold freeDelivery
  rw [h]
  rfl

theorem freeDelivery_lane (d : Device) (id : Nat) (n : LaneName) : (d.freeDelivery id).lane n = d.lane n := by
  unfold freeDelivery
  split
  · rfl
  · cases n <;> rfl

theorem lastSent_lane (d : Device) (n : LaneName) (x : Entry) (rest : List Entry) :
    (d.lastSent n x rest).lane n = { d.lane n with entries := rest } := by
  unfold lastSent
  split
  · exact lane_onLane d n _
  · exact (freeDelivery_lane _ _ n).trans (lane_onLane d n _)

theorem lastSent_report {d : Device} {n : LaneName} {x : Entry} {data : List Datum} (rest : List Entry)
    (h : x.body = .report data) : d.lastSent n x rest = d.onLane n fun l => { l with entries := rest } := by
  unfold lastSent
  rw [h]

theorem lastSent_delivery {d : Device} {n : LaneName} {x : Entry} {id : Nat} (rest : List Entry)
    (h : x.body = .delivery id) :
    d.lastSent n x rest = (d.onLane n fun l => { l with entries := rest }).freeDelivery id := by
  unfold lastSent
  rw [h]

theorem drainLane_more {d : Device} {n : LaneName} {x : Entry} {rest : List Entry} (h : (d.lane n).entries = x :: rest)
    (hs : x.sent + 1 < (d.entryContents x).length) :
    d.drainLane n = d.onLane n fun l => { l with entries := { x with sent := x.sent + 1 } :: rest } := by
  unfold drainLane
  rw [h]
  exact if_pos hs

theorem drainLane_last {d : Device} {n : LaneName} {x : Entry} {rest : List Entry} (h : (d.lane n).entries = x :: rest)
    (hs : (d.entryContents x).length ≤ x.sent + 1) :
    d.drainLane n = (d.lastSent n x rest).serveOwed n ((d.lane n).owed.length + 32) := by
  have howed : (d.lane n).owed = ((d.lastSent n x rest).lane n).owed := by rw [lastSent_lane]
  rw [howed]
  unfold drainLane lastSent
  rw [h]
  dsimp only
  rw [if_neg (Nat.not_lt.2 hs)]
  cases x.body <;> rfl

/-- The last frame of a lane's first entry in a complete exchange. -/
theorem completeExchange_last {d : Device} {up : UpFrame} {n : LaneName} {x : Entry} {rest : List Entry}
    (h : d.console.exchange = .running up) (hl : up.lane = some n) (he : (d.lane n).entries = x :: rest)
    (hs : (d.entryContents x).length ≤ x.sent + 1) :
    d.completeExchange = (d.exchanged.lastSent n x rest).serveOwed n ((d.lane n).owed.length + 32) := by
  rw [completeExchange_drains h hl, drainLane_last (d := d.exchanged) (by rw [lane_exchanged]; exact he) hs,
    lane_exchanged]

/-- With no mark owed, the entry leaves and no more is done. -/
theorem completeExchange_last_unowed {d : Device} {up : UpFrame} {n : LaneName} {x : Entry} {rest : List Entry}
    (h : d.console.exchange = .running up) (hl : up.lane = some n) (he : (d.lane n).entries = x :: rest)
    (hs : (d.entryContents x).length ≤ x.sent + 1) (ho : (d.lane n).owed = []) :
    d.completeExchange = d.exchanged.lastSent n x rest := by
  rw [completeExchange_last h hl he hs]
  exact serveOwed_none (by rw [lastSent_lane, lane_exchanged]; exact ho) _

/-- The first owed mark takes the place of the entry that left, and fills the lane. -/
theorem completeExchange_last_serves {d : Device} {up : UpFrame} {n : LaneName} {x : Entry} {rest : List Entry}
    {data : List Datum} {mark : OwedRef} {marks : List OwedRef} (h : d.console.exchange = .running up)
    (hl : up.lane = some n) (he : (d.lane n).entries = x :: rest) (hs : (d.entryContents x).length ≤ x.sent + 1)
    (hb : x.body = .report data) (ho : (d.lane n).owed = mark :: marks) (hroom : rest.length < n.capacity) :
    let f := (d.exchanged.onLane n fun _ => ⟨rest, marks⟩).serveMark mark
    f.laneRoom n = false → d.completeExchange = f := by
  intro f hfull
  have hlane := lastSent_lane d.exchanged n x rest
  rw [lane_exchanged] at hlane
  have howed : ((d.exchanged.lastSent n x rest).lane n).owed = mark :: marks := by rw [hlane]; exact ho
  have hfree : (d.exchanged.lastSent n x rest).laneRoom n = true := (laneRoom_iff _ n).2 (by rw [hlane]; exact hroom)
  have htaken : (d.exchanged.lastSent n x rest).onLane n (fun l => { l with owed := marks })
      = d.exchanged.onLane n fun _ => ⟨rest, marks⟩ := by
    rw [lastSent_report rest hb]
    cases n <;> rfl
  rw [completeExchange_last h hl he hs, serveOwed_serves howed hfree, htaken]
  exact serveOwed_full hfull _

/-! ### Which report a record is owed (R193) -/

theorem serveMark_blocked {d : Device} (h : d.access.blocked = true) :
    d.serveMark .blocked = d.report .channelBlocked .blocked [] := if_pos h

theorem serveMark_cleared {d : Device} (h : d.access.blocked = false) :
    d.serveMark .blocked = d.report .channelCleared .blocked (clearedData d.access.lastBlocked) :=
  if_neg (by rw [h]; decide)

theorem serveMark_loopGone {d : Device} (h : d.loop.kept = none) : d.serveMark .loop = d := by
  simp only [serveMark, h]

theorem serveMark_loop {d : Device} {k : LoopKept} (h : d.loop.kept = some k) :
    d.serveMark .loop = (d.onLoop fun l => { l with kept := none }).reportTagged .loopResult k.tag .loop
      (loopData k) := by
  simp only [serveMark, h]

theorem serveMark_slotGone {d : Device} {i : Nat} (h : (d.slot i).outcome = none) : d.serveMark (.slot i) = d := by
  simp only [serveMark, h]

theorem serveMark_slot {d : Device} {i : Nat} {o : Outcome} (h : (d.slot i).outcome = some o) :
    d.serveMark (.slot i)
      = (d.queueEntry .general ⟨.transferOutcome, 0, .report (slotOutcomeData (d.slot i) o), 0⟩).freeSlot i := by
  simp only [serveMark, h]

theorem serveMark_caseGone {d : Device} {st : Station} (h : d.case? st = none) : d.serveMark (.caseOf st) = d := by
  simp only [serveMark, h]

theorem serveMark_caseClosed {d : Device} {st : Station} {c : Case} {r : CloseReason} (h : d.case? st = some c)
    (hst : c.st = .closed) (hr : c.closeReason = some r) :
    d.serveMark (.caseOf st) = d.report .caseClosed (.caseOf st) (caseClosedData st c.alert r) := by
  simp only [serveMark, h, hst, hr]

theorem reportCase_some {d : Device} {st : Station} {c : Case} (h : d.case? st = some c) (e : CaseEvent) :
    d.reportCase st e = d.report .caseUpdate (.caseOf st) (d.caseData c e) := by
  simp only [reportCase, h]

theorem serveMark_caseOpen {d : Device} {st : Station} {c : Case} (h : d.case? st = some c)
    (hr : ∀ r, c.st = .closed → c.closeReason ≠ some r) :
    d.serveMark (.caseOf st) = d.report .caseUpdate (.caseOf st) (d.caseData c .owed) := by
  rw [← reportCase_some h]
  simp only [serveMark, h]

theorem serveMark_holdStarted {d : Device} (h : d.holdInForce = true) : d.serveMark .hold
    = d.report .holdStarted .hold (d.holdStartedData d.distress.holdCause d.distress.holdStation) := if_pos h

theorem serveMark_holdEnded {d : Device} (h : d.holdInForce = false) :
    d.serveMark .hold = d.report .holdEnded .hold (holdEndedData d.distress.lastHold) := if_neg (by rw [h]; decide)

theorem serveMark_forecast {d : Device} {area : Nat} {f : Forecast} (h : d.forecast? area true = some f) :
    d.serveMark (.forecast area) = d.report .forecastReady (.forecast area) (forecastData f 1 none) := by
  simp only [serveMark, h]

theorem serveMark_forecastFreed {d : Device} {area : Nat} {x : LastFreed} (h : d.forecast? area true = none)
    (hx : d.weather.lastFreed.find? (fun y => y.area == area) = some x) : d.serveMark (.forecast area)
      = d.report .forecastExpired (.forecast area) (forecastExpiredData area x.issuer x.issue) := by
  simp only [serveMark, h, hx]

theorem serveMark_forecastGone {d : Device} {area : Nat} (h : d.forecast? area true = none)
    (hx : d.weather.lastFreed.find? (fun y => y.area == area) = none) : d.serveMark (.forecast area) = d := by
  simp only [serveMark, h, hx]

theorem serveMark_warningGone {d : Device} {issuer issue : Nat} (h : d.warning? issuer issue = none) :
    d.serveMark (.warning issuer issue) = d := by
  simp only [serveMark, h]

theorem serveMark_warning {d : Device} {issuer issue : Nat} {w : Warning} (h : d.warning? issuer issue = some w) :
    d.serveMark (.warning issuer issue) = d.reportWarning w 3 := by
  simp only [serveMark, h]

theorem serveMark_quotaGone {d : Device} {sp : Species} (h : d.quota? sp = none) : d.serveMark (.quota sp) = d := by
  simp only [serveMark, h]

theorem serveMark_quota {d : Device} {sp : Species} {q : QuotaEntry} (h : d.quota? sp = some q) :
    d.serveMark (.quota sp) = (d.onQuota sp fun q => { q with owedFrom := none }).report .quotaState (.quota sp)
      (quotaData sp q.quota q.consumed (quotaStateCode (q.owedFrom.getD (some q.st))) (quotaStateCode (some q.st))
        2) := by
  simp only [serveMark, h]

/-! ### What an exchange leaves as it is -/

/-- The part with everything that an exchange may change blanked, but for the console's exchange and its count. -/
def besideLink (d : Device) : Device :=
  { d.aside with
    prot := Protection.reset, loop := LoopTest.reset, console := Console.reset,
    log := { d.aside.log with quotas := [] } }

theorem besideLink_of_aside {d e : Device} (h : e.aside = d.aside) : e.besideLink = d.besideLink := by
  unfold besideLink
  rw [h]

/-- The exchange and the console's counts, which a report does not touch. -/
def linkState (d : Device) : Exchange × ConsoleCounts := (d.console.exchange, d.console.counts)

/-- What serving a mark leaves: the blocks beside the link, the exchange and its counts. -/
def linkKept (d e : Device) : Prop := e.besideLink = d.besideLink ∧ e.linkState = d.linkState

theorem linkKept.refl (d : Device) : linkKept d d := ⟨rfl, rfl⟩

theorem linkKept.of_eq {d e : Device} (h : e = d) : linkKept d e := h ▸ linkKept.refl d

theorem linkKept.trans {d e f : Device} (h : linkKept d e) (g : linkKept e f) : linkKept d f :=
  ⟨g.1.trans h.1, g.2.trans h.2⟩

theorem linkKept_of_aside {d e : Device} (h : e.aside = d.aside) : linkKept d e := by
  refine ⟨besideLink_of_aside h, ?_⟩
  have hex : e.console.exchange = d.console.exchange := congrArg (fun x => x.console.exchange) h
  have hcounts : e.console.counts = d.console.counts := congrArg (fun x => x.console.counts) h
  unfold linkState
  rw [hex, hcounts]

theorem onLane_linkKept (d : Device) (n : LaneName) (f : Lane → Lane) : linkKept d (d.onLane n f) := by
  cases n <;> exact ⟨rfl, rfl⟩

theorem reportTagged_linkKept (d : Device) (k : ReportKind) (t : Nat) (r : OwedRef) (x : List Datum) :
    linkKept d (d.reportTagged k t r x) := by
  cases hk : k.lane
  · rw [reportTagged_distressTold d t r x hk]; exact ⟨rfl, rfl⟩
  · rw [reportTagged_generalTold d t r x hk]; exact ⟨rfl, rfl⟩

theorem report_linkKept (d : Device) (k : ReportKind) (r : OwedRef) (x : List Datum) : linkKept d (d.report k r x) :=
  d.reportTagged_linkKept k 0 r x

theorem serveMark_linkKept (d : Device) (r : OwedRef) : linkKept d (d.serveMark r) := by
  cases r with
  | setup | ownAlert | report => exact d.report_linkKept _ _ _
  | delivery id => exact linkKept_of_aside (queueEntry_aside d _)
  | monitor m =>
    have hone : linkKept d (d.onMonitor m fun x => { x with owedFrom := none }) := ⟨rfl, rfl⟩
    exact hone.trans (report_linkKept _ _ _ _)
  | blocked =>
    cases h : d.access.blocked with
    | true => exact serveMark_blocked h ▸ d.report_linkKept _ _ _
    | false => exact serveMark_cleared h ▸ d.report_linkKept _ _ _
  | hold =>
    cases h : d.holdInForce with
    | true => exact serveMark_holdStarted h ▸ d.report_linkKept _ _ _
    | false => exact serveMark_holdEnded h ▸ d.report_linkKept _ _ _
  | loop =>
    cases h : d.loop.kept with
    | none => exact linkKept.of_eq (serveMark_loopGone h)
    | some k =>
      have hone : linkKept d (d.onLoop fun l => { l with kept := none }) := ⟨rfl, rfl⟩
      exact serveMark_loop h ▸ hone.trans (reportTagged_linkKept _ _ _ _ _)
  | slot i =>
    cases h : (d.slot i).outcome with
    | none => exact linkKept.of_eq (serveMark_slotGone h)
    | some o => exact serveMark_slot h ▸ linkKept_of_aside ((freeSlot_aside _ i).trans (queueEntry_aside d _))
  | caseOf st =>
    cases h : d.case? st with
    | none => exact linkKept.of_eq (serveMark_caseGone h)
    | some c =>
      by_cases hc : c.st = .closed ∧ c.closeReason.isSome
      · obtain ⟨hst, hr⟩ := hc
        obtain ⟨r, hr⟩ := Option.isSome_iff_exists.1 hr
        exact serveMark_caseClosed h hst hr ▸ d.report_linkKept _ _ _
      · refine serveMark_caseOpen h (fun r hst hr => hc ⟨hst, by rw [hr]; rfl⟩) ▸ ?_
        exact d.report_linkKept _ _ _
  | forecast area =>
    cases h : d.forecast? area true with
    | some f => exact serveMark_forecast h ▸ d.report_linkKept _ _ _
    | none =>
      cases hx : d.weather.lastFreed.find? (fun y => y.area == area) with
      | some x => exact serveMark_forecastFreed h hx ▸ d.report_linkKept _ _ _
      | none => exact linkKept.of_eq (serveMark_forecastGone h hx)
  | warning issuer issue =>
    cases h : d.warning? issuer issue with
    | none => exact linkKept.of_eq (serveMark_warningGone h)
    | some w => exact serveMark_warning h ▸ d.report_linkKept _ _ _
  | quota sp =>
    cases h : d.quota? sp with
    | none => exact linkKept.of_eq (serveMark_quotaGone h)
    | some q =>
      have hone : linkKept d (d.onQuota sp fun q => { q with owedFrom := none }) := ⟨rfl, rfl⟩
      exact serveMark_quota h ▸ hone.trans (report_linkKept _ _ _ _)

theorem serveOwed_linkKept (n : LaneName) (k : Nat) (d : Device) : linkKept d (d.serveOwed n k) := by
  induction k generalizing d with
  | zero => exact linkKept.refl d
  | succ k ih =>
    rw [serveOwed]
    split
    · exact linkKept.refl d
    · next r rest _ =>
      split
      · exact (onLane_linkKept d n _).trans ((serveMark_linkKept _ r).trans (ih _))
      · exact linkKept.refl d

theorem freeDelivery_linkKept (d : Device) (id : Nat) : linkKept d (d.freeDelivery id) := by
  unfold freeDelivery
  split <;> exact ⟨rfl, rfl⟩

theorem lastSent_linkKept (d : Device) (n : LaneName) (x : Entry) (rest : List Entry) :
    linkKept d (d.lastSent n x rest) := by
  unfold lastSent
  split
  · exact onLane_linkKept d n _
  · exact (onLane_linkKept d n _).trans (freeDelivery_linkKept _ _)

theorem drainLane_linkKept (d : Device) (n : LaneName) : linkKept d (d.drainLane n) := by
  cases h : (d.lane n).entries with
  | nil =>
    unfold drainLane
    rw [h]
    exact linkKept.refl d
  | cons x rest =>
    by_cases hs : x.sent + 1 < (d.entryContents x).length
    · rw [drainLane_more h hs]
      exact onLane_linkKept d n _
    · rw [drainLane_last h (Nat.not_lt.1 hs)]
      exact (lastSent_linkKept d n x rest).trans (serveOwed_linkKept n _ _)

/-- A complete exchange is counted and leaves the blocks beside the link. -/
theorem completeExchange_leaves (d : Device) : d.completeExchange.besideLink = d.besideLink ∧
    d.completeExchange.linkState = d.exchanged.linkState := by
  have hrun : ∀ (e : Device) (up : UpFrame), e.console.exchange = .running up →
      e.completeExchange.besideLink = e.besideLink ∧ e.completeExchange.linkState = e.exchanged.linkState := by
    intro e up h
    cases hl : up.lane with
    | none =>
      rw [completeExchange_idleFrame h hl]
      exact ⟨rfl, rfl⟩
    | some n =>
      rw [completeExchange_drains h hl]
      exact drainLane_linkKept e.exchanged n
  cases h : d.console.exchange with
  | running up => exact hrun d up h
  | idle =>
    rw [completeExchange_asserts (Or.inl h)]
    exact hrun _ _ rfl
  | finished =>
    rw [completeExchange_asserts (Or.inr h)]
    exact hrun _ _ rfl

theorem completeExchange_facts (d : Device) :
    let e := d.completeExchange
    e.console.exchange = .finished ∧ e.console.counts.complete = bump d.console.counts.complete ∧
    e.fixed = d.fixed ∧ e.now = d.now ∧ e.tx = d.tx ∧ e.rx = d.rx ∧ e.distress = d.distress ∧
    e.weather = d.weather ∧ e.waits = d.waits ∧ e.log.hauls = d.log.hauls ∧ e.access.onAir = d.access.onAir ∧
    e.access.answer = d.access.answer ∧ e.access.distress = d.access.distress ∧
    e.access.priority = d.access.priority := by
  obtain ⟨hbeside, hlink⟩ := d.completeExchange_leaves
  have hfixed := completeExchange_fixed d
  intro e
  rw [show d.completeExchange = e from rfl] at hbeside hlink hfixed
  clear_value e
  exact ⟨congrArg Prod.fst hlink, congrArg (fun x => x.2.complete) hlink, hfixed,
    congrArg (fun x => x.now) hbeside, congrArg (fun x => x.tx) hbeside, congrArg (fun x => x.rx) hbeside,
    congrArg (fun x => x.distress) hbeside, congrArg (fun x => x.weather) hbeside,
    congrArg (fun x => x.waits) hbeside, congrArg (fun x => x.log.hauls) hbeside,
    congrArg (fun x => x.access.onAir) hbeside, congrArg (fun x => x.access.answer) hbeside,
    congrArg (fun x => x.access.distress) hbeside, congrArg (fun x => x.access.priority) hbeside⟩

end Device
end Sys2Proof.Machine
end

section
/-! PROOF. The reports of owed marks, and the reports of each record (O52, its second half). -/

namespace Sys2Proof.Machine
namespace Device

theorem releaseCsel_idle {d : Device} (h : d.console.exchange = .idle) : d.releaseCsel = d := by
  unfold releaseCsel
  rw [h]

/-! ### The data of the reports that a mark owes -/

/-- A table of one-number rows goes up as its count and the numbers. -/
theorem tableData_nums {α : Type} (l : List α) (f : α → Datum) :
    tableData (l.map fun a => [f a]) = .num 1 l.length :: l.map f := by
  rw [tableData, List.length_map, ← List.flatMap_def, ← List.map_eq_flatMap]

theorem warningData_text (w : Warning) (event : Nat) (t : List Nat) : warningData w event (some t)
    = [.num 3 w.issuer, .num 2 w.issue, .num 1 w.severity.code, .num 1 w.day, .num 1 w.hour, .num 1 w.minute,
        .num 1 w.validFor, utcData w.validUntil, .num 1 w.areas.length] ++ (w.areas.map fun a => .num 1 a)
      ++ [.num 1 (flag w.wanted), count16 w.score, .num 1 event, .text t] := by
  rw [warningData, tableData_nums]
  simp

theorem positionFlag_eq (d : Device) : d.positionFlag = match d.console.fix with
    | none => 2
    | some f => if 600000 ≤ d.now - f.takenAt then 1 else 0 := by
  unfold positionFlag fixStale
  cases d.console.fix with
  | none => rfl
  | some f => simp only [decide_eq_true_eq]

theorem onQuota_map (d : Device) (sp : Species) (f : QuotaEntry → QuotaEntry) : d.onQuota sp f
    = { d with log := { d.log with quotas := d.log.quotas.map fun x => if x.species = sp then f x else x } } := by
  unfold onQuota onLog mapIf
  simp only [beq_iff_eq]

/-! ### A mark that takes the last place of its lane -/

/-- CHANNEL BLOCKED takes the place of the entry that left a full general lane. -/
theorem completeExchange_owesBlocked {d : Device} {up : UpFrame} {x : Entry} {rest : List Entry} {data : List Datum}
    {marks : List OwedRef} (hrun : d.console.exchange = .running up) (hl : up.lane = some .general)
    (he : d.console.general.entries = x :: rest) (hs : (d.entryContents x).length ≤ x.sent + 1)
    (hb : x.body = .report data) (hlen : rest.length = 23) (ho : d.console.general.owed = .blocked :: marks)
    (hm : OwedRef.blocked ∉ marks) (hblocked : d.access.blocked = true) : d.completeExchange = { d.exchanged with
      console := { d.exchanged.console with
        general := ⟨rest ++ [⟨.channelBlocked, 0, .report [], 0⟩], marks⟩ } } := by
  have hroom : rest.length < 24 := by omega
  have hserved := (serveMark_blocked (d := d.exchanged.onLane .general fun _ => ⟨rest, marks⟩) hblocked).trans
    (report_general_room _ .channelBlocked .blocked [] rfl hroom hm)
  have hfull : (rest ++ [(⟨.channelBlocked, 0, .report [], 0⟩ : Entry)]).length = 24 := by simp [hlen]
  have hserves := completeExchange_last_serves hrun hl he hs hb ho hroom
  rw [hserved] at hserves
  exact hserves (decide_eq_false (Nat.not_lt.2 (Nat.le_of_eq hfull.symm)))

/-- OWN ALERT STATE takes the place of the entry that left a full distress lane. -/
theorem completeExchange_owesOwnAlert {d : Device} {up : UpFrame} {x : Entry} {rest : List Entry} {data : List Datum}
    {marks : List OwedRef} (hrun : d.console.exchange = .running up) (hl : up.lane = some .distress)
    (he : d.console.distress.entries = x :: rest) (hs : (d.entryContents x).length ≤ x.sent + 1)
    (hb : x.body = .report data) (hlen : rest.length = 7) (ho : d.console.distress.owed = .ownAlert :: marks)
    (hm : OwedRef.ownAlert ∉ marks) : d.completeExchange = { d.exchanged with
      console := { d.exchanged.console with
        distress := ⟨rest ++ [⟨.ownAlertState, 0, .report
          (d.ownAlertData .owed d.distress.own.num (d.distress.own.ackedBy.getD 0)), 0⟩], marks⟩ } } := by
  have hroom : rest.length < 8 := by omega
  have hserved := report_distress_room (d.exchanged.onLane .distress fun _ => ⟨rest, marks⟩) .ownAlertState .ownAlert
    (d.ownAlertData .owed d.distress.own.num (d.distress.own.ackedBy.getD 0)) rfl hroom hm
  have hfull : (rest ++ [(⟨.ownAlertState, 0, .report
      (d.ownAlertData .owed d.distress.own.num (d.distress.own.ackedBy.getD 0)), 0⟩ : Entry)]).length = 8 := by
    simp [hlen]
  have hserves := completeExchange_last_serves hrun hl he hs hb ho hroom
  exact (hserves (congrArg (fun f => laneRoom f .distress) hserved |>.trans
    (decide_eq_false (Nat.not_lt.2 (Nat.le_of_eq hfull.symm))))).trans hserved

end Device
end Sys2Proof.Machine
end

section
/-! PROOF. The reports of each record in the general lane (O52, its third part). -/

namespace Sys2Proof.Machine

/-- A mark stands after the report when it stood before, or when the lane was full. -/
theorem Lane.mem_told {room : Nat} {l : Lane} {kind : ReportKind} {tag : Nat} {mark : OwedRef} {data : List Datum} :
    mark ∈ (l.told room kind tag mark data).owed ↔ mark ∈ l.owed ∨ room ≤ l.entries.length := by
  unfold Lane.told
  split
  · next hm => exact (iff_true_intro hm).trans (iff_true_intro (Or.inl hm)).symm
  · next hm =>
    split
    · next hroom =>
      exact (iff_false_intro hm).trans (iff_false_intro fun h => h.elim hm (Nat.not_le.2 hroom)).symm
    · next hfull =>
      exact (iff_true_intro (List.mem_append_right _ (List.mem_singleton.2 rfl))).trans
        (iff_true_intro (Or.inr (Nat.not_lt.1 hfull))).symm

namespace Device

theorem marked_iff (d : Device) (n : LaneName) (mark : OwedRef) : d.marked n mark = true ↔ mark ∈ (d.lane n).owed :=
  List.contains_iff_mem

/-! ### CHANNEL BLOCKED and LOOP RESULT (R33, R50) -/

theorem channelBlocks_told {d : Device} {t : Time} (ht : d.access.notClearSince = some t)
    (hb : d.access.blocked = false) : d.channelBlocks = { d with
      now := max d.now (t + 120000), access := { d.access with blocked := true },
      console := { d.console with general := d.console.general.told 24 .channelBlocked 0 .blocked [] } } := by
  have hrow : d.channelBlocks
      = ((d.reach (t + 120000)).onAccess fun a => { a with blocked := true }).report .channelBlocked .blocked [] := by
    unfold channelBlocks
    rw [ht]
    exact if_neg (by rw [hb]; decide)
  exact hrow.trans (report_generalTold _ _ _ rfl)

theorem reportLoop_told (d : Device) (k : LoopKept) : d.reportLoop k =
    let l := d.console.general.told 24 .loopResult k.tag .loop (loopData k)
    { d with
      console := { d.console with general := l },
      loop := { d.loop with kept := if .loop ∈ l.owed then some k else d.loop.kept } } := by
  unfold reportLoop
  dsimp only
  rw [reportTagged_generalTold d k.tag .loop (loopData k) rfl]
  simp only [marked_iff]
  rfl

theorem abandonLoop_held {d : Device} (h : d.loop.st ≠ .idle) : d.abandonLoop = Device.reportLoop { d with
    rx := if d.loop.st = .looping then Rx.blank .hunting else d.rx, loop := { d.loop with st := .idle } }
    ⟨.abandoned, 0, false, d.loop.tag.getD 0⟩ := by
  have hrow : d.abandonLoop = d.leaveLoop.reportLoop ⟨.abandoned, 0, false, d.loopTag⟩ := if_neg h
  rw [hrow, leaveLoop_eq]
  rfl

/-! ### Deliveries (R194) -/

theorem deliver_eq (d : Device) (m : Message) : d.deliver m = { d with console := { d.console with
    deliveries := d.console.deliveries ++ [⟨d.console.nextDelivery, m.source, m.orig, m.cls, m.num, m.len, m.grant⟩],
    nextDelivery := d.console.nextDelivery + 1,
    general := if d.console.general.entries.length < 24
      then { d.console.general with
        entries := d.console.general.entries ++ [⟨.delivery, 0, .delivery d.console.nextDelivery, 0⟩] }
      else { d.console.general with owed := d.console.general.owed ++ [.delivery d.console.nextDelivery] } } } := by
  by_cases hroom : d.console.general.entries.length < 24
  · rw [deliver_room m hroom, if_pos hroom]
  · have hfull : (d.deliveryAdded m).laneRoom .general = false := decide_eq_false hroom
    have hrow : d.deliver m = (d.deliveryAdded m).addMark .general (.delivery d.console.nextDelivery) :=
      if_neg (Bool.not_eq_true _ ▸ hfull)
    rw [hrow, if_neg hroom]
    rfl

/-- A TEXT or CATCH REPORT message for this station, complete. -/
theorem completeMessage_delivers {d : Device} {src num : Nat} {e : Reasm} (h : d.reasm? src num = some e)
    (hd : e.dest = d.config.own) (hcls : e.cls = .text ∨ e.cls = .catchReport) : d.completeMessage src num =
    deliver { d.enterRecent src num with xfer := { (d.enterRecent src num).xfer with
      reasms := d.xfer.reasms.filter fun x => !(x.source == src && x.num == num) } } (messageOf e) := by
  rw [completeMessage_own h hd, completed_removed]
  rcases hcls with hcls | hcls <;> rw [hcls] <;> rfl

/-! ### Forecasts and warnings (R146) -/

theorem completeForecast_told {d : Device} {area : Nat} {k : Forecast} (h : d.forecast? area false = some k)
    (hall : none ∉ k.parts) : (d.completeForecast area).console.general
      = d.console.general.told 24 .forecastReady 0 (.forecast area) (forecastData { k with complete := true } 0 none) := by
  have hfull : k.parts.all Option.isSome = true := List.all_eq_true.2 fun p hp =>
    Option.isSome_iff_ne_none.2 fun hnone => hall (hnone ▸ hp)
  cases hc : d.forecast? area true with
  | none =>
    rw [complete_eq d d area k h hfull (fun _ => rfl) (fun c hc' => by rw [hc] at hc'; cases hc') hc h,
      report_generalTold _ _ _ rfl]
    rfl
  | some c =>
    have hid := List.find?_some hc
    simp only [Bool.and_eq_true, beq_iff_eq] at hid
    obtain ⟨harea, hcomplete⟩ := hid
    rw [complete_eq d (d.freeForecast c) area k h hfull (fun hn => by rw [hc] at hn; cases hn)
        (fun c' hc' => by rw [hc] at hc'; cases hc'; rfl)
        (by rw [forecast_freeForecast, if_pos ⟨harea.symm, hcomplete.symm⟩])
        (by rw [forecast_freeForecast, if_neg (fun hn => by rw [hcomplete] at hn; cases hn.2)]; exact h),
      report_generalTold _ _ _ rfl]
    rfl

theorem improvesPart_of {f : Forecast} {h : ForecastHeader} {b : Burst}
    (hs : ∀ p, f.parts.getD h.idx none = some p → copyScore b < p.score) : improvesPart f h b = true := by
  unfold improvesPart
  split
  · rfl
  · next p hp => exact decide_eq_true (hs p hp)

theorem partToComplete_told {d : Device} {f : Forecast} {h : ForecastHeader} {b : Burst}
    (hf : d.forecast? f.area true = some f) (hs : ∀ p, f.parts.getD h.idx none = some p → copyScore b < p.score) :
    ∃ g, (d.partToComplete f h b).forecast? f.area true = some g ∧ (d.partToComplete f h b).console.general
      = d.console.general.told 24 .forecastUpdated 0 (.forecast f.area) (forecastData g 0 (some h.idx)) := by
  have hid := List.find?_some hf
  simp only [Bool.and_eq_true, beq_iff_eq] at hid
  obtain ⟨-, hcomplete⟩ := hid
  obtain ⟨G, hstored, hG, -, -⟩ := d.storePart_eq f h b
  let e := (d.storePart f h b).onForecast f.area true fun f => { f with lastPart := b.endTime }
  have hheld : e.forecast? f.area true = some { G f with lastPart := b.endTime } := by
    rw [show e = (d.storePart f h b).onForecast f.area true fun f => { f with lastPart := b.endTime } from rfl,
      forecast_onForecast _ _ _ (fun f => { f with lastPart := b.endTime }) (fun x => ⟨rfl, rfl⟩), if_pos ⟨rfl, rfl⟩, hstored,
      forecast_onForecast _ _ _ G hG, if_pos ⟨rfl, hcomplete.symm⟩, hcomplete]
    exact congrArg (fun o => Option.map _ (Option.map G o)) hf
  have harea : (G f).area = f.area := (hG f).1
  have hrow : d.partToComplete f h b
      = e.report .forecastUpdated (.forecast f.area) (forecastData { G f with lastPart := b.endTime } 0 (some h.idx)) := by
    unfold partToComplete
    rw [if_pos (improvesPart_of hs)]
    dsimp only
    rw [show (d.storePart f h b).onForecast f.area true (fun f => { f with lastPart := b.endTime }) = e from rfl, hheld]
    dsimp only
    rw [harea]
  have hconsole : e.console = d.console := by
    rw [show e = (d.storePart f h b).onForecast f.area true fun f => { f with lastPart := b.endTime } from rfl, hstored]
    rfl
  rw [hrow, report_generalTold _ _ _ rfl]
  exact ⟨_, hheld, by rw [← hconsole]⟩

theorem freeWarning_marked {d : Device} {w : Warning}
    (h : OwedRef.warning w.issuer w.issue ∈ d.console.general.owed) :
    (d.freeWarning w).console.general = { d.console.general with
      owed := d.console.general.owed.filter fun x => x != .warning w.issuer w.issue } ∧
    (d.freeWarning w).weather.counts = { d.weather.counts with
      lostReports := bump d.weather.counts.lostReports } := by
  have hmark : ((d.removeWait .warning w.issuer w.issue).withdraw .priority (isWarningItem w.issuer w.issue)).marked
      .general (.warning w.issuer w.issue) = true := (marked_iff _ _ _).2 h
  unfold freeWarning
  dsimp only
  rw [if_pos hmark]
  exact ⟨rfl, rfl⟩

theorem reportWarning_told (d : Device) (w : Warning) (event : Nat) : d.reportWarning w event = { d with
    console := { d.console with
      general := d.console.general.told 24 .warning 0 (.warning w.issuer w.issue)
        (warningData w event (some (d.store.readSyms w.grant 0 w.len))) } } :=
  report_generalTold d _ _ rfl

/-- A warning stored with its pages granted. -/
theorem storeWarning_granted {d : Device} {h : WarningHeader} {b : Burst} {id : Nat} (sev : Severity)
    (hr : (d.store.reserve .warning (copyText h b).length).1 = .granted id) : ∃ store counts, d.storeWarning h sev b
      = reportWarning { d with
          store := store,
          weather := { d.weather with
            warnings := d.weather.warnings ++ [d.warningFrom h sev b id], counts := counts } }
        (d.warningFrom h sev b id) 0 := by
  cases hs : d.store.reserve .warning (copyText h b).length with
  | mk r y =>
    obtain rfl : r = .granted id := by rw [hs] at hr; exact hr
    have hreserved : d.reserve .warning (copyText h b).length = (.granted id, { d with store := y }) := by
      unfold reserve
      rw [hs]
    unfold storeWarning
    dsimp only
    rw [hreserved]
    exact ⟨_, _, rfl⟩

theorem storeWarning_told {d : Device} {h : WarningHeader} {b : Burst} {id : Nat} (sev : Severity)
    (hnew : d.warning? h.issuer h.issue = none)
    (hr : (d.store.reserve .warning (copyText h b).length).1 = .granted id) :
    let e := d.storeWarning h sev b
    ∃ w, e.warning? h.issuer h.issue = some w ∧ e.console.general = d.console.general.told 24 .warning 0
      (.warning h.issuer h.issue) (warningData w 0 (some (e.store.readSyms w.grant 0 w.len))) := by
  obtain ⟨store, counts, hrow⟩ := storeWarning_granted sev hr
  intro e
  rw [show e = _ from hrow, reportWarning_told]
  refine ⟨d.warningFrom h sev b id, ?_, rfl⟩
  have hself : [d.warningFrom h sev b id].find? (fun w => w.issuer == h.issuer && w.issue == h.issue)
      = some (d.warningFrom h sev b id) := List.find?_cons_of_pos (by simp [warningFrom])
  unfold warning? at hnew ⊢
  rw [List.find?_append, hnew]
  exact hself

/-- A copy held replaced whole by a better one. -/
theorem improveWarning_replaces (d : Device) (old : Warning) (h : WarningHeader) (sev : Severity) (b : Burst) :
    ∃ store w, w.issuer = h.issuer ∧ w.issue = h.issue ∧ d.improveWarning old h sev b
      = (onWarning { d with store := store } old.issuer old.issue fun _ => w).reportWarning w 1 := by
  unfold improveWarning
  dsimp only
  split
  · exact ⟨_, _, rfl, rfl, rfl⟩
  · have hreserved : ∃ r y, (d.releaseGrant old.grant).reserve .warning (copyText h b).length
        = (r, { d with store := y }) := ⟨_, _, rfl⟩
    obtain ⟨r, y, hreserved⟩ := hreserved
    rw [hreserved]
    cases r <;> exact ⟨_, _, rfl, rfl, rfl⟩

theorem improveWarning_told {d : Device} {h : WarningHeader} {old : Warning} (sev : Severity) (b : Burst)
    (hold : d.warning? h.issuer h.issue = some old) :
    let e := d.improveWarning old h sev b
    ∃ w, e.warning? h.issuer h.issue = some w ∧ e.console.general = d.console.general.told 24 .warning 0
      (.warning h.issuer h.issue) (warningData w 1 (some (e.store.readSyms w.grant 0 w.len))) := by
  obtain ⟨store, w, hissuer, hissue, hrow⟩ := d.improveWarning_replaces old h sev b
  have hid := List.find?_some hold
  simp only [Bool.and_eq_true, beq_iff_eq] at hid
  obtain ⟨holdIssuer, holdIssue⟩ := hid
  have hheld : (onWarning { d with store := store } h.issuer h.issue fun _ => w).warning? h.issuer h.issue = some w := by
    rw [warning_onWarning _ _ _ _ fun _ _ _ => ⟨hissuer, hissue⟩, if_pos ⟨rfl, rfl⟩]
    exact congrArg (Option.map fun _ => w) hold
  intro e
  rw [show e = _ from hrow, reportWarning_told, holdIssuer, holdIssue]
  exact ⟨w, hheld, by rw [← hissuer, ← hissue]; rfl⟩

/-! ### Quotas and the catch report (R168, R185) -/

theorem reportQuota_told {d : Device} {sp : Species} {q : QuotaEntry} (h : d.quota? sp = some q)
    (prev : Option QuotaState) (cause : Nat) : d.reportQuota sp prev cause = { d with
      log := { d.log with
        quotas := if OwedRef.quota sp ∉ d.console.general.owed ∧ 24 ≤ d.console.general.entries.length
        then d.log.quotas.map fun x => if x.species = sp then { x with owedFrom := some prev } else x
        else d.log.quotas },
      console := { d.console with
        general := d.console.general.told 24 .quotaState 0 (.quota sp)
          (quotaData sp q.quota q.consumed (quotaStateCode prev) (quotaStateCode (some q.st)) cause) } } := by
  let data := quotaData sp q.quota q.consumed (quotaStateCode prev) (quotaStateCode (some q.st)) cause
  have htold := report_generalTold d (kind := .quotaState) (.quota sp) data rfl
  have hmarks : (d.marked .general (.quota sp) = false ∧
      (d.report .quotaState (.quota sp) data).marked .general (.quota sp) = true)
      ↔ OwedRef.quota sp ∉ d.console.general.owed ∧ 24 ≤ d.console.general.entries.length := by
    rw [htold, marked_iff, ← Bool.not_eq_true, marked_iff]
    exact and_congr_right fun hm => Lane.mem_told.trans (or_iff_right hm)
  have hrow : d.reportQuota sp prev cause = if d.marked .general (.quota sp) = false ∧
      (d.report .quotaState (.quota sp) data).marked .general (.quota sp) = true
      then (d.report .quotaState (.quota sp) data).onQuota sp fun q => { q with owedFrom := some prev }
      else d.report .quotaState (.quota sp) data := by
    unfold reportQuota
    rw [h]
  rw [hrow, ite_congr (propext hmarks) (fun _ => rfl) (fun _ => rfl), htold]
  split
  · exact onQuota_map _ _ _
  · rfl

/-- The three steps that end a report leave the console and the request that waits. -/
theorem closeReport_facts (d : Device) (e : Ending) :
    (d.closeReport e).console = d.console ∧ (d.closeReport e).rep.pending = d.rep.pending := by
  unfold closeReport
  dsimp only
  split <;> exact ⟨rfl, rfl⟩

/-- With no request waiting, a report that ends is told and no build is tried. -/
theorem endReport_told {d : Device} (ending : Ending) (cause : Option LostCause) (h : d.rep.pending = none) :
    (d.endReport ending cause).console.general = d.console.general.told 24 .catchReportState 0 .report
      (d.catchStateData (endingEvent ending) d.rep.num d.rep.kind d.rep.lineCount d.rep.buildUtc cause none) := by
  obtain ⟨hconsole, hpending⟩ := d.closeReport_facts ending
  have hcounted : ∀ x : Device, x.rep.pending = none → (x.countEnding ending).buildPending = x.countEnding ending := by
    intro x hx
    unfold buildPending
    rw [show (x.countEnding ending).rep.pending = none from hx]
  have hdata : (d.closeReport ending).catchStateData (endingEvent ending) d.rep.num d.rep.kind d.rep.lineCount
      d.rep.buildUtc cause none = d.catchStateData (endingEvent ending) d.rep.num d.rep.kind d.rep.lineCount
      d.rep.buildUtc cause none := by
    rw [catchStateData, hpending]
    rfl
  unfold endReport
  dsimp only
  rw [hdata, report_generalTold _ _ _ rfl, ← hconsole, hcounted]
  · rfl
  · exact hpending.trans h

end Device
end Sys2Proof.Machine
end

section
/-! PROOF. The reports of each record in the distress lane (O52, its fourth part). -/

namespace Sys2Proof.Machine
namespace Device

/-! ### The own alert (R129) -/

theorem reportOwn_distressTold (d : Device) (event : OwnEvent) : d.reportOwn event = { d with console := { d.console with
    distress := d.console.distress.told 8 .ownAlertState 0 .ownAlert
      (d.ownAlertData event d.distress.own.num (d.distress.own.ackedBy.getD 0)) } } :=
  report_distressTold d _ _ rfl

/-- An own request leaves the distress lane and what OWN ALERT STATE tells. -/
theorem offerOwn_tells (d : Device) : d.offerOwn.console.distress = d.console.distress ∧
    ∀ event num st, d.offerOwn.ownAlertData event num st = d.ownAlertData event num st := by
  obtain ⟨-, hown, hfix, hlane, -, hnow, -⟩ := d.offerOwn_result
  exact ⟨hlane, ownAlertData_congr (by rw [hown]) (by rw [hown]) (by rw [hown]) (by rw [hown]) hfix hnow⟩

theorem repeatNow_tells (d : Device) : d.repeatNow.console.distress = d.console.distress ∧
    ∀ event num st, d.repeatNow.ownAlertData event num st = d.ownAlertData event num st := by
  unfold repeatNow
  split
  · exact ⟨rfl, fun _ _ _ => rfl⟩
  · split
    · exact ⟨rfl, fun _ _ _ => rfl⟩
    · exact offerOwn_tells _

theorem raiseAgain_told (d : Device) (nature : Nat) (persons : Option Nat) :
    let e := d.raiseAgain nature persons
    e.console.distress = d.console.distress.told 8 .ownAlertState 0 .ownAlert (e.ownAlertData
      (if d.distress.own.st = .alerting then .updated else .raisedAgain) d.distress.own.num 0) := by
  intro e
  obtain ⟨hlane, hdata⟩ := (d.toldAgain nature persons).repeatNow_tells
  have hrow : e = (d.toldAgain nature persons).repeatNow := d.raiseAgain_eq nature persons
  rw [hrow, hlane, hdata, toldAgain, reportOwn_distressTold]
  rfl

theorem orderCancel_told {d : Device} (h : d.distress.own.st = .alerting ∨ d.distress.own.st = .acknowledged) :
    let e := d.orderCancel.2
    e.console.distress = d.console.distress.told 8 .ownAlertState 0 .ownAlert
      (e.ownAlertData .cancelling d.distress.own.num (d.distress.own.ackedBy.getD 0)) := by
  intro e
  have hrow : e = if d.ownOnAir then d.toldCancelling else (d.toldCancelling.withdraw .distress isOwnItem).offerOwn :=
    congrArg Prod.snd (orderCancel_alert h)
  have hkept : e.console.distress = d.toldCancelling.console.distress ∧
      ∀ event num st, e.ownAlertData event num st = d.toldCancelling.ownAlertData event num st := by
    rw [hrow]
    split
    · exact ⟨rfl, fun _ _ _ => rfl⟩
    · exact offerOwn_tells (d.toldCancelling.withdraw .distress isOwnItem)
  obtain ⟨hlane, hdata⟩ := hkept
  rw [hlane, hdata, toldCancelling, reportOwn_distressTold]
  rfl

/-! ### The cases (R129) -/

/-- A case update tells of the case as it stands. -/
theorem reportCase_distressTold {d e : Device} {st : Station} {y : Case} (event : CaseEvent) (hc : e.case? st = some y)
    (hlane : e.console.distress = d.console.distress) (hown : e.config = d.config) :
    (e.reportCase st event).case? st = some y ∧ (e.reportCase st event).console.distress
      = d.console.distress.told 8 .caseUpdate 0 (.caseOf st) (d.caseData y event) := by
  have hdata : e.caseData y event = d.caseData y event := by
    unfold caseData
    rw [hown]
  rw [reportCase_some hc, report_distressTold _ _ _ rfl, hlane, hdata]
  exact ⟨hc, rfl⟩

theorem case_onCase_same {d : Device} {st : Station} {c : Case} (f : Case → Case) (h : d.case? st = some c)
    (hf : ∀ x, x.station = st → (f x).station = st) : (d.onCase st f).case? st = some (f c) := by
  rw [case_onCase d st f hf, if_pos rfl, h]
  rfl

/-- A new case is told as CREATED. -/
theorem applyAlert_created {d : Device} {st : Station} (alert : Nat) (facts : Option DistressFacts)
    (via : Option Station) (h : d.case? st = none) (hroom : d.distress.cases.length < 6) :
    let e := d.applyAlert st alert facts via
    ∃ c, e.case? st = some c ∧
      e.console.distress = d.console.distress.told 8 .caseUpdate 0 (.caseOf st) (d.caseData c .created) := by
  let fresh := d.freshCase st alert facts via
  let added := d.onDistress fun u => { u with cases := u.cases ++ [fresh] }
  have hrow : d.applyAlert st alert facts via = added.reportCase st .created := by
    unfold applyAlert
    rw [h]
    exact if_pos hroom
  have hheld : added.case? st = some fresh := by
    have hself : [fresh].find? (fun c => c.station == st) = some fresh := List.find?_cons_of_pos (beq_self_eq_true st)
    have hadd : added.case? st = (d.case? st).or ([fresh].find? fun c => c.station == st) := List.find?_append
    rw [hadd, h, hself]
    rfl
  intro e
  rw [show e = _ from hrow]
  exact ⟨fresh, reportCase_distressTold .created hheld rfl rfl⟩

/-- A case of another alert is replaced, and told as NEW ALERT. -/
theorem applyAlert_replaces {d : Device} {st : Station} {c : Case} {alert : Nat} (facts : Option DistressFacts)
    (via : Option Station) (h : d.case? st = some c) (ha : c.alert ≠ alert) :
    let e := d.applyAlert st alert facts via
    ∃ y, e.case? st = some y ∧
      e.console.distress = d.console.distress.told 8 .caseUpdate 0 (.caseOf st) (d.caseData y .newAlert) := by
  let dropped := d.dropCaseTraffic st c.alert
  let fresh := dropped.freshCase st alert facts via
  have hrow : d.applyAlert st alert facts via = (dropped.onCase st fun _ => fresh).reportCase st .newAlert := by
    unfold applyAlert
    rw [h]
    exact if_pos ha
  obtain ⟨-, -, hconsole, -, -, -, hconfig, -, -, -, -, -, hcase, -⟩ := d.dropCase_facts st c.alert
  obtain ⟨o, hcase⟩ := hcase c h
  have hheld := case_onCase_same (fun _ => fresh) hcase fun _ _ => rfl
  intro e
  rw [show e = _ from hrow]
  exact ⟨fresh, reportCase_distressTold .newAlert hheld (congrArg (fun k => k.distress) hconsole) hconfig⟩

theorem withFacts_station (c : Case) (facts : Option DistressFacts) (via : Option Station) :
    (withFacts c facts via).station = c.station := by
  unfold withFacts
  cases facts <;> rfl

/-- A CLOSED case that its station did not cancel opens again, and is told as REOPENED. -/
theorem applyAlert_reopens {d : Device} {st : Station} {c : Case} {alert : Nat} (facts : Option DistressFacts)
    (via : Option Station) (h : d.case? st = some c) (ha : c.alert = alert) (hst : c.st = .closed)
    (hr : c.closeReason ≠ some .cancelled) :
    let e := d.applyAlert st alert facts via
    ∃ y, e.case? st = some y ∧
      e.console.distress = d.console.distress.told 8 .caseUpdate 0 (.caseOf st) (d.caseData y .reopened) := by
  let opened := { withFacts c facts via with
    lastHeard := d.now, st := .unacked, closeReason := none, ackedBy := none, ownAck := .none }
  have hrow : d.applyAlert st alert facts via = (d.onCase st fun _ => opened).reportCase st .reopened := by
    unfold applyAlert
    rw [h]
    dsimp only
    rw [if_neg (not_not_intro ha)]
    simp only [hst]
    rfl
  have hstation : opened.station = st := (withFacts_station c facts via).trans (case_station d st c h)
  have hheld := case_onCase_same (fun _ => opened) h fun _ _ => hstation
  intro e
  rw [show e = _ from hrow]
  exact ⟨opened, reportCase_distressTold .reopened hheld rfl rfl⟩

/-- A case not CLOSED takes the facts of an alert heard again, and is told of when they changed it. -/
theorem applyAlert_facts {d : Device} {st : Station} {c : Case} {alert : Nat} (facts : Option DistressFacts)
    (via : Option Station) (h : d.case? st = some c) (ha : c.alert = alert) (hst : c.st ≠ .closed) :
    let e := d.applyAlert st alert facts via
    ∃ y, e.case? st = some y ∧
      (y ≠ { c with lastHeard := d.now } →
        e.console.distress = d.console.distress.told 8 .caseUpdate 0 (.caseOf st) (d.caseData y .facts)) ∧
      (y = { c with lastHeard := d.now } → e.console = d.console) := by
  let heard := { withFacts c facts via with lastHeard := d.now }
  have hrow : d.applyAlert st alert facts via = if heard = { c with lastHeard := d.now } then d.onCase st fun _ => heard
      else (d.onCase st fun _ => heard).reportCase st .facts := by
    unfold applyAlert
    rw [h]
    dsimp only
    rw [if_neg (not_not_intro ha)]
    cases hs : c.st with
    | closed => exact absurd hs hst
    | unacked | acked => rfl
  have hstation : heard.station = st := (withFacts_station c facts via).trans (case_station d st c h)
  have hheld := case_onCase_same (fun _ => heard) h fun _ _ => hstation
  intro e
  rw [show e = _ from hrow]
  by_cases hsame : heard = { c with lastHeard := d.now }
  · rw [if_pos hsame]
    exact ⟨heard, hheld, fun hn => absurd hsame hn, fun _ => rfl⟩
  · rw [if_neg hsame]
    obtain ⟨hcase, htold⟩ := reportCase_distressTold .facts hheld rfl rfl
    exact ⟨heard, hcase, fun _ => htold, fun hn => absurd hn hsame⟩

/-- An ACKED case freed for another is told as CLOSED before its mark passes on. -/
theorem freeCase_acked {d : Device} {c : Case} (new : Station) (h : c.st = .acked) : (d.freeCase c new).console
    = (passMark { d with console := { d.console with
        distress := d.console.distress.told 8 .caseClosed 0 (.caseOf c.station)
          (caseClosedData c.station c.alert .replaced) } }
      .distress (.caseOf c.station) (.caseOf new)).console := by
  obtain ⟨-, -, hconsole, -⟩ := d.dropCase_facts c.station c.alert
  unfold freeCase
  dsimp only
  rw [if_pos h, report_distressTold _ _ _ rfl, hconsole]
  rfl

theorem passMark_distress (d : Device) (old new : OwedRef) : d.passMark .distress old new
    = { d with console := { d.console with distress := { d.console.distress with
        owed := if new ∈ d.console.distress.owed then d.console.distress.owed.filter fun x => x != old
          else d.console.distress.owed.map fun x => if x = old then new else x } } } := by
  unfold passMark onLane onConsole
  by_cases h : new ∈ d.console.distress.owed
  · rw [if_pos h]
    dsimp only
    rw [if_pos (List.contains_iff_mem.2 h)]
  · rw [if_neg h]
    dsimp only
    rw [if_neg fun hn => h (List.contains_iff_mem.1 hn)]

/-- A case as a suppressed relay leaves it. -/
def relaySuppressed (alert : Nat) (c : Case) : Case :=
  if c.alert = alert ∧ c.relay ≠ .relayed then { c with relay := .suppressed } else c

theorem relaySuppressed_facts (alert : Nat) (c : Case) :
    (relaySuppressed alert c).station = c.station ∧ (relaySuppressed alert c).st = c.st := by
  unfold relaySuppressed
  split <;> exact ⟨rfl, rfl⟩

theorem suppressRelay_case {d : Device} {st : Station} {c : Case} (alert : Nat) (h : d.case? st = some c) :
    (d.suppressRelay st alert).case? st = some (relaySuppressed alert c) :=
  case_onCase_same (d := d.withdraw .distress (isRelayItem st alert)) (relaySuppressed alert) h fun x hx =>
    (relaySuppressed_facts alert x).1.trans hx

theorem suppressRelay_beside (d : Device) (st alert : Nat) :
    (d.suppressRelay st alert).console = d.console ∧ (d.suppressRelay st alert).config = d.config := ⟨rfl, rfl⟩

/-- A case as the part's own acknowledgement makes it (R121). -/
def ownAcked (c : Case) : Case :=
  if c.st = .acked then { c with ownAck := .offered } else { c with st := .acked, ackedBy := some .own, ownAck := .offered }

theorem ownAcked_station (c : Case) : (ownAcked c).station = c.station := by
  unfold ownAcked
  split <;> rfl

/-- The case acknowledged by the part, with the DISTRESS-ACK `it` offered. -/
def caseAcked (d : Device) (c : Case) (it : Item) : Device :=
  ((((d.offer it).removeWait .distress c.station c.alert).suppressRelay c.station c.alert).onCase c.station
    ownAcked).reportCase c.station .acked

theorem caseAcked_told {d : Device} {c : Case} (it : Item) (hc : d.case? c.station = some c) :
    ∃ y, (d.caseAcked c it).case? c.station = some y ∧ (d.caseAcked c it).console.distress
      = d.console.distress.told 8 .caseUpdate 0 (.caseOf c.station) (d.caseData y .acked) := by
  have hcase : ((d.offer it).removeWait .distress c.station c.alert).case? c.station = some c := hc
  have hheld := case_onCase_same ownAcked (suppressRelay_case c.alert hcase) fun x hx => (ownAcked_station x).trans hx
  obtain ⟨hconsole, hconfig⟩ := suppressRelay_beside ((d.offer it).removeWait .distress c.station c.alert) c.station
    c.alert
  exact ⟨_, reportCase_distressTold .acked hheld (congrArg (fun k => k.distress) hconsole) hconfig⟩

/-- ACK CASE (R121). -/
theorem acknowledgeCase_told {d : Device} {c : Case} (h : c.ownAck ≠ .offered) (hc : d.case? c.station = some c) :
    ∃ y, (d.acknowledgeCase c).case? c.station = some y ∧ (d.acknowledgeCase c).console.distress
      = d.console.distress.told 8 .caseUpdate 0 (.caseOf c.station) (d.caseData y .acked) := by
  have hrow : d.acknowledgeCase c
      = d.caseAcked c (d.newItem .distressAck allStations c.alert (toSyms 3 c.station) (.caseAck c.station c.alert)) :=
    if_neg h
  rw [hrow]
  exact caseAcked_told _ hc

/-- With its list below 63 alerts, a settled alert entered leaves the cases. -/
theorem enterSettled_cases {d : Device} (st alert : Nat) (h : d.distress.settled.length < 63) :
    (d.enterSettled st alert).distress.cases = d.distress.cases := by
  have hshort : (d.distress.settled ++ [(st, alert)]).length ≠ 64 := by
    rw [List.length_append, List.length_singleton]
    omega
  unfold enterSettled
  dsimp only
  split
  · rfl
  · rw [if_neg (show ¬ (d.onDistress fun u => { u with settled := u.settled ++ [(st, alert)] }).distress.settled.length
      = 64 from hshort)]
    rfl

/-- A case as an acknowledgement by another station makes it (R118). -/
def stationAcked (source : Station) (c : Case) : Case := { c with st := .acked, ackedBy := some (.station source) }

/-- A DISTRESS-ACK heard for an UNACKED case (R118). -/
theorem distressAckHeard_told {d : Device} {st : Station} {b : Burst} {c : Case} (h : d.case? st = some c)
    (ha : c.alert = b.seq) (hst : c.st = .unacked) (hp : b.pass = true) (hlen : d.distress.settled.length < 63) :
    ∃ y, (d.distressAckHeard st b).case? st = some y ∧ (d.distressAckHeard st b).console.distress
      = d.console.distress.told 8 .caseUpdate 0 (.caseOf st) (d.caseData y .acked) := by
  obtain ⟨hconsole, -, -, hconfig⟩ := enterSettled_console (d.removeWait .distress st b.seq) st b.seq
  have hsettled : ((d.removeWait .distress st b.seq).enterSettled st b.seq).case? st = some c := by
    unfold case?
    rw [enterSettled_cases (d := d.removeWait .distress st b.seq) st b.seq hlen]
    exact h
  unfold distressAckHeard
  dsimp only
  generalize (d.removeWait .distress st b.seq).enterSettled st b.seq = settled at hconsole hconfig hsettled ⊢
  have hheard := case_onCase_same (fun c => { c with lastHeard := settled.now }) hsettled fun _ hx => hx
  have hsuppressed := suppressRelay_case b.seq hheard
  have hunacked : (relaySuppressed b.seq { c with lastHeard := settled.now }).st = .unacked :=
    (relaySuppressed_facts _ _).2.trans hst
  have hheld := case_onCase_same (stationAcked b.source) hsuppressed fun _ hx => hx
  rw [if_pos (holdsAlert_iff.2 ⟨_, hheard, ha⟩), hsuppressed]
  dsimp only
  rw [if_pos ⟨hunacked, hp⟩]
  exact ⟨_, reportCase_distressTold .acked hheld (congrArg (fun k => k.distress) hconsole) hconfig⟩

/-! ### The hold (R127) -/

theorem distressLane_of_aside {d e : Device} (h : e.aside = d.aside) :
    e.console.distress = d.console.distress ∧ e.distress = d.distress ∧ e.now = d.now :=
  ⟨congrArg (fun x => x.console.distress) h, congrArg (fun x => x.distress) h, congrArg (fun x => x.now) h⟩

theorem transfersStopped_facts (d : Device) : d.holdTransfers.dropBeacon.console.distress = d.console.distress ∧
    d.holdTransfers.dropBeacon.distress = d.distress ∧ d.holdTransfers.dropBeacon.now = d.now := by
  obtain ⟨hlane, hdistress, hnow⟩ := distressLane_of_aside (holdTransfers_aside d)
  obtain ⟨-, bnow, -, -, bconsole, bdistress, -⟩ := dropBeacon_facts d.holdTransfers
  rw [bnow, bconsole, bdistress]
  exact ⟨hlane, hdistress, hnow⟩

theorem holdSeconds_sat16 (d : Device) : sat16 d.holdSeconds = match d.distress.holdTimer with
    | none => 0
    | some t => min ((t - d.now) / 1000) 65535 := by
  unfold holdSeconds
  cases d.distress.holdTimer <;> rfl

theorem holdStarted_told {d e : Device} (cause : Nat) (st : Station)
    (hlane : e.console.distress = d.console.distress) (htimer : e.distress.holdTimer = d.distress.holdTimer)
    (hnow : e.now = d.now) : (e.report .holdStarted .hold (e.holdStartedData cause st)).console.distress
      = d.console.distress.told 8 .holdStarted 0 .hold (d.holdStartedData cause st) := by
  have hdata : e.holdStartedData cause st = d.holdStartedData cause st := by
    unfold holdStartedData holdSeconds
    rw [htimer, hnow]
  rw [report_distressTold _ _ _ rfl, hlane, hdata]

/-- HOLD STARTED goes to a lane, and with a hold timer, that the steps before it have left. -/
theorem startHold_told (d : Device) (cause : Nat) (st : Station) : (d.startHold cause st).console.distress
    = d.console.distress.told 8 .holdStarted 0 .hold (d.holdStartedData cause st) := by
  obtain ⟨hlane, hdistress, hnow⟩ := transfersStopped_facts (d.onDistress fun u =>
    { u with holdSince := some d.now, holdCause := cause, holdStation := st })
  unfold startHold
  dsimp only
  generalize (d.onDistress fun u => { u with holdSince := some d.now, holdCause := cause, holdStation := st }
    ).holdTransfers.dropBeacon = quiet at hlane hdistress hnow ⊢
  have hlooped : ∃ r l k, (if quiet.loop.st = .waiting then quiet.abandonLoop else quiet)
      = { quiet with rx := r, loop := l, console := k } ∧ k.distress = d.console.distress := by
    split
    · obtain ⟨r, l, k, hloop, -, -, hk⟩ := quiet.abandonLoop_eq
      exact ⟨r, l, k, hloop, hk.trans hlane⟩
    · exact ⟨_, _, _, rfl, hlane⟩
  obtain ⟨r, l, k, hlooped, hk⟩ := hlooped
  rw [hlooped]
  exact holdStarted_told cause st hk (congrArg (fun u => u.holdTimer) hdistress) hnow

theorem offerWarning_console (d : Device) (issuer issue : Nat) :
    (d.offerWarning issuer issue).console = d.console := by
  unfold offerWarning
  split <;> rfl

theorem releaseHeldWaits_console (d : Device) : d.releaseHeldWaits.console = d.console := by
  unfold releaseHeldWaits
  generalize sortBy (fun w : Wait => w.expiry) (d.waits.filter fun w => w.held) = l
  induction l generalizing d with
  | nil => rfl
  | cons w r ih => rw [List.foldl_cons, ih, offerWarning_console]; rfl

theorem resumeDeadline_distressLane (d : Device) : d.resumeDeadline.console.distress = d.console.distress := by
  unfold resumeDeadline
  split
  · rfl
  · next c _ =>
    dsimp only
    split
    · obtain ⟨hlane, -⟩ := distressLane_of_aside (endReport_aside
        (d.onRep fun r => { r with deadline := some (c.resume d.now) }) .lost (some .deadline))
      exact hlane
    · rfl

theorem endHold_told (d : Device) : d.endHold.console.distress
    = d.console.distress.told 8 .holdEnded 0 .hold (holdEndedData d.holdLength) := by
  have hlane : ∀ e : Device, e.unholdTransfers.releaseHeldWaits.resumeDeadline.console.distress
      = e.console.distress := fun e => by
    rw [resumeDeadline_distressLane, releaseHeldWaits_console]
    exact (distressLane_of_aside (unholdTransfers_aside e)).1
  unfold endHold
  dsimp only
  rw [report_distressTold _ _ _ rfl, hlane]
  rfl

end Device
end Sys2Proof.Machine
end

section
/-! PROOF. CSEL, the exchanges, the owed marks and the reports of each record (O52). -/

namespace Sys2Proof.Machine
open Device

/-- Settles O52: the exchange clause by clause, the report of each owed mark, and each record's report as the lane's
`Lane.told`. -/
theorem exchanges : Obligations.Exchanges := by
  unfold Obligations.Exchanges
  refine ⟨⟨⟨?csel, ?complete, attn_iff⟩, ?serve, ?last, ?generalMarks, ?distressMarks⟩, ?reports⟩
  case csel =>
    intro s hlow k bytes asserted
    have hassert : k.exchange = .idle → exec .cselAssert s = .next { s with dev := s.dev.assertCsel } := fun h =>
      (State.act_eq s _ hlow).trans (by rw [if_pos h])
    have hbusy : k.exchange ≠ .idle → exec .cselAssert s = .next s := fun h =>
      (State.act_eq s _ hlow).trans (by rw [if_neg h])
    have hrelease : exec .cselRelease s = .next { s with dev := s.dev.releaseCsel } := State.act_eq s _ hlow
    refine ⟨fun hidle => ⟨fun up hup => ?_, fun hnone => ⟨fun e r he => ?_, fun e r hd he => ?_, fun hd he => ?_⟩⟩,
      hbusy, fun hidle => ?_, fun hdone => ?_, fun up hrun => ?_⟩
    · rw [hassert hidle, assertCsel_reoffers hup]; rfl
    · rw [hassert hidle, assertCsel_settles hnone, settledUpFrame_distress he]; rfl
    · rw [hassert hidle, assertCsel_settles hnone, settledUpFrame_general hd he]; rfl
    · rw [hassert hidle, assertCsel_settles hnone, settledUpFrame_idle hd he]; rfl
    · rw [hrelease, releaseCsel_idle hidle]
    · rw [hrelease, releaseCsel_finished hdone]
    · rw [hrelease, releaseCsel_running hrun]
  case complete =>
    intro d e done
    obtain ⟨h1, h2, h3, h4, h5, h6, h7, h8, h9, h10, h11, h12, h13, h14⟩ := d.completeExchange_facts
    refine ⟨h1, h2, h3, h4, h5, h6, h7, h8, h9, h10, h11, h12, h13, h14, completeExchange_asserts,
      fun up hrun => ⟨completeExchange_idleFrame hrun, fun n x rest hl he => ⟨fun hs => ?_, fun hs =>
        ⟨fun ho => ⟨fun data hb => ?_, fun id r hb hr => ?_⟩, fun data hb => ⟨fun marks hn hlen ho hm hblocked => ?_,
          fun marks hn hlen ho hm => ?_, fun mark marks ho hlen => ?_⟩⟩⟩⟩⟩
    · exact (completeExchange_drains hrun hl).trans (drainLane_more (by rw [lane_exchanged]; exact he) hs)
    · exact (completeExchange_last_unowed hrun hl he hs ho).trans (lastSent_report rest hb)
    · rw [show e = _ from completeExchange_last_unowed hrun hl he hs ho, lastSent_delivery rest hb]
      cases n <;> exact freeDelivery_some hr
    · subst hn
      exact completeExchange_owesBlocked hrun hl he hs hb hlen ho hm hblocked
    · subst hn
      exact completeExchange_owesOwnAlert hrun hl he hs hb hlen ho hm
    · exact completeExchange_last_serves hrun hl he hs hb ho hlen
  case serve =>
    exact fun d n k => ⟨rfl, fun h => serveOwed_none h _, fun h => serveOwed_full h _,
      fun mark rest h hroom => serveOwed_serves h hroom k⟩
  case last =>
    intro d up n x rest hrun hl he hs gone freed
    have hfreed : d.exchanged.lastSent n x rest = freed := by
      cases hb : x.body with
      | report data =>
        rw [lastSent_report rest hb]
        simp only [freed, hb]
        rfl
      | delivery id =>
        rw [lastSent_delivery rest hb]
        simp only [freed, hb]
        have hkept : (d.exchanged.onLane n fun l => { l with entries := rest }).console.deliveries
            = d.console.deliveries := by cases n <;> rfl
        cases hr : d.console.deliveries.find? (fun y => y.id == id) with
        | none => exact freeDelivery_none (by rw [hkept]; exact hr)
        | some r => exact freeDelivery_some (by rw [hkept]; exact hr)
    exact (completeExchange_last hrun hl he hs).trans (by rw [hfreed])
  case generalMarks =>
    intro d hroom general unmarked
    refine ⟨fun hm => ?_, fun hm => ⟨fun hb => ?_, fun hb => ?_⟩, fun m hm => ?_, fun k hm hk => ?_, fun i o hi ho => ?_,
      fun id => queueEntry_general _ hroom, fun area hm => ⟨fun f hf => ?_, fun x hnone hx => ?_⟩,
      fun issuer issue w hm hw => ?_, fun sp q hm hq => ?_, fun hm => ?_⟩
    · have hdata : d.configuredData = .num 1 d.console.marks.length :: d.console.marks.map fun i => .num 1 i :=
        tableData_nums d.console.marks fun i => .num 1 i
      rw [← hdata]
      exact report_general_room d _ _ _ rfl hroom hm
    · exact (serveMark_blocked hb).trans (report_general_room d _ _ _ rfl hroom hm)
    · exact (serveMark_cleared hb).trans (report_general_room d _ _ _ rfl hroom hm)
    · have hreport := report_general_room (d.onMonitor m fun x => { x with owedFrom := none }) .protection (.monitor m)
        (protectionData m ((d.monitor m).owedFrom.getD (d.monitor m).st) (d.monitor m).st .owed d.prot.trips
          d.reportKeyTime) rfl hroom hm
      exact hreport.trans (congrArg (fun k => general (d.onMonitor m fun x => { x with owedFrom := none }) .protection 0
        (protectionData m ((d.monitor m).owedFrom.getD (d.monitor m).st) (d.monitor m).st .owed d.prot.trips k))
        d.reportKeyTime_eq)
    · exact (serveMark_loop hk).trans (reportTagged_general_room _ _ rfl hroom hm)
    · have hset := onSlot_set (general d .transferOutcome 0 (slotOutcomeData (d.slot i) o)) i (fun _ => Slot.free) hi
      rw [serveMark_slot ho, queueEntry_general _ hroom, freeSlot]
      exact congrArg slotFreed hset
    · exact (serveMark_forecast hf).trans (report_general_room d _ _ _ rfl hroom hm)
    · exact (serveMark_forecastFreed hnone hx).trans (report_general_room d _ _ _ rfl hroom hm)
    · have hid : d.reportWarning w 3 = general d .warning 0 (warningData w 3 (some (d.warningText w))) :=
        report_general_room d _ _ _ rfl hroom hm
      rw [serveMark_warning hw, hid, warningData_text]
      rfl
    · rw [serveMark_quota hq, onQuota_map]
      exact report_general_room _ _ _ _ rfl hroom hm
    · exact report_general_room d _ _ _ rfl hroom hm
  case distressMarks =>
    intro d hroom distress unmarked
    refine ⟨fun hm => ?_, fun st c hm hc => ⟨fun r hst hr => ?_, fun hst => ?_⟩, fun hm => ⟨fun hh => ?_, fun hh => ?_⟩⟩
    · have hreport := report_distress_room d .ownAlertState .ownAlert
        (d.ownAlertData .owed d.distress.own.num (d.distress.own.ackedBy.getD 0)) rfl hroom hm
      exact hreport.trans (congrArg (fun flag => distress d .ownAlertState
        [.num 1 d.distress.own.st.code, .num 1 d.distress.own.num, .num 1 d.distress.own.nature,
          optNum 1 d.distress.own.persons, .num 1 11, .num 3 (d.distress.own.ackedBy.getD 0), .num 1 flag,
          count16 d.distress.own.cancelCount]) d.positionFlag_eq)
    · exact (serveMark_caseClosed hc hst hr).trans (report_distress_room d _ _ _ rfl hroom hm)
    · exact (serveMark_caseOpen hc fun _ h => absurd h hst).trans (report_distress_room d _ _ _ rfl hroom hm)
    · exact (serveMark_holdStarted hh).trans (report_distress_room d _ _ _ rfl hroom hm)
    · exact (serveMark_holdEnded hh).trans (report_distress_room d _ _ _ rfl hroom hm)
  case reports =>
    intro d tell general distress inGeneral inDistress
    refine ⟨fun t ht hb => channelBlocks_told ht hb, reportLoop_told d, abandonLoop_held,
      fun received h => loopDone_looping received h, fun src num x hx hd hcls => ?_,
      fun area k h hall => completeForecast_told h hall, fun f h b hf hs => partToComplete_told hf hs,
      fun f => ?_, fun h sev b hnew ⟨id, hid⟩ => storeWarning_told sev hnew hid,
      fun h sev b old hold => improveWarning_told sev b hold, fun w hw => freeWarning_marked hw,
      fun sp prev cause q hq => reportQuota_told hq prev cause, fun event minutes => report_generalTold d _ _ rfl,
      fun event kind => report_generalTold d _ _ rfl, fun ending cause hp => ?_,
      fun event num st => report_distressTold d _ _ rfl, fun event => report_distressTold d _ _ rfl,
      d.raiseAgain_told, orderCancel_told, fun st event c hc => (reportCase_some hc event).trans (report_distressTold d _ _ rfl),
      fun st alert facts via => ⟨applyAlert_created alert facts via, fun c hc =>
        ⟨applyAlert_replaces facts via hc, applyAlert_reopens facts via hc, applyAlert_facts facts via hc⟩⟩,
      fun c st hst => freeCase_acked st hst, d.passMark_distress, fun c h hc => acknowledgeCase_told h hc,
      fun st b c hc ha hst hp hlen => distressAckHeard_told hc ha hst hp hlen, fun cause st => ?_, d.endHold_told⟩
    · have hdelivered := deliver_eq { d.enterRecent src num with xfer := { (d.enterRecent src num).xfer with
        reasms := d.xfer.reasms.filter fun x => !(x.source == src && x.num == num) } } (messageOf x)
      have hrow := (completeMessage_delivers hx hd hcls).trans hdelivered
      dsimp only at hrow
      rw [d.enterRecent_console src num] at hrow
      exact hrow
    · exact congrArg (fun e => e.console.general) (report_generalTold
        ((d.freeForecast f).onWeatherCounts fun c => { c with expired := bump c.expired })
        (kind := .forecastExpired) (.forecast f.area) (forecastExpiredData f.area f.issuer f.issue) rfl)
    · have htold := endReport_told ending cause hp
      rw [catchStateData, hp] at htold
      cases ending <;> exact htold
    · exact (d.startHold_told cause st).trans (congrArg
        (fun n => d.console.distress.told 8 .holdStarted 0 .hold [.num 1 cause, .num 3 st, .num 2 n]) d.holdSeconds_sat16)
end Sys2Proof.Machine
end

section
/-! PROOF. The invariants that every step keeps: they hold at reset (O9), and the page contents stay in canonical
form (O8). -/

namespace Sys2Proof.Machine

/-- Each command keeps the canonical form of the page contents: the resets bring an empty store, and a frame or an
event keeps what its own meaning keeps. -/
theorem exec_cellsOk (i : Instr) {s t : State} (h0 : s.dev.cellsOk = true) (ht : exec i s = .next t) :
    t.dev.cellsOk = true := by
  cases i <;> dsimp only [exec] at ht
  case hardReset | resetnAsserted =>
    injection ht with ht
    subst ht
    rfl
  case cselAssert =>
    refine State.act_cellsOk s t _ (fun e he => ?_) h0 ht
    split
    · exact Device.assertCsel_cellsOk e he
    · exact he
  case cselRelease => exact State.act_cellsOk s t _ Device.releaseCsel_cellsOk h0 ht
  case setupPart1 | setupPart2 | setupPart3 | setupPart4 =>
    exact State.frame_cellsOk s t _ _ _ _ (fun e he => Device.setupPart_cellsOk _ _ _ e (fun _ hf => hf) he) h0 ht
  case setupPart5 =>
    exact State.frame_cellsOk s t _ _ _ _
      (fun e he => Device.setupPart_cellsOk _ _ _ e Device.completeSetup_cellsOk he) h0 ht
  case readForecast =>
    refine State.frame_cellsOk s t _ _ _ _ (fun e he => ?_) h0 ht
    split
    · exact Device.answer_cellsOk _ _ _ e he
    · exact he
  case readHaul =>
    refine State.frame_cellsOk s t _ _ _ _ (fun e he => ?_) h0 ht
    repeat' split
    · exact Device.answer_cellsOk _ _ _ e he
    · exact he
    · exact Device.answer_cellsOk _ _ _ e he
  case characterReceived =>
    refine State.event_cellsOk s t _ (fun e he => ?_) h0 ht
    split
    · exact Device.takeCharacter_cellsOk e _ _ he
    · exact he
  case loopStart =>
    refine State.event_cellsOk s t _ (fun e he => ?_) h0 ht
    split
    · exact Device.startLoop_cellsOk e he
    · exact he
  case noneFrame | unknownKind | readBadSelector | setup | time | position | submit | text | withdraw | readStatus
      | readNeighbours | readCases | readWarnings | readTally | readQuota | readTransfers | distress | cancel | ackCase
      | closeCase | flush | recover | loopTest | reportNow | haulOpen | haulClose | catchLine | haulDiscard
      | haulCommit | restart =>
    exact State.frame_cellsOk s t _ _ _ _ (fun e he => by simp [he]) h0 ht
  all_goals exact State.event_cellsOk s t _ (fun e he => by simp [he]) h0 ht

/-- Settles O8. -/
theorem storeOkKept : Obligations.StoreOkKept := by
  intro s t h0 ht
  unfold step at ht
  split at ht
  next c rest hp => exact exec_cellsOk c (s := { s with pending := rest }) h0 ht
  next hp =>
    have hdue := s.dev.takeDue_cellsOk h0
    split at ht
    next c d hd =>
      rw [hd] at hdue
      exact exec_cellsOk c (s := { s with dev := d }) hdue ht
    next d hd =>
      rw [hd] at hdue
      injection ht with ht
      subst ht
      exact hdue

/-- Settles O9: no lane, table or record of the reset state holds anything. -/
theorem invariantsAtReset : Obligations.InvariantsAtReset := by
  refine ⟨rfl, rfl, ?_⟩
  have hcells : State.reset.dev.log.cells = [] := rfl
  have hquotas : State.reset.dev.log.quotas = [] := rfl
  refine ⟨by decide, by decide, by decide, by decide, ?_, ?_⟩
  · rw [hcells]
    simp [tallyOk]
  · rw [hquotas]
    simp [quotasOk]

end Sys2Proof.Machine
end

section
/-! PROOF. Reservations (O30), symbols written and read (O31), releases and hand-overs (O32). -/

namespace Sys2Proof.Machine

/-! ### Grants and the pages they hold (R51) -/

namespace Store

/-- A grant entered last under a fresh number is found by it, and its pages count for its holder. -/
theorem entered_last {x y : Store} {g : Grant} (hy : y.grants = x.grants ++ [g])
    (hfresh : ∀ k ∈ x.grants, k.id ≠ g.id) :
    y.grant? g.id = some g ∧ y.held g.holder = x.held g.holder + g.pages.length := by
  constructor
  · have hnone : x.grants.find? (fun k => k.id == g.id) = none := by simpa using hfresh
    simp [grant?, hy, List.find?_append, hnone]
  · simp [held, hy]

/-! ### Pages cleared (R52) -/

theorem getCell_clearPage (l : List Host.Cell) (page a : Nat) :
    getCell (clearPage l page) a = if a / 60 = page then erasureMark else getCell l a := by
  induction l with
  | nil => simp [clearPage, getCell]
  | cons c r ih =>
    obtain ⟨y, v⟩ := c
    unfold clearPage at ih ⊢
    rw [List.filter_cons]
    by_cases hy : y / 60 = page
    · rw [if_neg (by simpa using hy), ih]
      split
      · rfl
      next ha => rw [getCell, if_neg fun h : a = y => ha (h ▸ hy)]
    · rw [if_pos (by simpa using hy), getCell, getCell, ih]
      by_cases hay : a = y
      · rw [if_pos hay, if_pos hay, if_neg (hay ▸ hy)]
      · rw [if_neg hay, if_neg hay]

/-- Every symbol of a cleared page reads 63. -/
theorem getCell_clearPages (pages : List Nat) (l : List Host.Cell) (a : Nat) :
    getCell (pages.foldl clearPage l) a = if a / 60 ∈ pages then erasureMark else getCell l a := by
  induction pages generalizing l with
  | nil => simp
  | cons p r ih =>
    rw [List.foldl_cons, ih, getCell_clearPage]
    by_cases hr : a / 60 ∈ r <;> simp [hr]

/-! ### Addresses (R53) -/

theorem addr_of_page {g : Grant} {i p : Nat} (h : g.pages[i / 60]? = some p) : g.addr i = some (60 * p + i % 60) := by
  simp [Grant.addr, h]

/-- The address of a symbol lies on one of the grant's pages; beyond the grant there is none. -/
theorem addr_cases (g : Grant) (i : Nat) :
    (i < 60 * g.pages.length ∧ ∃ p ∈ g.pages, g.pages[i / 60]? = some p ∧ g.addr i = some (60 * p + i % 60)) ∨
    (60 * g.pages.length ≤ i ∧ g.addr i = none) := by
  cases h : g.pages[i / 60]? with
  | some p =>
    have hlt : i / 60 < g.pages.length := (List.getElem?_eq_some_iff.1 h).1
    exact .inl ⟨by omega, p, List.mem_of_getElem? h, rfl, addr_of_page h⟩
  | none =>
    have hle : g.pages.length ≤ i / 60 := List.getElem?_eq_none_iff.1 h
    exact .inr ⟨by omega, by simp [Grant.addr, h]⟩

/-- Two symbols of a grant with distinct pages have distinct addresses. -/
theorem addr_inj {g : Grant} (hn : g.pages.Nodup) {i j a : Nat} (hi : g.addr i = some a) (hj : g.addr j = some a) :
    i = j := by
  obtain ⟨hilt, p, -, hp, hia⟩ | ⟨-, hnone⟩ := addr_cases g i
  · obtain ⟨hjlt, q, -, hq, hja⟩ | ⟨-, hnone⟩ := addr_cases g j
    · rw [hi] at hia
      rw [hj] at hja
      injection hia with hia
      injection hja with hja
      have hpq : p = q := by omega
      have hdiv : i / 60 = j / 60 := (List.getElem?_inj (by omega) hn).1 (hp.trans (hpq ▸ hq.symm))
      omega
    · simp [hj] at hnone
  · simp [hi] at hnone

theorem addr_page {g : Grant} {i a : Nat} (h : g.addr i = some a) : a / 60 ∈ g.pages := by
  obtain ⟨-, p, hmem, -, hia⟩ | ⟨-, hnone⟩ := addr_cases g i
  · rw [h] at hia
    injection hia with hia
    have : a / 60 = p := by omega
    exact this ▸ hmem
  · simp [h] at hnone

/-! ### Symbols read and written (R53) -/

theorem readSym_eq {x : Store} {id i a : Nat} {g : Grant} (hg : x.grant? id = some g) (ha : g.addr i = some a) :
    x.readSym id i = (getCell x.cells a).toNat := by
  simp [readSym, hg, ha]

theorem readSym_beyond {x : Store} {id i : Nat} {g : Grant} (hg : x.grant? id = some g) (ha : g.addr i = none) :
    x.readSym id i = 63 := by
  simp [readSym, hg, ha]

theorem writeSym_eq {x : Store} {id i a : Nat} (v : Nat) {g : Grant}
    (hg : x.grant? id = some g) (ha : g.addr i = some a) :
    x.writeSym id i v = { x with cells := putCell x.cells a (BitVec.ofNat 8 v) } := by
  simp [writeSym, hg, ha]

theorem writeSym_beyond {x : Store} {id i : Nat} (v : Nat) {g : Grant}
    (hg : x.grant? id = some g) (ha : g.addr i = none) :
    x.writeSym id i v = x := by
  simp [writeSym, hg, ha]

/-- What a write puts at the address of a grant's symbol is read back as that symbol. -/
theorem readSym_putCell_same {x : Store} (hwf : wf x.cells = true) {id i a v : Nat} (hv : v < 256) {g : Grant}
    (hg : x.grant? id = some g) (ha : g.addr i = some a) :
    ({ x with cells := putCell x.cells a (BitVec.ofNat 8 v) } : Store).readSym id i = v := by
  rw [readSym_eq (x := { x with cells := putCell x.cells a (BitVec.ofNat 8 v) }) hg ha, getCell_putCell _ _ _ _ hwf,
    if_pos rfl, BitVec.toNat_ofNat, Nat.mod_eq_of_lt hv]

/-- A write at address `a` leaves each symbol of a grant that does not lie at `a`. -/
theorem readSym_putCell_other {x : Store} (hwf : wf x.cells = true) {id j a : Nat} (b : BitVec 8) {g : Grant}
    (hg : x.grant? id = some g) (ha : g.addr j ≠ some a) :
    ({ x with cells := putCell x.cells a b } : Store).readSym id j = x.readSym id j := by
  cases haddr : g.addr j with
  | none => rw [readSym_beyond hg haddr, readSym_beyond (x := { x with cells := putCell x.cells a b }) hg haddr]
  | some c =>
    have hca : c ≠ a := fun h => ha (h ▸ haddr)
    rw [readSym_eq hg haddr, readSym_eq (x := { x with cells := putCell x.cells a b }) hg haddr,
      getCell_putCell _ _ _ _ hwf, if_neg hca]

/-! ### A reservation's branches (R52) -/

theorem reserve_zero (x : Store) (h : Holder) : x.reserve h 0 =
    (.granted x.nextId, { x with grants := x.grants ++ [⟨x.nextId, h, []⟩], nextId := x.nextId + 1 }) := rfl

theorem reserve_cap {x : Store} {h : Holder} {size : Nat} (hs : size ≠ 0)
    (hcap : h.cap < x.held h + (size + 59) / 60) :
    x.reserve h size = (.refusedCap, { x with refusals := x.refusals.bump h }) := by
  have hn : (size + 59) / 60 ≠ 0 := by omega
  simp [reserve, hn, hcap]

theorem reserve_pool {x : Store} {h : Holder} {size : Nat} (hcap : x.held h + (size + 59) / 60 ≤ h.cap)
    (hpool : (x.freePages h.pool).length < (size + 59) / 60) :
    x.reserve h size = (.refusedPool, { x with refusals := x.refusals.bump h }) := by
  have hn : (size + 59) / 60 ≠ 0 := by omega
  simp [reserve, hn, Nat.not_lt.2 hcap, hpool]

theorem reserve_grants {x : Store} {h : Holder} {size : Nat} (hs : size ≠ 0)
    (hcap : x.held h + (size + 59) / 60 ≤ h.cap) (hpool : (size + 59) / 60 ≤ (x.freePages h.pool).length) :
    x.reserve h size = (.granted x.nextId, { x with
      cells := ((x.freePages h.pool).take ((size + 59) / 60)).foldl clearPage x.cells,
      grants := x.grants ++ [⟨x.nextId, h, (x.freePages h.pool).take ((size + 59) / 60)⟩],
      nextId := x.nextId + 1 }) := by
  have hn : (size + 59) / 60 ≠ 0 := by omega
  simp [reserve, hn, Nat.not_lt.2 hcap, Nat.not_lt.2 hpool]

/-- A grant whose pages are all cleared reads 63 everywhere. -/
theorem readSym_cleared {y : Store} {l : List Host.Cell} {id : Nat} {g : Grant} (hg : y.grant? id = some g)
    (hcells : y.cells = g.pages.foldl clearPage l) (i : Nat) : y.readSym id i = 63 := by
  cases ha : g.addr i with
  | none => exact readSym_beyond hg ha
  | some a =>
    rw [readSym_eq hg ha, hcells, getCell_clearPages, if_pos (addr_page ha)]
    rfl

/-! ### Releases and hand-overs (R54, R55) -/

theorem release_grant?_same (x : Store) (id : Nat) : (x.release id).grant? id = none := by
  simp [release, grant?]

theorem release_grant?_other (x : Store) {id id' : Nat} (h : id' ≠ id) : (x.release id).grant? id' = x.grant? id' := by
  unfold release grant?
  rw [List.find?_filter]
  congr 1
  funext g
  by_cases hg : g.id = id' <;> simp [hg, h]

/-- A page that no other grant holds is free once its grant is released. -/
theorem release_frees {x : Store} {id p : Nat} (h : ∀ g ∈ x.grants, g.id ≠ id → p ∉ g.pages) :
    p ∉ (x.release id).used := by
  intro hp
  obtain ⟨g, hg, hpg⟩ := List.mem_flatMap.1 hp
  obtain ⟨hmem, hid⟩ := List.mem_filter.1 hg
  exact h g hmem (by simpa using hid) hpg

/-- The store with a grant's holder changed to OUTBOUND: no page moves. -/
def toOutbound (x : Store) (id : Nat) : Store :=
  { x with grants := mapIf (fun g => g.id == id) (fun g => { g with holder := .outbound }) x.grants }

theorem toOutbound_grant? {x : Store} {id : Nat} {g : Grant} (h : x.grant? id = some g) :
    (x.toOutbound id).grant? id = some { g with holder := .outbound } := by
  have hfind := Device.find_mapIf_same (fun k : Grant => k.id == id) (fun k => { k with holder := .outbound }) x.grants
    (fun _ hk => hk)
  exact hfind.trans (congrArg _ h)

theorem toOutbound_used (x : Store) (id : Nat) : (x.toOutbound id).used = x.used := by
  have hpages : ∀ g : Grant, (if g.id == id then { g with holder := Holder.outbound } else g).pages = g.pages :=
    fun g => by split <;> rfl
  simp only [used, toOutbound, mapIf, List.flatMap_map, hpages]

theorem handOver_inbound {x : Store} {id : Nat} {g : Grant} (hg : x.grant? id = some g) (hin : g.holder = .inbound) :
    x.handOver id .inbound = (true, x) := by
  simp [handOver, hg, hin]

theorem handOver_outbound {x : Store} {id : Nat} {g : Grant} (hg : x.grant? id = some g) (hin : g.holder = .inbound)
    (hcap : x.held .outbound + g.pages.length ≤ 128) : x.handOver id .outbound = (true, x.toOutbound id) := by
  simp [handOver, hg, hin, Holder.cap, hcap, toOutbound]

/-- A hand-over from another holder than INBOUND, to one other than INBOUND and OUTBOUND, or to OUTBOUND above its cap
changes that holder's refusal count alone (R56). -/
theorem handOver_refused {x : Store} {id : Nat} {g : Grant} {taker : Holder} (hg : x.grant? id = some g)
    (h : g.holder ≠ .inbound ∨ taker ≠ .inbound ∧
      (taker = .outbound → 128 < x.held .outbound + g.pages.length)) :
    x.handOver id taker = (false, { x with refusals := x.refusals.bump taker }) := by
  unfold handOver
  rw [hg]
  dsimp only
  rw [if_neg (by tauto), if_neg]
  rintro ⟨hin, hout, hcap⟩
  obtain hnot | ⟨-, habove⟩ := h
  · exact hnot hin
  · exact absurd hcap (Nat.not_le.2 (habove hout))

end Store

open Store

/-- Settles O30. -/
theorem reservation : Obligations.Reservation := by
  intro x h size hfresh
  refine ⟨fun hroom => ?_, reserve_cap, fun _ => reserve_pool⟩
  obtain rfl | hs := Nat.eq_zero_or_pos size
  · obtain ⟨-, hheld⟩ := entered_last (x := x) (y := (x.reserve h 0).2) (g := ⟨x.nextId, h, []⟩) rfl hfresh
    exact ⟨_, reserve_zero x h, by simp, hheld, rfl, fun i hi => absurd hi (Nat.not_lt_zero i)⟩
  · obtain ⟨hcap, hpool⟩ := hroom.resolve_left hs.ne'
    have hgrant := reserve_grants hs.ne' hcap hpool
    obtain ⟨hfound, hheld⟩ := entered_last (x := x) (y := (x.reserve h size).2)
      (g := ⟨x.nextId, h, (x.freePages h.pool).take ((size + 59) / 60)⟩) (by rw [hgrant]) hfresh
    rw [hgrant] at hfound hheld
    refine ⟨_, hgrant, rfl, ?_, rfl, fun i _ => readSym_cleared hfound rfl i⟩
    rwa [List.length_take_of_le hpool] at hheld

/-- Settles O31. -/
theorem readAfterWrite : Obligations.ReadAfterWrite := by
  intro x id i v g hwf hg hn hv
  obtain ⟨hlt, p, hp, -, ha⟩ | ⟨hle, ha⟩ := addr_cases g i
  · rw [writeSym_eq v hg ha]
    refine ⟨fun _ => ?_, fun j hj => ?_, fun id' g' hg' hdisj j => ?_, fun hle => absurd hlt (Nat.not_lt.2 hle)⟩
    · exact readSym_putCell_same hwf hv hg ha
    · exact readSym_putCell_other hwf _ hg fun h => hj (addr_inj hn h ha)
    · exact readSym_putCell_other hwf _ hg' fun h => hdisj _ (addr_page h) (addr_page ha)
  · rw [writeSym_beyond v hg ha]
    exact ⟨fun hlt => absurd hlt (Nat.not_lt.2 hle), fun _ _ => rfl, fun _ _ _ _ _ => rfl,
      fun _ => ⟨rfl, readSym_beyond hg ha⟩⟩

/-- Settles O32. -/
theorem releaseAndHandOver : Obligations.ReleaseAndHandOver := by
  intro x id g hg
  refine ⟨release_grant?_same x id, release_cells x id, fun _ h => release_grant?_other x h,
    fun _ _ h => release_frees h, handOver_inbound hg,
    fun hin hcap => ⟨_, handOver_outbound hg hin hcap, toOutbound_grant? hg, rfl, toOutbound_used x id⟩,
    fun _ habove => handOver_refused hg (.inr ⟨nofun, fun _ => habove⟩), fun taker h => handOver_refused hg ?_⟩
  exact h.imp_right fun ⟨hin, hout⟩ => ⟨hin, fun h => absurd h hout⟩

end Sys2Proof.Machine
end

section
/-! PROOF. The READ commands and the contents of their answers (O57). -/

namespace Sys2Proof.Machine

/-! ### Rows (R189, R195) -/

/-- A frame that an UNCONFIGURED part refuses. -/
theorem exec_notSet {i : Instr} {s : State} {tag : Nat} (J : Device → Disposition × Device)
    (hx : exec i s = s.frame tag false false J) (h : s.dev.resetLow = false) (hr : s.dev.ready = false) :
    exec i s = .next { s with dev := (s.dev.completeExchange.leaveSetup.echo tag .notSet).settle } := by
  rw [hx, State.frame_notSet s tag J h hr]

/-- A frame that an UNCONFIGURED part judges too, from its judging. -/
theorem exec_of_earlyFrame {i : Instr} {s : State} {tag : Nat} (J : Device → Disposition × Device)
    (hx : exec i s = s.frame tag false true J) (h : s.dev.resetLow = false) {X : Device} {r : Disposition}
    (hJ : J s.dev.completeExchange.leaveSetup = (r, X)) : exec i s = .next { s with dev := (X.echo tag r).settle } := by
  rw [hx, State.frame_early s tag J h, hJ]

namespace Device

theorem answer_queued {d : Device} (h : d.console.general.entries.length < 24) (tag selector : Nat)
    (data : List Datum) : d.answer tag selector data = (.taken, { d with console := { d.console with
      general := { d.console.general with
        entries := d.console.general.entries ++ [⟨.answer selector, tag, .report data, 0⟩] } } }) := by
  unfold answer
  rw [if_pos ((laneRoom_iff d .general).2 h), queueEntry_general _ h]

theorem answer_full {d : Device} (h : 24 ≤ d.console.general.entries.length) (tag selector : Nat)
    (data : List Datum) : d.answer tag selector data = (.queueFull, d) :=
  if_neg fun hroom => Nat.not_lt.2 h ((laneRoom_iff d .general).1 hroom)

/-- A READ answered on a READY part with room in the general lane (R195). -/
theorem exec_answered {i : Instr} {s : State} {tag : Nat} {isSetup early : Bool} (selector : Nat)
    (data : Device → List Datum)
    (hx : exec i s = s.frame tag isSetup early fun d => d.answer tag selector (data d)) (hl : s.dev.live = true)
    (hroom : s.dev.completeExchange.console.general.entries.length < 24) :
    exec i s = .next { s with dev := settle (echo { s.dev.completeExchange with
      console := { s.dev.completeExchange.console with general := { s.dev.completeExchange.console.general with
        entries := s.dev.completeExchange.console.general.entries
          ++ [⟨.answer selector, tag, .report (data s.dev.completeExchange), 0⟩] } } } tag .taken) } :=
  exec_of_frame _ hx hl (answer_queued hroom tag selector _)

/-- A READ refused on a READY part with a full general lane (R195). -/
theorem exec_unanswered {i : Instr} {s : State} {tag : Nat} {isSetup early : Bool} (selector : Nat)
    (data : Device → List Datum)
    (hx : exec i s = s.frame tag isSetup early fun d => d.answer tag selector (data d)) (hl : s.dev.live = true)
    (hfull : 24 ≤ s.dev.completeExchange.console.general.entries.length) :
    exec i s = .next { s with dev := (s.dev.completeExchange.echo tag .queueFull).settle } :=
  exec_of_frame _ hx hl (answer_full hfull tag selector _)

/-- The judging of READ FORECAST: the area has to be one of the configured ones. -/
def judgeForecast (tag area : Nat) (d : Device) : Disposition × Device :=
  if d.config.areas.contains area then d.answer tag 4 (d.forecastAnswer area) else (.badParam, d)

/-- The judging of READ HAUL: all hauls for number 0, else the haul that holds the number. -/
def judgeHaul (tag number : Nat) (d : Device) : Disposition × Device :=
  if number = 0 then d.answer tag 8 d.haulsData
  else match d.haulAt? number with
    | none => (.badParam, d)
    | some i => d.answer tag 8 (Device.haulRow (d.haul i))

theorem exec_readForecast (tag area : Nat) (s : State) :
    exec (.readForecast tag area) s = s.frame tag false false (judgeForecast tag area) := rfl

theorem exec_readHaul (tag number : Nat) (s : State) :
    exec (.readHaul tag number) s = s.frame tag false false (judgeHaul tag number) := rfl

theorem judgeForecast_kept {d : Device} {area : Nat} (h : area ∈ d.config.areas) (tag : Nat) :
    d.judgeForecast tag area = d.answer tag 4 (d.forecastAnswer area) :=
  if_pos (List.contains_iff_mem.2 h)

theorem judgeForecast_other {d : Device} {area : Nat} (h : area ∉ d.config.areas) (tag : Nat) :
    d.judgeForecast tag area = (.badParam, d) :=
  if_neg fun hc => h (List.contains_iff_mem.1 hc)

/-- A haul number that a record holds is not 0 (R149). -/
theorem haulAt?_ne_zero {d : Device} {number i : Nat} (h : d.haulAt? number = some i) : number ≠ 0 := by
  rintro rfl
  simp [haulAt?] at h

theorem judgeHaul_held {d : Device} {number i : Nat} (h : d.haulAt? number = some i) (tag : Nat) :
    d.judgeHaul tag number = d.answer tag 8 (Device.haulRow (d.haul i)) := by
  unfold judgeHaul
  rw [if_neg (haulAt?_ne_zero h), h]

theorem judgeHaul_other {d : Device} {number : Nat} (h0 : number ≠ 0) (h : d.haulAt? number = none) (tag : Nat) :
    d.judgeHaul tag number = (.badParam, d) := by
  unfold judgeHaul
  rw [if_neg h0, h]

/-! ### Fields (R207) -/

theorem optNum_num (w : Nat) (x : Option Nat) :
    optNum w x = .num w (match x with | none => 256 ^ w - 1 | some v => v) := by
  cases x <;> rfl

theorem positionData_nums (x : Option (Int × Int)) : positionData x = match x with
    | none => [.num 3 8388608, .num 3 8388608]
    | some p => [.num 3 (p.1 % 16777216).toNat, .num 3 (p.2 % 16777216).toNat] := by
  cases x <;> rfl

theorem hourMinuteData_nums (x : Option (Nat × Nat)) : hourMinuteData x = match x with
    | none => [.num 1 255, .num 1 255]
    | some t => [.num 1 t.1, .num 1 t.2] := by
  cases x <;> rfl

theorem utcData_num (x : Option Int) :
    utcData x = .num 4 (match x with | none => 4294967295 | some v => (v % 4294967296).toNat) := by
  cases x <;> rfl

theorem secondsTo_num (now : Time) (x : Option Time) :
    secondsTo now x = .num 2 (match x with | none => 65535 | some t => min ((t - now) / 1000) 65535) := by
  cases x <;> rfl

/-- The channel's clear time goes up in four bytes, all 255 while the channel is not CLEAR (R19). -/
theorem statusRadio_nums (d : Device) : d.statusRadio =
    [count16 d.rxCounts.taken, count16 d.rxCounts.headerDiscards, count16 d.rxCounts.damaged,
      count16 d.rxCounts.abandoned, .num 1 d.access.chan.code,
      .num 4 (match d.access.clearSince with | none => 4294967295 | some t => t % 4294967296),
      flagData d.access.blocked, count16 d.keyTime, count16 d.access.counts.keyings, count16 d.access.counts.aborts,
      count16 d.access.counts.preemptions, count16 d.access.counts.acksDropped,
      count16 d.access.counts.blindSends] := by
  unfold statusRadio
  dsimp only
  cases d.access.clearSince <;> rfl

/-- The COMPLETE record of the FORECAST answer after the byte that counts it (R147, entry 69). -/
theorem forecastRow_counted (d : Device) (f : Forecast) : .num 1 1 :: d.forecastRow f =
    let parts : List PartInfo := f.parts.map fun y => y.getD ⟨0, 0, true, 0⟩
    [.num 1 1, .num 3 f.issuer, .num 2 f.issue, count16 f.cnt] ++ tableData (parts.map fun y => [count16 y.score])
      ++ [flagData f.marred]
      ++ (match f.issued with
        | some t => [utcData (some t)]
        | none => [.num 1 f.day, .num 1 f.hour, .num 1 f.minute])
      ++ [.num 4 (match f.validUntil with | none => 4294967295 | some v => (v % 4294967296).toNat)]
      ++ (List.range parts.length).map fun i =>
        .text (d.store.readSyms f.grant (102 * i) (parts.getD i ⟨0, 0, true, 0⟩).len) := by
  unfold forecastRow issueTimeData
  simp only [utcData_num f.validUntil, List.append_assoc, List.cons_append, List.nil_append] <;> rfl

/-- A table of one record. -/
theorem tableData_some {α : Type} (x : α) (row : α → List Datum) :
    tableData ((some x).toList.map row) = .num 1 1 :: row x := by
  simp [tableData]

end Device
open Device

/-- Settles O57: each row by its judging, each answer by what its fields carry. -/
theorem reads : Obligations.Reads := by
  refine ⟨⟨?live, ?unconfigured⟩, ?data, ?codes⟩
  case live =>
    intro tag area number s hl c answered
    refine ⟨fun hroom => ?_, fun hfull => ?_, fun harea => ?_, fun h0 hnone => ?_⟩
    · exact ⟨exec_answered 1 statusData rfl hl hroom,
        exec_answered 2 neighboursData rfl hl hroom,
        exec_answered 3 casesData rfl hl hroom,
        fun harea => exec_of_frame _ (exec_readForecast tag area s) hl
          ((judgeForecast_kept harea tag).trans (answer_queued hroom tag 4 _)),
        exec_answered 5 warningsData rfl hl hroom,
        exec_answered 6 tallyData rfl hl hroom,
        exec_answered 7 quotasData rfl hl hroom,
        exec_answered 8 haulsData rfl hl hroom,
        fun i hi => exec_of_frame _ (exec_readHaul tag number s) hl
          ((judgeHaul_held hi tag).trans (answer_queued hroom tag 8 _)),
        exec_answered 9 transfersData rfl hl hroom⟩
    · refine ⟨?_, fun harea => ?_, fun hheld => ?_⟩
      · simp only [List.forall_mem_cons, List.not_mem_nil, false_imp_iff, implies_true, and_true]
        exact ⟨exec_unanswered 1 statusData rfl hl hfull,
          exec_unanswered 2 neighboursData rfl hl hfull,
          exec_unanswered 3 casesData rfl hl hfull,
          exec_unanswered 5 warningsData rfl hl hfull,
          exec_unanswered 6 tallyData rfl hl hfull,
          exec_unanswered 7 quotasData rfl hl hfull,
          exec_unanswered 8 haulsData rfl hl hfull,
          exec_unanswered 9 transfersData rfl hl hfull⟩
      · exact exec_of_frame _ (exec_readForecast tag area s) hl
          ((judgeForecast_kept harea tag).trans (answer_full hfull tag 4 _))
      · obtain ⟨i, hi⟩ := Option.ne_none_iff_exists'.1 hheld
        exact exec_of_frame _ (exec_readHaul tag number s) hl
          ((judgeHaul_held hi tag).trans (answer_full hfull tag 8 _))
    · exact exec_of_frame _ (exec_readForecast tag area s) hl (judgeForecast_other harea tag)
    · exact exec_of_frame _ (exec_readHaul tag number s) hl (judgeHaul_other h0 hnone tag)
  case unconfigured =>
    intro tag area number s hlow hready c
    refine ⟨fun hroom => ?_, fun hfull => ?_, ?_⟩
    · exact exec_of_earlyFrame (fun d => d.answer tag 1 d.statusData) rfl hlow (answer_queued hroom tag 1 _)
    · exact exec_of_earlyFrame (fun d => d.answer tag 1 d.statusData) rfl hlow (answer_full hfull tag 1 _)
    · simp only [List.forall_mem_cons, List.not_mem_nil, false_imp_iff, implies_true, and_true]
      exact ⟨exec_notSet (fun d => d.answer tag 2 d.neighboursData) rfl hlow hready,
        exec_notSet (fun d => d.answer tag 3 d.casesData) rfl hlow hready,
        exec_notSet _ (exec_readForecast tag area s) hlow hready,
        exec_notSet (fun d => d.answer tag 5 d.warningsData) rfl hlow hready,
        exec_notSet (fun d => d.answer tag 6 d.tallyData) rfl hlow hready,
        exec_notSet (fun d => d.answer tag 7 d.quotasData) rfl hlow hready,
        exec_notSet _ (exec_readHaul tag number s) hlow hready,
        exec_notSet (fun d => d.answer tag 9 d.transfersData) rfl hlow hready⟩
  case data =>
    intro d n16 flag opt pos clock utc table since species amount k r a ms n x u w l p
    refine ⟨?status, ⟨_, sortBy_perm _ _, sortBy_sorted _ _, ?neighbours⟩,
      ⟨_, sortBy_perm _ _, sortBy_sorted _ _, ?cases⟩, fun area => ?forecast,
      ⟨_, sortBy_perm _ _, sortBy_sorted _ _, ?warnings⟩, ?tally, ?quotas, rfl, fun h => ?haul, ?transfers⟩
    case status =>
      unfold statusData statusConsole statusProtection statusStore statusNeighbours statusTransfers
        statusDistress statusWeather statusLog statusReports
      simp only [statusRadio_nums, optNum_num, positionData_nums, hourMinuteData_nums, utcData_num, secondsTo_num,
        List.append_assoc, List.cons_append, List.nil_append, List.map_cons, List.map_nil]
      rfl
    case neighbours =>
      unfold neighboursData neighbourRow
      simp only [optNum_num, positionData_nums, secondsTo_num]
      rfl
    case cases =>
      unfold casesData caseRow
      simp only [optNum_num, positionData_nums, hourMinuteData_nums]
      rfl
    case forecast =>
      refine congrArg₂ (· ++ ·) ?complete ?collecting
      case complete =>
        cases d.forecast? area true with
        | none => rfl
        | some f => exact (tableData_some f d.forecastRow).trans (d.forecastRow_counted f)
      case collecting =>
        cases d.forecast? area false with
        | none => rfl
        | some f => exact tableData_some f _
    case warnings =>
      unfold warningsData warningRow
      simp only [utcData_num]
      rfl
    case tally => rfl
    case quotas => rfl
    case haul =>
      unfold haulRow
      simp only [optNum_num, positionData_nums, utcData_num]
      rfl
    case transfers =>
      unfold transfersData slotRow
      rw [slotsWhere, slotOrder_eq]
      simp only [optNum_num]
      rfl
  case codes =>
    decide

end Sys2Proof.Machine
end

section
/-! PROOF. The route answer of the Neighbour Table (O34). -/

namespace Sys2Proof.Machine
namespace Device

/-! ### The entries a route may name (R67, R68) -/

theorem mem_of_neighbour? {d : Device} {st : Station} {n : Neigh} (h : d.neighbour? st = some n) :
    n ∈ d.neigh.entries := List.mem_of_find?_eq_some h

theorem station_of_neighbour? {d : Device} {st : Station} {n : Neigh} (h : d.neighbour? st = some n) :
    n.station = st := by
  simpa using List.find?_some h

theorem usable_iff (d : Device) (n : Neigh) : d.usable n = true ↔ n.fresh = true ∧ d.avoided n = false := by
  simp [usable]

/-- The configured port's entry as a route may name it (R68). -/
def portEntry (d : Device) (n : Neigh) : Prop :=
  d.neighbour? d.config.port = some n ∧ n.fresh = true ∧ d.avoided n = false

/-- A candidate with its score (R68). -/
def candidate (d : Device) (n : Neigh) (score : Nat) : Prop :=
  n ∈ d.neigh.entries ∧ n.fresh = true ∧ d.avoided n = false ∧ n.kind = .vessel ∧
    ∃ f p, n.facts = some f ∧ f.willing = true ∧ f.port = some (d.config.port, p) ∧ score = min n.q p

theorem candidateScore_iff {d : Device} {n : Neigh} {score : Nat} :
    n ∈ d.neigh.entries ∧ d.candidateScore n = some score ↔ d.candidate n score := by
  refine and_congr_right fun _ => ?_
  unfold candidateScore
  cases hf : n.facts with
  | none => simp
  | some f =>
    cases hp : f.port with
    | none => simp [hp]
    | some r =>
      obtain ⟨id, p⟩ := r
      simp only [hp, Option.ite_none_right_eq_some, Option.some.injEq, usable_iff]
      constructor
      · rintro ⟨⟨⟨hfresh, hmark⟩, hkind, hwilling, hid⟩, hsc⟩
        exact ⟨hfresh, hmark, hkind, f, p, rfl, hwilling, hp.trans (by rw [hid]), hsc.symm⟩
      · rintro ⟨hfresh, hmark, hkind, g, p', rfl, hwilling, hport, rfl⟩
        cases hp.symm.trans hport
        exact ⟨⟨⟨hfresh, hmark⟩, hkind, hwilling, rfl⟩, rfl⟩

/-! ### The best candidate (R68) -/

/-- The candidates' stations and scores, the lower station first. -/
def scored (d : Device) : List (Station × Nat) :=
  (sortBy (fun n => n.station) d.neigh.entries).filterMap fun n => (d.candidateScore n).map fun s => (n.station, s)

theorem mem_scored {d : Device} {c : Station × Nat} :
    c ∈ d.scored ↔ ∃ n, d.candidate n c.2 ∧ n.station = c.1 := by
  simp only [scored, List.mem_filterMap, (sortBy_perm _ _).mem_iff, Option.map_eq_some_iff, ← candidateScore_iff]
  constructor
  · rintro ⟨n, hn, sc, hsc, rfl⟩
    exact ⟨n, ⟨hn, hsc⟩, rfl⟩
  · rintro ⟨n, ⟨hn, hsc⟩, hst⟩
    exact ⟨n, hn, c.2, hsc, Prod.ext hst rfl⟩

theorem scored_rising (d : Device) : d.scored.Pairwise fun a b => a.1 ≤ b.1 := by
  refine List.Pairwise.filterMap _ (fun a a' h b hb b' hb' => ?_) (sortBy_sorted (fun n : Neigh => n.station) _)
  obtain ⟨_, -, rfl⟩ := Option.map_eq_some_iff.1 hb
  obtain ⟨_, -, rfl⟩ := Option.map_eq_some_iff.1 hb'
  exact h

theorem bestCandidate_none {d : Device} : d.bestCandidate = none ↔ ∀ n sc, ¬ d.candidate n sc := by
  have hspec := minBy_spec (fun c : Station × Nat => 255 - c.2) _ (fun _ => Nat.le_refl _) _ d.scored_rising
  refine hspec.2.trans ⟨fun h n sc hc => ?_, fun h => List.eq_nil_iff_forall_not_mem.2 fun c hc => ?_⟩
  · exact List.not_mem_nil (h ▸ mem_scored.2 ⟨n, hc, rfl⟩ : (n.station, sc) ∈ [])
  · obtain ⟨n, hn, -⟩ := mem_scored.1 hc
    exact h n _ hn

theorem bestCandidate_some {d : Device} {st : Station} {sc : Nat} (h : d.bestCandidate = some (st, sc)) :
    ∃ n, d.candidate n sc ∧ n.station = st ∧
      ((∀ x y, d.candidate x y → y ≤ 255) → ∀ x y, d.candidate x y → y < sc ∨ y = sc ∧ st ≤ x.station) := by
  have hspec := minBy_spec (fun c : Station × Nat => 255 - c.2) _ (fun _ => Nat.le_refl _) _ d.scored_rising
  obtain ⟨hmem, hleast⟩ := hspec.1 _ h
  obtain ⟨n, hn, hst⟩ := mem_scored.1 hmem
  refine ⟨n, hn, hst, fun hbound x y hxy => ?_⟩
  have hle : 255 - sc < 255 - y ∨ 255 - sc = 255 - y ∧ st ≤ x.station :=
    hleast (x.station, y) (mem_scored.2 ⟨x, hxy, rfl⟩)
  have hy := hbound x y hxy
  have hsc := hbound n sc hn
  exact hle.imp (fun _ => by omega) fun ⟨_, hst⟩ => ⟨by omega, hst⟩

/-! ### The answer (R68) -/

/-- The Q of the configured port's entry, when a route may name it. -/
def directQuality (d : Device) : Option Nat :=
  match d.neighbour? d.config.port with
  | none => none
  | some n => if d.usable n then some n.q else none

/-- The station of the best candidate, when its score reaches T_relay. -/
def relayStation (d : Device) : Option Station :=
  match d.bestCandidate with
  | none => none
  | some (st, s) => if d.config.tRelay ≤ s then some st else none

theorem route_split (d : Device) : d.route = match d.directQuality, d.relayStation with
    | some q, r => if d.config.tDirect ≤ q then some d.config.port else r.orElse fun _ => some d.config.port
    | none, r => r := rfl

theorem directQuality_some {d : Device} {q : Nat} :
    d.directQuality = some q ↔ ∃ n, d.portEntry n ∧ n.q = q := by
  unfold directQuality portEntry
  cases d.neighbour? d.config.port with
  | none => simp
  | some n => simp [usable_iff]

theorem directQuality_none {d : Device} : d.directQuality = none ↔ ∀ n, ¬ d.portEntry n := by
  simp [Option.eq_none_iff_forall_ne_some, directQuality_some]

theorem relayStation_some {d : Device} {st : Station} :
    d.relayStation = some st ↔ ∃ sc, d.bestCandidate = some (st, sc) ∧ d.config.tRelay ≤ sc := by
  unfold relayStation
  cases d.bestCandidate with
  | none => simp
  | some c =>
    obtain ⟨s, sc⟩ := c
    simp only [Option.ite_none_right_eq_some, Option.some.injEq, Prod.mk.injEq]
    exact ⟨fun ⟨hle, hs⟩ => ⟨sc, ⟨hs, rfl⟩, hle⟩, fun ⟨_, ⟨hs, hsc⟩, hle⟩ => ⟨hsc ▸ hle, hs⟩⟩

theorem relayStation_none {d : Device} (h : ∀ n sc, d.candidate n sc → sc < d.config.tRelay) :
    d.relayStation = none := by
  refine Option.eq_none_iff_forall_ne_some.2 fun st hst => ?_
  obtain ⟨sc, hbest, hle⟩ := relayStation_some.1 hst
  obtain ⟨n, hn, -⟩ := bestCandidate_some hbest
  exact Nat.not_lt.2 hle (h n sc hn)

/-- A route names the port's own entry or the best candidate. -/
theorem route_names {d : Device} {st : Station} (h : d.route = some st) :
    (st = d.config.port ∧ ∃ n, d.portEntry n) ∨ d.relayStation = some st := by
  rw [route_split] at h
  cases hq : d.directQuality with
  | none => exact .inr (by rwa [hq] at h)
  | some q =>
    obtain ⟨n, hn, -⟩ := directQuality_some.1 hq
    rw [hq] at h
    dsimp only at h
    split at h
    · exact .inl ⟨(Option.some.inj h).symm, n, hn⟩
    · cases hr : d.relayStation with
      | none => exact .inl ⟨by simpa [hr] using h.symm, n, hn⟩
      | some st' => exact .inr (by simpa [hr] using h)

theorem route_direct {d : Device} {n : Neigh} (hn : d.portEntry n) (hq : d.config.tDirect ≤ n.q) :
    d.route = some d.config.port := by
  rw [route_split, directQuality_some.2 ⟨n, hn, rfl⟩]
  exact if_pos hq

theorem route_relayed {d : Device} {st : Station} (hport : ∀ n, d.portEntry n → n.q < d.config.tDirect)
    (hr : d.relayStation = some st) : d.route = some st := by
  rw [route_split, hr]
  cases hq : d.directQuality with
  | none => rfl
  | some q =>
    obtain ⟨n, hn, rfl⟩ := directQuality_some.1 hq
    exact if_neg (Nat.not_le.2 (hport n hn))

theorem route_port {d : Device} {n : Neigh} (hn : d.portEntry n) (hr : d.relayStation = none) :
    d.route = some d.config.port := by
  rw [route_split, directQuality_some.2 ⟨n, hn, rfl⟩, hr]
  exact ite_self _

theorem route_none {d : Device} (hport : ∀ n, ¬ d.portEntry n) (hr : d.relayStation = none) : d.route = none := by
  rw [route_split, directQuality_none.2 hport, hr]

end Device
open Device

/-- Settles O34: a route names the port's entry or the best candidate. -/
theorem routeNamesUsableStation : Obligations.RouteNamesUsableStation := by
  refine ⟨fun d st h => ?_, ?_⟩
  · obtain ⟨rfl, n, hn, hfresh, hmark⟩ | hr := route_names h
    · exact ⟨n, mem_of_neighbour? hn, station_of_neighbour? hn, hfresh, hmark, .inl rfl⟩
    · obtain ⟨sc, hbest, hle⟩ := relayStation_some.1 hr
      obtain ⟨n, ⟨hmem, hfresh, hmark, hkind, f, p, hf, hwilling, hp, rfl⟩, hst, -⟩ := bestCandidate_some hbest
      exact ⟨n, hmem, hst, hfresh, hmark, .inr ⟨hkind, f, p, hf, hwilling, hp, hle⟩⟩
  intro d candidate port hbound
  refine ⟨fun n hn => route_direct hn, fun hport => ⟨?_, ?_⟩⟩
  · rintro ⟨n, sc, hn, hle⟩
    cases hbest : d.bestCandidate with
    | none => exact absurd hn (bestCandidate_none.1 hbest n sc)
    | some c =>
      obtain ⟨st, top⟩ := c
      obtain ⟨m, hm, rfl, hfirst⟩ := bestCandidate_some hbest
      have htop := hfirst hbound n sc hn
      exact ⟨m, top, hm, route_relayed hport (relayStation_some.2 ⟨top, hbest, by omega⟩), hfirst hbound⟩
  · intro hlow
    have hr := relayStation_none hlow
    exact ⟨fun n hn => route_port hn hr, fun hnone => route_none hnone hr⟩

end Sys2Proof.Machine
end

section
/-! PROOF. What a taken burst's header and a taken BEACON do to the Neighbour Table (O33). -/

namespace Sys2Proof.Machine

/-! ### The BEACON body (R6, R66) -/

/-- The port report of a BEACON body (R6). -/
def portSyms : Option (Nat × Nat) → List Nat
  | none => [0]
  | some (id, q) => 1 :: toSyms 3 id ++ toSyms 2 q

/-- Reads a port report; nothing may follow (R66). -/
def readPortReport : List Nat → Option (Option (Nat × Nat))
  | [0] => some none
  | [1, a, b, c, q1, q0] =>
    let id := fromSyms [a, b, c]
    let q := fromSyms [q1, q0]
    if 1 ≤ id ∧ id < allStations ∧ q ≤ 255 then some (some (id, q)) else none
  | _ => none

theorem beaconBody_tail (f : Facts) :
    (beaconBody f).tail = (if f.willing then 1 else 0) :: (positionSyms f.pos ++ portSyms f.port) := by
  obtain ⟨_, _, _ | _⟩ := f <;> rfl

theorem readBeaconBody_cons (kind willing : Nat) (r : List Nat) :
    readBeaconBody (kind :: willing :: r) = if 1 < kind ∨ 1 < willing then none else
      (readPosition r).bind fun p => (readPortReport p.2).map fun port => (kind, ⟨willing == 1, p.1, port⟩) := by
  by_cases hkw : 1 < kind ∨ 1 < willing
  · rw [if_pos hkw]
    exact if_pos hkw
  · rw [if_neg hkw]
    refine (if_neg hkw).trans ?_
    rcases readPosition r with _ | ⟨pos, rest⟩
    · rfl
    · dsimp only [Option.bind_some]
      split
      · rfl
      · rw [readPortReport.eq_2]
        split <;> rfl
      · rename_i habsent hreport
        rw [readPortReport.eq_3 _ habsent hreport]
        rfl

theorem readPortReport_iff {r : List Nat} (hr : ∀ s ∈ r, s < 64) {port : Option (Nat × Nat)} :
    readPortReport r = some port ↔
      r = portSyms port ∧ ∀ p, port = some p → 1 ≤ p.1 ∧ p.1 < 262143 ∧ p.2 ≤ 255 := by
  constructor
  · intro h
    unfold readPortReport at h
    split at h
    · cases h
      exact ⟨rfl, nofun⟩
    · rename_i a b c q1 q0
      dsimp only at h
      split at h
      · rename_i hrange
        cases h
        simp only [List.forall_mem_cons] at hr
        obtain ⟨-, ha, hb, hc, hq1, hq0, -⟩ := hr
        refine ⟨?_, fun p hp => by cases hp; exact hrange⟩
        rw [portSyms, toSyms_fromSyms3 a b c ha hb hc, toSyms_fromSyms2 q1 q0 hq1 hq0]
        rfl
      · cases h
    · cases h
  · rintro ⟨rfl, hrange⟩
    rcases port with _ | ⟨id, q⟩
    · rfl
    · obtain ⟨h1, h2, h3⟩ := hrange _ rfl
      have hid := fromSyms_toSyms3 id (by omega)
      have hq := fromSyms_toSyms2 q (by omega)
      show (if 1 ≤ fromSyms (toSyms 3 id) ∧ fromSyms (toSyms 3 id) < allStations ∧ fromSyms (toSyms 2 q) ≤ 255
        then some (some (fromSyms (toSyms 3 id), fromSyms (toSyms 2 q))) else none) = _
      rw [hid, hq, if_pos ⟨h1, h2, h3⟩]

/-- A body reads exactly when it is laid out as R6 gives a BEACON, with its fields in range (R66). -/
theorem readBeaconBody_iff {body : List Nat} (hb : ∀ s ∈ body, s < 64) (kind : Nat) (f : Facts) :
    readBeaconBody body = some (kind, f) ↔ kind ≤ 1 ∧ body = kind :: (beaconBody f).tail ∧
      (∀ p, f.pos = some p → -540000 ≤ p.1 ∧ p.1 ≤ 540000 ∧ -1080000 ≤ p.2 ∧ p.2 < 1080000) ∧
      ∀ p, f.port = some p → 1 ≤ p.1 ∧ p.1 < 262143 ∧ p.2 ≤ 255 := by
  rw [beaconBody_tail]
  constructor
  · intro h
    obtain ⟨k, w, r, rfl⟩ : ∃ k w r, body = k :: w :: r := by
      rcases body with _ | ⟨k, _ | ⟨w, r⟩⟩
      · cases h
      · cases h
      · exact ⟨k, w, r, rfl⟩
    rw [readBeaconBody_cons, Option.ite_none_left_eq_some] at h
    obtain ⟨hkw, h⟩ := h
    obtain ⟨⟨pos, rest⟩, hpos, h⟩ := Option.bind_eq_some_iff.1 h
    obtain ⟨port, hport, h⟩ := Option.map_eq_some_iff.1 h
    cases h
    have hr : ∀ s ∈ r, s < 64 := fun s hs => hb s (by simp [hs])
    obtain ⟨rfl, hposRange⟩ := (readPosition_iff r hr _ _).1 hpos
    obtain ⟨rfl, hportRange⟩ := (readPortReport_iff fun s hs => hr s (by simp [hs])).1 hport
    obtain rfl | rfl : w = 0 ∨ w = 1 := by omega
    · exact ⟨by omega, rfl, hposRange, hportRange⟩
    · exact ⟨by omega, rfl, hposRange, hportRange⟩
  · obtain ⟨willing, pos, port⟩ := f
    rintro ⟨hk, rfl, hpos, hport⟩
    have hr : ∀ s ∈ positionSyms pos ++ portSyms port, s < 64 := fun s hs => hb s (by simp at hs ⊢; tauto)
    have hw : ¬(1 < kind ∨ 1 < if willing = true then 1 else 0) := by cases willing <;> simp <;> omega
    rw [readBeaconBody_cons, if_neg hw, (readPosition_iff _ hr pos (portSyms port)).2 ⟨rfl, hpos⟩, Option.bind_some,
      (readPortReport_iff fun s hs => hr s (by simp [hs])).2 ⟨rfl, hport⟩]
    cases willing <;> rfl

namespace Device

/-! ### Entries changed, added and taken out (R60) -/

theorem onNeighbour_eq (d : Device) (st : Station) (f : Neigh → Neigh) :
    d.onNeighbour st f = { d with neigh := { d.neigh with
      entries := d.neigh.entries.map fun x => if x.station = st then f x else x } } := by
  simp only [onNeighbour, onNeigh, mapIf_station]

theorem removeNeighbour_eq (d : Device) (st : Station) :
    d.removeNeighbour st = { d with neigh := { d.neigh with
      entries := d.neigh.entries.filter fun x => decide (x.station ≠ st) } } :=
  congrArg (fun l => { d with neigh := { d.neigh with entries := l } })
    (List.filter_congr fun x _ => by rw [Bool.eq_iff_iff]; simp)

theorem neighbour?_onNeighbour (d : Device) (st st' : Station) {f : Neigh → Neigh}
    (hf : ∀ x, (f x).station = x.station) :
    (d.onNeighbour st f).neighbour? st' = if st' = st then (d.neighbour? st).map f else d.neighbour? st' := by
  split
  · rename_i h
    subst h
    exact find_mapIf_same _ f _ fun x hx => by rwa [hf]
  · rename_i h
    refine find_mapIf_other _ _ f _ (fun x _ => by rw [hf]) fun x hx => ?_
    rw [eq_of_beq hx]
    exact beq_false_of_ne (Ne.symm h)

theorem configuredKind_eq (d : Device) (st : Station) : d.configuredKind st =
    if st = d.config.port then .port else if st ∈ d.config.sources then .source else .unknown := by
  simp [configuredKind]

/-! ### Header facts (R61, R62, R69) -/

/-- The table with a new FRESH entry (R61). -/
def entered (d : Device) (st score : Nat) (t : Time) : Device :=
  { d with neigh := { d.neigh with entries := d.neigh.entries ++ [{
    station := st, kind := if st = d.config.port then .port else if st ∈ d.config.sources then .source else .unknown,
    q := score, lastHeard := t, heard := 1, facts := none, avoidUntil := none, fresh := true,
    removalWaits := false }] } }

theorem entered_eq (d : Device) (st score : Nat) (t : Time) :
    (d.onNeigh fun x => { x with entries := x.entries ++ [d.newNeighbour st score t] }) = d.entered st score t := by
  unfold newNeighbour
  rw [configuredKind_eq]
  rfl

theorem headerFacts_known {d : Device} {st : Station} {n : Neigh} (score : Nat) (t : Time)
    (h : d.neighbour? st = some n) : d.headerFacts st score t = (d.onNeighbour st fun x => { x with
      q := (3 * x.q + score + 2) / 4, lastHeard := t, heard := bump x.heard, fresh := true, removalWaits := false },
      if n.fresh = true then [] else [st]) := by
  unfold headerFacts
  rw [h]
  rfl

theorem headerFacts_room {d : Device} {st : Station} (score : Nat) (t : Time) (h : d.neighbour? st = none)
    (hroom : d.neigh.entries.length < 32) : d.headerFacts st score t = (d.entered st score t, [st]) := by
  unfold headerFacts
  rw [h]
  exact (if_pos hroom).trans (congrArg (·, [st]) (entered_eq d st score t))

theorem headerFacts_refused {d : Device} {st : Station} (score : Nat) (t : Time) (h : d.neighbour? st = none)
    (hfull : 32 ≤ d.neigh.entries.length) (hnone : d.entryToFree = none) :
    d.headerFacts st score t = ({ d with neigh := { d.neigh with
      counts := { d.neigh.counts with notEntered := bump d.neigh.counts.notEntered } } }, []) := by
  unfold headerFacts
  rw [h]
  exact (if_neg (Nat.not_lt.2 hfull)).trans (by rw [hnone]; rfl)

theorem headerFacts_replaces {d : Device} {st : Station} {n : Neigh} (score : Nat) (t : Time)
    (h : d.neighbour? st = none) (hfull : 32 ≤ d.neigh.entries.length) (hfree : d.entryToFree = some n) :
    d.headerFacts st score t =
      ((d.removeNeighbour n.station).entered st score t, if n.fresh then [n.station, st] else [st]) := by
  unfold headerFacts
  rw [h]
  refine (if_neg (Nat.not_lt.2 hfull)).trans ?_
  rw [hfree]
  dsimp only
  rw [entered_eq]

theorem neighbour?_entered {d : Device} {st st' : Station} (score : Nat) (t : Time) (h : st' ≠ st) :
    (d.entered st score t).neighbour? st' = d.neighbour? st' := by
  unfold neighbour? entered
  rw [List.find?_append, List.find?_cons_of_neg (by simpa using h.symm)]
  simp

theorem neighbour?_entered_self {d : Device} {st : Station} (score : Nat) (t : Time) (h : d.neighbour? st = none) :
    ∃ m, (d.entered st score t).neighbour? st = some m ∧ m.q = score ∧ m.lastHeard = t ∧ m.heard = 1 ∧
      m.fresh = true ∧ m.facts = none ∧ m.avoidUntil = none := by
  unfold neighbour? entered at *
  rw [List.find?_append, h, List.find?_cons_of_pos (by simp)]
  exact ⟨_, rfl, rfl, rfl, rfl, rfl, rfl, rfl⟩

/-- The entry that gives way is STALE when some unpinned entry is (R62). -/
theorem entryToFree_stale {d : Device}
    (h : ∃ x ∈ d.neigh.entries.filter fun n => !d.pinned n.station, x.fresh = false) :
    ∃ n ∈ d.neigh.entries.filter fun n => !d.pinned n.station, n.fresh = false ∧ d.entryToFree = some n ∧
      ∀ x ∈ d.neigh.entries.filter fun n => !d.pinned n.station, x.fresh = false →
        n.lastHeard < x.lastHeard ∨ n.lastHeard = x.lastHeard ∧ n.station ≤ x.station := by
  obtain ⟨hnone, hspec⟩ := entryToFree_spec d
  obtain ⟨x, hx, hstale⟩ := h
  cases hfree : d.entryToFree with
  | none => exact absurd (hnone.1 hfree) (List.ne_nil_of_mem hx)
  | some n =>
    obtain ⟨hn, holdest, hfresh⟩ := hspec n hfree
    have hns : n.fresh = false := by
      by_contra hc
      rw [(hfresh (by simpa using hc) x hx).1] at hstale
      cases hstale
    exact ⟨n, hn, hns, rfl, holdest hns⟩

/-- With none unpinned but FRESH entries, the one of the lowest Q gives way (R62). -/
theorem entryToFree_fresh {d : Device} (hne : (d.neigh.entries.filter fun n => !d.pinned n.station) ≠ [])
    (h : ∀ n ∈ d.neigh.entries.filter fun n => !d.pinned n.station, n.fresh = true) :
    ∃ n ∈ d.neigh.entries.filter fun n => !d.pinned n.station, n.fresh = true ∧ d.entryToFree = some n ∧
      ∀ x ∈ d.neigh.entries.filter fun n => !d.pinned n.station, n.q < x.q ∨ n.q = x.q ∧
        (n.lastHeard < x.lastHeard ∨ n.lastHeard = x.lastHeard ∧ n.station ≤ x.station) := by
  obtain ⟨hnone, hspec⟩ := entryToFree_spec d
  cases hfree : d.entryToFree with
  | none => exact absurd (hnone.1 hfree) hne
  | some n =>
    obtain ⟨hn, -, hfresh⟩ := hspec n hfree
    exact ⟨n, hn, h n hn, rfl, fun x hx => (hfresh (h n hn) x hx).2⟩

/-! ### BEACON facts (R66, R69) -/

theorem beaconFacts_rejected {d : Device} {b : Burst} {n : Neigh} (h : d.neighbour? b.source = some n)
    (hbad : b.pass = false ∨ readBeaconBody b.body = none) : d.beaconFacts b = ({ d with neigh := { d.neigh with
      counts := { d.neigh.counts with factsRejected := bump d.neigh.counts.factsRejected } } }, []) := by
  have hread : (if b.pass then readBeaconBody b.body else none) = none := by
    obtain hp | hr := hbad
    · rw [hp]; rfl
    · rw [hr, ite_self]
  unfold beaconFacts
  rw [h]
  dsimp only
  rw [hread]
  rfl

theorem beaconKind_eq (d : Device) (n : Neigh) (kind : Nat) : d.beaconKind n kind =
    if n.station = d.config.port then .port
    else if n.station ∈ d.config.sources then .source else if kind = 0 then .vessel else .port := by
  unfold beaconKind
  rw [configuredKind_eq]
  split_ifs <;> rfl

theorem beaconFacts_read {d : Device} {b : Burst} {n : Neigh} {kind : Nat} {f : Facts}
    (h : d.neighbour? b.source = some n) (hp : b.pass = true) (hr : readBeaconBody b.body = some (kind, f)) :
    d.beaconFacts b = ({ d with neigh := { d.neigh with entries := d.neigh.entries.map fun x =>
      if x.station = b.source then { x with
        facts := some f,
        kind := if b.source = d.config.port then .port
          else if b.source ∈ d.config.sources then .source else if kind = 0 then .vessel else .port }
      else x } }, if n.facts = some f then [] else [b.source]) := by
  have hread : (if b.pass then readBeaconBody b.body else none) = some (kind, f) := by rw [hp, hr]; rfl
  unfold beaconFacts
  rw [h]
  dsimp only
  rw [hread]
  dsimp only
  rw [onNeighbour_eq]
  refine congrArg (fun l => ({ d with neigh := { d.neigh with entries := l } }, _)) (List.map_congr_left fun x _ => ?_)
  split
  · rename_i hx
    rw [beaconKind_eq, hx]
  · rfl

end Device
open Device

/-- Settles O33: entry by entry for the header, field by field for the body. -/
theorem headerFacts : Obligations.HeaderFacts := by
  refine ⟨⟨fun d st score t => ⟨fun n h => ?_, fun h hroom => ?_, fun st' hne hroom => ?_⟩, ?full⟩,
    fun d st score t => ⟨fun n h => ?_, headerFacts_room score t⟩, fun d b => ⟨fun h => ?_, fun n h => ⟨?_, ?_⟩⟩,
    fun body kind f hb => readBeaconBody_iff hb kind f⟩
  · rw [headerFacts_known score t h, neighbour?_onNeighbour _ _ _ (by exact fun _ => rfl), if_pos rfl, h]
    exact ⟨_, rfl, rfl, rfl, rfl, rfl, rfl, rfl⟩
  · rw [headerFacts_room score t h hroom]
    exact neighbour?_entered_self score t h
  · cases h : d.neighbour? st with
    | none => rw [headerFacts_room score t h hroom, neighbour?_entered score t hne]
    | some n =>
      rw [headerFacts_known score t h, neighbour?_onNeighbour _ _ _ (by exact fun _ => rfl), if_neg hne]
  case full =>
    intro d st score t h hfull gone free
    have hgone : ∀ n : Neigh, (d.removeNeighbour n.station).entered st score t = gone n := fun n => by
      rw [removeNeighbour_eq]; rfl
    refine ⟨fun hstale => ?_, fun hne hfresh => ?_, fun hpinned => ?_⟩
    · obtain ⟨n, hn, hns, hfree, hfirst⟩ := entryToFree_stale hstale
      exact ⟨n, hn, hns, by rw [headerFacts_replaces score t h hfull hfree, hgone, hns]; rfl, hfirst⟩
    · obtain ⟨n, hn, hnf, hfree, hfirst⟩ := entryToFree_fresh hne hfresh
      exact ⟨n, hn, by rw [headerFacts_replaces score t h hfull hfree, hgone, hnf]; rfl, hfirst⟩
    · exact headerFacts_refused score t h hfull ((entryToFree_spec d).1.2 hpinned)
  · rw [headerFacts_known score t h, onNeighbour_eq]
  · unfold beaconFacts
    rw [h]
  · exact beaconFacts_rejected h
  · intro kind f hp hr
    exact beaconFacts_read h hp hr

end Sys2Proof.Machine
end

section
/-! PROOF. The timers of a neighbour entry, and the beacon (O35). -/

namespace Sys2Proof.Machine
namespace Device

/-! ### The timers of an entry (R64, R67, R69) -/

theorem routeEvents_one (d : Device) (st : Station) : d.routeEvents [st] = d.routeEvent st := by
  rw [routeEvents, List.foldl_cons, List.foldl_nil]

theorem staleTime_fresh {d : Device} {st : Station} {n : Neigh} (h : d.neighbour? st = some n) (hf : n.fresh = true) :
    d.staleTime st = Device.routeEvent { d with
      now := max d.now (n.lastHeard + d.config.stale * 60000),
      neigh := { d.neigh with
        entries := d.neigh.entries.map fun x => if x.station = st then { x with fresh := false } else x } } st := by
  have hreach : (d.reach (d.staleAt n)).neighbour? st = some n := h
  unfold staleTime
  rw [h]
  dsimp only
  rw [if_pos hf]
  unfold goStale
  rw [hreach]
  dsimp only
  rw [if_pos hf, onNeighbour_eq]
  exact routeEvents_one _ st

theorem removalTime_stale {d : Device} {st : Station} {n : Neigh} (h : d.neighbour? st = some n)
    (hf : n.fresh = false) (hw : n.removalWaits = false) :
    d.removalTime st = (d.reach (n.lastHeard + 21600000)).removeAtTime st := by
  unfold removalTime
  rw [h]
  exact if_neg (by simp [hf, hw])

theorem removeAtTime_unpinned {d : Device} {st : Station} (h : d.pinned st = false) :
    d.removeAtTime st = { d with neigh := { d.neigh with
      entries := d.neigh.entries.filter fun x => decide (x.station ≠ st) } } := by
  unfold removeAtTime
  rw [if_neg (by simp [h]), removeNeighbour_eq]

theorem removeAtTime_pinned {d : Device} {st : Station} (h : d.pinned st = true) :
    d.removeAtTime st = { d with neigh := { d.neigh with
      entries := d.neigh.entries.map fun x => if x.station = st then { x with removalWaits := true } else x } } := by
  unfold removeAtTime
  rw [if_pos h, onNeighbour_eq]

theorem avoidTime_marked {d : Device} {st : Station} {n : Neigh} {t : Time} (h : d.neighbour? st = some n)
    (ht : n.avoidUntil = some t) : d.avoidTime st = Device.routeEvent { d with
      now := max d.now t,
      neigh := { d.neigh with
        entries := d.neigh.entries.map fun x =>
          if x.station = st then { x with avoidUntil := none } else x } } st := by
  unfold avoidTime
  rw [h, Option.bind_some, ht]
  dsimp only [avoidPassed]
  rw [onNeighbour_eq]
  exact routeEvents_one _ st

/-! ### The beacon (R71, R72) -/

/-- The part at a beacon due time, with the next one drawn (R71). -/
def beaconDrawn (d : Device) (t : Time) : Device :=
  { d with
    now := max d.now t, draws := d.draws + 1,
    neigh := { d.neigh with
      beaconDue := some (t + d.config.beacon * 54000 + Config.draw d.draws % (12 * d.config.beacon + 1) * 1000) } }

/-- The BEACON item offered now. -/
def offerBeacon (d : Device) : Device :=
  d.offer (d.newItem .beacon allStations 0 (beaconBody d.ownFacts) .beacon)

theorem beaconTime_due {d : Device} {t : Time} (h : d.neigh.beaconDue = some t) :
    d.beaconTime = if d.holdInForce || d.inhibit then (d.beaconDrawn t).skipBeacon
      else (d.beaconDrawn t).dropBeacon.offerBeacon := by
  have hdraw : d.beaconDrawn t = (Device.draw (d.reach t) 0 (12 * d.config.beacon)).2.onNeigh fun x => { x with
      beaconDue := some (t + d.config.beacon * 54000 +
        (Device.draw (d.reach t) 0 (12 * d.config.beacon)).1 * 1000) } := by
    simp only [draw, Nat.zero_add, Nat.sub_zero]
    rfl
  unfold beaconTime
  rw [h, hdraw]
  rfl

theorem beaconDrawn_due (d : Device) (t : Time) : ∃ u, (d.beaconDrawn t).neigh.beaconDue = some u ∧
    t + d.config.beacon * 54000 ≤ u ∧ u ≤ t + d.config.beacon * 66000 := by
  have hk : Config.draw d.draws % (12 * d.config.beacon + 1) ≤ 12 * d.config.beacon :=
    Nat.lt_succ_iff.1 (Nat.mod_lt _ (Nat.succ_pos _))
  refine ⟨_, rfl, Nat.le_add_right _ _, ?_⟩
  rw [Nat.add_assoc]
  exact Nat.add_le_add_left (by omega) t

theorem dropBeacon_frame (d : Device) : d.dropBeacon.neigh.entries = d.neigh.entries ∧
    d.dropBeacon.neigh.beaconDue = d.neigh.beaconDue ∧ d.dropBeacon.store = d.store ∧ d.dropBeacon.log = d.log := by
  unfold dropBeacon
  split <;> exact ⟨rfl, rfl, rfl, rfl⟩

theorem offerBeacon_item (d : Device) : ∃ it ∈ d.offerBeacon.access.routine.waiting,
    it.kind = .beacon ∧ it.dest = 262143 ∧ it.ready = d.offerBeacon.now :=
  ⟨_, List.mem_append_right _ (List.mem_singleton_self _), rfl, rfl, rfl⟩

/-- The position of a beacon: that of a fix under 10 min old, with position sharing on (R72). -/
def beaconPosition (d : Device) : List Nat :=
  match d.console.fix with
  | none => [0]
  | some f => if d.config.position = true ∧ d.now - f.takenAt < 600000
      then 1 :: toSyms 4 (f.lat + 540000).toNat ++ toSyms 4 (f.lon + 1080000).toNat else [0]

/-- The port report of a beacon: the configured port's entry (R72). -/
def beaconPortReport (d : Device) : List Nat :=
  match d.neighbour? d.config.port with
  | none => [0]
  | some n => 1 :: toSyms 3 d.config.port ++ toSyms 2 n.q

theorem beaconBody_ownFacts (d : Device) : beaconBody d.ownFacts =
    [0, if d.config.message then 1 else 0] ++ d.beaconPosition ++ d.beaconPortReport := by
  have hpos : positionSyms d.ownFacts.pos = d.beaconPosition := by
    unfold ownFacts beaconPosition
    cases d.console.fix with
    | none => rfl
    | some f =>
      have hage : d.fixStale f = false ↔ d.now - f.takenAt < 600000 := by simp [fixStale]
      simp only [hage]
      split <;> rfl
  have hport : portSyms d.ownFacts.port = d.beaconPortReport := by
    unfold ownFacts beaconPortReport
    cases d.neighbour? d.config.port <;> rfl
  rw [← hpos, ← hport]
  rfl

theorem offerBeacon_eq (d : Device) : d.offerBeacon = { d with access := { d.access with
    routine := { d.access.routine with waiting := d.access.routine.waiting ++ [{
      kind := .beacon, dest := 262143, seq := 0, owner := .beacon, ready := d.now, cw := 0, ackEnd := 0,
      order := d.access.nextOffer, blindFrom := d.now, overdue := false,
      body := [0, if d.config.message then 1 else 0] ++ d.beaconPosition ++ d.beaconPortReport }] },
    nextOffer := d.access.nextOffer + 1 } } := by
  unfold offerBeacon
  rw [beaconBody_ownFacts]
  rfl

end Device
open Device

/-- Settles O35. -/
theorem neighbourEvents : Obligations.NeighbourEvents := by
  refine ⟨⟨fun st n s hlow h => ⟨fun hf => ?_, fun hf hw hp => ?_, fun hf hw hp => ?_, fun t ht => ?_⟩,
    fun t s hlow hdue => ?facts⟩, ?whole⟩
  · exact exec_of_event (Device.staleTime st) rfl hlow (staleTime_fresh h hf)
  · exact exec_of_event (Device.removalTime st) rfl hlow ((removalTime_stale h hf hw).trans (removeAtTime_unpinned hp))
  · exact exec_of_event (Device.removalTime st) rfl hlow ((removalTime_stale h hf hw).trans (removeAtTime_pinned hp))
  · exact exec_of_event (Device.avoidTime st) rfl hlow (avoidTime_marked h ht)
  case facts =>
    refine ⟨_, exec_of_event Device.beaconTime rfl hlow (beaconTime_due hdue), ?_⟩
    by_cases hbar : (s.dev.holdInForce || s.dev.inhibit) = true
    · rw [if_pos hbar]
      refine ⟨rfl, beaconDrawn_due s.dev t, fun _ => ⟨rfl, rfl⟩, fun hhold hinhibit => ?_, rfl, rfl, rfl⟩
      simp [hhold, hinhibit] at hbar
    · rw [if_neg hbar]
      obtain ⟨hentries, hnext, hstore, hlog⟩ := dropBeacon_frame (s.dev.beaconDrawn t)
      refine ⟨(dropBeacon_facts _).2.1, hnext ▸ beaconDrawn_due s.dev t, fun h => ?_,
        fun _ _ => offerBeacon_item _, hentries, hstore, hlog⟩
      simp only [Bool.or_eq_true] at hbar
      exact absurd h hbar
  case whole =>
    intro t s hlow hdue m i due skipped position portReport item offered
    have hdone {X : Device} (hX : s.dev.beaconTime = X) :=
      exec_of_event (i := .beaconDue) Device.beaconTime rfl hlow hX
    have hfree (hhold : s.dev.holdInForce = false) (hinhibit : s.dev.inhibit = false) :
        s.dev.beaconTime = due.dropBeacon.offerBeacon :=
      (beaconTime_due hdue).trans (if_neg (by simp [hhold, hinhibit]))
    refine ⟨fun hbar => ?_, fun hhold hinhibit hnone => ?_, fun hhold hinhibit hsome => ?_⟩
    · exact hdone ((beaconTime_due hdue).trans (if_pos (by simpa using hbar)))
    · exact hdone (by rw [hfree hhold hinhibit, dropBeacon_none (d := due) hnone, offerBeacon_eq]; rfl)
    · exact hdone (by rw [hfree hhold hinhibit, dropBeacon_some (d := due) hsome, offerBeacon_eq]; rfl)

end Sys2Proof.Machine
end

section
/-! PROOF. The expiry of a relay wait, and the relay item that its owner places (O36). -/

namespace Sys2Proof.Machine
namespace Device

/-! ### Case and record changed, and items offered -/

theorem onWarning_map (d : Device) (issuer issue : Nat) (f : Warning → Warning) :
    d.onWarning issuer issue f = { d with weather := { d.weather with
      warnings := d.weather.warnings.map fun x => if x.issuer = issuer ∧ x.issue = issue then f x else x } } := by
  simp [onWarning, onWeather, mapIf]

theorem offer_toDistress {d : Device} {it : Item} (h : it.kind.cls = .distress) :
    d.offer it = { d with access := { d.access with
      distress := { d.access.distress with
        waiting := d.access.distress.waiting ++ [{ it with order := d.access.nextOffer }] },
      nextOffer := d.access.nextOffer + 1 } } := by
  unfold offer
  rw [h]
  rfl

theorem offer_toPriority {d : Device} {it : Item} (h : it.kind.cls = .priority) :
    d.offer it = { d with access := { d.access with
      priority := { d.access.priority with
        waiting := d.access.priority.waiting ++ [{ it with order := d.access.nextOffer }] },
      nextOffer := d.access.nextOffer + 1 } } := by
  unfold offer
  rw [h]
  rfl

/-! ### The relay item of a case (R123) -/

/-- The DISTRESS body that a relay rebuilds from the case (R123). -/
def relayBody (st : Station) (c : Case) : List Nat :=
  toSyms 3 st ++ distressBody ⟨c.nature, c.pos, c.posTime, c.persons⟩

theorem offerRelay_none {d : Device} {st alert : Nat} (h : ∀ c, d.case? st = some c → c.alert ≠ alert) :
    d.offerRelay st alert = d := by
  unfold offerRelay
  cases hc : d.case? st with
  | none => rfl
  | some c => exact if_neg (h c hc)

theorem offerRelay_case {d : Device} {st alert : Nat} {c : Case} (h : d.case? st = some c) (ha : c.alert = alert) :
    d.offerRelay st alert = { d with
      distress := { d.distress with
        cases := d.distress.cases.map fun x => if x.station = st then { x with relay := .offered } else x },
      access := { d.access with
        distress := { d.access.distress with waiting := d.access.distress.waiting ++ [{
          kind := .distressRelay, dest := 262143, seq := alert, body := relayBody st c,
          owner := .caseRelay st alert, ready := d.now, cw := 0, ackEnd := 0, order := d.access.nextOffer,
          blindFrom := d.now, overdue := false }] },
        nextOffer := d.access.nextOffer + 1 } } := by
  unfold offerRelay
  rw [h]
  dsimp only
  rw [if_pos ha, onCase_map, offer_toDistress (by rfl)]
  rfl

/-! ### The relay item of a warning record (R145) -/

theorem offerWarning_none {d : Device} {issuer issue : Nat} (h : d.warning? issuer issue = none) :
    d.offerWarning issuer issue = d := by
  unfold offerWarning
  rw [h]

theorem offerWarning_record {d : Device} {issuer issue : Nat} {w : Warning} (h : d.warning? issuer issue = some w) :
    d.offerWarning issuer issue = { d with
      weather := { d.weather with warnings := d.weather.warnings.map fun x =>
        if x.issuer = issuer ∧ x.issue = issue then { x with relay := .offered } else x },
      access := { d.access with
        priority := { d.access.priority with waiting := d.access.priority.waiting ++ [{
          kind := .warning, dest := 262143, seq := 0, body := d.warningBody w, owner := .warning issuer issue,
          ready := d.now, cw := 0, ackEnd := 0, order := d.access.nextOffer, blindFrom := d.now,
          overdue := false }] },
        nextOffer := d.access.nextOffer + 1 } } := by
  unfold offerWarning
  rw [h]
  dsimp only
  rw [onWarning_map, offer_toPriority (by rfl)]
  rfl

/-! ### The expiry (R76) -/

/-- The part at a wait's expiry, the wait ended. -/
def waitEnded (d : Device) (k : WaitKind) (st num : Nat) (t : Time) : Device :=
  { d with
    now := max d.now t,
    waits := d.waits.filter fun x => !(x.kind == k && x.station == st && x.number == num) }

theorem waitEnded_gone (d : Device) (k : WaitKind) (st num : Nat) (t : Time) :
    (d.waitEnded k st num t).wait? k st num = none := wait_removeWait d k st num

theorem waitTime_distress {d : Device} {st num : Nat} {w : Wait} (h : d.wait? .distress st num = some w)
    (hw : w.held = false) :
    d.waitTime .distress st num = (d.waitEnded .distress st num w.expiry).offerRelay st num := by
  unfold waitTime
  rw [h]
  exact if_neg (by simp [hw])

theorem waitTime_warning {d : Device} {st num : Nat} {w : Wait} (h : d.wait? .warning st num = some w)
    (hw : w.held = false) (hhold : d.holdInForce = false) :
    d.waitTime .warning st num = (d.waitEnded .warning st num w.expiry).offerWarning st num := by
  have hreach : ¬ (d.reach w.expiry).holdInForce = true := Bool.eq_false_iff.1 hhold
  unfold waitTime
  rw [h]
  exact (if_neg (by simp [hw])).trans (if_neg hreach)

theorem waitTime_held {d : Device} {st num : Nat} {w : Wait} (h : d.wait? .warning st num = some w)
    (hw : w.held = false) (hhold : d.holdInForce = true) : d.waitTime .warning st num = { d with
      now := max d.now w.expiry,
      waits := d.waits.map fun x =>
        if x.kind = .warning ∧ x.station = st ∧ x.number = num then { x with held := true } else x } := by
  have hreach : (d.reach w.expiry).holdInForce = true := hhold
  unfold waitTime
  rw [h]
  refine (if_neg (by simp [hw])).trans ((if_pos hreach).trans ?_)
  simp [mapIf, and_assoc, reach]

/-- What placing a case's relay leaves as it is, and the item placed. -/
theorem offerRelay_facts (d : Device) (st alert : Nat) :
    (d.offerRelay st alert).now = d.now ∧ (d.offerRelay st alert).waits = d.waits ∧
    (d.offerRelay st alert).neigh = d.neigh ∧ (d.offerRelay st alert).store = d.store ∧
    ∀ c, d.case? st = some c → c.alert = alert → ∃ it ∈ (d.offerRelay st alert).access.distress.waiting,
      it.kind = .distressRelay ∧ it.owner = .caseRelay st alert ∧ it.seq = alert := by
  by_cases hc : ∃ c, d.case? st = some c ∧ c.alert = alert
  · obtain ⟨c, hc, ha⟩ := hc
    rw [offerRelay_case hc ha]
    exact ⟨rfl, rfl, rfl, rfl, fun _ _ _ => ⟨_, List.mem_append_right _ (List.mem_singleton_self _), rfl, rfl, rfl⟩⟩
  · rw [offerRelay_none fun c h ha => hc ⟨c, h, ha⟩]
    exact ⟨rfl, rfl, rfl, rfl, fun c h ha => absurd ⟨c, h, ha⟩ hc⟩

/-- What placing a record's relay leaves as it is, and the item placed. -/
theorem offerWarning_facts (d : Device) (issuer issue : Nat) :
    (d.offerWarning issuer issue).now = d.now ∧ (d.offerWarning issuer issue).waits = d.waits ∧
    (d.offerWarning issuer issue).neigh = d.neigh ∧ (d.offerWarning issuer issue).store = d.store ∧
    ((d.warning? issuer issue).isSome = true → ∃ it ∈ (d.offerWarning issuer issue).access.priority.waiting,
      it.kind = .warning ∧ it.owner = .warning issuer issue) := by
  cases hw : d.warning? issuer issue with
  | none =>
    rw [offerWarning_none hw]
    exact ⟨rfl, rfl, rfl, rfl, nofun⟩
  | some w =>
    rw [offerWarning_record hw]
    exact ⟨rfl, rfl, rfl, rfl, fun _ => ⟨_, List.mem_append_right _ (List.mem_singleton_self _), rfl, rfl⟩⟩

end Device
open Device

/-- Settles O36: DISTRESS and WARNING waits apart. -/
theorem relayWaitExpiry : Obligations.RelayWaitExpiry := by
  refine ⟨fun k st num w s hlow h hw => ?outline, fun k st num w s hlow h hw => ?whole⟩
  case outline =>
    have hrun {X : Device} (hX : s.dev.waitTime k st num = X) :=
      exec_of_event (i := .relayWaitExpiry k st num) (Device.waitTime k st num) rfl hlow hX
    have hgone := waitEnded_gone s.dev k st num w.expiry
    cases k with
    | distress =>
      refine ⟨nofun, fun _ => ⟨_, hrun (waitTime_distress h hw), ?_⟩⟩
      obtain ⟨hnow, hwaits, hneigh, hstore, hitem⟩ :=
        offerRelay_facts (s.dev.waitEnded .distress st num w.expiry) st num
      refine ⟨hnow, ?_, hneigh, hstore, fun _ => hitem, nofun⟩
      rwa [wait?, hwaits]
    | warning =>
      refine ⟨fun _ hhold => hrun (waitTime_held h hw hhold), fun hfree => ?_⟩
      refine ⟨_, hrun (waitTime_warning h hw (hfree.resolve_left nofun)), ?_⟩
      obtain ⟨hnow, hwaits, hneigh, hstore, hitem⟩ :=
        offerWarning_facts (s.dev.waitEnded .warning st num w.expiry) st num
      refine ⟨hnow, ?_, hneigh, hstore, nofun, fun _ => hitem⟩
      rwa [wait?, hwaits]
  case whole =>
    intro m ended item answers
    have hrun {X : Device} (hX : s.dev.waitTime k st num = X) : answers X :=
      exec_of_event (Device.waitTime k st num) rfl hlow hX
    refine ⟨?_, ?_⟩
    · rintro rfl
      have hstart := waitTime_distress h hw
      refine ⟨fun hno => hrun (hstart.trans (offerRelay_none hno)), fun c hc ha => ?_⟩
      intro position posTime persons body
      exact hrun (hstart.trans (offerRelay_case (d := ended) hc ha))
    · rintro rfl hhold
      have hstart := waitTime_warning h hw hhold
      refine ⟨fun hno => hrun (hstart.trans (offerWarning_none hno)), fun r hr => ?_⟩
      intro body
      exact hrun (hstart.trans (offerWarning_record (d := ended) hr))

end Sys2Proof.Machine
end

section
/-! PROOF. Asking for a relay wait (R74): what the Relay Wait List answers, and the wait it takes. -/

namespace Sys2Proof.Machine
namespace Device

theorem startWait_again {d : Device} (k : WaitKind) {st num : Nat} (h : d.wait? k st num ≠ none) :
    d.startWait k st num = (false, none, d) :=
  if_pos (Option.isSome_iff_ne_none.2 h)

theorem startWait_room {d : Device} (k : WaitKind) {st num : Nat} (h : d.wait? k st num = none)
    (hroom : d.waits.length < 8) : d.startWait k st num = (true, none, d.addWait k st num) :=
  (if_neg (by simp [h])).trans (if_pos hroom)

theorem startWait_refused {d : Device} (k : WaitKind) {st num : Nat} (h : d.wait? k st num = none)
    (hfull : 8 ≤ d.waits.length) (hk : k = .warning ∨ d.waitToDisplace = none) :
    d.startWait k st num = (false, none, d.refuseWait) := by
  refine (if_neg (by simp [h])).trans ((if_neg (Nat.not_lt.2 hfull)).trans ?_)
  cases k with
  | warning => rfl
  | distress => rw [hk.resolve_left nofun]

theorem startWait_displaces {d : Device} {st num : Nat} {w : Wait} (h : d.wait? .distress st num = none)
    (hfull : 8 ≤ d.waits.length) (hw : d.waitToDisplace = some w) : d.startWait .distress st num =
      (true, some w, ((d.removeWait .warning w.station w.number).refuseWait).addWait .distress st num) := by
  refine (if_neg (by simp [h])).trans ((if_neg (Nat.not_lt.2 hfull)).trans ?_)
  rw [hw]

theorem addWait_distress (d : Device) (st num : Nat) : d.addWait .distress st num = { d with
    draws := d.draws + 1,
    waits := d.waits ++ [⟨.distress, st, num, d.now + (60 + Config.draw d.draws % 121) * 1000, false⟩] } := rfl

theorem addWait_warning (d : Device) (st num : Nat) : d.addWait .warning st num = { d with
    draws := d.draws + 1,
    waits := d.waits ++ [⟨.warning, st, num, d.now + (20 + Config.draw d.draws % 71) * 1000, false⟩] } := rfl

/-- The wait that gives way is a WARNING wait of the latest expiry (R74). -/
theorem waitToDisplace_some {d : Device} (h : ∃ w ∈ d.waits, w.kind = .warning) :
    ∃ w ∈ d.waits, w.kind = .warning ∧ (∀ x ∈ d.waits, x.kind = .warning → x.expiry ≤ w.expiry) ∧
      d.waitToDisplace = some w := by
  obtain ⟨hsome, hlast⟩ := maxLastBy_spec (fun w : Wait => w.expiry) (d.waits.filter fun w => w.kind == .warning)
  obtain ⟨w, hw, hk⟩ := h
  have hmem {x : Wait} : x ∈ (d.waits.filter fun w => w.kind == .warning) ↔ x ∈ d.waits ∧ x.kind = .warning := by
    simp [List.mem_filter]
  obtain ⟨m, hm⟩ := Option.isSome_iff_exists.1 (hsome (List.ne_nil_of_mem (hmem.2 ⟨hw, hk⟩)))
  obtain ⟨hin, hle⟩ := hlast m hm
  exact ⟨m, (hmem.1 hin).1, (hmem.1 hin).2, fun x hx hxk => hle x (hmem.2 ⟨hx, hxk⟩), hm⟩

theorem waitToDisplace_none {d : Device} (h : ∀ w ∈ d.waits, w.kind = .distress) : d.waitToDisplace = none := by
  unfold waitToDisplace
  rw [List.filter_eq_nil_iff.2 fun w hw => by rw [h w hw]; decide]
  rfl

end Device
end Sys2Proof.Machine
end

section
/-! PROOF. The Weather Store's timers, and what a received WARNING does (O44). -/

namespace Sys2Proof.Machine

/-! ### Forecast records that end (R140) -/

namespace Device

theorem forecast?_key {d : Device} {area : Nat} {c : Bool} {f : Forecast} (h : d.forecast? area c = some f) :
    f.area = area ∧ f.complete = c := by
  simpa using List.find?_some h

theorem freeForecast_gone {d : Device} {area : Nat} {c : Bool} {f : Forecast} (h : d.forecast? area c = some f) :
    (d.freeForecast f).forecast? area c = none := by
  obtain ⟨rfl, rfl⟩ := forecast?_key h
  rw [forecast_freeForecast, if_pos ⟨rfl, rfl⟩]

theorem discardForecast_facts {d : Device} {area : Nat} {c : Bool} {f : Forecast} (h : d.forecast? area c = some f) :
    let e := d.discardForecast f
    e.now = d.now ∧ e.store = d.store.release f.grant ∧ e.forecast? area c = none ∧
      e.weather.warnings = d.weather.warnings ∧ e.weather.counts.discarded = bump d.weather.counts.discarded :=
  ⟨rfl, rfl, freeForecast_gone h, rfl, rfl⟩

theorem expireForecast_facts {d : Device} {area : Nat} {c : Bool} {f : Forecast} (h : d.forecast? area c = some f)
    (hmark : OwedRef.forecast area ∉ d.console.general.owed) (hroom : d.console.general.entries.length < 24) :
    let e := d.expireForecast f
    e.now = d.now ∧ e.store = d.store.release f.grant ∧ e.forecast? area c = none ∧
      e.weather.counts.expired = bump d.weather.counts.expired ∧
      e.console.general.entries = d.console.general.entries ++
        [⟨.forecastExpired, 0, .report [.num 1 area, .num 3 f.issuer, .num 2 f.issue], 0⟩] := by
  have hgone := freeForecast_gone h
  obtain ⟨rfl, -⟩ := forecast?_key h
  unfold expireForecast
  dsimp only
  rw [report_general_room _ .forecastExpired _ _ rfl (by exact hroom) (by exact hmark)]
  exact ⟨rfl, rfl, hgone, rfl, rfl⟩

theorem collectionTime_held {d : Device} {area : Nat} {f : Forecast} (h : d.forecast? area false = some f) :
    d.collectionTime area = (d.reach (f.lastPart + 21600000)).discardForecast f := by
  unfold collectionTime
  rw [h]
  rfl

theorem forecastTime_held {d : Device} {area : Nat} {c : Bool} {f : Forecast} {u : Utc} {v : Int}
    (h : d.forecast? area c = some f) (hu : d.console.utc = some u) (hv : f.validUntil = some v) :
    d.forecastTime area c = if c then (d.reach (whenUtc u v)).expireForecast f
      else (d.reach (whenUtc u v)).discardForecast f := by
  simp only [forecastTime, h, validityAt, hu, hv]

/-! ### Warning records that end (R142, R143) -/

theorem warning?_key {d : Device} {issuer issue : Nat} {w : Warning} (h : d.warning? issuer issue = some w) :
    w.issuer = issuer ∧ w.issue = issue := by
  simpa using List.find?_some h

/-- An owed mark that goes with its record is a lost report (R146). -/
def dropWarningMark (d : Device) (issuer issue : Nat) : Device :=
  if d.marked .general (.warning issuer issue)
    then (d.dropMark .general (.warning issuer issue)).lostWeatherReport else d

theorem dropWarningMark_eq (d : Device) (issuer issue : Nat) : ∃ console counts,
    d.dropWarningMark issuer issue = { d with console := console, weather := { d.weather with counts := counts } } ∧
      console.utc = d.console.utc := by
  unfold dropWarningMark
  split
  · exact ⟨(d.dropMark .general (.warning issuer issue)).console, d.lostWeatherReport.weather.counts, rfl, rfl⟩
  · exact ⟨d.console, d.weather.counts, rfl, rfl⟩

/-- A record freed: with it go its wait, its item, its mark and its pages (R142, R143, R146). -/
theorem freeWarning_eq (d : Device) (w : Warning) : ∃ console counts, d.freeWarning w = { d with
      waits := d.waits.filter fun x => !(x.kind == .warning && x.station == w.issuer && x.number == w.issue),
      access := { d.access with priority := d.access.priority.withdraw (isWarningItem w.issuer w.issue) },
      console := console,
      weather := { d.weather with
        counts := counts,
        warnings := d.weather.warnings.filter fun x => !(x.issuer == w.issuer && x.issue == w.issue) },
      store := d.store.release w.grant } ∧ console.utc = d.console.utc := by
  let e := (d.removeWait .warning w.issuer w.issue).withdraw .priority (isWarningItem w.issuer w.issue)
  obtain ⟨console, counts, heq, hutc⟩ := dropWarningMark_eq e w.issuer w.issue
  have hrow : d.freeWarning w = ((e.dropWarningMark w.issuer w.issue).onWeather fun s =>
    { s with warnings := s.warnings.filter fun x => !(x.issuer == w.issuer && x.issue == w.issue) }).releaseGrant
      w.grant := rfl
  rw [hrow, heq]
  exact ⟨console, counts, rfl, hutc⟩

theorem freeWarning_facts (d : Device) (w : Warning) :
    let e := d.freeWarning w
    (∀ i n, e.warning? i n = if (i, n) = (w.issuer, w.issue) then none else d.warning? i n) ∧
    e.wait? .warning w.issuer w.issue = none ∧
    (∀ it, it ∈ e.access.priority.items ↔
      it ∈ d.access.priority.items ∧ it.owner ≠ .warning w.issuer w.issue) ∧
    e.access.onAir = d.access.onAir ∧ e.store = d.store.release w.grant ∧ e.config = d.config ∧ e.now = d.now ∧
    e.console.utc = d.console.utc ∧ e.weather.forecasts = d.weather.forecasts := by
  obtain ⟨console, counts, heq, hutc⟩ := freeWarning_eq d w
  rw [heq]
  refine ⟨fun i n => ?_, wait_removeWait d .warning w.issuer w.issue, fun it => ?_, rfl, rfl, rfl, rfl, hutc, rfl⟩
  · unfold warning?
    dsimp only
    split
    · rename_i hkey
      cases hkey
      exact List.find?_eq_none.2 fun x hx => by
        have hkept := (List.mem_filter.1 hx).2
        rwa [Bool.not_eq_true', Bool.eq_false_iff] at hkept
    · rename_i hkey
      refine find_filter_not (fun x : Warning => x.issuer == w.issuer && x.issue == w.issue) _ _ fun x hx => ?_
      simp only [Bool.and_eq_true, beq_iff_eq] at hx
      rw [hx.1, hx.2, Bool.eq_false_iff]
      exact fun hc => hkey (by
        simp only [Bool.and_eq_true, beq_iff_eq] at hc
        exact Prod.ext hc.1.symm hc.2.symm)
  · exact (mem_items_withdraw _ _ it).trans (and_congr_right fun _ => by simp [isWarningItem])

theorem warningTime_held {d : Device} {issuer issue : Nat} {w : Warning} {u : Utc} {v : Int}
    (h : d.warning? issuer issue = some w) (hu : d.console.utc = some u) (hv : w.validUntil = some v) :
    d.warningTime issuer issue = (d.reach (whenUtc u v)).freeWarning w := by
  simp only [warningTime, h, validityAt, hu, hv]

/-! ### The tests of a received WARNING (R131, R75) -/

theorem headerErased_iff (b : Burst) (n : Nat) :
    headerErased b n = true ↔ 0 < b.erasures ∧ 63 ∈ b.body.take n := by
  simp [headerErased]

theorem warningInRange_iff (h : WarningHeader) (count : Nat) : warningInRange h count = true ↔
    (1 ≤ count ∧ count ≤ 6 ∧ 1 ≤ h.day ∧ h.day ≤ 31 ∧ h.hour ≤ 23 ∧ h.minute ≤ 59 ∧ 1 ≤ h.validFor ∧
      ∀ a ∈ h.areas, 1 ≤ a) ∧ Severity.ofValue h.severity ≠ none := by
  simp only [warningInRange, validTime, Bool.and_eq_true, decide_eq_true_eq, List.all_eq_true,
    Option.isSome_iff_ne_none]
  tauto

/-- A copy whose header reads ends the relay wait, when another station than the issuer sent it (R75). -/
def copyHeard (d : Device) (b : Burst) : Device :=
  if b.source = (warningHeader b.body).issuer then d
  else d.warningRelayHeard (warningHeader b.body).issuer (warningHeader b.body).issue

/-- The tests 3 and 4 of R131, and what becomes of a copy that passes them. -/
def judgeCopy (d : Device) (b : Burst) : Device :=
  if !d.config.sources.contains (warningHeader b.body).issuer then d.countForeign
  else match (if warningInRange (warningHeader b.body) (symAt b.body 10)
    then Severity.ofValue (warningHeader b.body).severity else none) with
  | none => d.countMalformed
  | some sev =>
    (if b.source = (warningHeader b.body).issuer then d
      else d.suppressWarning (warningHeader b.body).issuer (warningHeader b.body).issue).applyWarning
      (warningHeader b.body) sev b

theorem receiveWarning_short {d : Device} {b : Burst}
    (h : b.body.length < 12 ∨ b.body.length < 11 + symAt b.body 10) : d.receiveWarning b = d.countMalformed :=
  if_pos h

theorem receiveWarning_erased {d : Device} {b : Burst} (h12 : 12 ≤ b.body.length)
    (hlen : 11 + symAt b.body 10 ≤ b.body.length) (he : 0 < b.erasures)
    (hmark : 63 ∈ b.body.take (11 + symAt b.body 10)) : d.receiveWarning b = d.countHeaderErasure :=
  (if_neg (by omega)).trans (if_pos ((headerErased_iff b _).2 ⟨he, hmark⟩))

theorem receiveWarning_read {d : Device} {b : Burst} (h12 : 12 ≤ b.body.length)
    (hlen : 11 + symAt b.body 10 ≤ b.body.length)
    (hclean : b.erasures = 0 ∨ 63 ∉ b.body.take (11 + symAt b.body 10)) :
    d.receiveWarning b = (d.copyHeard b).judgeCopy b := by
  refine (if_neg (by omega)).trans ((if_neg fun hc => ?_).trans rfl)
  obtain ⟨he, hmark⟩ := (headerErased_iff b _).1 hc
  exact hclean.elim (Nat.ne_of_gt he) fun hn => hn hmark

theorem warningRelayHeard_waits {d : Device} {issuer issue : Nat} (h : d.wait? .warning issuer issue ≠ none) :
    d.warningRelayHeard issuer issue = { d with
      waits := d.waits.filter fun x => !(x.kind == .warning && x.station == issuer && x.number == issue),
      weather := { d.weather with warnings := d.weather.warnings.map fun w =>
        if w.issuer = issuer ∧ w.issue = issue then { w with relay := .suppressed } else w } } := by
  obtain ⟨w, hw⟩ := Option.ne_none_iff_exists'.1 h
  unfold warningRelayHeard
  rw [hw]
  dsimp only
  rw [onWarning_map]
  rfl

theorem copyHeard_unheard {d : Device} {b : Burst} (h : b.source = (warningHeader b.body).issuer ∨
    d.wait? .warning (warningHeader b.body).issuer (warningHeader b.body).issue = none) : d.copyHeard b = d := by
  unfold copyHeard
  split
  · rfl
  · rename_i hs
    unfold warningRelayHeard
    rw [h.resolve_left hs]

theorem copyHeard_config (d : Device) (b : Burst) : (d.copyHeard b).config = d.config := by
  unfold copyHeard warningRelayHeard
  split
  · rfl
  · split <;> rfl

theorem judgeCopy_foreign {d : Device} {b : Burst} (h : (warningHeader b.body).issuer ∉ d.config.sources) :
    d.judgeCopy b = d.countForeign :=
  if_pos (by simpa using h)

theorem judgeCopy_known {d : Device} {b : Burst} (h : (warningHeader b.body).issuer ∈ d.config.sources) :
    ¬ ((!d.config.sources.contains (warningHeader b.body).issuer) = true) := by
  simpa using h

theorem judgeCopy_malformed {d : Device} {b : Burst} (h : (warningHeader b.body).issuer ∈ d.config.sources)
    (hbad : ¬ warningInRange (warningHeader b.body) (symAt b.body 10) = true) :
    d.judgeCopy b = d.countMalformed := by
  unfold judgeCopy
  rw [if_neg (judgeCopy_known h), if_neg hbad]

theorem judgeCopy_applied {d : Device} {b : Burst} {sev : Severity}
    (h : (warningHeader b.body).issuer ∈ d.config.sources)
    (hok : warningInRange (warningHeader b.body) (symAt b.body 10) = true)
    (hsev : Severity.ofValue (warningHeader b.body).severity = some sev) :
    d.judgeCopy b = (if b.source = (warningHeader b.body).issuer then d
      else d.suppressWarning (warningHeader b.body).issuer (warningHeader b.body).issue).applyWarning
      (warningHeader b.body) sev b := by
  unfold judgeCopy
  rw [if_neg (judgeCopy_known h), if_pos hok, hsev]

/-! ### The relay of a record (R144, R145) -/

theorem warning?_onWarning_same {d : Device} {issuer issue : Nat} {w : Warning} (f : Warning → Warning)
    (h : d.warning? issuer issue = some w) (hf : ∀ x, (f x).issuer = x.issuer ∧ (f x).issue = x.issue) :
    (d.onWarning issuer issue f).warning? issuer issue = some (f w) := by
  rw [warning_onWarning d issuer issue f fun x hi hn => ⟨(hf x).1.trans hi, (hf x).2.trans hn⟩, if_pos ⟨rfl, rfl⟩, h]
  rfl

theorem warning?_onWarning_other (d : Device) {issuer issue i n : Nat} (f : Warning → Warning)
    (hf : ∀ x, (f x).issuer = x.issuer ∧ (f x).issue = x.issue) (hne : (i, n) ≠ (issuer, issue)) :
    (d.onWarning issuer issue f).warning? i n = d.warning? i n := by
  rw [warning_onWarning d issuer issue f fun x hi hn => ⟨(hf x).1.trans hi, (hf x).2.trans hn⟩,
    if_neg fun h => hne (by rw [h.1, h.2])]

theorem suppressWarning_stays {d : Device} {issuer issue : Nat} {w : Warning} (h : d.warning? issuer issue = some w)
    (hr : w.relay = .relayed ∨ w.relay = .suppressed) : d.suppressWarning issuer issue = d := by
  unfold suppressWarning
  rw [h]
  dsimp only
  obtain hr | hr := hr <;> rw [hr]

theorem suppressWarning_open {d : Device} {issuer issue : Nat} {w : Warning} (h : d.warning? issuer issue = some w)
    (hr : w.relay = .none ∨ w.relay = .waiting ∨ w.relay = .offered) :
    d.suppressWarning issuer issue = (d.withdraw .priority (isWarningItem issuer issue)).onWarning issuer issue
      fun w => { w with relay := .suppressed } := by
  unfold suppressWarning
  rw [h]
  dsimp only
  obtain hr | hr | hr := hr <;> rw [hr]

theorem suppressWarning_facts {d : Device} {issuer issue : Nat} {w : Warning} (h : d.warning? issuer issue = some w)
    (hr : w.relay = .none ∨ w.relay = .waiting ∨ w.relay = .offered) :
    let x := d.suppressWarning issuer issue
    x.warning? issuer issue = some { w with relay := .suppressed } ∧
      (∀ i n, (i, n) ≠ (issuer, issue) → x.warning? i n = d.warning? i n) ∧
      (∀ it, it ∈ x.access.priority.items ↔ it ∈ d.access.priority.items ∧ it.owner ≠ .warning issuer issue) ∧
      x.access.onAir = d.access.onAir ∧ x.waits = d.waits ∧ x.store = d.store ∧ x.console = d.console := by
  rw [suppressWarning_open h hr]
  have hw : (d.withdraw .priority (isWarningItem issuer issue)).warning? issuer issue = some w := h
  refine ⟨warning?_onWarning_same _ hw fun _ => ⟨rfl, rfl⟩, fun i n hne => ?_, fun it => ?_, rfl, rfl, rfl, rfl⟩
  · exact warning?_onWarning_other _ _ (fun _ => ⟨rfl, rfl⟩) hne
  · exact (mem_items_withdraw d.access.priority _ it).trans (and_congr_right fun _ => by simp [isWarningItem])

theorem wantsRelay_iff (d : Device) (b : Burst) (w : Warning) : d.wantsRelay b w = true ↔
    b.source = w.issuer ∧ b.pass = true ∧ b.erasures = 0 ∧ w.wanted = true ∧ w.relay = .none ∧
      d.config.warning = true := by
  simp [wantsRelay, and_assoc]

theorem examineWarning_none {d : Device} {issuer issue : Nat} (b : Burst) (h : d.warning? issuer issue = none) :
    d.examineWarning issuer issue b = d := by
  unfold examineWarning
  rw [h]

theorem examineWarning_unwanted {d : Device} {issuer issue : Nat} {b : Burst} {w : Warning}
    (h : d.warning? issuer issue = some w) (hw : ¬ d.wantsRelay b w = true) : d.examineWarning issuer issue b = d := by
  unfold examineWarning
  rw [h]
  exact if_neg hw

theorem examineWarning_refused {d x : Device} {issuer issue : Nat} {b : Burst} {w : Warning}
    (h : d.warning? issuer issue = some w) (hw : d.wantsRelay b w = true)
    (hx : d.startWait .warning issuer issue = (false, none, x)) : d.examineWarning issuer issue b = x := by
  unfold examineWarning
  rw [h]
  refine (if_pos hw).trans ?_
  rw [hx]

theorem examineWarning_taken {d x : Device} {issuer issue : Nat} {b : Burst} {w : Warning}
    (h : d.warning? issuer issue = some w) (hw : d.wantsRelay b w = true)
    (hx : d.startWait .warning issuer issue = (true, none, x)) :
    d.examineWarning issuer issue b = x.onWarning issuer issue fun w => { w with relay := .waiting } := by
  unfold examineWarning
  rw [h]
  refine (if_pos hw).trans ?_
  rw [hx]

/-- The wait a record's relay gets with room in the Relay Wait List (R74, R144). -/
theorem examineWarning_waits {d : Device} {issuer issue : Nat} {b : Burst} {w : Warning}
    (h : d.warning? issuer issue = some w) (hw : d.wantsRelay b w = true)
    (hnone : d.wait? .warning issuer issue = none) (hroom : d.waits.length < 8) :
    let x := d.examineWarning issuer issue b
    ∃ t, 20 ≤ t ∧ t ≤ 90 ∧ x.waits = d.waits ++ [⟨.warning, issuer, issue, d.now + t * 1000, false⟩] ∧
      x.warning? issuer issue = some { w with relay := .waiting } ∧ x.access = d.access ∧ x.store = d.store ∧
      x.console = d.console := by
  rw [examineWarning_taken h hw (startWait_room .warning hnone hroom), addWait_warning]
  have ht : Config.draw d.draws % 71 < 71 := Nat.mod_lt _ (by decide)
  exact ⟨20 + Config.draw d.draws % 71, Nat.le_add_right 20 _,
    Nat.add_le_add_left (Nat.le_of_lt_succ ht) 20, rfl, warning?_onWarning_same _ h fun _ => ⟨rfl, rfl⟩, rfl, rfl, rfl⟩

theorem offerWarning_held {d : Device} {issuer issue : Nat} {w : Warning} (h : d.warning? issuer issue = some w) :
    (d.offerWarning issuer issue).warning? issuer issue = some { w with relay := .offered } := by
  have hrow : d.offerWarning issuer issue = (d.onWarning issuer issue fun w => { w with relay := .offered }).offer
      (d.newItem .warning allStations 0 (d.warningBody w) (.warning issuer issue)) := by
    unfold offerWarning
    rw [h]
  rw [hrow]
  exact warning?_onWarning_same _ h fun _ => ⟨rfl, rfl⟩

theorem warningSent_held {d : Device} {issuer issue : Nat} {w : Warning} (h : d.warning? issuer issue = some w) :
    (d.warningSent issuer issue).warning? issuer issue
      = some { w with relay := if w.relay = .offered then .relayed else w.relay } := by
  have hrow : (d.warningSent issuer issue).warning? issuer issue
      = some (if w.relay = .offered then { w with relay := .relayed } else w) :=
    warning?_onWarning_same (fun w : Warning => if w.relay = .offered then { w with relay := .relayed } else w) h
      fun x => by split <;> exact ⟨rfl, rfl⟩
  rw [hrow]
  split <;> rfl

theorem warningAborted_stays {d : Device} {issuer issue : Nat} {w : Warning} (it : Item)
    (h : d.warning? issuer issue = some w) (hr : w.relay ≠ .offered) : d.warningAborted it issuer issue = d := by
  unfold warningAborted
  rw [h]
  exact if_neg hr

theorem warningAborted_offers {d : Device} {issuer issue : Nat} {w : Warning} (it : Item)
    (h : d.warning? issuer issue = some w) (hr : w.relay = .offered) :
    d.warningAborted it issuer issue = d.offer it := by
  unfold warningAborted
  rw [h]
  exact if_pos hr

/-! ### A copy stored (R141) -/

/-- A copy as a record holds it (R132, R139, R141). -/
def copyOf (d : Device) (h : WarningHeader) (sev : Severity) (b : Burst) (grant : Nat) (first : Time)
    (relay : RelayState) : Warning :=
  { d.warningFrom h sev b grant with firstStored := first, relay := relay }

/-- `e` is `d` with the copy held as `w`, its text written to the store `y`, and its report queued (R141, R146). -/
def holdsCopy (d : Device) (h : WarningHeader) (b : Burst) (e : Device) (w : Warning) (y : Store) (event : Nat) :
    Prop :=
  e.warning? h.issuer h.issue = some w ∧ e.store = y.writeSyms w.grant 0 (copyText h b) ∧
  (∀ i n, (i, n) ≠ (h.issuer, h.issue) → e.warning? i n = d.warning? i n) ∧
  e.weather.forecasts = d.weather.forecasts ∧ e.access = d.access ∧ e.waits = d.waits ∧
  (OwedRef.warning h.issuer h.issue ∉ d.console.general.owed → d.console.general.entries.length < 24 →
    e.console.general.entries = d.console.general.entries ++
      [⟨.warning, 0, .report (warningData w event (some (e.store.readSyms w.grant 0 w.len))), 0⟩])

theorem reportWarning_holds {d x : Device} {h : WarningHeader} {b : Burst} {w : Warning} {y : Store} (event : Nat)
    (hkey : w.issuer = h.issuer ∧ w.issue = h.issue) (hw : x.warning? h.issuer h.issue = some w)
    (hs : x.store = y.writeSyms w.grant 0 (copyText h b))
    (hother : ∀ i n, (i, n) ≠ (h.issuer, h.issue) → x.warning? i n = d.warning? i n)
    (hf : x.weather.forecasts = d.weather.forecasts) (ha : x.access = d.access) (hwait : x.waits = d.waits)
    (hc : x.console = d.console) : d.holdsCopy h b (x.reportWarning w event) w y event := by
  rw [reportWarning_told, hkey.1, hkey.2, hc]
  refine ⟨hw, hs, hother, hf, ha, hwait, fun hmark hroom => ?_⟩
  unfold Lane.told
  rw [if_neg hmark, if_pos hroom]

theorem reserve_of_granted {d : Device} {holder : Holder} {size id : Nat} {y : Store}
    (h : d.store.reserve holder size = (.granted id, y)) :
    d.reserve holder size = (.granted id, { d with store := y }) := by
  unfold reserve
  rw [h]

/-- A new record, with the pages granted for its text. -/
theorem storeWarning_holds {d : Device} {h : WarningHeader} (sev : Severity) {b : Burst} {id : Nat} {y : Store}
    (hnew : d.warning? h.issuer h.issue = none)
    (hr : d.store.reserve .warning (copyText h b).length = (.granted id, y)) :
    d.holdsCopy h b (d.storeWarning h sev b) (d.copyOf h sev b id b.endTime .none) y 0 ∧
    (d.storeWarning h sev b).weather.counts = { d.weather.counts with stored := bump d.weather.counts.stored } := by
  let w := d.copyOf h sev b id b.endTime .none
  let x : Device := { d with
    store := y.writeSyms id 0 (copyText h b),
    weather := { d.weather with
      warnings := d.weather.warnings ++ [w],
      counts := { d.weather.counts with stored := bump d.weather.counts.stored } } }
  have hrow : d.storeWarning h sev b = x.reportWarning w 0 := by
    unfold storeWarning
    dsimp only
    rw [reserve_of_granted hr]
    rfl
  have hfind (i n : Nat) : x.warning? i n = (d.warning? i n).or ([w].find? fun w => w.issuer == i && w.issue == n) :=
    List.find?_append
  have hself : [w].find? (fun w => w.issuer == h.issuer && w.issue == h.issue) = some w :=
    List.find?_cons_of_pos (by simp [w, copyOf, warningFrom])
  rw [hrow]
  refine ⟨reportWarning_holds 0 ⟨rfl, rfl⟩ ?_ rfl (fun i n hne => ?_) rfl rfl rfl rfl, ?_⟩
  · rw [hfind, hnew, hself]
    rfl
  · rw [hfind, List.find?_cons_of_neg, List.find?_nil, Option.or_none]
    intro hc
    simp only [Bool.and_eq_true, beq_iff_eq] at hc
    exact hne (by rw [← hc.1, ← hc.2]; rfl)
  · rw [reportWarning_told]

/-- The record with the copy that replaces `old` whole, in the pages of `grant`. -/
def replaced (d : Device) (y : Store) (old : Warning) (h : WarningHeader) (sev : Severity) (b : Burst) (grant : Nat) :
    Device :=
  (onWarning { d with store := y.writeSyms grant 0 (copyText h b) } old.issuer old.issue
    fun _ => d.copyOf h sev b grant old.firstStored old.relay).reportWarning
      (d.copyOf h sev b grant old.firstStored old.relay) 1

theorem improveWarning_samePages {d : Device} {old : Warning} {h : WarningHeader} (sev : Severity) {b : Burst}
    (hlen : (copyText h b).length = old.len) :
    d.improveWarning old h sev b = d.replaced d.store old h sev b old.grant := by
  unfold improveWarning
  dsimp only
  rw [if_pos hlen]
  rfl

theorem improveWarning_newPages {d : Device} {old : Warning} {h : WarningHeader} (sev : Severity) {b : Burst}
    {id : Nat} {y : Store} (hlen : (copyText h b).length ≠ old.len)
    (hr : (d.store.release old.grant).reserve .warning (copyText h b).length = (.granted id, y)) :
    d.improveWarning old h sev b = d.replaced y old h sev b id := by
  have hreserved : (d.releaseGrant old.grant).reserve .warning (copyText h b).length
      = (.granted id, { d with store := y }) :=
    reserve_of_granted (d := d.releaseGrant old.grant) hr
  unfold improveWarning
  dsimp only
  rw [if_neg hlen, hreserved]
  rfl

theorem replaced_holds {d : Device} {old : Warning} {h : WarningHeader} (sev : Severity) (b : Burst) (y : Store)
    (grant : Nat) (hold : d.warning? h.issuer h.issue = some old) :
    d.holdsCopy h b (d.replaced y old h sev b grant) (d.copyOf h sev b grant old.firstStored old.relay) y 1 ∧
    (d.replaced y old h sev b grant).weather.counts = d.weather.counts := by
  obtain ⟨hissuer, hissue⟩ := warning?_key hold
  let x : Device := { d with store := y.writeSyms grant 0 (copyText h b) }
  have hfind (i n : Nat) := warning_onWarning x h.issuer h.issue
    (fun _ => d.copyOf h sev b grant old.firstStored old.relay) (fun _ _ _ => ⟨rfl, rfl⟩) i n
  unfold replaced
  rw [hissuer, hissue]
  refine ⟨reportWarning_holds 1 ⟨rfl, rfl⟩ ?_ rfl (fun i n hne => ?_) rfl rfl rfl rfl, ?_⟩
  · rw [hfind, if_pos ⟨rfl, rfl⟩]
    exact congrArg (Option.map _) hold
  · rw [hfind, if_neg fun hk => hne (by rw [hk.1, hk.2])]
    rfl
  · rw [reportWarning_told]
    rfl

/-! ### A copy not stored, and the record replaced (R142) -/

/-- `e` is `d` after a copy that found no place. -/
def leavesCopy (d : Device) (h : WarningHeader) (sev : Severity) (b : Burst) (e : Device) : Prop :=
  e.weather = { d.weather with counts := e.weather.counts } ∧
  e.weather.counts.notStored = bump d.weather.counts.notStored ∧ e.store.grants = d.store.grants ∧
  e.access = d.access ∧
  (d.console.general.entries.length < 24 → e.console.general.entries = d.console.general.entries ++
    [⟨.warning, 0, .report (warningData (d.copyOf h sev b 0 b.endTime .none) 2 none), 0⟩]) ∧
  (24 ≤ d.console.general.entries.length → e.weather.counts.lostReports = bump d.weather.counts.lostReports)

theorem warningNotStored_leaves {d : Device} {y : Store} (h : WarningHeader) (sev : Severity) (b : Burst)
    (hy : y.grants = d.store.grants) :
    d.leavesCopy h sev b (warningNotStored { d with store := y } (d.warningFrom h sev b 0)) := by
  unfold warningNotStored reportOrLose
  by_cases hroom : d.console.general.entries.length < 24
  · have hlane : (onWeatherCounts { d with store := y } fun c => { c with notStored := bump c.notStored }).laneRoom
        ReportKind.warning.lane = true := decide_eq_true hroom
    dsimp only
    rw [if_pos hlane, queueEntry, if_pos hlane]
    exact ⟨rfl, rfl, hy, rfl, fun _ => rfl, fun hfull => absurd hroom (Nat.not_lt.2 hfull)⟩
  · have hlane : ¬ (onWeatherCounts { d with store := y } fun c => { c with notStored := bump c.notStored }).laneRoom
        ReportKind.warning.lane = true := fun hc => hroom (of_decide_eq_true hc)
    dsimp only
    rw [if_neg hlane]
    exact ⟨rfl, rfl, hy, rfl, fun hr => absurd hr hroom, fun _ => rfl⟩

theorem reserve_refused_grants {s : Store} {holder : Holder} {size : Nat}
    (h : ∀ id, (s.reserve holder size).1 ≠ .granted id) : (s.reserve holder size).2.grants = s.grants := by
  revert h
  unfold Store.reserve
  dsimp only
  split_ifs
  · exact fun h => absurd rfl (h _)
  · exact fun _ => rfl
  · exact fun _ => rfl
  · exact fun h => absurd rfl (h _)

theorem storeWarning_leaves {d : Device} {h : WarningHeader} (sev : Severity) {b : Burst}
    (hr : ∀ id, (d.store.reserve .warning (copyText h b).length).1 ≠ .granted id) :
    d.leavesCopy h sev b (d.storeWarning h sev b) := by
  have hrow : d.storeWarning h sev b = warningNotStored
      { d with store := (d.store.reserve .warning (copyText h b).length).2 } (d.warningFrom h sev b 0) := by
    have hreserved : d.reserve .warning (copyText h b).length
        = ((d.store.reserve .warning (copyText h b).length).1,
          { d with store := (d.store.reserve .warning (copyText h b).length).2 }) := rfl
    unfold storeWarning
    dsimp only
    rw [hreserved]
    cases hc : (d.store.reserve .warning (copyText h b).length).1 with
    | granted id => exact absurd hc (hr id)
    | refusedCap => rfl
    | refusedPool => rfl
  rw [hrow]
  exact warningNotStored_leaves h sev b (reserve_refused_grants hr)

theorem newWarning_room {d : Device} {h : WarningHeader} {sev : Severity} {b : Burst}
    (hroom : d.weather.warnings.length < 6) : d.newWarning h sev b = d.storeWarning h sev b := if_pos hroom

/-- The record a new warning may replace: of the lowest severity, the oldest first stored (R142). -/
theorem warningToReplace_full {d : Device} (hfull : 6 ≤ d.weather.warnings.length) :
    ∃ r ∈ d.weather.warnings, d.warningToReplace = some r ∧ ∀ x ∈ d.weather.warnings,
      r.severity.value < x.severity.value ∨ r.severity.value = x.severity.value ∧
        (r.firstStored < x.firstStored ∨ r.firstStored = x.firstStored ∧
          (r.issuer < x.issuer ∨ r.issuer = x.issuer ∧ r.issue ≤ x.issue)) := by
  obtain ⟨hnone, hleast⟩ := minBy_lex (fun w : Warning => w.severity.value) (fun w => w.firstStored)
    (fun w => w.issuer) (fun w => w.issue) d.weather.warnings
  cases hr : d.warningToReplace with
  | none =>
    have hnil := hnone.1 hr
    rw [hnil] at hfull
    exact absurd hfull (by decide)
  | some r =>
    obtain ⟨hmem, hfirst⟩ := hleast r hr
    exact ⟨r, hmem, rfl, hfirst⟩

theorem newWarning_refused {d : Device} {h : WarningHeader} {sev : Severity} {b : Burst} {r : Warning}
    (hfull : 6 ≤ d.weather.warnings.length) (hr : d.warningToReplace = some r)
    (hsev : sev.value < r.severity.value) :
    d.newWarning h sev b = d.warningNotStored (d.warningFrom h sev b 0) := by
  unfold newWarning
  rw [if_neg (Nat.not_lt.2 hfull), hr]
  exact if_neg (Nat.not_le.2 hsev)

theorem newWarning_replaces {d : Device} {h : WarningHeader} {sev : Severity} {b : Burst} {r : Warning}
    (hfull : 6 ≤ d.weather.warnings.length) (hr : d.warningToReplace = some r)
    (hsev : r.severity.value ≤ sev.value) :
    d.newWarning h sev b = (d.freeWarning r).storeWarning h sev b := by
  unfold newWarning
  rw [if_neg (Nat.not_lt.2 hfull), hr]
  exact if_pos hsev

/-! ### A copy applied (R141, R143) -/

theorem warningExpiring_iff (d : Device) (issuer issue : Nat) : d.warningExpiring issuer issue = true ↔
    ∃ w, d.warning? issuer issue = some w ∧ d.utcReached w.validUntil = true := by
  unfold warningExpiring
  cases d.warning? issuer issue <;> simp

theorem applyWarning_stale {d : Device} {h : WarningHeader} {sev : Severity} {b : Burst}
    (he : ¬ d.warningExpiring h.issuer h.issue = true)
    (hs : d.utcReached (issueTimes d.utcNow h.day h.hour h.minute h.validFor).2 = true) :
    d.applyWarning h sev b = d.countStale :=
  if_pos (by simp [Bool.eq_false_iff.2 he, hs])

/-- What is made of a copy that is not stale, before its relay is examined (R141, R142). -/
def placeCopy (d : Device) (h : WarningHeader) (sev : Severity) (b : Burst) : Device :=
  match d.warning? h.issuer h.issue with
  | some w => if copyScore b < w.score then d.improveWarning w h sev b else d.countNotBetter
  | none => d.newWarning h sev b

theorem applyWarning_placed {d : Device} {h : WarningHeader} {sev : Severity} {b : Burst}
    (hok : d.warningExpiring h.issuer h.issue = true ∨
      d.utcReached (issueTimes d.utcNow h.day h.hour h.minute h.validFor).2 = false) :
    d.applyWarning h sev b = (d.placeCopy h sev b).examineWarning h.issuer h.issue b :=
  if_neg (by obtain h | h := hok <;> simp [h])

theorem placeCopy_repeat {d : Device} {h : WarningHeader} {old : Warning} (sev : Severity) (b : Burst)
    (hold : d.warning? h.issuer h.issue = some old) : d.placeCopy h sev b =
      if copyScore b < old.score then d.improveWarning old h sev b else d.countNotBetter := by
  unfold placeCopy
  rw [hold]

theorem placeCopy_new {d : Device} {h : WarningHeader} (sev : Severity) (b : Burst)
    (hnew : d.warning? h.issuer h.issue = none) : d.placeCopy h sev b = d.newWarning h sev b := by
  unfold placeCopy
  rw [hnew]

end Device
open Device

/-- Settles O44: the timers, the tests, the relay, and the copy stored. -/
theorem weatherTimers : Obligations.WeatherTimers := by
  refine ⟨?forecasts, ?warnings, ?received, ?suppressed, ?examined, ?relayed,
    fun d issuer issue => ⟨rfl, rfl⟩, ?applied⟩
  case forecasts =>
    intro area f s hlow
    refine ⟨fun h => ?_, fun u v hu hv => ⟨fun h => ?_, fun h hmark hroom => ?_⟩⟩
    · refine ⟨_, exec_of_event (Device.collectionTime area) rfl hlow (collectionTime_held h), ?_⟩
      exact discardForecast_facts (d := s.dev.reach _) h
    · refine ⟨_, exec_of_event (Device.forecastTime area false) rfl hlow (forecastTime_held h hu hv), ?_⟩
      obtain ⟨hnow, hstore, hgone, -, hcount⟩ := discardForecast_facts (d := s.dev.reach (whenUtc u v)) h
      exact ⟨hnow, hstore, hgone, hcount⟩
    · refine ⟨_, exec_of_event (Device.forecastTime area true) rfl hlow (forecastTime_held h hu hv), ?_⟩
      exact expireForecast_facts (d := s.dev.reach (whenUtc u v)) h hmark hroom
  case warnings =>
    intro issuer issue w u v s hlow h hu hv
    refine ⟨_, exec_of_event (Device.warningTime issuer issue) rfl hlow (warningTime_held h hu hv), ?_⟩
    obtain ⟨hgone, hwait, hitems, -, hstore, -, hnow, -, hforecasts⟩ := freeWarning_facts (s.dev.reach (whenUtc u v)) w
    obtain ⟨rfl, rfl⟩ := warning?_key h
    exact ⟨hnow, (hgone _ _).trans (if_pos rfl), hwait, fun it hit => ((hitems it).1 hit).2, hstore, hforecasts⟩
  case received =>
    intro d b e h count inRange counted
    refine ⟨rfl, receiveWarning_short, receiveWarning_erased, fun h12 hlen hclean hsame hheard => ?_⟩
    have he : d.copyHeard b = e := by
      by_cases hquiet : b.source = h.issuer ∨ d.wait? .warning h.issuer h.issue = none
      · rw [copyHeard_unheard hquiet, hsame hquiet]
      · rw [not_or] at hquiet
        exact (if_neg hquiet.1).trans ((warningRelayHeard_waits hquiet.2).trans (hheard hquiet.1 hquiet.2).symm)
    have hconfig : e.config = d.config := he ▸ copyHeard_config d b
    rw [receiveWarning_read h12 hlen hclean, he]
    refine ⟨fun hs => judgeCopy_foreign (hconfig ▸ hs), fun hs hbad => ?_, fun hs hrange sev hsev => ?_⟩
    · refine judgeCopy_malformed (hconfig ▸ hs) fun hc => ?_
      obtain ⟨hrange, hsev⟩ := (warningInRange_iff _ _).1 hc
      exact hbad.elim (fun hn => hn hrange) fun hn => hsev hn
    · have hok := (warningInRange_iff h count).2 ⟨hrange, by rw [hsev]; nofun⟩
      rw [judgeCopy_applied (hconfig ▸ hs) hok hsev]
      exact ⟨fun hsrc => by rw [if_pos hsrc], fun hsrc => by rw [if_neg hsrc]⟩
  case suppressed =>
    intro d issuer issue
    refine ⟨fun h => ?_, fun w h => ⟨suppressWarning_stays h, suppressWarning_facts h⟩⟩
    unfold suppressWarning
    rw [h]
  case examined =>
    intro d issuer issue b
    refine ⟨examineWarning_none b, fun w h => ?_⟩
    intro wants x
    refine ⟨fun hno => ?_, fun hw hnone => ⟨fun hroom => ?_, fun hfull => ?_⟩⟩
    · by_cases hw : wants
      · have hwaits := hno.resolve_left (not_not_intro hw)
        exact examineWarning_refused h ((wantsRelay_iff d b w).2 hw) (startWait_again .warning hwaits)
      · exact examineWarning_unwanted h fun hc => hw ((wantsRelay_iff d b w).1 hc)
    · exact examineWarning_waits h ((wantsRelay_iff d b w).2 hw) hnone hroom
    · exact examineWarning_refused h ((wantsRelay_iff d b w).2 hw) (startWait_refused .warning hnone hfull (.inl rfl))
  case relayed =>
    intro d issuer issue w it h
    refine ⟨⟨offerWarning_held h, ?_, ?_⟩, warningSent_held h, warningAborted_stays it h, fun hr hk => ?_⟩
    · rw [offerWarning_record h]
    · rw [offerWarning_record h]
      rfl
    · rw [warningAborted_offers it h hr, offer_toPriority (by rw [hk]; rfl)]
      exact ⟨rfl, h⟩
  case applied =>
    intro d h sev b times text score copy holds unstored expiring
    have hexp : d.warningExpiring h.issuer h.issue = true ↔ expiring := warningExpiring_iff d h.issuer h.issue
    refine ⟨fun hno hstale => applyWarning_stale (fun hc => hno (hexp.1 hc)) hstale, fun hok => ?_,
      fun hnew id y hr => (storeWarning_holds sev hnew hr).1⟩
    refine ⟨d.placeCopy h sev b, applyWarning_placed (hok.imp_left hexp.2), ?again, ?new, ?full⟩
    case again =>
      intro old hold
      rw [placeCopy_repeat sev b hold]
      refine ⟨fun hle => if_neg (Nat.not_lt.2 hle), fun hlt hlen => ?_, fun id y hlt hlen hr => ?_⟩
      · rw [if_pos hlt, improveWarning_samePages sev hlen]
        exact replaced_holds sev b d.store old.grant hold
      · rw [if_pos hlt, improveWarning_newPages sev hlen hr]
        exact replaced_holds sev b y id hold
    case new =>
      intro hnew hroom
      rw [placeCopy_new sev b hnew, newWarning_room hroom]
      exact ⟨fun id y hr => storeWarning_holds sev hnew hr, fun hr => storeWarning_leaves sev hr⟩
    case full =>
      intro hnew hfull
      obtain ⟨r, hmem, hreplace, hfirst⟩ := warningToReplace_full hfull
      rw [placeCopy_new sev b hnew]
      refine ⟨r, hmem, hfirst, fun hsev => ?_, fun hsev =>
        ⟨d.freeWarning r, newWarning_replaces hfull hreplace hsev, ?_⟩⟩
      · rw [newWarning_refused hfull hreplace hsev]
        exact warningNotStored_leaves (y := d.store) h sev b rfl
      · obtain ⟨hgone, hwait, hitems, hair, hstore, hconfig, hnow, hutc, -⟩ := freeWarning_facts d r
        exact ⟨hgone, hwait, hitems, hair, hstore, hconfig, hnow, hutc⟩

end Sys2Proof.Machine
end

section
/-! PROOF. The timers and answers of a transfer slot, its route, its failed hop and its end (O37). -/

namespace Sys2Proof.Machine

/-- An element changed in place is the list with that element set. -/
theorem modAt_eq_set {α : Type} {l : List α} {i : Nat} (x : α) (f : α → α) (h : i < l.length) :
    modAt l i f = l.set i (f (l.getD i x)) := by
  unfold modAt
  rw [List.getElem?_eq_getElem h, List.getD_eq_getElem _ x h]

namespace Device

/-! ### One slot set, and the counts with it -/

/-- `d` with the slot `i` set to `x` and the transfer counts to `c`. -/
def settled (d : Device) (i : Nat) (x : Slot) (c : XferCounts) : Device :=
  { d with xfer := { d.xfer with counts := c, slots := d.xfer.slots.set i x } }

theorem settled_slot {d : Device} {i : Nat} (h : i < d.xfer.slots.length) (x : Slot) (c : XferCounts) :
    (d.settled i x c).slot i = x :=
  slot_set d i x { d.xfer with counts := c } h

theorem settled_beside (d : Device) {i j : Nat} (x : Slot) (c : XferCounts) (h : j ≠ i) :
    (d.settled i x c).slot j = d.slot j := by
  unfold settled slot
  dsimp only
  rw [List.getD_eq_getElem?_getD, List.getElem?_set_ne h.symm, List.getD_eq_getElem?_getD]

theorem settled_length (d : Device) (i : Nat) (x : Slot) (c : XferCounts) :
    (d.settled i x c).xfer.slots.length = d.xfer.slots.length := List.length_set

theorem settled_twice (d : Device) (i : Nat) (x y : Slot) (c c' : XferCounts) :
    (d.settled i x c).settled i y c' = d.settled i y c' := by
  unfold settled
  dsimp only
  rw [List.set_set]

theorem onSlot_settled {d : Device} {i : Nat} (f : Slot → Slot) (h : i < d.xfer.slots.length) :
    d.onSlot i f = d.settled i (f (d.slot i)) d.xfer.counts := onSlot_set d i f h

theorem onSlot_of_settled {d : Device} {i : Nat} (x : Slot) (c : XferCounts) (f : Slot → Slot)
    (h : i < d.xfer.slots.length) : (d.settled i x c).onSlot i f = d.settled i (f x) c := by
  rw [onSlot_settled f (by rw [settled_length]; exact h), settled_slot h, settled_twice]
  rfl

/-- A slot as it goes to READY, or to HELD under the hold (R82). -/
def readied (d : Device) (s : Slot) : Slot :=
  if d.holdInForce then { s with st := .held, heldFrom := .ready, refusalEnd := none } else d.readyAt s

theorem readied_of_noHold {d : Device} (h : d.holdInForce = false) (s : Slot) : d.readied s = d.readyAt s :=
  if_neg (by rw [h]; decide)

theorem goReady_eq {d : Device} {i : Nat} (h : i < d.xfer.slots.length) :
    d.goReady i = d.settled i (d.readied (d.slot i)) d.xfer.counts := by
  unfold goReady readied
  split
  · exact onSlot_settled _ h
  · exact onSlot_settled _ h

theorem goReady_of_settled {d : Device} {i : Nat} (x : Slot) (c : XferCounts) (h : i < d.xfer.slots.length) :
    (d.settled i x c).goReady i = d.settled i (d.readied x) c := by
  rw [goReady_eq (by rw [settled_length]; exact h), settled_slot h, settled_twice]
  rfl

theorem portBound_iff (d : Device) (s : Slot) : d.portBound s = true ↔ s.origin = .relay ∨ s.dest = d.config.port := by
  simp [portBound]

theorem not_portBound {d : Device} {s : Slot} (ho : s.origin ≠ .relay) (hd : s.dest ≠ d.config.port) :
    ¬ d.portBound s = true := fun h => ((portBound_iff d s).1 h).elim ho hd

theorem orPending_some {d : Device} {i : Nat} {o : Outcome} (h : (d.slot i).pendingEnd = some o)
    (k : Device → Device) : d.orPending i k = d.endTransfer i o := by
  unfold orPending
  rw [h]

theorem orPending_slot {d r : Device} {i : Nat} {x : Slot} {k : Device → Device} (hx : d.slot i = x)
    (hk : k d = r) : d.orPending i k = match x.pendingEnd with
      | some o => d.endTransfer i o
      | none => r := by
  unfold orPending
  rw [hx]
  cases x.pendingEnd with
  | none => exact hk
  | some o => rfl

theorem orPending_settled {d r : Device} {i : Nat} {x : Slot} {c : XferCounts} {k : Device → Device}
    (hi : i < d.xfer.slots.length) (hk : k (d.settled i x c) = r) :
    (d.settled i x c).orPending i k = match x.pendingEnd with
      | some o => (d.settled i x c).endTransfer i o
      | none => r := orPending_slot (settled_slot hi x c) hk

/-- The first slot in order that satisfies `p`. -/
theorem slotsWhere_first {d : Device} {p : Slot → Bool} {i : Nat} (hi : i < 8) (hp : p (d.slot i) = true)
    (hbefore : ∀ j, j < i → p (d.slot j) = false) : (d.slotsWhere p).head? = some i := by
  have hfind : (d.slotsWhere p).head? = (List.range 8).find? fun j => p (d.slot j) := List.head?_filter
  rw [hfind, List.find?_range_eq_some]
  exact ⟨hp, List.mem_range.2 hi, fun j hj => by rw [hbefore j hj]; rfl⟩

/-! ### The route answer and the failed hop (R82, R90) -/

theorem takeAnswer_none {d : Device} {i : Nat} (h : i < d.xfer.slots.length) :
    d.takeAnswer i none = (d.withdrawData i).settled i
      { d.slot i with hop := none, st := .awaitingRoute, refusalEnd := none } d.xfer.counts :=
  onSlot_settled (d := d.withdrawData i) _ h

theorem takeAnswer_same {d : Device} {i : Nat} {h : Station} (hh : (d.slot i).hop = some h) :
    d.takeAnswer i (some h) = d := if_pos hh

theorem takeAnswer_other {d : Device} {i : Nat} {h : Station} (hi : i < d.xfer.slots.length)
    (hh : (d.slot i).hop ≠ some h) :
    d.takeAnswer i (some h) = (d.withdrawData i).settled i (d.readied (afresh (d.slot i) h)) d.xfer.counts := by
  have hrow : d.takeAnswer i (some h) = ((d.withdrawData i).onSlot i fun s => afresh s h).goReady i := if_neg hh
  rw [hrow, onSlot_settled (d := d.withdrawData i) _ hi]
  exact goReady_of_settled (d := d.withdrawData i) _ _ hi

theorem hopFails_ends {d : Device} {i : Nat} (ho : (d.slot i).origin ≠ .relay)
    (hd : (d.slot i).dest ≠ d.config.port) : d.hopFails i = d.endTransfer i .failed :=
  if_neg (not_portBound ho hd)

theorem hopFails_avoids {d : Device} {i : Nat} {h : Station} (hi : i < d.xfer.slots.length)
    (hp : (d.slot i).origin = .relay ∨ (d.slot i).dest = d.config.port) (hh : (d.slot i).hop = some h) :
    d.hopFails i = ((d.avoid h).settled i (d.readied (d.slot i)) d.xfer.counts).askRoute i := by
  have hrow : d.hopFails i = ((d.avoid h).goReady i).askRoute i := by
    refine (if_pos ((portBound_iff d _).2 hp)).trans ?_
    rw [hh]
  rw [hrow, goReady_eq (d := d.avoid h) hi]
  rfl

/-! ### A route event (R69, R83) -/

theorem asksAt_iff (d : Device) (st : Station) (s : Slot) : d.asksAt st s = true ↔
    (s.origin = .relay ∨ s.dest = d.config.port) ∧ (s.st = .awaitingRoute ∨
      (s.st = .ready ∧ s.onAir = false ∨ s.st = .refusalWait ∨ s.st = .held) ∧ (s.hop = some st ∨ s.idx = 0)) := by
  simp [asksAt, portBound, or_assoc]

theorem answerMoves_iff (d : Device) (s : Slot) : d.answerMoves s = true ↔
    ¬ ∃ h, d.hopFor s = some h ∧ s.hop = some h := by
  unfold answerMoves
  cases d.hopFor s <;> simp

theorem isDataOf_iff (i : Nat) (it : Item) : isDataOf i it = true ↔ it.kind = .data ∧ it.owner = .slot i := by
  simp [isDataOf]

theorem answered_none {d : Device} {s : Slot} (h : d.hopFor s = none) :
    d.answered s = { s with hop := none, st := .awaitingRoute, refusalEnd := none } := by
  unfold answered
  rw [h]

theorem answered_same {d : Device} {s : Slot} {h : Station} (ha : d.hopFor s = some h) (hh : s.hop = some h) :
    d.answered s = s := by
  unfold answered
  rw [ha]
  exact if_pos hh

theorem answered_other {d : Device} {s : Slot} {h : Station} (ha : d.hopFor s = some h) (hh : s.hop ≠ some h) :
    d.answered s = d.readied (afresh s h) := by
  unfold answered
  rw [ha]
  exact if_neg hh

/-! ### The end of a transfer (R92) -/

/-- The store without the pages of the slot. -/
def slotStore (d : Device) (s : Slot) : Store :=
  match s.grant with
  | none => d.store
  | some g => d.store.release g

/-- An ending counted, with its DATA item withdrawn, its pages released and its slot left as `x`. -/
def ended (d : Device) (i : Nat) (o : Outcome) (x : Slot) : Device :=
  { (d.withdrawData i).countOutcome o with
    store := d.slotStore (d.slot i),
    xfer := { (d.countOutcome o).xfer with slots := d.xfer.slots.set i x } }

theorem freeSlot_eq {d : Device} {i : Nat} (hi : i < d.xfer.slots.length) (hp : d.rep.pending = none) :
    d.freeSlot i = d.settled i Slot.free d.xfer.counts := by
  unfold freeSlot
  rw [onSlot_settled _ hi, slotFreed_none _ (by exact hp)]

theorem ended_slot {d : Device} {i : Nat} (o : Outcome) (x : Slot) (hi : i < d.xfer.slots.length) :
    (d.ended i o x).slot i = x := slot_set d i x (d.countOutcome o).xfer hi

theorem ended_beside (d : Device) {i j : Nat} (o : Outcome) (x : Slot) (h : j ≠ i) :
    (d.ended i o x).slot j = d.slot j := settled_beside d x d.xfer.counts h

theorem slotStore_pages {d : Device} {s : Slot} {g : Nat} (h : s.grant = some g) :
    d.slotStore s = d.store.release g := by
  unfold slotStore
  rw [h]

theorem onSlot_ended {d : Device} {i : Nat} (o : Outcome) (x : Slot) (f : Slot → Slot)
    (hi : i < d.xfer.slots.length) : (d.ended i o x).onSlot i f = d.ended i o (f x) := by
  have hlen : i < (d.ended i o x).xfer.slots.length := by
    unfold ended
    rw [List.length_set]
    exact hi
  rw [onSlot_set _ _ _ hlen, ended_slot o x hi]
  unfold ended
  dsimp only
  rw [List.set_set]

theorem freeSlot_ended {d : Device} {i : Nat} (o : Outcome) (x : Slot) (hi : i < d.xfer.slots.length)
    (hp : d.rep.pending = none) : (d.ended i o x).freeSlot i = d.ended i o Slot.free := by
  unfold freeSlot
  rw [onSlot_ended o x _ hi, slotFreed_none _ (by exact hp)]

/-- A slot whose pages are released. -/
def noPages (s : Slot) : Slot := { s with grant := none }

theorem unended_noPages {d : Device} {i : Nat} (o : Outcome) (hi : i < d.xfer.slots.length)
    (hg : (d.slot i).grant = none) :
    (d.withdrawData i).countOutcome o = d.ended i o (noPages (d.slot i)) := by
  have hslot : noPages (d.slot i) = d.slot i := by rw [noPages, ← hg]
  unfold ended slotStore
  rw [hslot, slots_set_self d i hi, hg]
  rfl

theorem unended_pages {d : Device} {i g : Nat} (o : Outcome) (hi : i < d.xfer.slots.length)
    (hg : (d.slot i).grant = some g) (hr : ∀ e ∈ d.xfer.reasms, e.waiting = false) :
    (((d.withdrawData i).countOutcome o).onSlot i fun s => { s with grant := none }).releaseOutbound g
      = d.ended i o (noPages (d.slot i)) := by
  unfold releaseOutbound
  rw [onSlot_set _ _ _ (by exact hi), retryHandOvers_none _ (by exact hr)]
  unfold ended slotStore
  rw [hg]
  rfl

theorem endTransfer_relay {d : Device} {i : Nat} (o : Outcome) (hi : i < d.xfer.slots.length)
    (hp : d.rep.pending = none) (hr : ∀ e ∈ d.xfer.reasms, e.waiting = false) (ho : (d.slot i).origin = .relay) :
    d.endTransfer i o = d.ended i o Slot.free := by
  unfold endTransfer
  dsimp only
  rw [ho]
  cases hg : (d.slot i).grant with
  | none =>
    dsimp only
    rw [unended_noPages o hi hg, freeSlot_ended o _ hi hp]
  | some g =>
    dsimp only
    rw [unended_pages o hi hg hr, freeSlot_ended o _ hi hp]

/-- The outcome of the console transfer `s` goes up, or is owed while the lane is full. -/
def tellConsole (e : Device) (i : Nat) (s : Slot) (o : Outcome) : Device :=
  if e.laneRoom .general then
    (e.queueEntry .general ⟨.transferOutcome, 0, .report (slotOutcomeData s o), 0⟩).freeSlot i
  else (e.onSlot i fun _ => owedSlot s o).addMark .general (.slot i)

theorem endTransfer_console {d : Device} {i : Nat} (o : Outcome) (hi : i < d.xfer.slots.length)
    (hr : ∀ e ∈ d.xfer.reasms, e.waiting = false) (ho : (d.slot i).origin = .console) :
    d.endTransfer i o = (d.ended i o (noPages (d.slot i))).tellConsole i (d.slot i) o := by
  unfold endTransfer
  dsimp only
  rw [ho]
  cases hg : (d.slot i).grant with
  | none => exact congrArg (fun e => tellConsole e i (d.slot i) o) (unended_noPages o hi hg)
  | some g => exact congrArg (fun e => tellConsole e i (d.slot i) o) (unended_pages o hi hg hr)

/-- `e` with the TRANSFER OUTCOME of `s` in the general lane. -/
def outcomeTold (e : Device) (s : Slot) (o : Outcome) : Device :=
  { e with console := { e.console with general := { e.console.general with
    entries := e.console.general.entries ++ [⟨.transferOutcome, 0, .report (slotOutcomeData s o), 0⟩] } } }

theorem outcomeTold_slot (e : Device) (s : Slot) (o : Outcome) (j : Nat) : (e.outcomeTold s o).slot j = e.slot j := rfl

theorem endTransfer_told {d : Device} {i : Nat} (o : Outcome) (hi : i < d.xfer.slots.length)
    (hp : d.rep.pending = none) (hr : ∀ e ∈ d.xfer.reasms, e.waiting = false) (ho : (d.slot i).origin = .console)
    (hroom : d.console.general.entries.length < 24) :
    d.endTransfer i o = (d.ended i o Slot.free).outcomeTold (d.slot i) o := by
  let e := d.ended i o (noPages (d.slot i))
  have hlane : e.laneRoom .general = true := decide_eq_true hroom
  have hqueued : e.queueEntry .general ⟨.transferOutcome, 0, .report (slotOutcomeData (d.slot i) o), 0⟩
      = e.outcomeTold (d.slot i) o := if_pos hlane
  have hfreed : (e.outcomeTold (d.slot i) o).freeSlot i = (e.freeSlot i).outcomeTold (d.slot i) o := by
    unfold freeSlot
    rw [slotFreed_none _ (by exact hp), slotFreed_none _ (by exact hp)]
    rfl
  rw [endTransfer_console o hi hr ho, tellConsole, if_pos hlane, hqueued, hfreed, freeSlot_ended o _ hi hp]

theorem endTransfer_owed {d : Device} {i : Nat} (o : Outcome) (hi : i < d.xfer.slots.length)
    (hr : ∀ e ∈ d.xfer.reasms, e.waiting = false) (ho : (d.slot i).origin = .console)
    (hfull : 24 ≤ d.console.general.entries.length) :
    d.endTransfer i o = (d.ended i o (owedSlot (d.slot i) o)).addMark .general (.slot i) := by
  let e := d.ended i o (noPages (d.slot i))
  have hlane : ¬ e.laneRoom .general = true := fun hc => absurd (of_decide_eq_true hc) (Nat.not_lt.2 hfull)
  rw [endTransfer_console o hi hr ho, tellConsole, if_neg hlane, onSlot_ended o _ _ hi]

theorem endTransfer_catch {d : Device} {i : Nat} (o : Outcome) (hi : i < d.xfer.slots.length)
    (hp : d.rep.pending = none) (ho : (d.slot i).origin = .catchReport) :
    d.endTransfer i o = catchOutcome { d.ended i o Slot.free with store := d.store } o := by
  have hfree := freeSlot_eq (d := (d.withdrawData i).countOutcome o) (i := i) hi hp
  unfold endTransfer
  dsimp only
  rw [ho]
  dsimp only
  rw [hfree]
  rfl

/-! ### A matching ACK (R86, R88, R89) -/

/-- The burst answers the slot's fragment with the answer code `a` (R86). -/
def answeredBy (s : Slot) (b : Burst) (a : Nat) : Prop :=
  b.body = [s.idx, a] ∧ s.hop = some b.source ∧ s.num = b.seq

/-- The slot is the first that awaits an ACK. -/
def firstAwaiting (d : Device) (i : Nat) : Prop :=
  i < 8 ∧ (d.slot i).st = .awaitingAck ∧ ∀ j, j < i → (d.slot j).st ≠ .awaitingAck

theorem slotsWhere_awaiting {d : Device} {i : Nat} (h : d.firstAwaiting i) :
    ∃ r, d.slotsWhere (fun s => s.st == .awaitingAck) = i :: r := by
  obtain ⟨hi, hst, hbefore⟩ := h
  exact List.head?_eq_some_iff.1 (slotsWhere_first hi (by simpa using hst) fun j hj => by simpa using hbefore j hj)

theorem matchAck_answered {d : Device} {i a : Nat} {b : Burst} (h : d.firstAwaiting i)
    (ha : answeredBy (d.slot i) b a) : d.matchAck b = (AckAnswer.ofValue a).map fun x => (i, x) := by
  obtain ⟨r, hr⟩ := slotsWhere_awaiting h
  obtain ⟨hbody, hhop, hnum⟩ := ha
  unfold matchAck
  rw [hr, hbody]
  exact if_pos ⟨hhop, hnum, rfl⟩

theorem matchAck_stray {d : Device} {i : Nat} {b : Burst} (h : d.firstAwaiting i)
    (hno : ∀ a, a ≤ 3 → ¬ answeredBy (d.slot i) b a) : d.matchAck b = none := by
  obtain ⟨r, hr⟩ := slotsWhere_awaiting h
  unfold matchAck
  rw [hr]
  split
  · rename_i idx a hlist hbody
    cases hlist
    dsimp only
    split
    · rename_i hmatch
      obtain ⟨hhop, hnum, rfl⟩ := hmatch
      have hlarge : ¬ a ≤ 3 := fun hle => hno a hle ⟨hbody, hhop, hnum⟩
      obtain ⟨k, rfl⟩ : ∃ k, a = k + 4 := ⟨a - 4, by omega⟩
      rfl
    · rfl
  · rfl

theorem receiveAck_stray {d : Device} {b : Burst} (hh : d.holdInForce = false) (hm : d.matchAck b = none) :
    d.receiveAck b = d.onXferCounts fun c => { c with strayAcks := bump c.strayAcks } := by
  unfold receiveAck
  rw [if_neg (by rw [hh]; decide), hm]

theorem matchAck_unawaited {d : Device} {b : Burst} (h : ∀ i, i < 8 → (d.slot i).st ≠ .awaitingAck) :
    d.matchAck b = none := by
  have hnil : d.slotsWhere (fun s => s.st == .awaitingAck) = [] := List.filter_eq_nil_iff.2 fun i hi => by
    simpa using h i (List.mem_range.1 hi)
  unfold matchAck
  rw [hnil]

/-- What a matching answer does, from the slot that left AWAITING ACK on. -/
def takeAck (d : Device) (i : Nat) : AckAnswer → Device
  | .accepted => d.takeAccepted i
  | .full => d.takeFull i
  | .noRelay => d.takeNoRelay i
  | .unknown => d.takeUnknown i

/-- The slot, no timeout running any more. -/
def unawaited (s : Slot) : Slot := { s with ackDue := none, ackWaiting := false }

theorem receiveAck_taken {d : Device} {i code : Nat} {a : AckAnswer} {b : Burst} (hh : d.holdInForce = false)
    (hi : i < d.xfer.slots.length) (h : d.firstAwaiting i) (hb : answeredBy (d.slot i) b code)
    (ha : AckAnswer.ofValue code = some a) :
    d.receiveAck b = (d.settled i (unawaited (d.slot i)) d.xfer.counts).takeAck i a := by
  have hleft : d.leaveAck i = d.settled i (unawaited (d.slot i)) d.xfer.counts := onSlot_settled _ hi
  unfold receiveAck
  rw [if_neg (by rw [hh]; decide), matchAck_answered h hb, ha, ← hleft]
  cases a <;> rfl

/-- ACCEPTED: the counters of the hop start afresh. -/
def accepted (s : Slot) : Slot := { s with retries := 0, cw := 8, refusals := 0, restarts := 0 }

theorem takeAccepted_eq {d : Device} {i : Nat} (x : Slot) (c : XferCounts) (hi : i < d.xfer.slots.length) :
    let n := { c with gotAccepted := bump c.gotAccepted }
    (d.settled i x c).takeAccepted i = if x.cnt ≤ x.idx + 1 then (d.settled i (accepted x) n).endTransfer i .delivered
      else (d.settled i { accepted x with idx := x.idx + 1 } n).orPending i fun d => d.goReady i := by
  intro n
  have hcounted : (d.settled i x c).onXferCounts (fun c => { c with gotAccepted := bump c.gotAccepted })
      = d.settled i x n := rfl
  unfold takeAccepted
  dsimp only
  rw [hcounted, onSlot_of_settled x n _ hi, settled_slot hi, onSlot_of_settled _ n _ hi]
  rfl

theorem takeFull_eq {d : Device} {i : Nat} (x : Slot) (c : XferCounts) (hi : i < d.xfer.slots.length) :
    (d.settled i x c).takeFull i =
      (d.settled i { x with refusals := x.refusals + 1 } { c with gotFull := bump c.gotFull }).orPending i fun d =>
        if 5 ≤ (d.slot i).refusals then d.hopFails i
        else d.onSlot i fun s => { s with st := .refusalWait, refusalEnd := some (d.now + 60000) } := by
  have hmoved := onSlot_of_settled x { c with gotFull := bump c.gotFull }
    (fun s => { s with refusals := s.refusals + 1 }) hi
  rw [← hmoved]
  rfl

theorem takeUnknown_eq {d : Device} {i : Nat} (x : Slot) (c : XferCounts) (hi : i < d.xfer.slots.length) :
    (d.settled i x c).takeUnknown i =
      (d.settled i { x with restarts := x.restarts + 1 } { c with gotUnknown := bump c.gotUnknown }).orPending i
        fun d => if 3 ≤ (d.slot i).restarts then d.hopFails i
          else (d.onSlot i fun s => { s with idx := 0 }).goReady i := by
  have hmoved := onSlot_of_settled x { c with gotUnknown := bump c.gotUnknown }
    (fun s => { s with restarts := s.restarts + 1 }) hi
  rw [← hmoved]
  rfl

/-- The entry of a station as a NO-RELAY leaves it. -/
def unwilling (d : Device) (st : Station) (f : Facts) : Device :=
  { d with neigh := { d.neigh with entries := d.neigh.entries.map fun n =>
    if n.station = st then { n with facts := some { f with willing := false } } else n } }

/-- The relay-willing of a station cleared, and the route event that this raises (R70). -/
def unwillingTold (d : Device) (st : Station) : Device :=
  match (d.neighbour? st).bind fun n => n.facts with
  | none => d
  | some f =>
    if f.willing then
      routeEvent (d.unwilling st f) st
    else d

theorem clearWilling_told (d : Device) (st : Station) :
    (d.clearWilling st).1.routeEvents (d.clearWilling st).2 = d.unwillingTold st := by
  unfold clearWilling unwillingTold
  cases d.neighbour? st with
  | none => rw [routeEvents, List.foldl_nil]; rfl
  | some n =>
    dsimp only [Option.bind_some]
    cases n.facts with
    | none => rw [routeEvents, List.foldl_nil]
    | some f =>
      dsimp only
      split
      · rw [routeEvents_one, onNeighbour_eq, unwilling]
      · rw [routeEvents, List.foldl_nil]

theorem unwillingTold_keeps (d : Device) (st : Station) {i : Nat} (h : (d.slot i).st = .awaitingAck) :
    let e := d.unwillingTold st
    e.slot i = d.slot i ∧ e.xfer.slots.length = d.xfer.slots.length ∧ e.holdInForce = d.holdInForce ∧
      e.now = d.now := by
  unfold unwillingTold
  dsimp only
  split
  · exact ⟨rfl, rfl, rfl, rfl⟩
  · rename_i f _
    split
    · obtain ⟨hhold, hnow⟩ := routeEvent_keeps (d.unwilling st f) st
      exact ⟨routeEvent_slot (d.unwilling st f) st i h, routeEvent_len (d.unwilling st f) st, hhold, hnow⟩
    · exact ⟨rfl, rfl, rfl, rfl⟩

theorem takeNoRelay_eq {d : Device} {i : Nat} {x : Slot} {h : Station} (c : XferCounts)
    (hi : i < d.xfer.slots.length) (hh : x.hop = some h) :
    (d.settled i x c).takeNoRelay i =
      ((d.settled i x { c with gotNoRelay := bump c.gotNoRelay }).unwillingTold h).orPending i fun d =>
        if h = x.dest then d.hopFails i else (d.goReady i).askRoute i :=
  takeNoRelay_of_parts _ _ _ i x h rfl (settled_slot hi x _) hh (clearWilling_told _ h)

/-! ### The ACK timeout (R85, R87) -/

/-- A missing ACK charged to the slot. -/
def charged (s : Slot) : Slot :=
  { s with ackDue := none, ackWaiting := false, retries := s.retries + 1, cw := min 128 (2 * s.cw) }

/-- A timeout counted and charged to the hop, the slot set to `y`. -/
def timedOut (d : Device) (i : Nat) (h : Station) (y : Slot) : Device :=
  { d.settled i y { d.xfer.counts with ackTimeouts := bump d.xfer.counts.ackTimeouts } with
    neigh := { d.neigh with
      entries := d.neigh.entries.map fun n => if n.station = h then { n with q := 3 * n.q / 4 } else n } }

theorem timedOut_slot {d : Device} {i : Nat} (h : Station) (y : Slot) (hi : i < d.xfer.slots.length) :
    (d.timedOut i h y).slot i = y := settled_slot hi y _

theorem goReady_timedOut {d : Device} {i : Nat} (h : Station) (y : Slot) (hi : i < d.xfer.slots.length) :
    (d.timedOut i h y).goReady i = d.timedOut i h (d.readied y) := by
  have hlen : i < (d.timedOut i h y).xfer.slots.length := Nat.lt_of_lt_of_eq hi (settled_length d i y _).symm
  rw [goReady_eq hlen, timedOut_slot h y hi]
  unfold timedOut
  exact congrArg (fun e : Device => { d.timedOut i h y with xfer := e.xfer })
    (settled_twice d i y (d.readied y) _ { d.xfer.counts with ackTimeouts := bump d.xfer.counts.ackTimeouts })

theorem takeTimeout_eq {d : Device} {i : Nat} {h : Station} (hi : i < d.xfer.slots.length)
    (hh : (d.slot i).hop = some h) :
    d.takeTimeout i = (d.timedOut i h (charged (d.slot i))).orPending i fun d =>
      let s := d.slot i
      if d.config.retry ≤ s.retries then d.hopFails i
      else
        let d := d.goReady i
        if d.portBound s ∧ s.idx = 0 then d.askRoute i else d := by
  let left := d.settled i (unawaited (d.slot i)) d.xfer.counts
  have hleft : d.leaveAck i = left := onSlot_settled _ hi
  have hhop : (left.slot i).hop = some h := by rw [settled_slot hi]; exact hh
  have hslot (f : Slot → Slot) : (left.charge h).onSlot i f = (left.onSlot i f).charge h := rfl
  have hcharged := onSlot_of_settled (unawaited (d.slot i)) d.xfer.counts
    (fun s => { s with retries := s.retries + 1, cw := min 128 (2 * s.cw) }) hi
  unfold takeTimeout
  rw [hleft]
  dsimp only
  rw [hhop]
  dsimp only
  rw [hslot, hcharged, charge, onNeighbour_eq]
  rfl

/-! ### The timers of a slot (R85, R88, R91) -/

theorem ackTime_waits {d : Device} {i : Nat} {t : Time} (h : d.ackSlot? = some i) (ht : (d.slot i).ackDue = some t)
    (hr : d.reception = true) : d.ackTime = (d.reach t).onSlot i fun x => { x with ackWaiting := true } := by
  unfold ackTime
  rw [h]
  dsimp only
  rw [ht]
  exact if_pos hr

theorem ackTime_taken {d : Device} {i : Nat} {t : Time} (h : d.ackSlot? = some i) (ht : (d.slot i).ackDue = some t)
    (hr : d.reception = false) : d.ackTime = (d.reach t).takeTimeout i := by
  unfold ackTime
  rw [h]
  dsimp only
  rw [ht]
  exact if_neg (by rw [show ((d.reach ((some t).getD 0)).reception) = d.reception from rfl, hr]; decide)

theorem refusalTime_runs {d : Device} {i : Nat} {t : Time} (hst : (d.slot i).st = .refusalWait)
    (ht : (d.slot i).refusalEnd = some t) : d.refusalTime i = (d.reach t).goReady i := by
  unfold refusalTime
  rw [hst, ht]

theorem lifetimeRuns_iff (s : Slot) : lifetimeRuns s = true ↔
    s.st ≠ .free ∧ s.st ≠ .reserved ∧ s.st ≠ .outcomeOwed ∧ s.pendingEnd = none := by
  simp [lifetimeRuns, and_assoc]

theorem endsPending_iff (s : Slot) : endsPending s = true ↔
    s.st = .ready ∧ s.onAir = true ∨ s.st = .awaitingAck := by
  simp [endsPending]

theorem lifeTime_pending {d : Device} {i : Nat} (hi : i < d.xfer.slots.length)
    (hp : (d.slot i).pendingEnd = none) (hair : endsPending (d.slot i) = true) :
    d.lifeTime i = (d.reach (d.slot i).lifetimeEnd).settled i { d.slot i with pendingEnd := some .expired }
      d.xfer.counts := by
  have hruns : lifetimeRuns (d.slot i) = true := (lifetimeRuns_iff _).2 (by
    obtain ⟨hst, -⟩ | hst := (endsPending_iff _).1 hair <;> rw [hst] <;> exact ⟨nofun, nofun, nofun, hp⟩)
  refine (if_pos hruns).trans ((if_pos hair).trans ?_)
  rw [onSlot_settled _ (by exact hi)]
  dsimp only
  rw [show (d.reach (d.slot i).lifetimeEnd).slot i = d.slot i from rfl, hp]
  rfl

theorem lifeTime_ends {d : Device} {i : Nat} (hruns : lifetimeRuns (d.slot i) = true)
    (hair : ¬ endsPending (d.slot i) = true) :
    d.lifeTime i = (d.reach (d.slot i).lifetimeEnd).endTransfer i .expired :=
  (if_pos hruns).trans (if_neg hair)

theorem lifeTime_stays {d : Device} {i : Nat} (hruns : ¬ lifetimeRuns (d.slot i) = true) : d.lifeTime i = d :=
  if_neg hruns

theorem takeTimeout_pending {d : Device} {i : Nat} {h : Station} {o : Outcome} (hi : i < d.xfer.slots.length)
    (hh : (d.slot i).hop = some h) (hp : (d.slot i).pendingEnd = some o) :
    d.takeTimeout i = (d.timedOut i h (charged (d.slot i))).endTransfer i o := by
  rw [takeTimeout_eq hi hh]
  exact orPending_some (by rw [timedOut_slot h _ hi]; exact hp) _

theorem takeTimeout_fails {d : Device} {i : Nat} {h : Station} (hi : i < d.xfer.slots.length)
    (hh : (d.slot i).hop = some h) (hp : (d.slot i).pendingEnd = none)
    (hlimit : d.config.retry ≤ (d.slot i).retries + 1) :
    d.takeTimeout i = (d.timedOut i h (charged (d.slot i))).hopFails i := by
  have hslot := timedOut_slot h (charged (d.slot i)) hi
  rw [takeTimeout_eq hi hh, orPending_none (by rw [hslot]; exact hp)]
  refine if_pos ?_
  rw [hslot]
  exact hlimit

theorem takeTimeout_again {d : Device} {i : Nat} {h : Station} (hi : i < d.xfer.slots.length)
    (hh : (d.slot i).hop = some h) (hp : (d.slot i).pendingEnd = none)
    (hlimit : (d.slot i).retries + 1 < d.config.retry) :
    let again := d.timedOut i h (d.readied (charged (d.slot i)))
    d.takeTimeout i = if d.portBound (d.slot i) = true ∧ (d.slot i).idx = 0 then again.askRoute i else again := by
  have hslot := timedOut_slot h (charged (d.slot i)) hi
  rw [takeTimeout_eq hi hh, orPending_none (by rw [hslot]; exact hp)]
  dsimp only
  rw [hslot, goReady_timedOut h _ hi]
  exact if_neg (Nat.not_le.2 hlimit)

end Device
open Device

/-- Settles O37: the timers, the route answer, the failed hop, the end, the ACK, and the route event of a slot. -/
theorem slotTimers : Obligations.SlotTimers := by
  refine ⟨⟨?ackTimeout, ?refusal, ?lifetime, ?answer, ?failed, ?ends, ?ack, ?timeout, ?life⟩, ?events, ?event⟩
  case ackTimeout =>
    intro i t s hlow hslot hdue
    refine ⟨fun hr => exec_of_event Device.ackTime rfl hlow (ackTime_waits hslot hdue hr),
      fun h hr hh hp hlimit hhold hport hi => ?_⟩
    refine exec_of_event Device.ackTime rfl hlow ((ackTime_taken hslot hdue hr).trans ?_)
    have hquiet : ¬ (s.dev.portBound (s.dev.slot i) = true ∧ (s.dev.slot i).idx = 0) := fun hc =>
      hport.elim (fun hn => by rw [hc.1] at hn; cases hn) fun hn => hn hc.2
    rw [takeTimeout_again (d := s.dev.reach t) hi hh hp hlimit, modAt_eq_set Slot.free _ hi]
    refine (if_neg hquiet).trans ?_
    rw [readied_of_noHold (d := s.dev.reach t) hhold]
    rfl
  case refusal =>
    intro i t s hlow hst hdue hhold
    refine exec_of_event (Device.refusalTime i) rfl hlow ((refusalTime_runs hst hdue).trans ?_)
    exact if_neg (by rw [show (s.dev.reach t).holdInForce = false from hhold]; decide)
  case lifetime =>
    intro i s hlow hi hp
    refine ⟨fun hair => ?_, fun hst ho hroom hidle hreasms => ?_⟩
    · refine exec_of_event (Device.lifeTime i) rfl hlow
        ((lifeTime_pending hi hp ((endsPending_iff _).2 hair)).trans ?_)
      rw [modAt_eq_set Slot.free _ hi]
      rfl
    · have hair : ¬ endsPending (s.dev.slot i) = true := fun hc => by
        obtain ⟨hc, -⟩ | hc := (endsPending_iff _).1 hc <;> rw [hc] at hst <;> simp at hst
      have hruns := (lifetimeRuns_iff (s.dev.slot i)).2
        (by obtain hst | hst | hst := hst <;> rw [hst] <;> exact ⟨nofun, nofun, nofun, hp⟩)
      let e := s.dev.reach (s.dev.slot i).lifetimeEnd
      refine ⟨_, exec_of_event (Device.lifeTime i) rfl hlow ((lifeTime_ends hruns hair).trans
        (endTransfer_told (d := e) .expired hi hidle hreasms ho hroom)), rfl, ?_, fun g hg => ?_,
        fun j hj => ?_, rfl, rfl⟩
      · exact (outcomeTold_slot _ _ _ i).trans (ended_slot (d := e) _ _ hi)
      · exact slotStore_pages (d := e) hg
      · exact (outcomeTold_slot _ _ _ j).trans (ended_beside e _ _ hj)
  case answer =>
    intro d i ans hi s withdrawn e
    refine ⟨fun ha => ?_, fun h ha hh => ?_, fun h ha hh => ?_, ?_⟩
    · exact (congrArg (d.takeAnswer i) ha).trans (takeAnswer_none hi)
    · exact (congrArg (d.takeAnswer i) ha).trans (takeAnswer_same hh)
    · intro fresh there
      refine ((congrArg (d.takeAnswer i) ha).trans (takeAnswer_other hi hh)).trans ?_
      have hthere : d.readied (afresh s h) = there := by
        unfold readied
        split <;> rename_i hhold
        · exact (if_pos hhold).symm
        · exact (if_neg hhold).symm
      rw [show d.slot i = s from rfl, hthere]
      rfl
    · unfold askRoute
      rw [routeFor_hop]
      rfl
  case failed =>
    intro d i hi s ready
    exact ⟨hopFails_ends, fun h hp hh => (hopFails_avoids hi hp hh).trans (by rw [avoid, onNeighbour_eq]; rfl)⟩
  case ends =>
    intro d i g o hi hg hidle hreasms s n counted base
    have hcounts : (d.countOutcome o).xfer = { d.xfer with counts := counted } := by cases o <;> rfl
    have hended (x : Slot) : d.ended i o x
        = { base with xfer := { d.xfer with counts := counted, slots := d.xfer.slots.set i x } } := by
      unfold Device.ended
      rw [hcounts, slotStore_pages hg]
      rfl
    refine ⟨fun ho => ?_, fun ho hroom => ?_, fun ho hfull => ?_, fun ho => ?_⟩
    · rw [endTransfer_relay o hi hidle hreasms ho, hended]
    · rw [endTransfer_told o hi hidle hreasms ho hroom, hended]
      rfl
    · rw [endTransfer_owed o hi hreasms ho hfull, hended]
      rfl
    · rw [endTransfer_catch o hi hidle ho, hended]
  case ack =>
    intro d b stray
    refine ⟨fun hh => if_pos hh, fun hh hno => receiveAck_stray hh (matchAck_unawaited hno),
      fun i hh hi8 hi hst hbefore => ?_⟩
    intro s answered moved taken full noRelay unknown
    have hfirst : d.firstAwaiting i := ⟨hi8, hst, hbefore⟩
    refine ⟨fun hno => receiveAck_stray hh (matchAck_stray hfirst hno), fun ha hlast => ?_, fun ha hmore => ?_,
      fun ha => ?_, fun ha => ?_, fun ha => ?_⟩
    · refine (receiveAck_taken hh hi hfirst ha rfl).trans ((takeAccepted_eq _ _ hi).trans ?_)
      exact if_pos hlast
    · refine (receiveAck_taken hh hi hfirst ha rfl).trans ((takeAccepted_eq _ _ hi).trans ?_)
      refine (if_neg (Nat.not_le.2 hmore)).trans ?_
      refine orPending_settled hi ?_
      rw [goReady_of_settled _ _ hi, readied_of_noHold hh]
      rfl
    · refine (receiveAck_taken hh hi hfirst ha rfl).trans ((takeFull_eq _ _ hi).trans ?_)
      refine orPending_settled hi ?_
      dsimp only
      rw [settled_slot hi, onSlot_of_settled _ _ _ hi]
      rfl
    · refine (receiveAck_taken hh hi hfirst ha rfl).trans ((takeUnknown_eq _ _ hi).trans ?_)
      refine orPending_settled hi ?_
      dsimp only
      rw [settled_slot hi, onSlot_of_settled _ _ _ hi, goReady_of_settled _ _ hi, readied_of_noHold hh]
      rfl
    · intro told
      have htold : told = (d.settled i (unawaited s) noRelay).unwillingTold b.source := rfl
      have hawaits : ((d.settled i (unawaited s) noRelay).slot i).st = .awaitingAck := by
        rw [settled_slot hi]
        exact hst
      obtain ⟨hslot, hlen, hhold, hnow⟩ := unwillingTold_keeps _ b.source hawaits
      rw [← htold] at hslot hlen hhold hnow
      rw [settled_slot hi] at hslot
      refine ⟨hslot, ?_⟩
      have htaken : d.receiveAck b = told.orPending i fun d =>
          if b.source = (unawaited s).dest then d.hopFails i else (d.goReady i).askRoute i :=
        (receiveAck_taken hh hi hfirst ha rfl).trans (takeNoRelay_eq (x := unawaited s) _ hi ha.2.1)
      rw [htaken]
      refine orPending_slot (x := unawaited s) hslot ?_
      have hready : told.readyAt (unawaited s) = d.readyAt (unawaited s) :=
        congrArg (fun t => { unawaited s with st := .ready, readySince := t, onAir := false, refusalEnd := none }) hnow
      have hlong : i < told.xfer.slots.length := by
        rw [hlen, settled_length]
        exact hi
      rw [goReady_eq hlong, hslot, readied_of_noHold (hhold.trans hh), hready]
      rfl
  case timeout =>
    intro i t h s hlow hslot hdue hr hh hi x charged late again goes
    let e := s.dev.reach t
    have htaken := ackTime_taken hslot hdue hr
    refine ⟨fun o hp => ?_, fun hp hlimit => ?_, fun hp hlimit => ⟨fun hport hidx => ?_, fun hport => ?_⟩⟩
    · exact exec_of_event Device.ackTime rfl hlow (htaken.trans (takeTimeout_pending (d := e) hi hh hp))
    · exact exec_of_event Device.ackTime rfl hlow (htaken.trans (takeTimeout_fails (d := e) hi hh hp hlimit))
    · exact exec_of_event Device.ackTime rfl hlow (htaken.trans ((takeTimeout_again (d := e) hi hh hp hlimit).trans
        (if_pos ⟨(portBound_iff e _).2 hport, hidx⟩)))
    · refine exec_of_event Device.ackTime rfl hlow (htaken.trans ((takeTimeout_again (d := e) hi hh hp hlimit).trans
        (if_neg fun hc => ?_)))
      obtain ⟨ho, hd⟩ | hidx := hport
      · exact not_portBound ho hd hc.1
      · exact hidx hc.2
  case life =>
    intro i s hlow hp
    refine ⟨fun hst => ?_, fun hst => ?_⟩
    · have hair : ¬ endsPending (s.dev.slot i) = true := fun hc => by
        obtain ⟨hr, ha⟩ | ha := (endsPending_iff _).1 hc <;> simp [*] at hst
      have hruns := (lifetimeRuns_iff (s.dev.slot i)).2
        (by obtain ⟨hst, -⟩ | hst | hst | hst := hst <;> rw [hst] <;> exact ⟨nofun, nofun, nofun, hp⟩)
      exact exec_of_event (Device.lifeTime i) rfl hlow (lifeTime_ends hruns hair)
    · refine exec_of_event (Device.lifeTime i) rfl hlow (lifeTime_stays fun hc => ?_)
      obtain ⟨hfree, hreserved, howed, -⟩ := (lifetimeRuns_iff _).1 hc
      exact hst.elim hfree fun h => h.elim hreserved howed
  case events =>
    intro d
    exact ⟨by rw [routeEvents, List.foldl_nil], fun st r => by rw [routeEvents, routeEvents, List.foldl_cons]⟩
  case event =>
    intro d st hlen
    obtain ⟨⟨r, sl, he⟩, hslot, hitems⟩ := routeEvent_every d st hlen
    generalize d.routeEvent st = told at he hslot hitems ⊢
    intro asks answer moved e
    have hasked (i : Nat) (hi : i < 8) (h : asks (d.slot i)) : e.slot i = d.answered (d.slot i) :=
      (hslot i).trans (if_pos ⟨List.mem_range.2 hi, (asksAt_iff d st _).2 h⟩)
    refine ⟨?_, fun i hi => ⟨fun hno => ?_, fun hasks => ⟨fun hans => ?_, fun h hans => ⟨fun hh => ?_, fun hh => ?_⟩⟩⟩,
      fun it => ?_⟩
    · exact he.trans (by rw [show e = _ from he])
    · exact (hslot i).trans (if_neg fun hc => hno ((asksAt_iff d st _).1 hc.2))
    · exact (hasked i hi hasks).trans (answered_none hans)
    · exact (hasked i hi hasks).trans (answered_same hans hh)
    · refine ((hasked i hi hasks).trans (answered_other hans hh)).trans ?_
      rfl
    · refine (hitems it).trans (and_congr_right fun _ => not_congr ⟨?_, ?_⟩)
      · rintro ⟨j, hj, hdata, hasks, hmoves⟩
        obtain ⟨hkind, howner⟩ := (isDataOf_iff j it).1 hdata
        exact ⟨hkind, j, List.mem_range.1 hj, howner, (asksAt_iff d st _).1 hasks, (answerMoves_iff d _).1 hmoves⟩
      · rintro ⟨hkind, j, hj, howner, hasks, hmoves⟩
        exact ⟨j, List.mem_range.2 hj, (isDataOf_iff j it).2 ⟨hkind, howner⟩, (asksAt_iff d st _).2 hasks,
          (answerMoves_iff d _).2 hmoves⟩

end Sys2Proof.Machine
end

section
/-! PROOF. The host's orders about a case, and what received distress traffic does to it (O40). -/

namespace Sys2Proof.Machine
namespace Device

/-! ### The relay of a case (R123) -/

/-- The conditions of R123. -/
def wantsCase (d : Device) (c : Case) : Prop :=
  d.config.distress = true ∧ c.st = .unacked ∧ c.readable = true ∧ c.relay = .none ∧ d.distress.settled.length < 64

theorem examineCase_unwanted {d : Device} {st : Station} {c : Case} (h : d.case? st = some c)
    (hw : ¬ d.wantsCase c) : d.examineCase st = d := by
  unfold examineCase
  rw [h]
  exact if_neg hw

theorem examineCase_refused {d x : Device} {st : Station} {c : Case} (h : d.case? st = some c)
    (hw : d.wantsCase c) (hx : d.startWait .distress st c.alert = (false, none, x)) : d.examineCase st = x := by
  unfold examineCase
  rw [h]
  refine (if_pos hw).trans ?_
  rw [hx]
  rfl

theorem examineCase_taken {d x : Device} {st : Station} {c : Case} (h : d.case? st = some c)
    (hw : d.wantsCase c) (hx : d.startWait .distress st c.alert = (true, none, x)) :
    d.examineCase st = x.onCase st fun c => { c with relay := .waiting } := by
  unfold examineCase
  rw [h]
  refine (if_pos hw).trans ?_
  rw [hx]
  rfl

theorem examineCase_displaces {d x : Device} {st : Station} {c : Case} {w : Wait} (h : d.case? st = some c)
    (hw : d.wantsCase c) (hx : d.startWait .distress st c.alert = (true, some w, x)) :
    d.examineCase st = (x.onWarning w.station w.number fun x => { x with relay := .none }).onCase st fun c =>
      { c with relay := .waiting } := by
  unfold examineCase
  rw [h]
  refine (if_pos hw).trans ?_
  rw [hx]
  rfl

/-! ### The settled-alert list (R124) -/

theorem enterSettled_stays {d : Device} {st alert : Nat}
    (h : (st, alert) ∈ d.distress.settled ∨ 64 ≤ d.distress.settled.length) : d.enterSettled st alert = d :=
  if_pos (h.imp_left List.contains_iff_mem.2)

theorem enterSettled_enters {d : Device} {st alert : Nat} (hnew : (st, alert) ∉ d.distress.settled)
    (hroom : d.distress.settled.length < 64) :
    let e := d.onDistress fun u => { u with settled := u.settled ++ [(st, alert)] }
    d.enterSettled st alert = if d.distress.settled.length = 63 then e.settledFull else e := by
  intro e
  have hlen : e.distress.settled.length = 64 ↔ d.distress.settled.length = 63 := by
    have hone : e.distress.settled.length = d.distress.settled.length + 1 := List.length_append
    rw [hone]
    omega
  have hrow : d.enterSettled st alert = if e.distress.settled.length = 64 then e.settledFull else e :=
    if_neg fun hc => hc.elim (fun hin => hnew (List.contains_iff_mem.1 hin)) (Nat.not_le.2 hroom)
  rw [hrow]
  exact if_congr hlen rfl rfl

theorem settledFull_eq (d : Device) : d.settledFull = { d with
    waits := d.waits.filter fun w => w.kind != .distress,
    access := { d.access with distress := d.access.distress.withdraw fun it => it.kind == .distressRelay },
    distress := { d.distress with cases := d.distress.cases.map fun c =>
      if c.relay = .waiting ∨ c.relay = .offered then { c with relay := .suppressed } else c } } := by
  have hcases : mapIf (fun c : Case => c.relay == RelayState.waiting || c.relay == RelayState.offered)
      (fun c => { c with relay := .suppressed }) d.distress.cases = d.distress.cases.map fun c =>
        if c.relay = .waiting ∨ c.relay = .offered then { c with relay := .suppressed } else c :=
    List.map_congr_left fun c _ => if_congr (by simp) rfl rfl
  rw [← hcases]
  rfl

/-- With its list below 63 alerts, a settled alert entered changes that list alone. -/
theorem enterSettled_short {d : Device} (st alert : Nat) (h : d.distress.settled.length < 63) :
    ∃ l, d.enterSettled st alert = { d with distress := { d.distress with settled := l } } ∧ (st, alert) ∈ l := by
  by_cases hin : (st, alert) ∈ d.distress.settled
  · exact ⟨d.distress.settled, enterSettled_stays (.inl hin), hin⟩
  · refine ⟨d.distress.settled ++ [(st, alert)], ?_, List.mem_append_right _ (List.mem_singleton_self _)⟩
    exact (enterSettled_enters hin (Nat.lt_succ_of_lt h)).trans (if_neg (Nat.ne_of_lt h))

/-! ### The relay suppressed (R118, R124) -/

theorem relaySuppressed_own {c : Case} {alert : Nat} (h : c.alert = alert) :
    relaySuppressed alert c = { c with relay := if c.relay = .relayed then .relayed else .suppressed } := by
  unfold relaySuppressed
  by_cases hr : c.relay = .relayed
  · rw [if_neg fun hc => hc.2 hr, if_pos hr, ← hr]
  · rw [if_pos ⟨h, hr⟩, if_neg hr]

theorem suppressRelay_items (d : Device) (st alert : Nat) :
    ∀ it, it ∈ (d.suppressRelay st alert).access.distress.items ↔
      it ∈ d.access.distress.items ∧ it.owner ≠ .caseRelay st alert := fun it =>
  (mem_items_withdraw d.access.distress (isRelayItem st alert) it).trans
    (and_congr_right fun _ => by simp [isRelayItem])

theorem distressRelayHeard_beside (d : Device) (st alert : Nat) :
    (d.distressRelayHeard st alert).wait? .distress st alert = none ∧
      (d.distressRelayHeard st alert).console = d.console := by
  have hwait := wait_removeWait d .distress st alert
  unfold distressRelayHeard
  dsimp only
  split <;> split <;> exact ⟨hwait, rfl⟩

theorem distressRelayHeard_held {d : Device} {st alert : Nat} {c : Case} (h : d.case? st = some c)
    (ha : c.alert = alert) : d.distressRelayHeard st alert =
      if (d.wait? .distress st alert).isSome = true ∨ c.relay = .offered
        then (d.removeWait .distress st alert).suppressRelay st alert else d.removeWait .distress st alert := by
  unfold distressRelayHeard
  rw [h]
  exact if_congr (by simp [ha]) rfl rfl

/-! ### A DISTRESS-ACK heard (R118) -/

/-- A case as heard of now. -/
def heardAt (now : Time) (c : Case) : Case := { c with lastHeard := now }

theorem distressAckHeard_eq {d : Device} {st : Station} {b : Burst} (hlen : d.distress.settled.length < 63) :
    ∃ l, (st, b.seq) ∈ l ∧
      let heard := onCase { d.removeWait .distress st b.seq with distress := { d.distress with settled := l } } st
        (heardAt d.now)
      d.distressAckHeard st b = if heard.holdsAlert st b.seq then
          match (heard.suppressRelay st b.seq).case? st with
          | none => heard.suppressRelay st b.seq
          | some c =>
            if c.st = .unacked ∧ b.pass then
              ((heard.suppressRelay st b.seq).onCase st (stationAcked b.source)).reportCase st .acked
            else heard.suppressRelay st b.seq
        else heard := by
  obtain ⟨l, hl, hin⟩ := enterSettled_short (d := d.removeWait .distress st b.seq) st b.seq hlen
  refine ⟨l, hin, ?_⟩
  unfold distressAckHeard
  rw [hl]
  rfl

theorem reportCase_wait (d : Device) (st : Station) (event : CaseEvent) (k : WaitKind) (s n : Nat) :
    (d.reportCase st event).wait? k s n = d.wait? k s n := by
  unfold wait?
  rw [reportCase_eq]

theorem onCase_beside (d : Device) (st : Station) (f : Case → Case) :
    (d.onCase st f).console = d.console ∧ (d.onCase st f).config = d.config := ⟨rfl, rfl⟩

/-- What an acknowledged alert leaves of a case that holds it: the relay given up, unless it was sent. -/
def quieted (now : Time) (c : Case) : Case :=
  { c with lastHeard := now, relay := if c.relay = .relayed then .relayed else .suppressed }

theorem distressAckHeard_facts {d : Device} {st : Station} {b : Burst} (hlen : d.distress.settled.length < 63) :
    let e := d.distressAckHeard st b
    (st, b.seq) ∈ e.distress.settled ∧ e.wait? .distress st b.seq = none ∧
    (∀ c, d.case? st = some c → c.alert ≠ b.seq →
      e.case? st = some (heardAt d.now c) ∧ e.console = d.console ∧ e.access = d.access) ∧
    ∀ c, d.case? st = some c → c.alert = b.seq →
      (∀ it ∈ e.access.distress.items, it.owner ≠ .caseRelay st b.seq) ∧
      (c.st = .unacked → b.pass = true → e.case? st = some (stationAcked b.source (quieted d.now c)) ∧
        e.console.distress = d.console.distress.told 8 .caseUpdate 0 (.caseOf st)
          (d.caseData (stationAcked b.source (quieted d.now c)) .acked)) ∧
      (c.st ≠ .unacked ∨ b.pass = false → e.case? st = some (quieted d.now c) ∧ e.console = d.console) := by
  obtain ⟨l, hin, hrow⟩ := distressAckHeard_eq (d := d) (st := st) (b := b) hlen
  dsimp only at hrow
  let entered : Device := { d.removeWait .distress st b.seq with distress := { d.distress with settled := l } }
  let heard := entered.onCase st (heardAt d.now)
  let quiet := heard.suppressRelay st b.seq
  have hwait : entered.wait? .distress st b.seq = none := wait_removeWait d .distress st b.seq
  have hitems (it : Item) (hit : it ∈ quiet.access.distress.items) : it.owner ≠ .caseRelay st b.seq :=
    ((suppressRelay_items heard st b.seq it).1 hit).2
  have hheard {c : Case} (h : d.case? st = some c) : heard.case? st = some (heardAt d.now c) :=
    case_onCase_same (d := entered) (heardAt d.now) h fun _ hx => hx
  have hnone (h : d.case? st = none) : heard.case? st = none := by
    rw [case_onCase entered st (heardAt d.now) fun _ hx => hx, if_pos rfl]
    exact congrArg (Option.map _) h
  have hquiet {c : Case} (h : d.case? st = some c) (ha : c.alert = b.seq) :
      quiet.case? st = some (quieted d.now c) :=
    (suppressRelay_case b.seq (hheard h)).trans (congrArg some (relaySuppressed_own ha))
  have hother {c : Case} (h : d.case? st = some c) (ha : c.alert ≠ b.seq) : d.distressAckHeard st b = heard :=
    hrow.trans (if_neg fun hc => by
      obtain ⟨x, hx, hxa⟩ := holdsAlert_iff.1 hc
      cases (hheard h).symm.trans hx
      exact ha hxa)
  have hsame {c : Case} (h : d.case? st = some c) (ha : c.alert = b.seq) : d.distressAckHeard st b
      = if c.st = .unacked ∧ b.pass
          then (quiet.onCase st (stationAcked b.source)).reportCase st .acked else quiet := by
    refine (hrow.trans (if_pos (holdsAlert_iff.2 ⟨_, hheard h, ha⟩))).trans ?_
    rw [show (heard.suppressRelay st b.seq).case? st = _ from hquiet h ha]
    rfl
  let acked := quiet.onCase st (stationAcked b.source)
  have hforms : d.distressAckHeard st b = heard ∨ d.distressAckHeard st b = quiet ∨
      d.distressAckHeard st b = acked.reportCase st .acked := by
    cases h : d.case? st with
    | none => exact .inl (hrow.trans (if_neg fun hc => by
        obtain ⟨x, hx, -⟩ := holdsAlert_iff.1 hc
        rw [hnone h] at hx
        cases hx))
    | some c =>
      by_cases ha : c.alert = b.seq
      · rw [hsame h ha]
        split
        · exact .inr (.inr rfl)
        · exact .inr (.inl rfl)
      · exact .inl (hother h ha)
  refine ⟨?_, ?_, fun c h ha => ?_, fun c h ha => ⟨?_, fun hst hp => ?_, fun hno => ?_⟩⟩
  · obtain hf | hf | hf := hforms <;> rw [hf]
    · exact hin
    · exact hin
    · rw [reportCase_eq]
      exact hin
  · obtain hf | hf | hf := hforms <;> rw [hf]
    · exact hwait
    · exact hwait
    · exact (reportCase_wait acked st .acked _ _ _).trans hwait
  · rw [hother h ha]
    exact ⟨hheard h, rfl, rfl⟩
  · rw [hsame h ha]
    split
    · rw [reportCase_eq]
      exact hitems
    · exact hitems
  · rw [hsame h ha, if_pos ⟨hst, hp⟩]
    obtain ⟨hconsole, hconfig⟩ := quiet.onCase_beside st (stationAcked b.source)
    exact reportCase_distressTold .acked (case_onCase_same (stationAcked b.source) (hquiet h ha) fun _ hx => hx)
      (congrArg (fun k : Console => k.distress) hconsole) hconfig
  · rw [hsame h ha, if_neg fun hc => hno.elim (fun hn => hn hc.1) fun hn => by rw [hn] at hc; cases hc.2]
    exact ⟨hquiet h ha, rfl⟩

/-! ### A case that closes (R119, R122) -/

theorem told_room {l : Lane} {cap : Nat} {kind : ReportKind} {tag : Nat} {mark : OwedRef} (data : List Datum)
    (hroom : l.entries.length < cap) (hmark : mark ∉ l.owed) :
    l.told cap kind tag mark data = { l with entries := l.entries ++ [⟨kind, tag, .report data, 0⟩] } := by
  unfold Lane.told
  rw [if_neg hmark, if_pos hroom]

/-- A case as it closes. -/
def shut (r : CloseReason) (c : Case) : Case := { c with st := .closed, closeReason := some r }

theorem cutIfQuiet_timer (d : Device) :
    ∃ t, d.cutIfQuiet = { d with distress := { d.distress with holdTimer := t } } := by
  unfold cutIfQuiet
  split
  · exact ⟨_, rfl⟩
  · exact ⟨d.distress.holdTimer, rfl⟩

theorem dropCaseTraffic_log (d : Device) (st alert : Nat) : (d.dropCaseTraffic st alert).log = d.log := by
  unfold dropCaseTraffic
  dsimp only
  split <;> rfl

/-- A case that closes, with its traffic dropped, its report, and the cut of R126. -/
theorem closeCase_facts {d : Device} {c x : Case} (r : CloseReason) (hx : d.case? c.station = some x) :
    let e := d.closeCase c r
    (∃ o, e.case? c.station = some (shut r { x with ownAck := o })) ∧
    e.wait? .distress c.station c.alert = none ∧
    (∀ it ∈ e.access.distress.items,
      it.owner ≠ .caseAck c.station c.alert ∧ it.owner ≠ .caseRelay c.station c.alert) ∧
    e.store = d.store ∧ e.log = d.log ∧
    e.console.distress = d.console.distress.told 8 .caseClosed 0 (.caseOf c.station)
      (caseClosedData c.station c.alert r) ∧
    (d.distress.own.st = .idle → (∀ y ∈ d.distress.cases, y.station ≠ c.station → y.st = .closed) →
      e.distress.holdTimer = d.distress.holdTimer.map fun t => min t (d.now + 60000)) := by
  obtain ⟨hwait, hitems, hconsole, hstore, -, hnow, -, -, hown, htimer, -, -, hcase, hcases, -⟩ :=
    d.dropCase_facts c.station c.alert
  obtain ⟨o, hcase⟩ := hcase x hx
  let closed := (d.dropCaseTraffic c.station c.alert).onCase c.station (shut r)
  have hclosed : closed.case? c.station = some (shut r { x with ownAck := o }) :=
    case_onCase_same (shut r) hcase fun _ hs => hs
  have hothers (h : ∀ y ∈ d.distress.cases, y.station ≠ c.station → y.st = .closed) : closed.caseOpen = false := by
    refine List.any_eq_false.2 fun y hy => ?_
    rw [show closed = _ from onCase_map _ _ _] at hy
    obtain ⟨z, hz, rfl⟩ := List.mem_map.1 hy
    obtain ⟨w, hw, hstation, hst⟩ := hcases z hz
    split
    · simp [shut]
    · rename_i hne
      rw [hst, h w hw (hstation ▸ hne)]
      decide
  let data := caseClosedData c.station c.alert r
  have htold := report_distressTold closed (.caseOf c.station) data (kind := .caseClosed) rfl
  obtain ⟨t, ht⟩ := (closed.report .caseClosed (.caseOf c.station) data).cutIfQuiet_timer
  intro e
  have hrow : e = { closed.report .caseClosed (.caseOf c.station) data with
    distress := { (closed.report .caseClosed (.caseOf c.station) data).distress with holdTimer := t } } := ht
  rw [htold] at hrow
  have hlane : closed.console.distress = d.console.distress := congrArg (fun k => k.distress) hconsole
  refine ⟨⟨o, ?_⟩, ?_, ?_, ?_, ?_, ?_, fun hidle hquiet => ?_⟩
  · rw [hrow]
    exact hclosed
  · rw [hrow]
    exact hwait
  · rw [hrow]
    exact hitems
  · rw [hrow]
    exact hstore
  · rw [hrow]
    exact dropCaseTraffic_log d _ _
  · rw [hrow]
    exact congrArg (fun l : Lane => l.told 8 .caseClosed 0 (.caseOf c.station) data) hlane
  · have hcut : e = _ := cutIfQuiet_idle (d := closed.report .caseClosed (.caseOf c.station) data)
      (by rw [htold]; exact (congrArg OwnAlert.st hown).trans hidle)
    rw [hcut, htold]
    have hopen := hothers hquiet
    exact (if_neg fun hc => Bool.false_ne_true (hopen.symm.trans hc)).trans (by rw [← htimer, ← hnow]; rfl)

/-! ### An alert applied to the cases (R116, R117) -/

/-- `e` with a CASE UPDATE about `c` in the distress lane. -/
def caseTold (e : Device) (c : Case) (event : CaseEvent) : Device :=
  { e with console := { e.console with distress := { e.console.distress with
    entries := e.console.distress.entries ++ [⟨.caseUpdate, 0, .report (e.caseData c event), 0⟩] } } }

theorem reportCase_room {e : Device} {st : Station} {c : Case} (event : CaseEvent) (hc : e.case? st = some c)
    (hroom : e.console.distress.entries.length < 8) (hmark : OwedRef.caseOf st ∉ e.console.distress.owed) :
    e.reportCase st event = e.caseTold c event :=
  (reportCase_some hc event).trans (report_distress_room e .caseUpdate (.caseOf st) _ rfl hroom hmark)

/-- `d` with the case added to the table. -/
def withCase (d : Device) (c : Case) : Device := d.onDistress fun u => { u with cases := u.cases ++ [c] }

theorem withCase_case {d : Device} {c : Case} (s : Station) (h : d.case? c.station = none) :
    (d.withCase c).case? s = if s = c.station then some c else d.case? s := by
  have happend : (d.withCase c).case? s = (d.case? s).or ([c].find? fun x => x.station == s) := List.find?_append
  rw [happend]
  split
  · rename_i hs
    rw [hs, h, List.find?_cons_of_pos (by exact beq_self_eq_true c.station)]
    rfl
  · rename_i hs
    rw [List.find?_cons_of_neg (by simpa using fun hc => hs hc.symm), List.find?_nil, Option.or_none]

theorem applyAlert_new {d : Device} {st : Station} (alert : Nat) (facts : Option DistressFacts)
    (via : Option Station) (h : d.case? st = none) (hroom : d.distress.cases.length < 6) :
    d.applyAlert st alert facts via = (d.withCase (d.freshCase st alert facts via)).reportCase st .created := by
  unfold applyAlert
  rw [h]
  exact if_pos hroom

theorem applyAlert_unplaced {d : Device} {st : Station} (alert : Nat) (facts : Option DistressFacts)
    (via : Option Station) (h : d.case? st = none) (hfull : 6 ≤ d.distress.cases.length)
    (hnone : d.caseToFree = none) : d.applyAlert st alert facts via = d.distressHeard st alert facts via := by
  unfold applyAlert
  rw [h, hnone]
  exact if_neg (Nat.not_lt.2 hfull)

/-- An alert that finds no place, told and counted (R117). -/
theorem distressHeard_room {d : Device} (st alert : Nat) (facts : Option DistressFacts) (via : Option Station)
    (hroom : d.console.distress.entries.length < 8) : d.distressHeard st alert facts via = { d with
      distress := { d.distress with
        counts := { d.distress.counts with notRecorded := bump d.distress.counts.notRecorded } },
      console := { d.console with distress := { d.console.distress with
        entries := d.console.distress.entries ++ [⟨.distressHeard, 0, .report
          [.num 3 st, .num 1 alert, .num 1 ((facts.map fun f => f.nature).getD 0),
           .num 1 (if facts.isSome then 1 else 0), .num 3 (via.getD 0)], 0⟩] } } } := by
  have hlane : (d.onDistressCounts fun c => { c with notRecorded := bump c.notRecorded }).laneRoom
      ReportKind.distressHeard.lane = true := decide_eq_true hroom
  unfold distressHeard reportOrLose
  dsimp only
  rw [if_pos hlane, queueEntry, if_pos hlane]
  cases facts <;> rfl

theorem applyAlert_frees {d : Device} {st : Station} {c : Case} (alert : Nat) (facts : Option DistressFacts)
    (via : Option Station) (h : d.case? st = none) (hfull : 6 ≤ d.distress.cases.length)
    (hc : d.caseToFree = some c) : d.applyAlert st alert facts via
      = ((d.freeCase c st).withCase ((d.freeCase c st).freshCase st alert facts via)).reportCase st .created := by
  unfold applyAlert
  rw [h, hc]
  exact if_neg (Nat.not_lt.2 hfull)

theorem applyAlert_another {d : Device} {st : Station} {c : Case} {alert : Nat} (facts : Option DistressFacts)
    (via : Option Station) (h : d.case? st = some c) (ha : c.alert ≠ alert) :
    let dropped := d.dropCaseTraffic st c.alert
    d.applyAlert st alert facts via
      = (dropped.onCase st fun _ => dropped.freshCase st alert facts via).reportCase st .newAlert := by
  unfold applyAlert
  rw [h]
  exact if_pos ha

/-- The case as a further burst about its alert leaves it (R116). -/
def heardAgain (d : Device) (c : Case) (facts : Option DistressFacts) (via : Option Station) : Case :=
  { withFacts c facts via with lastHeard := d.now }

/-- The case with the facts of a burst that reads. -/
def better (c : Case) (facts : Option DistressFacts) : Case :=
  match facts with
  | none => c
  | some f => { c with nature := f.nature, pos := f.pos, posTime := f.posTime, persons := f.persons, readable := true }

theorem withFacts_eq (c : Case) (facts : Option DistressFacts) (via : Option Station) : withFacts c facts via =
    { better c facts with via := if via = none ∨ (better c facts).via = none then none else via } := by
  cases via with
  | none => rw [if_pos (.inl rfl)]; rfl
  | some s =>
    have hrow : withFacts c facts (some s)
      = { better c facts with via := if (better c facts).via = none then none else some s } := rfl
    rw [hrow]
    simp

theorem heardAgain_eq (d : Device) (c : Case) (facts : Option DistressFacts) (via : Option Station) :
    d.heardAgain c facts via = { better c facts with
      lastHeard := d.now, via := if via = none ∨ c.via = none then none else via } := by
  have hkept : (better c facts).via = c.via := by cases facts <;> rfl
  rw [heardAgain, withFacts_eq, hkept]

theorem applyAlert_open {d : Device} {st : Station} {c : Case} {alert : Nat} (facts : Option DistressFacts)
    (via : Option Station) (h : d.case? st = some c) (ha : c.alert = alert) (hst : c.st ≠ .closed) :
    let heard := d.heardAgain c facts via
    d.applyAlert st alert facts via = if heard = { c with lastHeard := d.now } then d.onCase st fun _ => heard
      else (d.onCase st fun _ => heard).reportCase st .facts := by
  unfold applyAlert
  rw [h]
  dsimp only
  rw [if_neg (not_not_intro ha)]
  cases hs : c.st with
  | closed => exact absurd hs hst
  | unacked | acked => rfl

theorem applyAlert_cancelled {d : Device} {st : Station} {c : Case} {alert : Nat} (facts : Option DistressFacts)
    (via : Option Station) (h : d.case? st = some c) (ha : c.alert = alert) (hst : c.st = .closed)
    (hr : c.closeReason = some .cancelled) : d.applyAlert st alert facts via = d.onCase st (heardAt d.now) := by
  unfold applyAlert
  rw [h]
  dsimp only
  rw [if_neg (not_not_intro ha)]
  simp only [hst, hr]
  rfl

/-- The case opened again (R116). -/
def reopened (d : Device) (c : Case) (facts : Option DistressFacts) (via : Option Station) : Case :=
  { d.heardAgain c facts via with st := .unacked, closeReason := none, ackedBy := none, ownAck := .none }

theorem applyAlert_opened {d : Device} {st : Station} {c : Case} {alert : Nat} (facts : Option DistressFacts)
    (via : Option Station) (h : d.case? st = some c) (ha : c.alert = alert) (hst : c.st = .closed)
    (hr : c.closeReason ≠ some .cancelled) : d.applyAlert st alert facts via
      = (d.onCase st fun _ => d.reopened c facts via).reportCase st .reopened := by
  unfold applyAlert
  rw [h]
  dsimp only
  rw [if_neg (not_not_intro ha)]
  simp only [hst]
  rfl

theorem heardAgain_station (d : Device) (c : Case) (facts : Option DistressFacts) (via : Option Station) :
    (d.heardAgain c facts via).station = c.station := withFacts_station c facts via

/-! ### The case that gives way (R117) -/

theorem caseToFree_none {d : Device} (h : ∀ c ∈ d.distress.cases, c.st = .unacked) : d.caseToFree = none := by
  have hnil (p : Case → Bool) (hp : ∀ c, c.st = .unacked → p c = false) :
      (sortBy (fun c : Case => c.station) d.distress.cases).filter p = [] :=
    List.filter_eq_nil_iff.2 fun c hc => by
      rw [hp c (h c ((sortBy_perm _ _).mem_iff.1 hc))]
      decide
  unfold caseToFree
  dsimp only
  rw [hnil _ fun c hc => by rw [hc]; rfl, hnil _ fun c hc => by rw [hc]; rfl]
  rfl

theorem leastOf_state (d : Device) (q : CaseState) :
    let l := (sortBy (fun c : Case => c.station) d.distress.cases).filter fun c => c.st == q
    (∀ c, minBy? (fun c => c.lastHeard) l = some c → c ∈ d.distress.cases ∧ c.st = q ∧
      ∀ x ∈ d.distress.cases, x.st = q →
        c.lastHeard < x.lastHeard ∨ c.lastHeard = x.lastHeard ∧ c.station ≤ x.station) ∧
    (minBy? (fun c => c.lastHeard) l = none → ∀ x ∈ d.distress.cases, x.st ≠ q) := by
  intro l
  have hsorted : l.Pairwise fun a b => a.station ≤ b.station := (sortBy_sorted _ _).filter _
  have hmem {x : Case} : x ∈ l ↔ x ∈ d.distress.cases ∧ x.st = q := by
    simp only [l, List.mem_filter, (sortBy_perm _ _).mem_iff, beq_iff_eq]
  obtain ⟨hleast, hnone⟩ := minBy_spec (fun c : Case => c.lastHeard) (fun a b => a.station ≤ b.station)
    (fun a => Nat.le_refl a.station) l hsorted
  refine ⟨fun c hc => ?_, fun hn x hx hst => ?_⟩
  · obtain ⟨hin, hfirst⟩ := hleast c hc
    obtain ⟨hin, hst⟩ := hmem.1 hin
    exact ⟨hin, hst, fun x hx hxst => hfirst x (hmem.2 ⟨hx, hxst⟩)⟩
  · have hin := hmem.2 ⟨hx, hst⟩
    rw [hnone.1 hn] at hin
    cases hin

theorem caseToFree_some {d : Device} (h : ∃ c ∈ d.distress.cases, c.st ≠ .unacked) :
    ∃ c ∈ d.distress.cases, d.caseToFree = some c ∧
      (c.st = .closed ∨ c.st = .acked ∧ ∀ x ∈ d.distress.cases, x.st ≠ .closed) ∧
      ∀ x ∈ d.distress.cases, x.st = c.st →
        c.lastHeard < x.lastHeard ∨ c.lastHeard = x.lastHeard ∧ c.station ≤ x.station := by
  obtain ⟨hclosed, hnoClosed⟩ := d.leastOf_state .closed
  obtain ⟨hacked, hnoAcked⟩ := d.leastOf_state .acked
  unfold caseToFree
  dsimp only at hclosed hnoClosed hacked hnoAcked ⊢
  cases hc : minBy? (fun c : Case => c.lastHeard)
    ((sortBy (fun c : Case => c.station) d.distress.cases).filter fun c => c.st == .closed) with
  | some c =>
    obtain ⟨hin, hst, hfirst⟩ := hclosed c hc
    exact ⟨c, hin, rfl, .inl hst, fun x hx hxst => hfirst x hx (hxst.trans hst)⟩
  | none =>
    have hopen := hnoClosed hc
    cases ha : minBy? (fun c : Case => c.lastHeard)
      ((sortBy (fun c : Case => c.station) d.distress.cases).filter fun c => c.st == .acked) with
    | some c =>
      obtain ⟨hin, hst, hfirst⟩ := hacked c ha
      exact ⟨c, hin, rfl, .inr ⟨hst, hopen⟩, fun x hx hxst => hfirst x hx (hxst.trans hst)⟩
    | none =>
      obtain ⟨c, hin, hst⟩ := h
      have hnotClosed := hopen c hin
      have hnotAcked := hnoAcked ha c hin
      cases hs : c.st with
      | unacked => exact absurd hs hst
      | acked => exact absurd hs hnotAcked
      | closed => exact absurd hs hnotClosed

theorem dropCaseTraffic_told (d : Device) (st alert : Nat) :
    (d.dropCaseTraffic st alert).console = d.console := (d.dropCase_facts st alert).2.2.1

theorem passMark_console (d : Device) (old new : OwedRef) :
    d.passMark .distress old new = { d with console := (d.passMark .distress old new).console } := by
  rw [passMark_distress]

theorem passMark_unowed {d : Device} (old new : OwedRef) (h : d.console.distress.owed = []) :
    (d.passMark .distress old new).console.distress = d.console.distress := by
  rw [passMark_distress, h]
  dsimp only
  rw [if_neg List.not_mem_nil, List.map_nil, ← h]

/-- The place of a case, given up. -/
def withoutCase (d : Device) (st : Station) : Device :=
  d.onDistress fun u => { u with cases := u.cases.filter fun x => x.station != st }

/-- A case freed: its traffic dropped, its place given up, its mark passed on, an ACKED one told as closed (R117). -/
theorem freeCase_eq (d : Device) (c : Case) (new : Station) : ∃ k,
    d.freeCase c new = { (d.dropCaseTraffic c.station c.alert).withoutCase c.station with console := k } ∧
    (d.console.distress.entries.length < 7 → d.console.distress.owed = [] → k.distress.owed = [] ∧
      k.distress.entries = d.console.distress.entries ++ if c.st = .acked
        then [⟨.caseClosed, 0, .report (caseClosedData c.station c.alert .replaced), 0⟩] else []) := by
  let dropped := d.dropCaseTraffic c.station c.alert
  let told := dropped.report .caseClosed (.caseOf c.station) (caseClosedData c.station c.alert .replaced)
  have hlane : dropped.console.distress = d.console.distress :=
    congrArg (fun k : Console => k.distress) (d.dropCaseTraffic_told c.station c.alert)
  by_cases hst : c.st = .acked
  · have hrow : d.freeCase c new
        = (told.withoutCase c.station).passMark .distress (.caseOf c.station) (.caseOf new) := by
      unfold freeCase
      dsimp only
      rw [if_pos hst]
      rfl
    have htold : told = { dropped with console := told.console } := report_eq _ _ _ _
    rw [hrow, passMark_console, htold]
    refine ⟨_, rfl, fun hroom howed => ?_⟩
    have hentry : told.console.distress = { d.console.distress with entries := d.console.distress.entries ++
        [⟨.caseClosed, 0, .report (caseClosedData c.station c.alert .replaced), 0⟩] } := by
      rw [show told = _ from report_distressTold dropped (.caseOf c.station) _ rfl]
      dsimp only
      rw [hlane, told_room _ (by omega) (by rw [howed]; exact List.not_mem_nil)]
    rw [passMark_unowed _ _ (by exact (congrArg Lane.owed hentry).trans howed), if_pos hst]
    exact ⟨(congrArg Lane.owed hentry).trans howed, congrArg Lane.entries hentry⟩
  · have hrow : d.freeCase c new
        = (dropped.withoutCase c.station).passMark .distress (.caseOf c.station) (.caseOf new) := by
      unfold freeCase
      dsimp only
      rw [if_neg hst]
      rfl
    rw [hrow, passMark_console]
    refine ⟨_, rfl, fun _ howed => ?_⟩
    rw [passMark_unowed _ _ (by exact (congrArg Lane.owed hlane).trans howed), if_neg hst, List.append_nil]
    exact ⟨(congrArg Lane.owed hlane).trans howed, congrArg Lane.entries hlane⟩

theorem withoutCase_case (d : Device) (st s : Station) :
    (d.withoutCase st).case? s = if s = st then none else d.case? s := by
  split
  · rename_i hs
    refine List.find?_eq_none.2 fun x hx => ?_
    have hkept := (List.mem_filter.1 hx).2
    rw [hs]
    simpa using hkept
  · rename_i hs
    refine find_filter_not (fun x : Case => x.station == st) _ _ fun x hx => ?_
    rw [beq_iff_eq] at hx
    rw [hx]
    exact beq_false_of_ne (Ne.symm hs)

theorem reportCase_case (d : Device) (st : Station) (event : CaseEvent) (s : Station) :
    (d.reportCase st event).case? s = d.case? s := by
  unfold case?
  rw [reportCase_eq]

theorem reportCase_access (d : Device) (st : Station) (event : CaseEvent) :
    (d.reportCase st event).access = d.access := by
  rw [reportCase_eq]

theorem caseData_congr {d e : Device} (h : e.config = d.config) (c : Case) (event : CaseEvent) :
    e.caseData c event = d.caseData c event := by
  unfold caseData
  rw [h]

theorem freshCase_congr {d e : Device} (hnow : e.now = d.now) (hsettled : e.distress.settled = d.distress.settled)
    (st alert : Nat) (facts : Option DistressFacts) (via : Option Station) :
    e.freshCase st alert facts via = d.freshCase st alert facts via := by
  unfold freshCase
  rw [hnow, hsettled]

/-- An alert that takes the place of another case (R117). -/
theorem applyAlert_frees_facts {d : Device} {st : Station} {c : Case} (alert : Nat) (facts : Option DistressFacts)
    (via : Option Station) (h : d.case? st = none) (hc : c ∈ d.distress.cases) (hfull : 6 ≤ d.distress.cases.length)
    (hfree : d.caseToFree = some c) :
    let e := d.applyAlert st alert facts via
    e.case? st = some (d.freshCase st alert facts via) ∧ e.case? c.station = none ∧
    (∀ s, s ≠ st → s ≠ c.station → e.case? s = d.case? s) ∧ e.wait? .distress c.station c.alert = none ∧
    (∀ it ∈ e.access.distress.items,
      it.owner ≠ .caseAck c.station c.alert ∧ it.owner ≠ .caseRelay c.station c.alert) ∧
    (d.console.distress.entries.length < 7 → d.console.distress.owed = [] →
      e.console.distress.entries = d.console.distress.entries ++ ((if c.st = .acked
        then [⟨.caseClosed, 0, .report (caseClosedData c.station c.alert .replaced), 0⟩] else []) ++
        [⟨.caseUpdate, 0, .report (d.caseData (d.freshCase st alert facts via) .created), 0⟩])) := by
  obtain ⟨hwait, hitems, -, -, -, hnow, hconfig, hsettled, -, -, -, hothers, -⟩ := d.dropCase_facts c.station c.alert
  obtain ⟨k, hrow, htold⟩ := freeCase_eq d c st
  let dropped := d.dropCaseTraffic c.station c.alert
  let freed : Device := { dropped.withoutCase c.station with console := k }
  let fresh := d.freshCase st alert facts via
  have hfresh : freed.freshCase st alert facts via = fresh := freshCase_congr (e := freed) hnow hsettled _ _ _ _
  have happlied : d.applyAlert st alert facts via = (freed.withCase fresh).reportCase st .created := by
    rw [applyAlert_frees alert facts via h hfull hfree, hrow]
    exact congrArg (fun x => (freed.withCase x).reportCase st .created) hfresh
  have hst : st ≠ c.station := fun hs => by
    have hnot := List.find?_eq_none.1 h c hc
    rw [hs] at hnot
    exact hnot (beq_self_eq_true c.station)
  have hfreed (s : Station) : freed.case? s = if s = c.station then none else d.case? s := by
    refine (withoutCase_case dropped c.station s).trans ?_
    split
    · rfl
    · exact hothers s ‹_›
  have hcase (s : Station) := withCase_case (d := freed) (c := fresh) s
    (show freed.case? st = none by rw [hfreed, if_neg hst, h])
  intro e
  rw [show e = _ from happlied]
  refine ⟨?_, ?_, fun s hs hsc => ?_, ?_, ?_, fun hroom howed => ?_⟩
  · rw [reportCase_case, hcase]
    exact if_pos rfl
  · rw [reportCase_case, hcase, if_neg (show c.station ≠ fresh.station from hst.symm), hfreed, if_pos rfl]
  · rw [reportCase_case, hcase, if_neg (show s ≠ fresh.station from hs), hfreed, if_neg hsc]
  · exact (reportCase_wait _ _ _ _ _ _).trans hwait
  · rw [reportCase_access]
    exact hitems
  · obtain ⟨hnone, hentries⟩ := htold hroom howed
    have hheld : (freed.withCase fresh).case? st = some fresh := (hcase st).trans (if_pos rfl)
    have hlen : k.distress.entries.length < 8 := by
      rw [hentries, List.length_append]
      split <;> simp <;> omega
    rw [reportCase_room .created hheld hlen (by exact hnone ▸ List.not_mem_nil)]
    have hdata : (freed.withCase fresh).caseData fresh .created = d.caseData fresh .created :=
      caseData_congr hconfig _ _
    unfold caseTold
    rw [hdata]
    exact (congrArg (fun l => l ++ _) hentries).trans (List.append_assoc _ _ _)

/-! ### Traffic that names the part itself (R112) -/

/-- `e` with an OWN ALERT STATE in the distress lane. -/
def ownTold (e : Device) (data : List Datum) : Device :=
  { e with console := { e.console with distress := { e.console.distress with
    entries := e.console.distress.entries ++ [⟨.ownAlertState, 0, .report data, 0⟩] } } }

/-- The lane takes one OWN ALERT STATE. -/
def ownRoom (d : Device) : Prop :=
  d.console.distress.entries.length < 8 ∧ OwedRef.ownAlert ∉ d.console.distress.owed

theorem reportOwnHeard_room {d : Device} (h : d.ownRoom) (event : OwnEvent) (num : Nat) (st : Station) :
    d.reportOwnHeard event num st = d.ownTold (d.ownAlertData event num st) :=
  report_distress_room d .ownAlertState .ownAlert _ rfl h.1 h.2

theorem ownAcknowledged_old {d : Device} {b : Burst} (h : d.distress.own.st = .idle ∨ d.distress.own.num ≠ b.seq) :
    d.ownAcknowledged b = d.reportOwnHeard .oldAck b.seq b.source :=
  if_pos (h.symm.imp_left Ne.symm)

theorem ownAcknowledged_heard {d : Device} {b : Burst} (hnum : d.distress.own.num = b.seq)
    (hst : d.distress.own.st = .acknowledged ∨ d.distress.own.st = .cancelling) :
    d.ownAcknowledged b = d.reportOwnHeard .ackHeard d.distress.own.num b.source := by
  unfold ownAcknowledged
  obtain hst | hst := hst <;> simp [hst, hnum]

/-- The own alert acknowledged by `source`, its item withdrawn. -/
def alertAcknowledged (d : Device) (source : Station) : Device :=
  (d.onOwn fun o => { o with st := .acknowledged, ackedBy := some source, repeatDue := none }).withdraw .distress
    isOwnItem

theorem ownAcknowledged_first {d : Device} {b : Burst} (hnum : d.distress.own.num = b.seq)
    (hst : d.distress.own.st = .alerting) :
    d.ownAcknowledged b = (d.alertAcknowledged b.source).reportOwnHeard .acknowledged d.distress.own.num b.source := by
  have hknown : ¬ (b.seq ≠ d.distress.own.num ∨ d.distress.own.st = .idle) := fun hc =>
    hc.elim (fun hn => hn hnum.symm) fun hn => by rw [hst] at hn; cases hn
  refine (if_neg hknown).trans ?_
  rw [hst]
  rfl

theorem ownNamed_ack {d : Device} {b : Burst} (hk : b.kind = .distressAck) :
    let m := (d.removeWait .distress d.config.own b.seq).enterSettled d.config.own b.seq
    d.ownNamed b = if b.pass = true then m.ownAcknowledged b else m := by
  unfold ownNamed
  rw [hk]

theorem ownNamed_relay {d : Device} {b : Burst} (hk : b.kind = .distressRelay) :
    d.ownNamed b = if d.distress.own.st ≠ .idle ∧ d.distress.own.num = b.seq
      then d.reportOwnHeard .relayed b.seq b.source else d := by
  unfold ownNamed
  rw [hk]

/-! ### Received distress traffic (R115) -/

/-- The burst counted. -/
def burstCounted (d : Device) : Device := d.onDistressCounts fun c => { c with heard := bump c.heard }

/-- The hold timer restarted for a burst about `st`, and a burst that does not read counted. -/
def burstHeard (d : Device) (b : Burst) (st : Station) : Device :=
  let e := d.burstCounted.restartHold (causeOf b.kind).code st
  if readableBurst b then e else e.onDistressCounts fun c => { c with unreadable := bump c.unreadable }

theorem burstHeard_config (d : Device) (b : Burst) (st : Station) : (d.burstHeard b st).config = d.config := by
  have hkept : (d.burstCounted.restartHold (causeOf b.kind).code st).config = d.config :=
    congrArg Fixed.config (restartHold_fixed d.burstCounted (causeOf b.kind).code st)
  unfold burstHeard
  dsimp only
  split
  · exact hkept
  · exact hkept

theorem receiveDistress_unplaced {d : Device} {b : Burst} (h : concerned b = none) : d.receiveDistress b
    = (d.burstCounted.restartHold (causeOf b.kind).code 0).onDistressCounts fun c =>
      { c with unattributed := bump c.unattributed } := by
  unfold receiveDistress
  rw [h]
  rfl

/-- What becomes of a heard burst about `st`, by its kind. -/
def judgeHeard (d : Device) (b : Burst) (st : Station) : Device :=
  if st = d.config.own then d.ownNamed b
  else match b.kind with
    | .distressRelay => (d.distressRelayHeard st b.seq).applyAlert st b.seq (burstFacts b) (some b.source)
    | .distressAck => d.distressAckHeard st b
    | .cancel => d.cancelHeard b (readableBurst b)
    | _ => (d.applyAlert st b.seq (burstFacts b) none).examineCase st

theorem receiveDistress_heard {d : Device} {b : Burst} {st : Station} (h : concerned b = some st) :
    d.receiveDistress b = (d.burstHeard b st).judgeHeard b st := by
  unfold receiveDistress
  rw [h]
  rfl

theorem judgeHeard_own {d : Device} {b : Burst} {st : Station} (h : st = d.config.own) :
    d.judgeHeard b st = d.ownNamed b := if_pos h

theorem judgeHeard_distress {d : Device} {b : Burst} {st : Station} (h : st ≠ d.config.own) (hk : b.kind = .distress) :
    d.judgeHeard b st = (d.applyAlert st b.seq (burstFacts b) none).examineCase st := by
  refine (if_neg h).trans ?_
  rw [hk]

theorem judgeHeard_relay {d : Device} {b : Burst} {st : Station} (h : st ≠ d.config.own)
    (hk : b.kind = .distressRelay) :
    d.judgeHeard b st = (d.distressRelayHeard st b.seq).applyAlert st b.seq (burstFacts b) (some b.source) := by
  refine (if_neg h).trans ?_
  rw [hk]

theorem judgeHeard_ack {d : Device} {b : Burst} {st : Station} (h : st ≠ d.config.own) (hk : b.kind = .distressAck) :
    d.judgeHeard b st = d.distressAckHeard st b := by
  refine (if_neg h).trans ?_
  rw [hk]

theorem judgeHeard_cancel {d : Device} {b : Burst} {st : Station} (h : st ≠ d.config.own) (hk : b.kind = .cancel) :
    d.judgeHeard b st = d.cancelHeard b (readableBurst b) := by
  refine (if_neg h).trans ?_
  rw [hk]

/-- The station field reads: no symbol of it erased, and a station in it (R115). -/
def fieldReads (b : Burst) : Prop :=
  (b.erasures = 0 ∨ 63 ∉ b.body.take 3) ∧ 1 ≤ symsAt b.body 0 3 ∧ symsAt b.body 0 3 < 262143

theorem erased_iff (b : Burst) :
    (decide (0 < b.erasures) && (b.body.take 3).any fun s => s == 63) = false ↔
      b.erasures = 0 ∨ 63 ∉ b.body.take 3 := by
  rw [Bool.and_eq_false_iff, decide_eq_false_iff_not, Nat.not_lt, Nat.le_zero, List.any_eq_false]
  refine or_congr_right ⟨fun h hin => h 63 hin (by decide), fun h x hx hc => h ?_⟩
  rw [beq_iff_eq] at hc
  exact hc ▸ hx

theorem concerned_ack {b : Burst} (hk : b.kind = .distressAck) :
    (b.body.length = 3 ∧ fieldReads b → concerned b = some (symsAt b.body 0 3)) ∧
      (¬ (b.body.length = 3 ∧ fieldReads b) → concerned b = none) := by
  have hreads := and_congr_right (a := b.body.length = 3) fun _ =>
    and_congr_left (c := 1 ≤ symsAt b.body 0 3 ∧ symsAt b.body 0 3 < 262143) fun _ => erased_iff b
  unfold concerned
  rw [hk]
  exact ⟨fun h => if_pos (hreads.2 h), fun h => if_neg fun hc => h (hreads.1 hc)⟩

theorem concerned_relay {b : Burst} (hk : b.kind = .distressRelay) :
    (3 ≤ b.body.length ∧ fieldReads b → concerned b = some (symsAt b.body 0 3)) ∧
      (¬ (3 ≤ b.body.length ∧ fieldReads b) → concerned b = none) := by
  have hreads := and_congr_right (a := 3 ≤ b.body.length) fun _ =>
    and_congr_left (c := 1 ≤ symsAt b.body 0 3 ∧ symsAt b.body 0 3 < 262143) fun _ => erased_iff b
  unfold concerned
  rw [hk]
  exact ⟨fun h => if_pos (hreads.2 h), fun h => if_neg fun hc => h (hreads.1 hc)⟩

theorem concerned_source {b : Burst} (hk : b.kind = .distress ∨ b.kind = .cancel) : concerned b = some b.source := by
  unfold concerned
  obtain hk | hk := hk <;> rw [hk]

/-! ### The host's orders (R121, R122) -/

theorem orders_badStation {d : Device} {st : Nat} (h : st = 0 ∨ 262143 ≤ st) :
    orderClose st d = (.badParam, d) ∧ orderAck st d = (.badParam, d) := ⟨if_pos h, if_pos h⟩

theorem not_badStation {st : Nat} (h1 : 1 ≤ st) (h2 : st < 262143) : ¬ (st = 0 ∨ allStations ≤ st) := fun h =>
  h.elim (Nat.ne_of_gt h1) (Nat.not_le.2 h2)

theorem orders_noCase {d : Device} {st : Nat} (h1 : 1 ≤ st) (h2 : st < 262143) (h : d.case? st = none) :
    orderClose st d = (.noCase, d) ∧ orderAck st d = (.noCase, d) := by
  unfold orderClose orderAck
  rw [if_neg (not_badStation h1 h2), if_neg (not_badStation h1 h2), h]
  exact ⟨rfl, rfl⟩

theorem orderClose_case {d : Device} {st : Nat} {c : Case} (h1 : 1 ≤ st) (h2 : st < 262143) (h : d.case? st = some c) :
    orderClose st d = if c.st = .closed then (.state, d) else (.taken, d.closeCase c .host) := by
  unfold orderClose
  rw [if_neg (not_badStation h1 h2), h]

theorem orderAck_case {d : Device} {st : Nat} {c : Case} (h1 : 1 ≤ st) (h2 : st < 262143) (h : d.case? st = some c) :
    orderAck st d = if c.st = .closed then (.noCase, d) else (.taken, d.acknowledgeCase c) := by
  unfold orderAck
  rw [if_neg (not_badStation h1 h2), h]

theorem ownAcked_facts (c : Case) : (ownAcked c).st = .acked ∧ (ownAcked c).ownAck = .offered ∧
    (ownAcked c).alert = c.alert ∧ (ownAcked c).relay = c.relay ∧
    (c.st = .unacked → (ownAcked c).ackedBy = some .own) := by
  unfold ownAcked
  split
  · rename_i hst
    exact ⟨hst, rfl, rfl, rfl, fun hu => by rw [hst] at hu; cases hu⟩
  · exact ⟨rfl, rfl, rfl, rfl, fun _ => rfl⟩

/-- A case that the part acknowledges itself (R121). -/
theorem acknowledgeCase_facts {d : Device} {c : Case} (h : c.ownAck ≠ .offered) (hc : d.case? c.station = some c) :
    let e := d.acknowledgeCase c
    (∃ y, e.case? c.station = some y ∧ y.st = .acked ∧ y.ownAck = .offered ∧ y.alert = c.alert ∧
      y.relay = (if c.relay = .relayed then .relayed else .suppressed) ∧ (c.st = .unacked → y.ackedBy = some .own)) ∧
    (∃ it ∈ e.access.distress.waiting, it.kind = .distressAck ∧ it.owner = .caseAck c.station c.alert ∧
      it.dest = 262143 ∧ it.seq = c.alert ∧ it.body = toSyms 3 c.station ∧ it.ready = d.now) ∧
    (∀ it ∈ e.access.distress.items, it.owner ≠ .caseRelay c.station c.alert) ∧
    e.wait? .distress c.station c.alert = none := by
  let item := d.newItem .distressAck allStations c.alert (toSyms 3 c.station) (.caseAck c.station c.alert)
  let offered := (d.offer item).removeWait .distress c.station c.alert
  let quiet := offered.suppressRelay c.station c.alert
  let acked := quiet.onCase c.station ownAcked
  have hrow : d.acknowledgeCase c = acked.reportCase c.station .acked := if_neg h
  have hquiet : quiet.case? c.station = some (relaySuppressed c.alert c) :=
    suppressRelay_case (d := offered) c.alert hc
  have hacked : acked.case? c.station = some (ownAcked (relaySuppressed c.alert c)) :=
    case_onCase_same ownAcked hquiet fun x hx => (ownAcked_station x).trans hx
  intro e
  rw [show e = _ from hrow, reportCase_access]
  refine ⟨⟨_, (reportCase_case _ _ _ _).trans hacked, ?_⟩, ?_, fun it hit => ?_, ?_⟩
  · rw [relaySuppressed_own rfl]
    exact ownAcked_facts { c with relay := if c.relay = .relayed then .relayed else .suppressed }
  · refine ⟨{ item with order := d.access.nextOffer }, List.mem_filter.2 ⟨?_, rfl⟩, rfl, rfl, rfl, rfl, rfl, rfl⟩
    have hwaiting : offered.access.distress.waiting
        = d.access.distress.waiting ++ [{ item with order := d.access.nextOffer }] :=
      congrArg (fun e : Device => e.access.distress.waiting) (offer_toDistress rfl)
    exact hwaiting ▸ List.mem_append_right _ (List.mem_singleton_self _)
  · exact ((suppressRelay_items offered c.station c.alert it).1 hit).2
  · exact (reportCase_wait _ _ _ _ _ _).trans (wait_removeWait (d.offer item) .distress c.station c.alert)

theorem cancelHeard_heard {d : Device} {b : Burst} {readable : Bool} {c : Case} (h : d.case? b.source = some c) :
    d.cancelHeard b readable = if readable = true ∧ c.alert = b.seq ∧ c.st ≠ .closed
      then (d.onCase b.source (heardAt d.now)).closeCase c .cancelled else d.onCase b.source (heardAt d.now) := by
  unfold cancelHeard
  rw [h]
  rfl

end Device
open Device

/-- Settles O40: the orders, and each kind of received distress traffic. -/
theorem caseOrders : Obligations.CaseOrders := by
  refine ⟨⟨?orders, ?received, fun d cause st => rfl, ?own, ?applied, ?examined, ?acked, ?cancelled, ?settled,
    ?relayed, ?freed⟩, ?displaced⟩
  case orders =>
    intro tag st s hlive c
    refine ⟨fun h => ?_, fun h1 h2 h => ?_, fun h1 h2 x h => ?_⟩
    · obtain ⟨hclose, hack⟩ := orders_badStation (d := c) h
      exact ⟨exec_of_frame (orderClose st) rfl hlive hclose, exec_of_frame (orderAck st) rfl hlive hack⟩
    · obtain ⟨hclose, hack⟩ := orders_noCase h1 h2 h
      exact ⟨exec_of_frame (orderClose st) rfl hlive hclose, exec_of_frame (orderAck st) rfl hlive hack⟩
    have hclose := orderClose_case h1 h2 h
    have hack := orderAck_case h1 h2 h
    obtain rfl := case_station _ _ _ h
    refine ⟨fun hst => ?_, fun hst => ?_, fun hst => ?_, fun hst hown => ?_, fun hst hown => ?_⟩
    · exact exec_of_frame (orderClose x.station) rfl hlive (hclose.trans (if_pos hst))
    · exact exec_of_frame (orderAck x.station) rfl hlive (hack.trans (if_pos hst))
    · refine ⟨_, exec_of_frame (orderClose x.station) rfl hlive (hclose.trans (if_neg hst)), ?_⟩
      obtain ⟨⟨o, hcase⟩, hwait, hitems, hstore, hlog, -⟩ := closeCase_facts .host h
      exact ⟨⟨_, hcase, rfl, rfl, rfl⟩, hwait, hitems, hstore, hlog⟩
    · refine exec_of_frame (orderAck x.station) rfl hlive ((hack.trans (if_neg hst)).trans ?_)
      exact congrArg (Prod.mk _) (if_pos hown)
    · exact ⟨_, exec_of_frame (orderAck x.station) rfl hlive (hack.trans (if_neg hst)), acknowledgeCase_facts hown h⟩
  case received =>
    intro d b named clean facts counted unplaced heard
    have hown {st : Station} (h : st ≠ d.config.own) : st ≠ (d.burstHeard b st).config.own := by
      rw [burstHeard_config]
      exact h
    have hfacts (hk : b.kind = .distress ∨ b.kind = .distressRelay) : burstFacts b = facts := by
      unfold burstFacts
      obtain hk | hk := hk <;> simp [facts, hk]
    have hheard (st : Station) {readable : Bool} {cause : Nat} (hr : readableBurst b = readable)
        (hc : (causeOf b.kind).code = cause) : d.burstHeard b st = heard cause st readable := by
      rw [← hr, ← hc]
      rfl
    refine ⟨fun hk hs => ?_, fun hk hno => ?_, fun hk hlen hclean => ⟨fun hs => ?_, fun hs => ?_⟩, fun hk hno => ?_,
      fun hk hlen hclean => ⟨fun hs => ?_, fun hs => ?_⟩, fun hk hs => ?_⟩
    · rw [receiveDistress_heard (concerned_source (.inl hk)), judgeHeard_distress (hown hs) hk,
        hheard b.source (readable := facts.isSome) (by rw [← hfacts (.inl hk), readableBurst, hk])
          (cause := 1) (congrArg (fun k => (causeOf k).code) hk), hfacts (.inl hk)]
    · rw [receiveDistress_unplaced ((concerned_ack hk).2 hno), hk]
      rfl
    · rw [receiveDistress_heard ((concerned_ack hk).1 ⟨hlen, hclean⟩), judgeHeard_ack (hown hs) hk,
        hheard _ (readable := b.pass) (by rw [readableBurst, hk])
          (cause := 2) (congrArg (fun k => (causeOf k).code) hk)]
    · rw [receiveDistress_heard ((concerned_ack hk).1 ⟨hlen, hclean⟩),
        judgeHeard_own (by rw [burstHeard_config]; exact hs),
        hheard _ (readable := b.pass) (by rw [readableBurst, hk])
          (cause := 2) (congrArg (fun k => (causeOf k).code) hk)]
    · rw [receiveDistress_unplaced ((concerned_relay hk).2 hno), hk]
      rfl
    · rw [receiveDistress_heard ((concerned_relay hk).1 ⟨hlen, hclean⟩), judgeHeard_relay (hown hs) hk,
        hheard _ (readable := facts.isSome) (by rw [← hfacts (.inr hk), readableBurst, hk])
          (cause := 3) (congrArg (fun k => (causeOf k).code) hk),
        hfacts (.inr hk)]
    · rw [receiveDistress_heard ((concerned_relay hk).1 ⟨hlen, hclean⟩),
        judgeHeard_own (by rw [burstHeard_config]; exact hs),
        hheard _ (readable := facts.isSome) (by rw [← hfacts (.inr hk), readableBurst, hk])
          (cause := 3) (congrArg (fun k => (causeOf k).code) hk)]
    · intro readable
      have hreadable : readableBurst b = readable := by rw [readableBurst, hk]
      rw [receiveDistress_heard (concerned_source (.inr hk)), judgeHeard_cancel (hown hs) hk, hreadable,
        hheard b.source hreadable (cause := 4) (congrArg (fun k => (causeOf k).code) hk)]
  case own =>
    intro d b hroom hmark own m told
    obtain ⟨hconsole, hown, -, -⟩ := enterSettled_console (d.removeWait .distress d.config.own b.seq)
      d.config.own b.seq
    have hm : m.console = d.console := hconsole
    have hmroom : m.ownRoom := ⟨by rw [hm]; exact hroom, by rw [hm]; exact hmark⟩
    have hmown : m.distress.own = own := hown
    have hack (hk : b.kind = .distressAck) (hp : b.pass = true) : d.ownNamed b = m.ownAcknowledged b :=
      (ownNamed_ack hk).trans (if_pos hp)
    refine ⟨fun hk hp => ?_, fun hk hp hst hnum => ?_, fun hk hp hst hnum => ?_, fun hk hp hno => ?_,
      fun hk hst hnum => ?_, fun hk hno => ?_⟩
    · exact (ownNamed_ack hk).trans (if_neg (by rw [hp]; decide))
    · intro e
      have he : m.alertAcknowledged b.source = e := by
        unfold alertAcknowledged
        exact congrArg (fun o : OwnAlert => ({ m with
          distress := { m.distress with own := { o with
            st := .acknowledged, ackedBy := some b.source, repeatDue := none } },
          access := { m.access with distress := m.access.distress.withdraw isOwnItem } } : Device)) hmown
      rw [hack hk hp, ownAcknowledged_first (by rw [hmown]; exact hnum) (by rw [hmown]; exact hst), he, hmown]
      exact reportOwnHeard_room (d := e) hmroom _ _ _
    · rw [hack hk hp, ownAcknowledged_heard (by rw [hmown]; exact hnum) (by rw [hmown]; exact hst), hmown]
      exact reportOwnHeard_room hmroom _ _ _
    · rw [hack hk hp, ownAcknowledged_old (by rw [hmown]; exact hno)]
      exact reportOwnHeard_room hmroom _ _ _
    · exact ((ownNamed_relay hk).trans (if_pos ⟨hst, hnum⟩)).trans (reportOwnHeard_room ⟨hroom, hmark⟩ _ _ _)
    · exact (ownNamed_relay hk).trans (if_neg fun hc => hno.elim hc.1 fun hn => hn hc.2)
  case applied =>
    intro d st alert facts via hroom hmark fresh told withCases setTo
    have hfresh : d.freshCase st alert facts via = fresh := freshCase_eq d st alert facts via
    have hset (c : Case) : d.onCase st (fun _ => c) = withCases (setTo c) := onCase_map d st fun _ => c
    refine ⟨fun h hlen => ?_, fun h hlen hall => ?_, fun c h ha => ?_, fun c h ha => ?_⟩
    · have hheld : (d.withCase fresh).case? st = some fresh := (withCase_case (c := fresh) st h).trans (if_pos rfl)
      rw [applyAlert_new alert facts via h hlen, hfresh]
      exact reportCase_room .created hheld hroom hmark
    · rw [applyAlert_unplaced alert facts via h hlen (caseToFree_none hall), distressHeard_room _ _ _ _ hroom]
    · intro better heard
      have hheard : d.heardAgain c facts via = heard := heardAgain_eq d c facts via
      have hstation : heard.station = st := by
        rw [← hheard, heardAgain_station]
        exact case_station d st c h
      refine ⟨fun hst hne => ?_, fun hst hsame => ?_, fun hst hr => ?_, fun hst hr => ?_⟩
      · rw [applyAlert_open facts via h ha hst, hheard, if_neg hne, ← hset]
        exact reportCase_room .facts (case_onCase_same (fun _ => heard) h fun _ _ => hstation) hroom hmark
      · rw [applyAlert_open facts via h ha hst, hheard, if_pos hsame, hset]
      · rw [applyAlert_cancelled facts via h ha hst hr]
        exact ⟨_, case_onCase_same (heardAt d.now) h fun _ hx => hx, rfl, rfl⟩
      · intro opened
        have hopened : d.reopened c facts via = opened := congrArg (fun x : Case =>
          { x with st := .unacked, closeReason := none, ackedBy := none, ownAck := .none }) hheard
        rw [applyAlert_opened facts via h ha hst hr, hopened, ← hset]
        exact reportCase_room .reopened (case_onCase_same (fun _ => opened) h fun _ _ => hstation) hroom hmark
    · obtain ⟨hwait, hitems, hconsole, hstore, hxfer, hnow, -, hsettled, -, -, -, hothers, hcase, -⟩ :=
        d.dropCase_facts st c.alert
      obtain ⟨o, hcase⟩ := hcase c h
      let dropped := d.dropCaseTraffic st c.alert
      have hnew : dropped.freshCase st alert facts via = fresh := (freshCase_congr hnow hsettled _ _ _ _).trans hfresh
      have hheld : (dropped.onCase st fun _ => fresh).case? st = some fresh :=
        case_onCase_same (fun _ => fresh) hcase fun _ _ => rfl
      refine ⟨dropped.onCase st fun _ => fresh, ?_, hheld, fun s hs => ?_, hwait, hitems, hconsole, hstore, hxfer⟩
      · rw [applyAlert_another facts via h ha]
        refine (congrArg (fun x => (dropped.onCase st fun _ => x).reportCase st .newAlert) hnew).trans ?_
        exact reportCase_room .newAlert hheld (by exact hconsole ▸ hroom) (by exact hconsole ▸ hmark)
      · rw [case_onCase dropped st _ (fun _ _ => rfl), if_neg hs]
        exact hothers s hs
  case examined =>
    intro d st c h wanted
    refine ⟨fun hw => examineCase_unwanted h hw, fun hw hwait hroom => ?_, fun hw hwait hfull hall => ?_⟩
    · rw [examineCase_taken h hw (startWait_room .distress hwait hroom), addWait_distress, onCase_map]
    · exact examineCase_refused h hw (startWait_refused .distress hwait hfull (.inr (waitToDisplace_none hall)))
  case acked =>
    intro d st b hroom hmark hlen e
    obtain ⟨hin, hwait, hother, hsame⟩ := distressAckHeard_facts (d := d) (st := st) (b := b) hlen
    refine ⟨hin, hwait, hother, fun c h ha => ?_⟩
    intro quiet
    obtain ⟨hitems, hacked, hquiet⟩ := hsame c h ha
    refine ⟨hitems, fun hst hp => ?_, hquiet⟩
    obtain ⟨hcase, htold⟩ := hacked hst hp
    refine ⟨hcase, ?_⟩
    rw [told_room _ hroom hmark] at htold
    exact congrArg Lane.entries htold
  case cancelled =>
    intro d b readable
    refine ⟨fun h => ?_, fun c h => ?_⟩
    · unfold cancelHeard
      rw [h]
    intro e
    have hrow := cancelHeard_heard (readable := readable) h
    have hheard : (d.onCase b.source (heardAt d.now)).case? b.source = some (heardAt d.now c) :=
      case_onCase_same (heardAt d.now) h fun _ hx => hx
    refine ⟨fun hno => ?_, fun hr ha hst => ?_⟩
    · rw [show e = _ from hrow, if_neg fun hc => hno.elim (fun hn => by rw [hn] at hc; cases hc.1) fun hn =>
        hn.elim (fun hn => hn hc.2.1) fun hn => hc.2.2 hn]
      exact ⟨hheard, rfl, rfl, rfl⟩
    · have hstation := case_station _ _ _ h
      rw [← hstation] at hheard hrow ⊢
      obtain ⟨⟨o, hcase⟩, hwait, hitems, -, -, htold, hcut⟩ := closeCase_facts .cancelled hheard
      rw [show e = _ from hrow.trans (if_pos ⟨hr, ha, hst⟩)]
      refine ⟨⟨_, hcase, rfl, rfl, rfl⟩, hwait, hitems, fun hroom hmark => ?_, fun hidle hothers => ?_⟩
      · rw [told_room _ (by exact hroom) (by exact hmark)] at htold
        exact congrArg Lane.entries htold
      · refine hcut hidle fun y hy hne => ?_
        rw [onCase_map] at hy
        obtain ⟨x, hx, rfl⟩ := List.mem_map.1 hy
        split at hne
        · rename_i hsame
          exact absurd hsame hne
        · rename_i hother
          rw [if_neg hother]
          exact hothers x hx hother
  case settled =>
    intro d st alert
    refine ⟨enterSettled_stays, fun hnew hlen => ?_, fun hnew hlen => ?_⟩
    · exact (enterSettled_enters hnew (by omega)).trans (if_neg (Nat.ne_of_lt hlen))
    · exact (enterSettled_enters hnew (by omega)).trans ((if_pos hlen).trans (settledFull_eq _))
  case relayed =>
    intro d st alert e
    obtain ⟨hwait, hconsole⟩ := distressRelayHeard_beside d st alert
    refine ⟨hwait, hconsole, fun c h ha => ⟨fun hquiet => ?_, fun hnone hr => ?_⟩⟩
    · rw [show e = _ from distressRelayHeard_held h ha, if_pos hquiet]
      exact ⟨(suppressRelay_case (d := d.removeWait .distress st alert) alert h).trans
        (congrArg some (relaySuppressed_own ha)), fun it hit => ((suppressRelay_items _ st alert it).1 hit).2⟩
    · have hquiet : ¬ ((d.wait? .distress st alert).isSome = true ∨ c.relay = .offered) := fun hc =>
        hc.elim (fun hs => by rw [hnone] at hs; cases hs) hr
      rw [show e = _ from distressRelayHeard_held h ha, if_neg hquiet]
      exact ⟨h, rfl⟩
  case freed =>
    intro d st alert facts via e h hfull hsome
    obtain ⟨c, hin, hfree, hst, hfirst⟩ := caseToFree_some hsome
    obtain ⟨hcase, hgone, hothers, hwait, hitems, htold⟩ := applyAlert_frees_facts alert facts via h hin hfull hfree
    refine ⟨c, hin, ⟨hst, hfirst⟩, hcase, hgone, hothers, hwait, hitems, fun hroom howed => ?_⟩
    intro made
    refine (htold hroom howed).trans (congrArg _ ?_)
    obtain hst | ⟨hst, -⟩ := hst
    · rw [if_pos hst, if_neg (by rw [hst]; decide)]
      rfl
    · rw [if_pos hst, if_neg (by rw [hst]; decide)]
      rfl
  case displaced =>
    intro d st c h hrelay hst hr hnone hlen hwait hfull hsome
    obtain ⟨w, hin, hk, hlast, hw⟩ := waitToDisplace_some hsome
    refine ⟨w, hin, hk, hlast, ?_⟩
    rw [examineCase_displaces h ⟨hrelay, hst, hr, hnone, hlen⟩ (startWait_displaces hwait hfull hw), addWait_distress,
      onWarning_map, onCase_map]
    rfl

end Sys2Proof.Machine
end

section
/-! PROOF. The capacities of lanes and tables, kept by every step (O10). -/

namespace Sys2Proof.Machine

/-- A step keeps what every command keeps, be the command queued or due of itself, and what finding the due one
keeps. -/
theorem step_keeps {P : Device → Prop} (hexec : ∀ (i : Instr) (s t : State), P s.dev → exec i s = .next t → P t.dev)
    (hdue : ∀ d : Device, P d → P d.takeDue.2) (s t : State) (h0 : P s.dev) (ht : step s = .next t) : P t.dev := by
  unfold step at ht
  split at ht
  next c rest hp => exact hexec c { s with pending := rest } t h0 ht
  next hp =>
    have hfound := hdue s.dev h0
    split at ht
    next c d hd =>
      rw [hd] at hfound
      exact hexec c { s with dev := d } t hfound ht
    next d hd =>
      rw [hd] at hfound
      injection ht with ht
      subst ht
      exact hfound

/-- Each command keeps the room of lanes, slots and haul records: the resets bring empty ones, and a frame or an event
keeps what its own meaning keeps. -/
theorem exec_roomOk (i : Instr) (s t : State) (h0 : s.dev.roomOk = true) (ht : exec i s = .next t) :
    t.dev.roomOk = true := by
  cases i <;> dsimp only [exec] at ht
  case hardReset | resetnAsserted =>
    injection ht with ht
    subst ht
    exact invariantsAtReset.2.1
  case cselAssert =>
    refine State.act_roomOk s t _ (fun e he => ?_) h0 ht
    split <;> simp [he]
  case cselRelease => exact State.act_roomOk s t _ Device.releaseCsel_roomOk h0 ht
  case setupPart1 | setupPart2 | setupPart3 | setupPart4 =>
    exact State.frame_roomOk s t _ _ _ _ (fun e he => Device.setupPart_roomOk _ _ _ e (fun _ hf => hf) he) h0 ht
  case setupPart5 =>
    exact State.frame_roomOk s t _ _ _ _
      (fun e he => Device.setupPart_roomOk _ _ _ e Device.completeSetup_roomOk he) h0 ht
  case readForecast | readHaul =>
    refine State.frame_roomOk s t _ _ _ _ (fun e he => ?_) h0 ht
    repeat' split
    all_goals simp [he]
  case characterReceived | loopStart =>
    refine State.event_roomOk s t _ (fun e he => ?_) h0 ht
    split <;> simp [he]
  case noneFrame | unknownKind | readBadSelector | setup | time | position | submit | text | withdraw | readStatus
      | readNeighbours | readCases | readWarnings | readTally | readQuota | readTransfers | distress | cancel | ackCase
      | closeCase | flush | recover | loopTest | reportNow | haulOpen | haulClose | catchLine | haulDiscard
      | haulCommit | restart =>
    exact State.frame_roomOk s t _ _ _ _ (fun e he => by simp [he]) h0 ht
  all_goals exact State.event_roomOk s t _ (fun e he => by simp [he]) h0 ht

/-- Each command keeps the tables within their sizes and in step with each other. -/
theorem exec_tablesOk (i : Instr) (s t : State) (h0 : s.dev.tablesOk) (ht : exec i s = .next t) : t.dev.tablesOk := by
  cases i <;> dsimp only [exec] at ht
  case hardReset | resetnAsserted =>
    injection ht with ht
    subst ht
    exact invariantsAtReset.2.2
  case cselAssert =>
    refine State.act_tablesOk s t _ (fun e he => ?_) h0 ht
    split <;> simp [he]
  case cselRelease => exact State.act_tablesOk s t _ Device.releaseCsel_tablesOk h0 ht
  case setupPart1 | setupPart2 | setupPart3 | setupPart4 =>
    exact State.frame_tablesOk s t _ _ _ _ (fun e he => Device.setupPart_tablesOk _ _ _ e (fun _ hf => hf) he) h0 ht
  case setupPart5 =>
    exact State.frame_tablesOk s t _ _ _ _
      (fun e he => Device.setupPart_tablesOk _ _ _ e Device.completeSetup_tablesOk he) h0 ht
  case readForecast | readHaul =>
    refine State.frame_tablesOk s t _ _ _ _ (fun e he => ?_) h0 ht
    repeat' split
    all_goals simp [he]
  case characterReceived | loopStart =>
    refine State.event_tablesOk s t _ (fun e he => ?_) h0 ht
    split <;> simp [he]
  case noneFrame | unknownKind | readBadSelector | setup | time | position | submit | text | withdraw | readStatus
      | readNeighbours | readCases | readWarnings | readTally | readQuota | readTransfers | distress | cancel | ackCase
      | closeCase | flush | recover | loopTest | reportNow | haulOpen | haulClose | catchLine | haulDiscard
      | haulCommit | restart =>
    exact State.frame_tablesOk s t _ _ _ _ (fun e he => by simp [he]) h0 ht
  all_goals exact State.event_tablesOk s t _ (fun e he => by simp [he]) h0 ht

/-- Settles O10. -/
theorem capacitiesKept : Obligations.CapacitiesKept :=
  ⟨step_keeps (P := fun d => d.roomOk = true) exec_roomOk Device.takeDue_roomOk,
    step_keeps exec_tablesOk Device.takeDue_tablesOk⟩

end Sys2Proof.Machine
end

section
/-! PROOF. FLUSH (O41). -/

namespace Sys2Proof.Machine
namespace Device

/-! ### The end of a transfer, with a catch report that may wait for the slot (R92, R178) -/

theorem freeSlot_ended_freed {d : Device} {i : Nat} (o : Outcome) (x : Slot) (hi : i < d.xfer.slots.length) :
    (d.ended i o x).freeSlot i = (d.ended i o Slot.free).slotFreed := by
  unfold freeSlot
  rw [onSlot_ended o x _ hi]

theorem endTransfer_relay_freed {d : Device} {i : Nat} (o : Outcome) (hi : i < d.xfer.slots.length)
    (hr : ∀ e ∈ d.xfer.reasms, e.waiting = false) (ho : (d.slot i).origin = .relay) :
    d.endTransfer i o = (d.ended i o Slot.free).slotFreed := by
  unfold endTransfer
  dsimp only
  rw [ho]
  cases hg : (d.slot i).grant with
  | none =>
    dsimp only
    rw [unended_noPages o hi hg, freeSlot_ended_freed o _ hi]
  | some g =>
    dsimp only
    rw [unended_pages o hi hg hr, freeSlot_ended_freed o _ hi]

theorem endTransfer_told_freed {d : Device} {i : Nat} (o : Outcome) (hi : i < d.xfer.slots.length)
    (hr : ∀ e ∈ d.xfer.reasms, e.waiting = false) (ho : (d.slot i).origin = .console)
    (hroom : d.console.general.entries.length < 24) :
    d.endTransfer i o = ((d.ended i o Slot.free).outcomeTold (d.slot i) o).slotFreed := by
  let e := d.ended i o (noPages (d.slot i))
  have hlane : e.laneRoom .general = true := decide_eq_true hroom
  have hqueued : e.queueEntry .general ⟨.transferOutcome, 0, .report (slotOutcomeData (d.slot i) o), 0⟩
      = e.outcomeTold (d.slot i) o := if_pos hlane
  rw [endTransfer_console o hi hr ho, tellConsole, if_pos hlane, hqueued]
  exact congrArg (fun x : Device => (x.outcomeTold (d.slot i) o).slotFreed) (onSlot_ended o _ _ hi)

/-- The report keeps its pages: they are released when it ends. -/
theorem endTransfer_catch_freed {d : Device} {i : Nat} (o : Outcome) (hi : i < d.xfer.slots.length)
    (ho : (d.slot i).origin = .catchReport) :
    d.endTransfer i o = (slotFreed { d.ended i o Slot.free with store := d.store }).catchOutcome o := by
  have hfree : ((d.withdrawData i).countOutcome o).freeSlot i
      = slotFreed { d.ended i o Slot.free with store := d.store } := by
    unfold freeSlot
    rw [onSlot_set _ _ _ (by exact hi)]
    rfl
  unfold endTransfer
  dsimp only
  rw [ho]
  dsimp only
  rw [hfree]

/-! ### An entry discarded by FLUSH (R104) -/

/-- One entry discarded, a HAND-OVER WAIT counted as a relay lost. -/
def flushEntry (d : Device) (e : Reasm) : Device :=
  (if e.waiting then d.onXferCounts fun c => { c with relaysLost := bump c.relaysLost } else d).discardReasm e

theorem flushTransfers_eq (d : Device) : d.flushTransfers =
    (d.slotsWhere fun s => s.st != .free && s.st != .reserved && s.st != .outcomeOwed).foldl
      (fun d i => d.endTransfer i .flushed) (d.xfer.reasms.foldl flushEntry d) := rfl

/-- The part with the entry's pages released and its loss counted, its relay slot still as it was. -/
def entryFlushed (d : Device) (e : Reasm) : Device := { d with
  store := d.store.release e.grant,
  xfer := { d.xfer with
    reasms := d.xfer.reasms.filter fun y => !(y.source == e.source && y.num == e.num),
    counts := { d.xfer.counts with
      relaysLost := if e.waiting then bump d.xfer.counts.relaysLost else d.xfer.counts.relaysLost } } }

theorem entryFlushed_dropped (d : Device) (e : Reasm) :
    (if e.waiting then d.onXferCounts fun c => { c with relaysLost := bump c.relaysLost } else d).entryDropped e
      = d.entryFlushed e := by
  unfold entryFlushed
  cases e.waiting <;> rfl

theorem flushEntry_bare {d : Device} {e : Reasm} (h : e.relaySlot = none) : d.flushEntry e = d.entryFlushed e :=
  (discardReasm_bare h).trans (entryFlushed_dropped d e)

theorem flushEntry_slot {d : Device} {e : Reasm} {i : Nat} (h : e.relaySlot = some i) :
    d.flushEntry e = ((d.entryFlushed e).onSlot i fun _ => Slot.free).slotFreed := by
  rw [flushEntry, discardReasm_slot h, entryFlushed_dropped]

/-! ### FLUSH under way (R104) -/

/-- A slot that FLUSH leaves alone. -/
def rests (s : Slot) : Prop := s.st = .free ∨ s.st = .reserved ∨ s.st = .outcomeOwed

/-- FLUSH under way, no catch report waiting: no entry is left but those of `m`, no transfer but those of the slots of
`l`, and neither an ACK nor a DATA item is offered. -/
structure Flushing (d : Device) (m : List Reasm) (l : List Nat) : Prop where
  entries : ∀ x ∈ d.xfer.reasms, x ∈ m
  unbuilt : d.rep.pending = none
  noAck : d.access.answer = ⟨[], none⟩
  noData : ∀ it ∈ d.access.routine.items, it.kind ≠ .data
  within : ∀ i ∈ l, i < d.xfer.slots.length
  rest : ∀ i, i < 8 → i ∉ l → rests (d.slot i)

theorem Flushing.flushEntry {d : Device} {x : Reasm} {m : List Reasm} {l : List Nat} (h : d.Flushing (x :: m) l) :
    (d.flushEntry x).Flushing m l := by
  have hgone : (d.entryFlushed x).Flushing m l := {
    entries := fun y hy => by
      obtain ⟨hy, hkey⟩ := List.mem_filter.1 hy
      refine (List.mem_cons.1 (h.entries y hy)).resolve_left ?_
      rintro rfl
      simp at hkey
    unbuilt := h.unbuilt
    noAck := h.noAck
    noData := h.noData
    within := h.within
    rest := h.rest }
  cases hs : x.relaySlot with
  | none => exact flushEntry_bare hs ▸ hgone
  | some i =>
    rw [flushEntry_slot hs, slotFreed_none _ (by exact h.unbuilt)]
    exact { hgone with
      within := fun j hj => by rw [slots_onSlot]; exact hgone.within j hj
      rest := fun j hj hl => by
        rw [slot_onSlot]
        split
        · exact .inl rfl
        · exact hgone.rest j hj hl }

theorem Flushing.flushEntries {d : Device} {m : List Reasm} {l : List Nat} (h : d.Flushing m l) :
    (m.foldl Device.flushEntry d).Flushing [] l := by
  induction m generalizing d with
  | nil => exact h
  | cons x m ih => exact ih h.flushEntry

/-! ### The slots that FLUSH ends -/

theorem endReport_quiet {d : Device} (h : d.rep.pending = none) (e : Ending) (cause : Option LostCause) :
    (d.endReport e cause).xfer = d.xfer ∧ (d.endReport e cause).access = d.access ∧
    (d.endReport e cause).rep.pending = none := by
  obtain ⟨y, hrep, -, -, hrest, -, hrow⟩ := endReport_eq d e cause
  have hpending : y.rep.pending = none := by
    rw [hrep]
    exact h
  have hsame : y.buildPending = y := by
    unfold buildPending
    rw [hpending]
  rw [hrow, hsame]
  exact ⟨by rw [hrest], by rw [hrest], hpending⟩

theorem catchOutcome_flushed {d : Device} (h : d.rep.pending = none) :
    (d.catchOutcome .flushed).xfer = d.xfer ∧ (d.catchOutcome .flushed).access = d.access ∧
    (d.catchOutcome .flushed).rep.pending = none := by
  unfold catchOutcome
  split
  · cases he : d.rep.early with
    | none => exact endReport_quiet h .lost (some .flushed)
    | some e => exact endReport_quiet h e none
  · exact ⟨rfl, rfl, h⟩

/-- What a slot that ends FLUSHED leaves, whatever its origin, with no catch report waiting. -/
theorem endTransfer_flushed {d : Device} {i : Nat} (hi : i < d.xfer.slots.length) (hp : d.rep.pending = none)
    (hr : ∀ e ∈ d.xfer.reasms, e.waiting = false) :
    let e := d.endTransfer i .flushed
    ∃ x, rests x ∧ e.xfer = { (d.countOutcome .flushed).xfer with slots := d.xfer.slots.set i x } ∧
      e.access = (d.withdrawData i).access ∧ e.rep.pending = none := by
  intro e
  cases ho : (d.slot i).origin with
  | relay =>
    rw [show e = _ from endTransfer_relay .flushed hi hp hr ho]
    exact ⟨Slot.free, .inl rfl, rfl, rfl, hp⟩
  | console =>
    by_cases hroom : d.console.general.entries.length < 24
    · rw [show e = _ from endTransfer_told .flushed hi hp hr ho hroom]
      exact ⟨Slot.free, .inl rfl, rfl, rfl, hp⟩
    · rw [show e = _ from endTransfer_owed .flushed hi hr ho (Nat.not_lt.1 hroom)]
      exact ⟨owedSlot (d.slot i) .flushed, .inr (.inr rfl), rfl, rfl, hp⟩
  | catchReport =>
    rw [show e = _ from endTransfer_catch .flushed hi hp ho]
    obtain ⟨hxfer, haccess, hpending⟩ :=
      catchOutcome_flushed (d := { d.ended i .flushed Slot.free with store := d.store }) hp
    exact ⟨Slot.free, .inl rfl, hxfer, haccess, hpending⟩

theorem Flushing.endTransfer {d : Device} {i : Nat} {l : List Nat} (h : d.Flushing [] (i :: l)) :
    (d.endTransfer i .flushed).Flushing [] l := by
  have hi := h.within i List.mem_cons_self
  obtain ⟨x, hx, hxfer, haccess, hpending⟩ := endTransfer_flushed hi h.unbuilt fun e he => nomatch h.entries e he
  have hslot (j : Nat) : (d.endTransfer i .flushed).slot j
      = (d.settled i x (d.countOutcome .flushed).xfer.counts).slot j :=
    congrArg (fun t : Transfers => t.slots.getD j Slot.free) hxfer
  exact {
    entries := by rw [hxfer]; exact h.entries
    unbuilt := hpending
    noAck := by rw [haccess]; exact h.noAck
    noData := fun it hit => by
      rw [haccess] at hit
      exact h.noData it ((mem_items_withdraw _ _ it).1 hit).1
    within := fun j hj => by
      rw [hxfer]
      exact (h.within j (List.mem_cons_of_mem _ hj)).trans_eq List.length_set.symm
    rest := fun j hj hl => by
      rw [hslot]
      by_cases hji : j = i
      · subst hji
        rw [settled_slot hi]
        exact hx
      · rw [settled_beside d x _ hji]
        exact h.rest j hj fun hm => (List.mem_cons.1 hm).elim hji hl }

theorem Flushing.endTransfers {d : Device} {l : List Nat} (h : d.Flushing [] l) :
    (l.foldl (fun d i => d.endTransfer i .flushed) d).Flushing [] [] := by
  induction l generalizing d with
  | nil => exact h
  | cons i l ih => exact ih h.endTransfer

/-! ### The order (R104, R128) -/

/-- The part as FLUSH takes it: the pending ACK and the DATA item withdrawn. -/
def flushReady (d : Device) : Device := { d with access := { d.access with
  answer := ⟨[], none⟩, routine := d.access.routine.withdraw fun it => it.kind == .data } }

/-- The slots that FLUSH ends, in slot order. -/
def flushSlots (d : Device) : List Nat := (List.range 8).filter fun i =>
  decide ((d.slot i).st ≠ .free ∧ (d.slot i).st ≠ .reserved ∧ (d.slot i).st ≠ .outcomeOwed)

theorem orderFlush_held {d : Device} (h : d.holdInForce = true) : d.orderFlush = (.taken,
    d.flushSlots.foldl (fun e i => e.endTransfer i .flushed) (d.xfer.reasms.foldl flushEntry d.flushReady)) := by
  have hready : (d.withdraw .answer fun _ => true).withdraw .routine (fun it => it.kind == .data) = d.flushReady := by
    unfold flushReady
    rw [← withdraw_all d.access.answer]
    rfl
  have hslots : (d.slotsWhere fun s => s.st != .free && s.st != .reserved && s.st != .outcomeOwed) = d.flushSlots :=
    List.filter_congr fun i _ => by
      rw [Bool.eq_iff_iff]
      simp [and_assoc]
  unfold orderFlush
  rw [if_pos h]
  dsimp only
  rw [hready, flushTransfers_eq, ← hslots]
  rfl

theorem orderFlush_refused {d : Device} (h : d.holdInForce = false) : d.orderFlush = (.noHold, d) :=
  if_neg (by rw [h]; decide)

theorem slot_out {d : Device} {i : Nat} (h : d.xfer.slots.length ≤ i) : d.slot i = Slot.free :=
  List.getD_eq_default _ _ h

theorem flushReady_flushing {d : Device} (h : d.rep.pending = none) :
    d.flushReady.Flushing d.xfer.reasms d.flushSlots where
  entries := fun _ hx => hx
  unbuilt := h
  noAck := rfl
  noData := fun it hit hk => by
    have hkept := ((mem_items_withdraw _ _ it).1 hit).2
    rw [hk] at hkept
    cases hkept
  within := fun i hi => by
    obtain ⟨hfree, -⟩ := of_decide_eq_true (List.mem_filter.1 hi).2
    exact Nat.lt_of_not_le fun hle => hfree (congrArg Slot.st (slot_out (d := d) hle))
  rest := fun i hi hl => by
    by_contra hbusy
    exact hl (List.mem_filter.2 ⟨List.mem_range.2 hi, decide_eq_true
      ⟨fun hs => hbusy (.inl hs), fun hs => hbusy (.inr (.inl hs)), fun hs => hbusy (.inr (.inr hs))⟩⟩)

end Device

open Device

/-- Settles O41. -/
theorem flush : Obligations.Flush := by
  refine ⟨?rests, ?run, ?ends⟩
  case rests =>
    intro tag s hl c
    refine ⟨fun hheld hp => ?_, fun hfree => exec_of_frame _ rfl hl (orderFlush_refused hfree)⟩
    obtain ⟨hentries, -, hack, hdata, -, hrest⟩ := (flushReady_flushing hp).flushEntries.endTransfers
    exact ⟨_, exec_of_frame _ rfl hl (orderFlush_held hheld),
      List.eq_nil_iff_forall_not_mem.2 fun x hx => List.not_mem_nil (hentries x hx),
      fun i hi => hrest i hi List.not_mem_nil, hack, hdata⟩
  case run =>
    intro tag s hl c ends withdrawn discard hheld
    have hdiscard : discard = flushEntry := by
      funext e x
      cases hs : x.relaySlot with
      | none => exact (by simp only [discard, hs]; rfl : discard e x = e.entryFlushed x).trans (flushEntry_bare hs).symm
      | some j => exact (by simp only [discard, hs]; rfl :
          discard e x = ((e.entryFlushed x).onSlot j fun _ => Slot.free).slotFreed).trans (flushEntry_slot hs).symm
    rw [hdiscard]
    exact exec_of_frame _ rfl hl (orderFlush_held hheld)
  case ends =>
    intro d i hi hr s counts ended
    exact ⟨endTransfer_relay_freed .flushed hi hr, endTransfer_told_freed .flushed hi hr,
      endTransfer_owed .flushed hi hr, endTransfer_catch_freed .flushed hi⟩

end Sys2Proof.Machine
end

section
/-! PROOF. A case that closes, and the cut of the hold (O42, its first half). -/

namespace Sys2Proof.Machine
namespace Device

/-- An own acknowledgement of the case waits or is contender. -/
def acking (d : Device) (c : Case) : Prop :=
  ∃ it ∈ d.access.distress.items, it.owner = .caseAck c.station c.alert

theorem acking_iff (d : Device) (c : Case) :
    d.hasItem .distress (isAckItem c.station c.alert) = true ↔ d.acking c := by
  simp [hasItem, Access.queue, isAckItem, acking]

/-- The part with the case's wait dropped and its items withdrawn, its own acknowledgement still as it was. -/
def trafficDropped (d : Device) (c : Case) : Device := { d with
  waits := d.waits.filter fun x => !(x.kind == .distress && x.station == c.station && x.number == c.alert),
  access := { d.access with
    distress := d.access.distress.withdraw fun it =>
      it.owner == .caseAck c.station c.alert || it.owner == .caseRelay c.station c.alert } }

theorem dropCaseTraffic_acking {d : Device} {c : Case} (h : d.acking c) : d.dropCaseTraffic c.station c.alert
    = (d.trafficDropped c).onCase c.station fun x => { x with ownAck := .none } :=
  if_pos ((acking_iff d c).2 h)

theorem dropCaseTraffic_quiet {d : Device} {c : Case} (h : ¬ d.acking c) :
    d.dropCaseTraffic c.station c.alert = d.trafficDropped c :=
  if_neg fun hc => h ((acking_iff d c).1 hc)

/-- The case last closed: no own alert stands and no other case is open. -/
def lastCase (d : Device) (c : Case) : Prop :=
  d.distress.own.st = .idle ∧ ∀ x ∈ d.distress.cases, x.station ≠ c.station → x.st = .closed

/-- The cases with the one of the station closed. -/
def casesClosed (l : List Case) (st : Station) (close : Case → Case) : List Case :=
  l.map fun x => if x.station = st then close x else x

theorem casesClosed_quiet {l : List Case} {st : Station} {close : Case → Case} (h : ∀ x, (close x).st = .closed) :
    ((casesClosed l st close).any fun x => x.st != .closed) = false ↔ ∀ x ∈ l, x.station ≠ st → x.st = .closed := by
  rw [casesClosed, List.any_eq_false, List.forall_mem_map]
  refine forall₂_congr fun x _ => ?_
  by_cases hs : x.station = st
  · simp [hs, h]
  · simp [hs]

/-- `e` with the cases `l`, and CASE CLOSED told of one of them. -/
def caseShut (e : Device) (c : Case) (r : CloseReason) (l : List Case) : Device := { e with
  distress := { e.distress with cases := l },
  console := { e.console with
    distress := e.console.distress.told 8 .caseClosed 0 (.caseOf c.station) (caseClosedData c.station c.alert r) } }

theorem closeCase_shut (d : Device) (c : Case) (r : CloseReason) :
    d.closeCase c r = ((d.dropCaseTraffic c.station c.alert).caseShut c r
      (casesClosed (d.dropCaseTraffic c.station c.alert).distress.cases c.station (shut r))).cutIfQuiet := by
  unfold closeCase
  dsimp only
  rw [report_distressTold _ _ _ rfl, onCase_map]
  rfl

theorem closeCase_quiet {d : Device} {c : Case} (h : ¬ d.acking c) (r : CloseReason) :
    d.closeCase c r = ((d.trafficDropped c).caseShut c r
      (casesClosed d.distress.cases c.station (shut r))).cutIfQuiet := by
  rw [closeCase_shut, dropCaseTraffic_quiet h]
  rfl

/-- A case as it closes with its own acknowledgement withdrawn. -/
def shutUnacked (r : CloseReason) (c : Case) : Case := { c with st := .closed, closeReason := some r, ownAck := .none }

theorem closeCase_acking {d : Device} {c : Case} (h : d.acking c) (r : CloseReason) :
    d.closeCase c r = ((d.trafficDropped c).caseShut c r
      (casesClosed d.distress.cases c.station (shutUnacked r))).cutIfQuiet := by
  have htwice : casesClosed (casesClosed d.distress.cases c.station fun x => { x with ownAck := .none }) c.station
      (shut r) = casesClosed d.distress.cases c.station (shutUnacked r) := by
    rw [casesClosed, casesClosed, casesClosed, List.map_map]
    refine List.map_congr_left fun x _ => ?_
    by_cases hs : x.station = c.station
    · simp [hs, shut, shutUnacked]
    · simp [hs]
  rw [closeCase_shut, dropCaseTraffic_acking h, onCase_map]
  exact congrArg (fun l => ((d.trafficDropped c).caseShut c r l).cutIfQuiet) htwice

theorem told_marked {l : Lane} {mark : OwedRef} (room : Nat) (kind : ReportKind) (tag : Nat) (data : List Datum)
    (h : mark ∈ l.owed) : l.told room kind tag mark data = l := if_pos h

theorem told_full {l : Lane} {room : Nat} {mark : OwedRef} (kind : ReportKind) (tag : Nat) (data : List Datum)
    (hfull : room ≤ l.entries.length) (hmark : mark ∉ l.owed) :
    l.told room kind tag mark data = { l with owed := l.owed ++ [mark] } :=
  (if_neg hmark).trans (if_neg (Nat.not_lt.2 hfull))

/-- `e` with its hold timer set. -/
def withTimer (e : Device) (timer : Option Time) : Device :=
  { e with distress := { e.distress with holdTimer := timer } }

/-- The cut falls when the case was the last open one. -/
theorem caseShut_cut {d : Device} {c : Case} {close : Case → Case} (r : CloseReason)
    (h : ∀ x, (close x).st = .closed) :
    let e := (d.trafficDropped c).caseShut c r (casesClosed d.distress.cases c.station close)
    ∃ timer, e.cutIfQuiet = e.withTimer timer ∧
      (d.lastCase c → timer = d.distress.holdTimer.map fun t => min t (d.now + 60000)) ∧
      (¬ d.lastCase c → timer = d.distress.holdTimer) := by
  intro e
  have hlast : e.distress.own.st = .idle ∧ e.caseOpen = false ↔ d.lastCase c :=
    and_congr_right fun _ => casesClosed_quiet h
  by_cases hc : d.lastCase c
  · exact ⟨_, if_pos (hlast.2 hc), fun _ => rfl, fun hno => absurd hc hno⟩
  · exact ⟨_, if_neg fun hq => hc (hlast.1 hq), fun hyes => absurd hyes hc, fun _ => rfl⟩

/-- A case that closes, in one: the cases as `close` leaves them, and the timer that is left. -/
theorem closeCase_form (d : Device) (c : Case) (r : CloseReason) : ∃ (close : Case → Case) (timer : Option Time),
    d.closeCase c r
      = ((d.trafficDropped c).caseShut c r (casesClosed d.distress.cases c.station close)).withTimer timer ∧
    (d.acking c → close = shutUnacked r) ∧ (¬ d.acking c → close = shut r) ∧
    (d.lastCase c → timer = d.distress.holdTimer.map fun t => min t (d.now + 60000)) ∧
    (¬ d.lastCase c → timer = d.distress.holdTimer) := by
  by_cases h : d.acking c
  · obtain ⟨timer, hcut, htimer⟩ := caseShut_cut (d := d) (c := c) (close := shutUnacked r) r fun _ => rfl
    exact ⟨_, timer, (closeCase_acking h r).trans hcut, fun _ => rfl, fun hno => absurd h hno, htimer⟩
  · obtain ⟨timer, hcut, htimer⟩ := caseShut_cut (d := d) (c := c) (close := shut r) r fun _ => rfl
    exact ⟨_, timer, (closeCase_quiet h r).trans hcut, fun hyes => absurd hyes h, fun _ => rfl, htimer⟩

end Device
end Sys2Proof.Machine
end

section
/-! PROOF. The end of the hold (O42, its second half). -/

namespace Sys2Proof.Machine
namespace Device

/-! ### The held waits run out (R76, R102) -/

/-- One wait run out: the relay of its warning is offered. -/
def relayWait (d : Device) (w : Wait) : Device :=
  (d.removeWait w.kind w.station w.number).offerWarning w.station w.number

theorem releaseHeldWaits_fold (d : Device) : d.releaseHeldWaits =
    (sortBy (fun w => w.expiry) (d.waits.filter fun w => w.held)).foldl relayWait d := rfl

/-- A relay of the warning waits in its class. -/
def warningWaits (e : Device) (issuer issue : Nat) (now : Time) : Prop :=
  ∃ it ∈ e.access.priority.waiting, it.kind = .warning ∧ it.owner = .warning issuer issue ∧ it.ready = now

/-- The waits `l` of `d` have run out in `e`: they are gone, and each warning still stored is offered. -/
structure Relayed (d e : Device) (l : List Wait) : Prop where
  rest : ∃ q n w x, e = { d with access := { d.access with priority := q, nextOffer := n }, waits := w, weather := x }
  gone : ∀ x ∈ e.waits, x ∈ d.waits ∧ x ∉ l
  stored : ∀ i n, (e.warning? i n).isSome = (d.warning? i n).isSome
  kept : ∀ it ∈ d.access.priority.waiting, it ∈ e.access.priority.waiting
  offered : ∀ w ∈ l, (d.warning? w.station w.number).isSome = true → e.warningWaits w.station w.number d.now

theorem removeWait_gone {d : Device} {w x : Wait} (h : x ∈ (d.removeWait w.kind w.station w.number).waits) :
    x ∈ d.waits ∧ x ∉ [w] := by
  obtain ⟨hin, hkey⟩ := List.mem_filter.1 h
  refine ⟨hin, fun hx => ?_⟩
  rw [List.mem_singleton.1 hx] at hkey
  simp at hkey

theorem relayWait_relayed (d : Device) (w : Wait) : d.Relayed (d.relayWait w) [w] := by
  unfold relayWait offerWarning
  cases hw : (d.removeWait w.kind w.station w.number).warning? w.station w.number with
  | none =>
    exact {
      rest := ⟨_, _, _, _, rfl⟩
      gone := fun x hx => removeWait_gone hx
      stored := fun _ _ => rfl
      kept := fun _ hit => hit
      offered := fun x hx hsome => by
        rw [List.mem_singleton.1 hx, show d.warning? w.station w.number = none from hw] at hsome
        cases hsome }
  | some r =>
    exact {
      rest := ⟨_, _, _, _, rfl⟩
      gone := fun x hx => removeWait_gone hx
      stored := fun i n => by
        have hmap := warning_onWarning (d.removeWait w.kind w.station w.number) w.station w.number
          (fun x => { x with relay := .offered }) (fun _ h1 h2 => ⟨h1, h2⟩) i n
        refine (congrArg Option.isSome hmap).trans ?_
        split
        · rename_i hkey
          rw [hkey.1, hkey.2, Option.isSome_map]
          rfl
        · rfl
      kept := fun _ hit => List.mem_append_left _ hit
      offered := fun x hx _ => by
        rw [List.mem_singleton.1 hx]
        exact ⟨_, List.mem_append_right _ (List.mem_singleton.2 rfl), rfl, rfl, rfl⟩ }

theorem Relayed.trans {d e f : Device} {l m : List Wait} (h : d.Relayed e l) (k : e.Relayed f m) :
    d.Relayed f (l ++ m) := by
  have hnow : e.now = d.now := by
    obtain ⟨_, _, _, _, he⟩ := h.rest
    rw [he]
  exact {
    rest := by
      obtain ⟨_, _, _, _, he⟩ := h.rest
      obtain ⟨_, _, _, _, hf⟩ := k.rest
      exact ⟨_, _, _, _, by rw [hf, he]⟩
    gone := fun x hx => by
      obtain ⟨hin, hm⟩ := k.gone x hx
      obtain ⟨hin, hl⟩ := h.gone x hin
      exact ⟨hin, fun hx => (List.mem_append.1 hx).elim hl hm⟩
    stored := fun i n => (k.stored i n).trans (h.stored i n)
    kept := fun it hit => k.kept it (h.kept it hit)
    offered := fun w hw hsome => by
      rcases List.mem_append.1 hw with hw | hw
      · obtain ⟨it, hit, hfacts⟩ := h.offered w hw hsome
        exact ⟨it, k.kept it hit, hfacts⟩
      · rw [← hnow]
        exact k.offered w hw ((h.stored _ _).trans hsome) }

theorem relayWaits_relayed (l : List Wait) (d : Device) : d.Relayed (l.foldl relayWait d) l := by
  induction l generalizing d with
  | nil =>
    exact {
      rest := ⟨_, _, _, _, rfl⟩
      gone := fun _ hx => ⟨hx, List.not_mem_nil⟩
      stored := fun _ _ => rfl
      kept := fun _ hit => hit
      offered := fun _ hw => nomatch hw }
  | cons w l ih => exact (relayWait_relayed d w).trans (ih _)

theorem releaseHeldWaits_relayed (d : Device) : ∃ l, (∀ w, w ∈ l ↔ w ∈ d.waits ∧ w.held = true) ∧
    d.Relayed d.releaseHeldWaits l :=
  ⟨_, fun _ => (sortBy_perm _ _).mem_iff.trans List.mem_filter, relayWaits_relayed _ d⟩

theorem releaseHeldWaits_keeps (d : Device) :
    d.releaseHeldWaits.distress = d.distress ∧ d.releaseHeldWaits.now = d.now := by
  obtain ⟨l, -, hrelayed⟩ := d.releaseHeldWaits_relayed
  obtain ⟨q, n, w, x, hform⟩ := hrelayed.rest
  rw [hform]
  exact ⟨rfl, rfl⟩

/-! ### The receipt deadline (R181) -/

/-- A deadline with time left runs on. -/
theorem resumeDeadline_runs {d : Device}
    (h : ∀ x, d.rep.deadline = some x → d.rep.st = .awaitingReceipt → x.left d.now ≠ 0) :
    d.resumeDeadline = { d with rep := { d.rep with deadline := d.rep.deadline.map fun c => c.resume d.now } } := by
  unfold resumeDeadline
  cases hx : d.rep.deadline with
  | none =>
    dsimp only
    rw [Option.map_none, ← hx]
  | some x =>
    dsimp only
    exact if_neg fun hout => h x hx hout.1 hout.2

theorem resumeDeadline_aside (d : Device) : d.resumeDeadline.aside = d.aside := by
  unfold resumeDeadline
  cases d.rep.deadline with
  | none => rfl
  | some x =>
    dsimp only
    split
    · exact endReport_aside _ _ _
    · rfl

/-! ### The transfers resume (R102) -/

/-- The transfer tables with their paused times running on. -/
def timesResumed (d : Device) (sl : List Slot) : Transfers := { d.xfer with
  slots := sl,
  reasms := d.xfer.reasms.map fun x => { x with timer := x.timer.resume d.now },
  recents := d.xfer.recents.map fun x => { x with timer := x.timer.resume d.now } }

theorem unholdTransfers_form {d : Device} (hh : d.holdInForce = false) (hlen : d.xfer.slots.length = 8) :
    ∃ q sl, d.unholdTransfers = { d with access := { d.access with routine := q }, xfer := d.timesResumed sl } ∧
      ∀ i, i < 8 → sl.getD i Slot.free = d.unheld (d.slot i) := by
  let resumed : Device := { d with xfer := d.timesResumed d.xfer.slots }
  obtain ⟨⟨q, sl, hform⟩, hslots⟩ := unhold_foldl slotOrder (by decide) resumed hh
    fun i hi => (List.mem_range.1 (show i ∈ List.range 8 from hi)).trans_eq hlen.symm
  refine ⟨q, sl, hform, fun i hi => ?_⟩
  have hslot := hslots i
  rw [if_pos (show i ∈ slotOrder from List.mem_range.2 hi), unheld_of d resumed rfl rfl rfl, hform] at hslot
  exact hslot

/-! ### The hold ends (R102, R127) -/

/-- The hold's record as it ends. -/
def holdOver (d : Device) : DistressUnit := { d.distress with holdSince := none, lastHold := d.holdLength }

theorem endHold_steps (d : Device) : d.endHold = (unholdTransfers { d with distress := d.holdOver }
    ).releaseHeldWaits.resumeDeadline.report .holdEnded .hold (holdEndedData d.holdLength) := rfl

/-- Whatever resumes, the hold is over and no time has passed. -/
theorem endHold_over (d : Device) : d.endHold.distress = d.holdOver ∧ d.endHold.now = d.now := by
  let ended : Device := { d with distress := d.holdOver }
  obtain ⟨-, hresumed, hresumedNow⟩ :=
    distressLane_of_aside ended.unholdTransfers.releaseHeldWaits.resumeDeadline_aside
  obtain ⟨hwaited, hwaitedNow⟩ := ended.unholdTransfers.releaseHeldWaits_keeps
  obtain ⟨-, hunheld, hunheldNow⟩ := distressLane_of_aside ended.unholdTransfers_aside
  rw [endHold_steps, report_distress, report_now]
  exact ⟨hresumed.trans (hwaited.trans hunheld), hresumedNow.trans (hwaitedNow.trans hunheldNow)⟩

theorem endHold_form {d : Device} (hh : d.holdInForce = false) (hlen : d.xfer.slots.length = 8)
    (hleft : ∀ x, d.rep.deadline = some x → d.rep.st = .awaitingReceipt → x.left d.now ≠ 0) :
    ∃ a sl w x, d.endHold = { d with
      access := a,
      xfer := d.timesResumed sl,
      waits := w,
      weather := x,
      distress := d.holdOver,
      rep := { d.rep with deadline := d.rep.deadline.map fun c => c.resume d.now },
      console := { d.console with
        distress := d.console.distress.told 8 .holdEnded 0 .hold (holdEndedData d.holdLength) } } ∧
      (∀ i, i < 8 → sl.getD i Slot.free = d.unheld (d.slot i)) ∧ (∀ x ∈ w, x.held = false) ∧
      (∀ x ∈ d.waits, x.held = true → (d.warning? x.station x.number).isSome = true →
        d.endHold.warningWaits x.station x.number d.now) := by
  let ended : Device := { d with distress := d.holdOver }
  obtain ⟨q, sl, hform, hslots⟩ := unholdTransfers_form (d := ended) hh hlen
  obtain ⟨l, hl, hrelayed⟩ := ended.unholdTransfers.releaseHeldWaits_relayed
  obtain ⟨p, n, w, x, hrest⟩ := hrelayed.rest
  let relayed : Device := { ended with
    access := { d.access with routine := q, priority := p, nextOffer := n }, xfer := d.timesResumed sl, waits := w,
    weather := x }
  have hrow : ended.unholdTransfers.releaseHeldWaits = relayed := by rw [hrest, hform]; rfl
  have hend : d.endHold = relayed.resumeDeadline.report .holdEnded .hold (holdEndedData d.holdLength) :=
    congrArg (fun e : Device => e.resumeDeadline.report .holdEnded .hold (holdEndedData d.holdLength)) hrow
  rw [resumeDeadline_runs (d := relayed) hleft, report_distressTold _ _ _ rfl] at hend
  rw [hrow, hform] at hrelayed
  rw [hform] at hl
  refine ⟨_, sl, w, x, hend, fun i hi => ?_, fun y hy => ?_, fun y hy hheld hsome => ?_⟩
  · rw [hslots i hi]
    exact unheld_of d ended rfl rfl rfl _
  · obtain ⟨hin, hnot⟩ := hrelayed.gone y hy
    exact Bool.eq_false_iff.2 fun hheld => hnot ((hl y).2 ⟨hin, hheld⟩)
  · rw [hend]
    exact hrelayed.offered y ((hl y).2 ⟨hy, hheld⟩) hsome

end Device
end Sys2Proof.Machine
end

section
/-! PROOF. The timers of the Distress Unit, the hold that ends and the case that closes (O42). -/

namespace Sys2Proof.Machine
namespace Device

/-! ### A slot as the end of the hold leaves it (R102) -/

theorem unheld_other {d : Device} {s : Slot} (h : s.st ≠ .held) : d.unheld s = s := if_neg h

section
variable {d : Device} {s : Slot} (h : s.st = .held)
include h

theorem unheld_refusal (hf : s.heldFrom = .refusalWait) :
    d.unheld s = { s with st := .refusalWait, refusalEnd := some (d.now + s.heldRefusal) } :=
  (if_pos h).trans (if_pos hf)

variable (hf : s.heldFrom ≠ .refusalWait)
include hf

theorem unheld_direct (ho : s.origin ≠ .relay) (hd : s.dest ≠ d.config.port) : d.unheld s = d.readyAt s :=
  (if_pos h).trans ((if_neg hf).trans (if_neg (not_portBound ho hd)))

variable (hp : s.origin = .relay ∨ s.dest = d.config.port)
include hp

theorem unheld_unrouted (ha : d.hopFor s = none) :
    d.unheld s = { d.readyAt s with hop := none, st := .awaitingRoute } := by
  unfold unheld
  rw [if_pos h, if_neg hf, if_pos ((portBound_iff d s).2 hp), ha]

theorem unheld_sameHop {hop : Station} (ha : d.hopFor s = some hop) (hh : s.hop = some hop) :
    d.unheld s = d.readyAt s := by
  unfold unheld
  rw [if_pos h, if_neg hf, if_pos ((portBound_iff d s).2 hp), ha]
  exact if_pos hh

theorem unheld_newHop {hop : Station} (ha : d.hopFor s = some hop) (hh : s.hop ≠ some hop) :
    d.unheld s = { d.readyAt s with
      hop := some hop, lastHop := hop, idx := 0, retries := 0, refusals := 0, restarts := 0, cw := 8 } := by
  unfold unheld
  rw [if_pos h, if_neg hf, if_pos ((portBound_iff d s).2 hp), ha]
  exact if_neg hh

end

/-! ### The timers (R110, R113, R120, R125) -/

theorem repeatTime_of {d : Device} {t : Time} (h : d.distress.own.repeatDue = some t) :
    d.repeatTime = ((d.reach t).onOwn fun o => { o with repeatDue := none }).offerOwn := by
  unfold repeatTime
  rw [h]

theorem cancelTime_of {d : Device} {t : Time} (h : d.distress.own.cancelDue = some t) :
    d.cancelTime = ((d.reach t).onOwn fun o => { o with cancelDue := none }).offerOwn := by
  unfold cancelTime
  rw [h]

theorem caseTime_open {d : Device} {st : Station} {c : Case} (h : d.case? st = some c) (hst : c.st ≠ .closed) :
    d.caseTime st = (d.reach (c.lastHeard + 7200000)).closeCase c .expired := by
  unfold caseTime
  rw [h]
  exact if_neg hst

theorem holdEndedData_num (n : Nat) : holdEndedData n = [.num 2 (min n 65535)] := rfl

/-- The part with the hold timer run out. -/
def timerStopped (d : Device) (t : Time) : Device :=
  { d with now := max d.now t, distress := { d.distress with holdTimer := none } }

theorem holdTime_of {d : Device} {t : Time} (h : d.distress.holdTimer = some t) :
    d.holdTime = if d.distress.own.st = .idle then (d.timerStopped t).endHold else d.timerStopped t := by
  unfold holdTime
  rw [h]
  rfl

theorem ownKind_cancelling {d : Device} (h : d.distress.own.st = .cancelling) : d.ownKind = .cancel := if_pos h

theorem ownKind_other {d : Device} (h : d.distress.own.st ≠ .cancelling) : d.ownKind = .distress := if_neg h

theorem ownSame_facts {a b : OwnAlert} (h : ownSame a b) :
    a.st = b.st ∧ a.num = b.num ∧ a.repeatDue = b.repeatDue ∧ a.cancelDue = b.cancelDue := by
  unfold ownSame at h
  refine ⟨?_, ?_, ?_, ?_⟩
  all_goals rw [h]

/-- An own request made as its due time falls: the rest of the record stays, and the item waits. -/
theorem offerOwn_falls (e : Device) : e.offerOwn.now = e.now ∧ ownSame e.offerOwn.distress.own e.distress.own ∧
    ∃ it ∈ e.offerOwn.access.distress.waiting, it.kind = e.ownKind ∧ it.owner = .own ∧ it.ready = e.offerOwn.now := by
  obtain ⟨⟨it, hit, hkind, howner, -, -, -, hready⟩, hown, -, -, -, hnow, -⟩ := offerOwn_result e
  exact ⟨hnow, hown, it, hit, hkind, howner, hready.trans hnow.symm⟩

end Device

open Device

/-- Settles O42. -/
theorem distressTimers : Obligations.DistressTimers := by
  refine ⟨⟨?due, ⟨?expiry, ?timer⟩, ?ends⟩, ?closes, rfl, ?row, ?order⟩
  case due =>
    refine fun t s hlow => ⟨fun hdue hst => ?_, fun hdue hst => ?_⟩
    · let e := (s.dev.reach t).onOwn fun o => { o with repeatDue := none }
      obtain ⟨hnow, hown, it, hit, hkind, hrest⟩ := offerOwn_falls e
      obtain ⟨hst', hnum, hdue', -⟩ := ownSame_facts hown
      have hdistress : e.ownKind = .distress := ownKind_other fun hc => by cases hst.symm.trans hc
      exact ⟨e.offerOwn, exec_of_event _ rfl hlow (repeatTime_of hdue), hnow, hdue', hst'.trans hst, hnum, it, hit,
        hkind.trans hdistress, hrest⟩
    · let e := (s.dev.reach t).onOwn fun o => { o with cancelDue := none }
      obtain ⟨hnow, hown, it, hit, hkind, hrest⟩ := offerOwn_falls e
      obtain ⟨hst', hnum, -, hdue'⟩ := ownSame_facts hown
      exact ⟨e.offerOwn, exec_of_event _ rfl hlow (cancelTime_of hdue), hnow, hdue', hst'.trans hst, hnum, it, hit,
        hkind.trans (ownKind_cancelling hst), hrest⟩
  case expiry =>
    intro st c s hlow hc hst
    obtain rfl := case_station _ _ _ hc
    obtain ⟨⟨o, hcase⟩, hwait, hitems, hstore, hlog, -⟩ :=
      closeCase_facts (d := s.dev.reach (c.lastHeard + 7200000)) .expired hc
    obtain ⟨close, timer, hform, -⟩ := closeCase_form (s.dev.reach (c.lastHeard + 7200000)) c .expired
    exact ⟨_, exec_of_event _ rfl hlow (caseTime_open hc hst), by rw [hform]; rfl, ⟨_, hcase, rfl, rfl⟩, hwait, hitems,
      hstore, hlog⟩
  case timer =>
    refine fun t s hlow hdue => ⟨fun hst => ?_, fun hst => ?_⟩
    · exact exec_of_event _ rfl hlow ((holdTime_of hdue).trans (if_neg hst))
    · obtain ⟨hover, hnow⟩ := endHold_over (s.dev.timerStopped t)
      refine ⟨_, exec_of_event _ rfl hlow ((holdTime_of hdue).trans (if_pos hst)), hnow, ?_, ?_, ?_⟩
      · unfold holdInForce
        rw [hover]
        exact (congrArg (fun x => x != OwnState.idle) hst).trans rfl
      · rw [hover]
        rfl
      · rw [hover]
        rfl
  case ends =>
    intro d hh hlen hleft
    obtain ⟨a, sl, w, x, hend, hslots, hfree, hoffered⟩ := endHold_form hh hlen hleft
    have hlane := endHold_told d
    generalize d.endHold = after at hend hoffered hlane ⊢
    intro e hopFor resumed seconds
    have hxfer : e.xfer = d.timesResumed sl := congrArg Device.xfer hend
    have hslot (i : Nat) (hi : i < 8) : e.slot i = d.unheld (d.slot i) :=
      (congrArg (fun t : Transfers => t.slots.getD i Slot.free) hxfer).trans (hslots i hi)
    have hrep : e.rep = { d.rep with deadline := d.rep.deadline.map fun c => c.resume d.now } :=
      congrArg Device.rep hend
    have hwaits : e.waits = w := congrArg Device.waits hend
    have hresumed : resumed = fun c => c.resume d.now := by
      funext c
      cases c <;> rfl
    refine ⟨congrArg Device.distress hend, fun i hi => ?_, ?_, ?_, ?_, ?_, ?_, ?_, fun hroom hmark => ?_⟩
    · rw [hslot i hi]
      exact ⟨unheld_other, unheld_refusal, unheld_direct, fun h hf hp => ⟨unheld_unrouted h hf hp,
        fun hop ha hh => unheld_sameHop h hf hp ha hh, fun hop ha hh => unheld_newHop h hf hp ha hh⟩⟩
    · rw [hresumed, hxfer]
      rfl
    · rw [hresumed, hxfer]
      rfl
    · rw [hresumed, hrep]
    · rw [hrep]
    · rw [hwaits]
      exact hfree
    · exact fun y hy hheld _ hsome => hoffered y hy hheld hsome
    · rw [told_room (holdEndedData d.holdLength) hroom hmark, holdEndedData_num] at hlane
      exact congrArg Lane.entries hlane
  case closes =>
    intro d c r acking last lane e
    obtain ⟨close, timer, hform, hacking, hquiet, hlast, hnot⟩ := closeCase_form d c r
    have hcases : e.distress.cases = casesClosed d.distress.cases c.station close :=
      congrArg (fun e : Device => e.distress.cases) hform
    have htimer : e.distress.holdTimer = timer := congrArg (fun e : Device => e.distress.holdTimer) hform
    have hlane : e.console.distress = lane.told 8 .caseClosed 0 (.caseOf c.station)
        (caseClosedData c.station c.alert r) := congrArg (fun e : Device => e.console.distress) hform
    refine ⟨?_, fun h => ?_, fun h => ?_, fun h => htimer.trans (hlast h), fun h => htimer.trans (hnot h),
      fun hmark => hlane.trans (told_marked _ _ _ _ hmark), fun hmark hroom => hlane.trans (told_room _ hroom hmark),
      fun hmark hfull => hlane.trans (told_full _ _ _ hfull hmark)⟩
    · rw [hcases, htimer, hlane]
      exact hform
    · rw [hcases, hacking h]
      rfl
    · rw [hcases, hquiet h]
      rfl
  case row =>
    exact fun st c s hlow hc hst => exec_of_event _ rfl hlow (caseTime_open hc hst)
  case order =>
    intro tag st c s hl h1 h2 hc hst
    exact exec_of_frame _ rfl hl ((orderClose_case h1 h2 hc).trans (if_neg hst))

end Sys2Proof.Machine
end

section
/-! PROOF. SUBMIT (O58). -/

namespace Sys2Proof.Machine
namespace Device

/-! ### A slot taken (R79, R80) -/

theorem freeSlot?_lt {d : Device} {i : Nat} (h : d.freeSlot? = some i) : i < 8 := by
  have hmem : i ∈ List.range 8 := List.mem_of_mem_filter (List.mem_of_head? h)
  exact List.mem_range.1 hmem

/-- A slot as it leaves FREE, with the message number `n`. -/
def slotTaken (d : Device) (n : Nat) (st : SlotState) (origin : Origin) (tag : Nat) (cls : MsgClass)
    (dest orig : Station) (grant : Option Nat) (len : Nat) : Slot :=
  { Slot.free with
    st := st, origin := origin, tag := tag, num := n, cls := cls, dest := dest, orig := orig, grant := grant,
    len := len, cnt := (len + 110) / 111, lifetimeEnd := d.now + 43200000 }

theorem takeSlot_eq {d : Device} {i : Nat} (hi : i < d.xfer.slots.length) (st : SlotState) (origin : Origin)
    (tag : Nat) (cls : MsgClass) (dest orig : Station) (grant : Option Nat) (len : Nat) :
    d.takeSlot i st origin tag cls dest orig grant len = { d with xfer := { d.xfer with
      slots := d.xfer.slots.set i (d.slotTaken d.nextNumber st origin tag cls dest orig grant len),
      nextNum := (d.nextNumber + 1) % 64 } } := by
  unfold takeSlot
  dsimp only
  rw [onSlot_set d i _ hi]
  rfl

/-! ### The tests of SUBMIT (R200) -/

theorem openSubmit_busy {d : Device} (h : d.console.submit ≠ none) (tag dest len : Nat) :
    openSubmit tag dest len d = (.busy, d) :=
  if_pos (Option.isSome_iff_ne_none.2 h)

section
variable {d : Device} {tag dest len : Nat} (hs : d.console.submit = none)
include hs

theorem not_submitted : ¬ d.console.submit.isSome = true := by
  rw [hs]
  decide

theorem openSubmit_badParam (h : dest = 0 ∨ 262143 ≤ dest) : openSubmit tag dest len d = (.badParam, d) :=
  (if_neg (not_submitted hs)).trans (if_pos h)

variable (h1 : 1 ≤ dest) (h2 : dest < 262143)
include h1 h2

theorem openSubmit_range (h : len = 0 ∨ 1776 < len) : openSubmit tag dest len d = (.range, d) := by
  unfold openSubmit
  rw [if_neg (not_submitted hs), if_neg (not_badStation h1 h2), if_pos h]

variable (h3 : 1 ≤ len) (h4 : len ≤ 1776)
include h3 h4

theorem openSubmit_tableFull (h : d.freeSlot? = none) : openSubmit tag dest len d = (.tableFull, d) := by
  unfold openSubmit
  rw [if_neg (not_submitted hs), if_neg (not_badStation h1 h2), if_neg (by omega), h]

theorem openSubmit_poolFull {i : Nat} {r : Reserved} {y : Store} (hi : d.freeSlot? = some i)
    (hr : d.store.reserve .outbound len = (r, y)) (hno : ∀ id, r ≠ .granted id) :
    openSubmit tag dest len d = (.poolFull, { d with store := y }) := by
  have hreserved : d.reserve .outbound len = (r, { d with store := y }) := by rw [reserve, hr]
  unfold openSubmit
  rw [if_neg (not_submitted hs), if_neg (not_badStation h1 h2), if_neg (by omega), hi]
  dsimp only
  rw [hreserved]
  cases r with
  | granted id => exact absurd rfl (hno id)
  | refusedCap => rfl
  | refusedPool => rfl

theorem openSubmit_taken {i id : Nat} {y : Store} (hi : d.freeSlot? = some i)
    (hr : d.store.reserve .outbound len = (.granted id, y)) : openSubmit tag dest len d =
    (.taken, ({ d with store := y }.takeSlot i .reserved .console tag .text dest d.config.own (some id) len).onConsole
      fun c => { c with submit := some ⟨tag, dest, len, 0, id, i, d.now + 30000⟩ }) := by
  have hreserved : d.reserve .outbound len = (.granted id, { d with store := y }) := by rw [reserve, hr]
  unfold openSubmit
  rw [if_neg (not_submitted hs), if_neg (not_badStation h1 h2), if_neg (by omega), hi]
  dsimp only
  rw [hreserved]
  rfl

end

end Device

open Device

/-- Settles O58: the tests in their order, then the slot taken with its pages. -/
theorem submit : Obligations.Submit := by
  intro tag dest len s hl c
  have hexec {X : Device} {r : Disposition} (h : openSubmit tag dest len c = (r, X)) :
      exec (.submit tag dest len) s = .next { s with dev := (X.echo tag r).settle } :=
    exec_of_frame _ rfl hl h
  refine ⟨fun hs => hexec (openSubmit_busy hs _ _ _), fun hs hd => hexec (openSubmit_badParam hs hd),
    fun hs h1 h2 hn => hexec (openSubmit_range hs h1 h2 hn),
    fun hs h1 h2 h3 h4 hf => hexec (openSubmit_tableFull hs h1 h2 h3 h4 hf),
    fun i r y hs h1 h2 h3 h4 hf hr hno => hexec (openSubmit_poolFull hs h1 h2 h3 h4 hf hr hno),
    fun i id y hs h1 h2 h3 h4 hf hlen hr => ⟨_, hexec (openSubmit_taken hs h1 h2 h3 h4 hf hr), ?_⟩⟩
  have hi : i < ({ c with store := y } : Device).xfer.slots.length := (freeSlot?_lt hf).trans_eq hlen.symm
  have hbeside : ∀ j, j ≠ i → (takeSlot { c with store := y } i .reserved .console tag .text dest c.config.own (some id)
      len).slot j = c.slot j := fun j hj => takeSlot_other { c with store := y } i j hj
  have hslot := slot_set { c with store := y } i ({ c with store := y }.slotTaken c.nextNumber .reserved .console tag
    .text dest c.config.own (some id) len) { c.xfer with nextNum := (c.nextNumber + 1) % 64 } hi
  rw [takeSlot_eq hi] at hbeside ⊢
  dsimp only [onConsole]
  have hown : Device.slot _ i = _ := hslot
  exact ⟨rfl, rfl, congrArg Slot.st hown, congrArg Slot.dest hown, congrArg Slot.tag hown, congrArg Slot.grant hown,
    congrArg Slot.len hown, congrArg Slot.cnt hown, congrArg Slot.lifetimeEnd hown, hbeside, rfl⟩

end Sys2Proof.Machine
end

section
/-! PROOF. TEXT, WITHDRAW and the void timer of the open submit (O59). -/

namespace Sys2Proof.Machine
namespace Device

/-! ### TEXT (R201) -/

theorem takeText_unopened {d : Device} (h : d.console.submit = none) (tag : Nat) (symbols : List Nat) :
    takeText tag symbols d = (.state, d) := by
  unfold takeText
  rw [h]

section
variable {d : Device} {x : Machine.Submit} (h : d.console.submit = some x) {tag : Nat} {symbols : List Nat}
include h

theorem takeText_otherTag (ht : x.tag ≠ tag) : takeText tag symbols d = (.badParam, d) := by
  unfold takeText
  rw [h]
  exact if_pos ht

variable (ht : x.tag = tag)
include ht

/-- An erasure among the symbols still wanted voids the submit. -/
theorem takeText_erased (hv : ∃ v ∈ symbols.take (x.len - x.received), 63 ≤ v) :
    takeText tag symbols d = (.range, d.voidSubmit) := by
  obtain ⟨v, hmem, hv⟩ := hv
  have hany : (symbols.take (x.len - x.received)).any (fun v => decide (63 ≤ v)) = true :=
    List.any_eq_true.2 ⟨v, hmem, decide_eq_true hv⟩
  unfold takeText
  rw [h]
  dsimp only
  rw [if_neg (not_not.2 ht), if_pos hany]

variable (hv : ∀ v ∈ symbols.take (x.len - x.received), v < 63)
include hv

theorem takeText_writes : takeText tag symbols d =
    (.taken, if x.received + (symbols.take (x.len - x.received)).length = x.len then
        ((d.writeText x.grant x.received (symbols.take (x.len - x.received))).onConsole fun c =>
          { c with submit := none }).startConsole x.slot
      else (d.writeText x.grant x.received (symbols.take (x.len - x.received))).onConsole fun c => { c with
        submit := some { x with
          received := x.received + (symbols.take (x.len - x.received)).length, voidAt := d.now + 30000 } }) := by
  have hany : ¬ (symbols.take (x.len - x.received)).any (fun v => decide (63 ≤ v)) = true := fun hany => by
    obtain ⟨v, hmem, hv'⟩ := List.any_eq_true.1 hany
    exact absurd (of_decide_eq_true hv') (Nat.not_le.2 (hv v hmem))
  unfold takeText
  rw [h]
  dsimp only
  rw [if_neg (not_not.2 ht), if_neg hany]
  split <;> rfl

end

/-! ### WITHDRAW (R91, R201) -/

theorem mem_withdrawable (d : Device) (tag j : Nat) : j ∈ d.withdrawable tag ↔
    j < 8 ∧ (d.slot j).origin = .console ∧ (d.slot j).tag = tag ∧ (d.slot j).st ≠ .free ∧ (d.slot j).st ≠ .reserved ∧
      (d.slot j).st ≠ .outcomeOwed := by
  have hslots : j ∈ slotOrder ↔ j < 8 := (List.mem_range : j ∈ List.range 8 ↔ _)
  simp [withdrawable, slotsWhere, hslots, and_assoc]

/-- The slots that a WITHDRAW of the tag applies to, by one test of their states. -/
theorem withdrawable_eq (d : Device) (tag : Nat) : d.withdrawable tag = (List.range 8).filter fun j =>
    (d.slot j).origin == .console && (d.slot j).tag == tag &&
      !((d.slot j).st == .free || (d.slot j).st == .reserved || (d.slot j).st == .outcomeOwed) :=
  List.filter_congr fun j _ => by simp [bne, Bool.and_assoc]

/-- Each slot in the list asked to end. -/
def askEndings (d : Device) (l : List Nat) : Device := l.foldl (fun d i => d.askEnding i .withdrawn) d

/-- The endings asked for in turn from `e`, whose slots of the list are those of `c`. -/
theorem askEndings_facts {c e : Device} {l : List Nat} (hn : l.Nodup) (hslots : ∀ j ∈ l, e.slot j = c.slot j)
    (hi : ∀ j ∈ l, j < e.xfer.slots.length) (ho : ∀ j ∈ l, (c.slot j).origin = .console)
    (hp : e.rep.pending = none) (hr : ∀ x ∈ e.xfer.reasms, x.waiting = false) :
    let d := e.askEndings l
    let ended := l.filter fun j => !endsPending (c.slot j)
    e.console.general.entries.length + ended.length ≤ 24 →
    d = { e with access := d.access, store := d.store, xfer := d.xfer, console := d.console } ∧
    (∀ j, j ∉ l → d.slot j = e.slot j) ∧
    (∀ j ∈ l, endsPending (c.slot j) = true →
      d.slot j = { c.slot j with pendingEnd := some ((c.slot j).pendingEnd.getD .withdrawn) }) ∧
    (∀ j ∈ ended, d.slot j = Slot.free ∧ ∀ it ∈ d.access.routine.items, it.kind = .data → it.owner ≠ .slot j) ∧
    d.console.submit = e.console.submit ∧
    d.console.general.entries = e.console.general.entries ++ ended.map (fun j =>
      ⟨.transferOutcome, 0, .report (slotOutcomeData (c.slot j) .withdrawn), 0⟩) ∧
    d.store = (ended.filterMap fun j => (c.slot j).grant).foldl Store.release e.store ∧
    d.xfer.counts.withdrawn = ended.foldl (fun n _ => bump n) e.xfer.counts.withdrawn := by
  intro d ended hroom
  have hended : (l.filter fun j => !endsPending (e.slot j)) = ended :=
    List.filter_congr fun j hj => by rw [hslots j hj]
  have hin : ∀ j ∈ ended, e.slot j = c.slot j := fun j hj => hslots j (List.mem_of_mem_filter hj)
  have hfold := askEnding_foldl l hn e hi (fun j hj => by rw [hslots j hj]; exact ho j hj) hp hr
    (by rw [hended]; exact hroom)
  rw [hended] at hfold
  obtain ⟨hrest, hbeside, hlater, hfreed, -, hsubmit, hentries, hstore, hcount⟩ := hfold
  refine ⟨hrest, hbeside, fun j hj hpending => ?_, hfreed, hsubmit, ?_, ?_, hcount⟩
  · have hasks := hlater j hj
    rw [hslots j hj] at hasks
    exact hasks hpending
  · refine hentries.trans (congrArg _ (List.map_congr_left fun j hj => ?_))
    rw [hin j hj]
  · refine hstore.trans (congrArg (fun l => l.foldl Store.release e.store) (List.filterMap_congr fun j hj => ?_))
    rw [hin j hj]

theorem withdrawTag_slots {d : Device} {tag : Nat} (h : ∀ x, d.console.submit = some x → x.tag ≠ tag) :
    withdrawTag tag d = if d.withdrawable tag = [] then (.badParam, d)
      else (.taken, d.askEndings (d.withdrawable tag)) := by
  unfold withdrawTag
  cases hs : d.console.submit with
  | none => simp [askEndings]
  | some x => simp [askEndings, h x hs]

theorem withdrawTag_opened {d : Device} {x : Machine.Submit} {tag : Nat} (h : d.console.submit = some x)
    (ht : x.tag = tag) : withdrawTag tag d = (.taken, d.voidSubmit.askEndings (d.withdrawable tag)) := by
  unfold withdrawTag
  simp [h, ht, askEndings]

/-! ### The submit voided (R201) -/

/-- The open submit voided: its pages released and its slot FREE. -/
def voided (d : Device) (x : Machine.Submit) : Device := { d with
  store := d.store.release x.grant,
  xfer := { d.xfer with slots := d.xfer.slots.set x.slot Slot.free },
  console := { d.console with submit := none } }

theorem voided_beside (d : Device) (x : Machine.Submit) {j : Nat} (h : j ≠ x.slot) : (d.voided x).slot j = d.slot j :=
  settled_beside d Slot.free d.xfer.counts h

theorem submitTimesOut_told {d : Device} {x : Machine.Submit} (h : d.console.submit = some x)
    (hi : x.slot < d.xfer.slots.length) (hp : d.rep.pending = none) (hr : ∀ e ∈ d.xfer.reasms, e.waiting = false)
    (hroom : d.console.general.entries.length < 24) :
    d.submitTimesOut = ((d.reach x.voidAt).voided x).queueEntry .general ⟨.transferOutcome, 0, .report
      (outcomeData x.tag .void (d.slot x.slot).num x.dest 0 0), 0⟩ := by
  have hvoid : (d.reach x.voidAt).voidSubmit = (d.reach x.voidAt).voided x := voidSubmit_eq _ x h hi hp hr
  have hlane : ((d.reach x.voidAt).voided x).laneRoom ReportKind.transferOutcome.lane = true := decide_eq_true hroom
  unfold submitTimesOut
  rw [h]
  dsimp only
  rw [hvoid, reportOrLose, if_pos hlane]
  rfl

end Device

open Device

/-- Settles O59. -/
theorem textAndWithdraw : Obligations.TextAndWithdraw := by
  refine ⟨?rows, ?one, ?timer, ?text, ?withdraw⟩
  case rows =>
    intro tag cmd symbols s hl c
    have htext {X : Device} {r : Disposition} (h : takeText tag symbols c = (r, X)) :
        exec (.text tag symbols) s = .next { s with dev := (X.echo tag r).settle } := exec_of_frame _ rfl hl h
    have hwithdraw {X : Device} {r : Disposition} (h : withdrawTag tag c = (r, X)) :
        exec (.withdraw cmd tag) s = .next { s with dev := (X.echo cmd r).settle } := exec_of_frame _ rfl hl h
    refine ⟨fun hs => htext (takeText_unopened hs _ _), fun hs hw => hwithdraw ?_, fun x hs =>
      ⟨fun ht => htext (takeText_otherTag hs ht), fun ht hv hlen hroom => htext ?_, fun ht hw => hwithdraw ?_⟩⟩
    · rw [withdrawTag_slots (fun x hx => by rw [hs] at hx; cases hx), if_pos hw]
    · have hall : symbols.take (x.len - x.received) = symbols := List.take_of_length_le (by omega)
      have hrow := takeText_writes hs ht (symbols := symbols) (by rw [hall]; exact hv)
      rw [hall, hlen, if_neg (by omega)] at hrow
      exact hrow
    · rw [withdrawTag_opened hs ht, hw]
      rfl
  case one =>
    intro tag cmd i s hl c hs hw
    refine exec_of_frame _ rfl hl ?_
    rw [withdrawTag_slots hs, hw]
    rfl
  case timer =>
    intro x s hlow hs hi hp hr hroom
    refine ⟨_, exec_of_event _ rfl hlow (submitTimesOut_told hs hi hp hr hroom), ?_⟩
    rw [queueEntry_general _ (by exact hroom)]
    exact ⟨rfl, rfl, rfl, settled_slot hi Slot.free s.dev.xfer.counts, rfl, rfl⟩
  case text =>
    intro tag symbols x s hl c wanted hs ht hi
    refine ⟨fun hv hp hr => exec_of_frame _ rfl hl ?_, fun hv hlen => ?_⟩
    · rw [takeText_erased hs ht hv, voidSubmit_eq c x hs hi hp hr]
    intro closed sl
    have hrow := takeText_writes hs ht hv
    rw [if_pos hlen] at hrow
    refine ⟨fun hd => exec_of_frame _ rfl hl (hrow.trans (congrArg _ (if_pos hd))), fun hd ho => ?_⟩
    obtain ⟨hrest, hitems, hslot⟩ := startRoute_console closed x.slot hi ho _ rfl
    exact ⟨closed.startRoute x.slot, exec_of_frame _ rfl hl (hrow.trans (congrArg _ (if_neg hd))), hrest,
      fun j hj => (startRoute_slot closed x.slot j).1 hj, hitems, hslot⟩
  case withdraw =>
    intro tag cmd s hl c asked later ended withdrawn hlen hp hr hroom
    have hasked : c.withdrawable tag = asked := withdrawable_eq c tag
    have hask (e : Device) (hslots : ∀ j ∈ asked, e.slot j = c.slot j) (hlen : e.xfer.slots.length = 8)
        (hp : e.rep.pending = none) (hr : ∀ x ∈ e.xfer.reasms, x.waiting = false)
        (hroom : e.console.general.entries.length + ended.length ≤ 24)
        (hrow : withdrawTag tag c = (.taken, e.askEndings asked)) : withdrawn e := by
      have hin (j : Nat) (hj : j ∈ asked) := (mem_withdrawable c tag j).1 (hasked ▸ hj)
      have hended : (asked.filter fun j => !endsPending (c.slot j)) = ended :=
        List.filter_congr fun j _ => by rw [endsPending, Bool.or_comm]
      have hfacts := askEndings_facts (List.nodup_range.filter _) hslots (fun j hj => (hin j hj).1.trans_eq hlen.symm)
        (fun j hj => (hin j hj).2.1) hp hr
      rw [hended] at hfacts
      obtain ⟨hrest, hbeside, hlater, htold⟩ := hfacts hroom
      exact ⟨_, exec_of_frame _ rfl hl hrow, hrest, hbeside,
        fun j hj hpending => hlater j hj ((endsPending_iff _).2 (Or.symm hpending)), htold⟩
    refine ⟨fun hs hsome => hask c (fun _ _ => rfl) hlen hp hr hroom ?_, fun x hs ht hi hst => ?_⟩
    · rw [withdrawTag_slots hs, hasked, if_neg hsome]
    · have hvoid : c.voidSubmit = c.voided x := voidSubmit_eq c x hs (hlen.symm ▸ hi) hp hr
      refine hask (c.voided x) (fun j hj => voided_beside c x ?_) (List.length_set.trans hlen) hp hr hroom ?_
      · rintro rfl
        obtain ⟨-, -, -, -, hreserved, -⟩ := (mem_withdrawable c tag _).1 (hasked ▸ hj)
        exact hreserved hst
      · rw [withdrawTag_opened hs ht, hvoid, hasked]

end Sys2Proof.Machine
end

section
/-! PROOF. The tests of a received FORECAST, and the record its part goes to (O43). -/

namespace Sys2Proof.Machine

/-! ### The order of issue numbers (R132) -/

theorem newer_iff {n m : Nat} (hn : n < 4096) (hm : m < 4096) :
    newer n m = true ↔ 1 ≤ ((n : Int) - m) % 4096 ∧ ((n : Int) - m) % 4096 ≤ 2047 := by
  have hrow : newer n m = true ↔ 1 ≤ (n + 4096 - m % 4096) % 4096 ∧ (n + 4096 - m % 4096) % 4096 ≤ 2047 := by
    simp [newer]
  rw [hrow]
  omega

theorem newer_self (n : Nat) : newer n n = false := by
  have hzero : (n + 4096 - n % 4096) % 4096 = 0 := by omega
  simp [newer, hzero]

theorem newer_half {n m : Nat} (hn : n < 4096) (hm : m < 4096) (h : ((n : Int) - m) % 4096 = 2048) :
    newer n m = false ∧ newer m n = false := by
  rw [← Bool.not_eq_true, ← Bool.not_eq_true, newer_iff hn hm, newer_iff hm hn]
  omega

namespace Device

theorem improvesPart_iff {f : Forecast} {h : ForecastHeader} (b : Burst) {x : PartInfo}
    (hp : f.parts[h.idx]? = some (some x)) : improvesPart f h b = true ↔ copyScore b < x.score := by
  have hget : f.parts.getD h.idx none = some x := by rw [List.getD_eq_getElem?_getD, hp]; rfl
  unfold improvesPart
  rw [hget]
  exact decide_eq_true_iff

theorem improvesPart_not {f : Forecast} {h : ForecastHeader} {b : Burst}
    (hp : ∃ p, f.parts.getD h.idx none = some p ∧ p.score ≤ copyScore b) : ¬ improvesPart f h b = true := by
  obtain ⟨p, hget, hle⟩ := hp
  unfold improvesPart
  rw [hget]
  exact fun hc => Nat.not_lt.2 hle (of_decide_eq_true hc)

/-! ### The tests of a received FORECAST (R131, R133) -/

theorem forecastInRange_iff (h : ForecastHeader) (len : Nat) : forecastInRange h len = true ↔
    1 ≤ h.area ∧ 1 ≤ h.cnt ∧ h.cnt ≤ 8 ∧ h.idx < h.cnt ∧ 1 ≤ h.day ∧ h.day ≤ 31 ∧ h.hour ≤ 23 ∧
      h.minute ≤ 59 ∧ 1 ≤ h.validFor ∧ len ≤ 114 := by
  simp [forecastInRange, validTime, and_assoc]

/-- What becomes of a FORECAST whose header reads: the tests 3 to 6, and its place. -/
def judgePart (d : Device) (b : Burst) : Device :=
  let h := forecastHeader b.body
  if !d.config.sources.contains h.issuer then d.countForeign
  else if !forecastInRange h b.body.length then d.countMalformed
  else if !d.config.areas.contains h.area then
    d.onWeatherCounts fun c => { c with unwantedArea := bump c.unwantedArea }
  else if d.weather.forecasts.any fun f => f.area == h.area && f.issuer != h.issuer then
    d.onWeatherCounts fun c => { c with otherIssuer := bump c.otherIssuer }
  else d.placePart h b

theorem receiveForecast_short {d : Device} {b : Burst} (h : b.body.length < 12) :
    d.receiveForecast b = d.countMalformed := if_pos h

theorem receiveForecast_erased {d : Device} {b : Burst} (h12 : 12 ≤ b.body.length) (he : 0 < b.erasures)
    (hmark : 63 ∈ b.body.take 12) : d.receiveForecast b = d.countHeaderErasure :=
  (if_neg (Nat.not_lt.2 h12)).trans (if_pos ((headerErased_iff b 12).2 ⟨he, hmark⟩))

theorem receiveForecast_read {d : Device} {b : Burst} (h12 : 12 ≤ b.body.length)
    (hclean : b.erasures = 0 ∨ 63 ∉ b.body.take 12) : d.receiveForecast b = d.judgePart b := by
  refine (if_neg (Nat.not_lt.2 h12)).trans ((if_neg fun hc => ?_).trans rfl)
  obtain ⟨he, hmark⟩ := (headerErased_iff b 12).1 hc
  exact hclean.elim (Nat.ne_of_gt he) fun hn => hn hmark

theorem judgePart_foreign {d : Device} {b : Burst} (h : (forecastHeader b.body).issuer ∉ d.config.sources) :
    d.judgePart b = d.countForeign :=
  if_pos (by simpa using h)

section
variable {d : Device} {b : Burst} (hs : (forecastHeader b.body).issuer ∈ d.config.sources)
include hs

theorem judgePart_malformed (h : ¬ forecastInRange (forecastHeader b.body) b.body.length = true) :
    d.judgePart b = d.countMalformed :=
  (if_neg (by simpa using hs)).trans (if_pos (by simpa using h))

variable (hr : forecastInRange (forecastHeader b.body) b.body.length = true)
include hr

theorem judgePart_unwanted (h : (forecastHeader b.body).area ∉ d.config.areas) :
    d.judgePart b = d.onWeatherCounts fun c => { c with unwantedArea := bump c.unwantedArea } :=
  (if_neg (by simpa using hs)).trans ((if_neg (by simpa using hr)).trans (if_pos (by simpa using h)))

variable (ha : (forecastHeader b.body).area ∈ d.config.areas)
include ha

theorem judgePart_wanted : d.judgePart b =
    if d.weather.forecasts.any (fun f =>
      f.area == (forecastHeader b.body).area && f.issuer != (forecastHeader b.body).issuer)
    then d.onWeatherCounts fun c => { c with otherIssuer := bump c.otherIssuer }
    else d.placePart (forecastHeader b.body) b :=
  (if_neg (by simpa using hs)).trans ((if_neg (by simpa using hr)).trans (if_neg (by simpa using ha)))

theorem judgePart_otherIssuer (h : ∃ f ∈ d.weather.forecasts,
      f.area = (forecastHeader b.body).area ∧ f.issuer ≠ (forecastHeader b.body).issuer) :
    d.judgePart b = d.onWeatherCounts fun c => { c with otherIssuer := bump c.otherIssuer } := by
  rw [judgePart_wanted hs hr ha, if_pos]
  simpa using h

theorem judgePart_placed (h : ∀ f ∈ d.weather.forecasts,
      f.area = (forecastHeader b.body).area → f.issuer = (forecastHeader b.body).issuer) :
    d.judgePart b = d.placePart (forecastHeader b.body) b := by
  rw [judgePart_wanted hs hr ha, if_neg]
  simpa using h

end

/-! ### The record a part goes to (R134) -/

/-- A part of an issue that no record holds and that is not newer than every record's. -/
def countOldIssue (d : Device) : Device := d.onWeatherCounts fun c => { c with oldIssue := bump c.oldIssue }

theorem placePart_collecting {d : Device} {h : ForecastHeader} {f : Forecast} (b : Burst)
    (hk : d.forecast? h.area false = some f) (hi : f.issue = h.issue) : d.placePart h b = d.partTo f h b := by
  unfold placePart
  simp [hk, hi]

theorem placePart_complete {d : Device} {h : ForecastHeader} {f : Forecast} (b : Burst)
    (hc : d.forecast? h.area true = some f) (hi : f.issue = h.issue)
    (hk : ∀ x, d.forecast? h.area false = some x → x.issue ≠ h.issue) : d.placePart h b = d.partTo f h b := by
  unfold placePart
  cases hkept : d.forecast? h.area false with
  | none => simp [hc, hi]
  | some x => simp [hc, hi, hk x hkept]

/-- `x` is a record of the header's area. -/
def heldIn (d : Device) (h : ForecastHeader) (x : Forecast) : Prop :=
  d.forecast? h.area false = some x ∨ d.forecast? h.area true = some x

theorem placePart_newer {d : Device} {h : ForecastHeader} (b : Burst)
    (hnew : ∀ x, d.heldIn h x → newer h.issue x.issue = true) :
    d.placePart h b = d.openCollection h b (d.forecast? h.area false) := by
  have hissue (x : Forecast) (hx : d.heldIn h x) : x.issue ≠ h.issue := fun he => by
    have hn := hnew x hx
    rw [he, newer_self] at hn
    cases hn
  unfold placePart
  cases hk : d.forecast? h.area false with
  | none =>
    cases hc : d.forecast? h.area true with
    | none => rfl
    | some c => simp [hissue c (.inr hc), hnew c (.inr hc)]
  | some k =>
    cases hc : d.forecast? h.area true with
    | none => simp [hissue k (.inl hk), hnew k (.inl hk)]
    | some c => simp [hissue k (.inl hk), hnew k (.inl hk), hissue c (.inr hc), hnew c (.inr hc)]

theorem placePart_old {d : Device} {h : ForecastHeader} (b : Burst)
    (hissue : ∀ x, d.heldIn h x → x.issue ≠ h.issue) (hold : ∃ x, d.heldIn h x ∧ newer h.issue x.issue = false) :
    d.placePart h b = d.countOldIssue := by
  obtain ⟨x, hx, hnx⟩ := hold
  unfold placePart
  cases hk : d.forecast? h.area false with
  | none =>
    have hc : d.forecast? h.area true = some x := hx.resolve_left (by rw [hk]; nofun)
    simp [hc, hissue x (.inr hc), hnx, countOldIssue]
  | some k =>
    cases hc : d.forecast? h.area true with
    | none =>
      have hkx : k = x := Option.some.inj (hk.symm.trans (hx.resolve_right (by rw [hc]; nofun)))
      have hnk : newer h.issue k.issue = false := hkx ▸ hnx
      simp [hissue k (.inl hk), hnk, countOldIssue]
    | some c =>
      have hnot : (newer h.issue k.issue && newer h.issue c.issue) = false := by
        rcases hx with hx | hx
        · rw [Option.some.inj (hk.symm.trans hx), hnx, Bool.false_and]
        · rw [Option.some.inj (hc.symm.trans hx), hnx, Bool.and_false]
      simp [hissue k (.inl hk), hissue c (.inr hc), hnot, countOldIssue]

theorem partTo_otherCount {f : Forecast} {h : ForecastHeader} (d : Device) (b : Burst) (hn : f.cnt ≠ h.cnt) :
    d.partTo f h b = d.onWeatherCounts fun c => { c with inconsistent := bump c.inconsistent } := if_pos hn

theorem partTo_sameCount {f : Forecast} {h : ForecastHeader} (d : Device) (b : Burst) (hn : f.cnt = h.cnt) :
    d.partTo f h b = if f.complete then d.partToComplete f h b else d.partToCollecting f h b :=
  if_neg (not_not.2 hn)

end Device
end Sys2Proof.Machine
end

section
/-! PROOF. A part stored in its record, and a record that is whole (O43). -/

namespace Sys2Proof.Machine

theorem Forecast.marred_iff (f : Forecast) :
    f.marred = true ↔ ∃ p, some p ∈ f.parts ∧ (0 < p.erasures ∨ p.pass = false) := by
  unfold Forecast.marred
  rw [List.any_eq_true]
  constructor
  · rintro ⟨_ | p, hmem, hp⟩
    · cases hp
    · exact ⟨p, hmem, by simpa using hp⟩
  · rintro ⟨p, hmem, hp⟩
    exact ⟨some p, hmem, by simpa using hp⟩

namespace Device

/-! ### A part stored (R136, R139) -/

/-- What a record keeps of a part. -/
def partOf (b : Burst) : PartInfo := ⟨copyScore b, b.erasures, b.pass, (b.body.drop 12).length⟩

/-- The part becomes the header part: no other leads, or it has a lower score. -/
def leadsPart (f : Forecast) (b : Burst) : Prop :=
  ∀ p, f.parts.getD f.headerPart none = some p → (partOf b).score < p.score

/-- The record with the part in its place. -/
def withPart (f : Forecast) (h : ForecastHeader) (b : Burst) : Forecast :=
  { f with lastPart := b.endTime, parts := f.parts.set h.idx (some (partOf b)) }

/-- `g` is what storing the part makes of the record `f`. -/
def storesPart (d : Device) (f : Forecast) (h : ForecastHeader) (b : Burst) (g : Forecast) : Prop :=
  leadsPart f b ∧ g = d.withHeader (withPart f h b) h ∨ ¬ leadsPart f b ∧ g = withPart f h b

/-- `e` is `d` with the part's text in the store and some of the forecast records changed. -/
def textWritten (d : Device) (f : Forecast) (h : ForecastHeader) (b : Burst) (e : Device) : Prop :=
  e = { d with
    store := d.store.writeSyms f.grant (102 * h.idx) (b.body.drop 12),
    weather := { d.weather with forecasts := e.weather.forecasts } }

/-- Storing a part changes the record it is stored in, wherever its last-part time is set. -/
theorem storePart_stores {d : Device} {f g : Forecast} {h : ForecastHeader} {b : Burst}
    (hg : d.storesPart f h b g) : ∃ G : Forecast → Forecast,
    d.storePart f h b = ({ d with store := d.store.writeSyms f.grant (102 * h.idx) (b.body.drop 12) }).onForecast
      f.area f.complete G ∧
    (∀ x, (G x).area = x.area ∧ (G x).complete = x.complete) ∧
    G { f with lastPart := b.endTime } = g ∧ { G f with lastPart := b.endTime } = g := by
  obtain ⟨G, hrow, hkey, hlead, hstay⟩ := storePart_eq d f h b
  refine ⟨G, hrow, hkey, ?_⟩
  rcases hg with ⟨hl, rfl⟩ | ⟨hl, rfl⟩
  · rw [hlead hl, hlead hl]
    exact ⟨rfl, rfl⟩
  · rw [hstay hl, hstay hl]
    exact ⟨rfl, rfl⟩

/-! ### A part for the COLLECTING record (R136, R137) -/

section
variable {d : Device} {f : Forecast} {h : ForecastHeader} {b : Burst}

theorem partToCollecting_notBetter (hf : d.forecast? f.area false = some f) (hn : ¬ improvesPart f h b = true) :
    let e := d.partToCollecting f h b
    e.forecast? f.area false = some { f with lastPart := b.endTime } ∧
    (∀ a c, (a, c) ≠ (f.area, false) → e.forecast? a c = d.forecast? a c) ∧
    e.store = d.store ∧ e.console = d.console ∧
    e.weather.counts = { d.weather.counts with notBetter := bump d.weather.counts.notBetter } ∧
    e.weather.warnings = d.weather.warnings ∧ e.log = d.log := by
  have hrow : d.partToCollecting f h b
      = (d.onForecast f.area false fun f => { f with lastPart := b.endTime }).countNotBetter := if_neg hn
  have hfind (a : Nat) (c : Bool) := forecast_onForecast d f.area false
    (fun f => { f with lastPart := b.endTime }) (fun _ => ⟨rfl, rfl⟩) a c
  dsimp only
  rw [hrow]
  refine ⟨?_, fun a c hne => ?_, rfl, rfl, rfl, rfl, rfl⟩
  · exact (hfind _ _).trans ((if_pos ⟨rfl, rfl⟩).trans (by rw [hf]; rfl))
  · exact (hfind a c).trans (if_neg fun hc => hne (by rw [hc.1, hc.2]))

/-- A part stored in the COLLECTING record, before it is seen whether the record is whole. -/
theorem partToCollecting_stores {g : Forecast} (hf : d.forecast? f.area false = some f)
    (hs : improvesPart f h b = true) (hg : d.storesPart f h b g) :
    ∃ x, d.partToCollecting f h b = x.completeForecast f.area ∧ d.textWritten f h b x ∧
      x.forecast? f.area false = some g ∧ ∀ a c, (a, c) ≠ (f.area, false) → x.forecast? a c = d.forecast? a c := by
  let y := d.onForecast f.area false fun f => { f with lastPart := b.endTime }
  have hy (a : Nat) (c : Bool) : y.forecast? a c = _ := forecast_onForecast d f.area false
    (fun f => { f with lastPart := b.endTime }) (fun _ => ⟨rfl, rfl⟩) a c
  obtain ⟨-, hcomplete⟩ := forecast?_key hf
  obtain ⟨G, hrow, hkey, hG, -⟩ := storePart_stores (d := y) (g := g) hg
  rw [hcomplete] at hrow
  have hx (a : Nat) (c : Bool) := forecast_onForecast
    { y with store := y.store.writeSyms f.grant (102 * h.idx) (b.body.drop 12) } f.area false G hkey a c
  refine ⟨y.storePart f h b, if_pos hs, ?_, ?_, fun a c hne => ?_⟩
  · unfold textWritten
    rw [hrow]
    rfl
  · rw [hrow, hx, if_pos ⟨rfl, rfl⟩]
    refine (congrArg (Option.map G) ((hy _ _).trans ((if_pos ⟨rfl, rfl⟩).trans (congrArg _ hf)))).trans ?_
    exact congrArg some hG
  · have hk : ¬ (a = f.area ∧ c = false) := fun hc => hne (by rw [hc.1, hc.2])
    rw [hrow, hx, if_neg hk]
    exact (hy a c).trans (if_neg hk)

/-! ### A part for the COMPLETE record (R138) -/

theorem partToComplete_notBetter (hn : ¬ improvesPart f h b = true) : d.partToComplete f h b = d.countNotBetter :=
  if_neg hn

/-- A part stored in the COMPLETE record is reported (R138). -/
theorem partToComplete_stores {g : Forecast} (hf : d.forecast? f.area true = some f)
    (hs : improvesPart f h b = true) (hg : d.storesPart f h b g) :
    ∃ x, d.partToComplete f h b
        = x.report .forecastUpdated (.forecast f.area) (forecastData g 0 (some h.idx)) ∧
      d.textWritten f h b x ∧ x.forecast? f.area true = some g ∧
      ∀ a c, (a, c) ≠ (f.area, true) → x.forecast? a c = d.forecast? a c := by
  obtain ⟨-, hcomplete⟩ := forecast?_key hf
  obtain ⟨G, hrow, hkey, -, hG⟩ := storePart_stores hg
  rw [hcomplete] at hrow
  let y : Device := { d with store := d.store.writeSyms f.grant (102 * h.idx) (b.body.drop 12) }
  let x := (y.onForecast f.area true G).onForecast f.area true fun f => { f with lastPart := b.endTime }
  have hy (a : Nat) (c : Bool) := forecast_onForecast y f.area true G hkey a c
  have hx (a : Nat) (c : Bool) : x.forecast? a c = _ := forecast_onForecast (y.onForecast f.area true G) f.area true
    (fun f => { f with lastPart := b.endTime }) (fun _ => ⟨rfl, rfl⟩) a c
  have hheld : x.forecast? f.area true = some g := by
    rw [hx, if_pos ⟨rfl, rfl⟩, hy, if_pos ⟨rfl, rfl⟩, ← hG]
    exact congrArg (fun o => Option.map _ (Option.map G o)) hf
  have harea : g.area = f.area := by rw [← hG]; exact (hkey f).1
  refine ⟨x, ?_, rfl, hheld, fun a c hne => ?_⟩
  · unfold partToComplete
    rw [if_pos hs, hrow]
    dsimp only
    rw [show (y.onForecast f.area true G).onForecast f.area true (fun f => { f with lastPart := b.endTime }) = x from
      rfl, hheld]
    dsimp only
    rw [harea]
  · have hk : ¬ (a = f.area ∧ c = true) := fun hc => hne (by rw [hc.1, hc.2])
    rw [hx, if_neg hk, hy, if_neg hk]
    rfl

end

/-! ### A record that is whole (R137) -/

theorem completeForecast_partial {d : Device} {a : Nat} {g : Forecast} (hg : d.forecast? a false = some g)
    (hn : none ∈ g.parts) : d.completeForecast a = d := by
  unfold completeForecast
  rw [hg]
  refine if_neg fun hall => ?_
  have := List.all_eq_true.1 hall none hn
  cases this

/-- What a whole record replaces is freed first: the COMPLETE record of its area. -/
def freeComplete (d : Device) (a : Nat) : Device :=
  match d.forecast? a true with
  | none => d
  | some c => d.freeForecast c

theorem freeComplete_none {d : Device} {a : Nat} (h : d.forecast? a true = none) : d.freeComplete a = d := by
  unfold freeComplete
  rw [h]

theorem freeComplete_some {d : Device} {a : Nat} {c : Forecast} (h : d.forecast? a true = some c) :
    d.freeComplete a = d.freeForecast c := by
  unfold freeComplete
  rw [h]

theorem freeComplete_frame (d : Device) (a : Nat) : (d.freeComplete a).weather.counts = d.weather.counts ∧
    (d.freeComplete a).weather.warnings = d.weather.warnings ∧ (d.freeComplete a).log = d.log ∧
    (d.freeComplete a).console = d.console := by
  unfold freeComplete
  split <;> exact ⟨rfl, rfl, rfl, rfl⟩

theorem forecast?_freeComplete (d : Device) (a a' : Nat) (c : Bool) :
    (d.freeComplete a).forecast? a' c = if a' = a ∧ c = true then none else d.forecast? a' c := by
  cases hc : d.forecast? a true with
  | none =>
    rw [freeComplete_none hc]
    split
    · next hk => rw [hk.1, hk.2, hc]
    · rfl
  | some k =>
    obtain ⟨harea, hcomplete⟩ := forecast?_key hc
    rw [freeComplete_some hc, forecast_freeForecast, harea, hcomplete]

theorem report_forecast? (d : Device) (kind : ReportKind) (mark : OwedRef) (data : List Datum) (a : Nat) (c : Bool) :
    (d.report kind mark data).forecast? a c = d.forecast? a c := by
  unfold forecast?
  rw [report_weather]

/-- A record whose last part has come replaces the COMPLETE one of its area and is reported. -/
theorem completeForecast_whole {d : Device} {a : Nat} {g : Forecast} (hg : d.forecast? a false = some g)
    (hn : none ∉ g.parts) :
    let e := d.completeForecast a
    e.forecast? a true = some { g with complete := true } ∧ e.forecast? a false = none ∧
    (∀ a' c, a' ≠ a → e.forecast? a' c = d.forecast? a' c) ∧ e.store = (d.freeComplete a).store ∧
    e.weather.counts = { d.weather.counts with completed := bump d.weather.counts.completed } ∧
    e.weather.warnings = d.weather.warnings ∧ e.log = d.log ∧ e.console.general
      = d.console.general.told 24 .forecastReady 0 (.forecast a) (forecastData { g with complete := true } 0 none) := by
  have hall : g.parts.all Option.isSome = true := List.all_eq_true.2 fun p hp =>
    Option.isSome_iff_ne_none.2 fun hnone => hn (hnone ▸ hp)
  have hnone : (d.freeComplete a).forecast? a true = none := by
    rw [forecast?_freeComplete, if_pos ⟨rfl, rfl⟩]
  have hsome : (d.freeComplete a).forecast? a false = some g := by
    rw [forecast?_freeComplete, if_neg (fun hk => by cases hk.2), hg]
  have hrow := complete_eq d (d.freeComplete a) a g hg hall (fun h => freeComplete_none h)
    (fun c h => freeComplete_some h) hnone hsome
  have hfind (a' : Nat) (c : Bool) := forecast_completed (d.freeComplete a) a hnone a' c
  obtain ⟨hcounts, hwarnings, hlog, hconsole⟩ := d.freeComplete_frame a
  refine ⟨?_, ?_, fun a' c hne => ?_, ?_, ?_, ?_, ?_, completeForecast_told hg hn⟩
  · rw [hrow, report_forecast?]
    exact (hfind a true).trans (by rw [if_pos rfl, if_pos rfl, hsome]; rfl)
  · rw [hrow, report_forecast?]
    exact (hfind a false).trans (by rw [if_pos rfl, if_neg (by decide)])
  · rw [hrow, report_forecast?]
    exact (hfind a' c).trans (by rw [if_neg hne, forecast?_freeComplete, if_neg fun hk => hne hk.1])
  · rw [hrow, report_store]
    rfl
  · rw [hrow, report_weather, ← hcounts]
    rfl
  · rw [hrow, report_weather, ← hwarnings]
    rfl
  · rw [hrow, report_log, ← hlog]
    rfl

end Device
end Sys2Proof.Machine
end

section
/-! PROOF. A new collection of forecast parts and the room made for it (O43). -/

namespace Sys2Proof.Machine
namespace Device

/-! ### The collection a newer issue supersedes (R134) -/

theorem freeForecast_collecting {f : Forecast} (d : Device) (hf : f.complete = false) : d.freeForecast f = { d with
    store := d.store.release f.grant,
    weather := { d.weather with
      forecasts := d.weather.forecasts.filter fun x => !(x.area == f.area && !x.complete) } } := by
  have hkey : (fun x : Forecast => !(x.area == f.area && x.complete == f.complete))
      = fun x => !(x.area == f.area && !x.complete) := by
    funext x
    rw [hf]
    cases x.complete <;> rfl
  unfold freeForecast
  rw [hkey, hf]
  rfl

/-- The part without the collection that a newer issue supersedes. -/
def superseding (d : Device) (old : Option Forecast) : Device :=
  match old with
  | none => d
  | some k => (d.freeForecast k).onWeatherCounts fun c => { c with superseded := bump c.superseded }

theorem superseding_frame (d : Device) (old : Option Forecast) :
    (d.superseding old).now = d.now ∧ (d.superseding old).console = d.console := by
  cases old <;> exact ⟨rfl, rfl⟩

theorem utcNow_congr {d e : Device} (hn : e.now = d.now) (hc : e.console = d.console) : e.utcNow = d.utcNow := by
  unfold utcNow
  rw [hn, hc]

/-- A record as it is opened for its first part. -/
def opened (h : ForecastHeader) (b : Burst) (id : Nat) : Forecast :=
  { issuer := h.issuer, area := h.area, issue := h.issue, cnt := h.cnt,
    parts := List.replicate h.cnt none, headerPart := 0, day := h.day, hour := h.hour,
    minute := h.minute, validFor := h.validFor, issued := none, validUntil := none, grant := id,
    lastPart := b.endTime, complete := false }

/-- The part with a record of its own for a new issue. -/
def collecting (d : Device) (h : ForecastHeader) (b : Burst) (id : Nat) : Device :=
  d.onWeather fun w => { w with forecasts := w.forecasts ++ [opened h b id] }

/-- A new collection in the room looked for, or the part dropped for room. -/
def placedIn (h : ForecastHeader) (b : Burst) : Option Nat × Device → Device
  | (none, d) => d.onWeatherCounts fun c => { c with droppedForRoom := bump c.droppedForRoom }
  | (some id, d) => (d.collecting h b id).partToCollecting (opened h b id) h b

section
variable {d : Device} {h : ForecastHeader} (b : Burst) (old : Option Forecast)

theorem openCollection_stale
    (hs : d.utcReached (issueTimes d.utcNow h.day h.hour h.minute h.validFor).2 = true) :
    d.openCollection h b old = d.countStale := if_pos hs

theorem openCollection_fresh
    (hs : d.utcReached (issueTimes d.utcNow h.day h.hour h.minute h.validFor).2 = false) :
    d.openCollection h b old = placedIn h b ((d.superseding old).forecastRoom h.area (h.cnt * 102) 17) :=
  (if_neg (by rw [hs]; decide)).trans rfl

end

/-! ### Room for a collection (R135) -/

/-- A record R135 may discard for a collection in `area`: COLLECTING, of another area. -/
def evictable (area : Nat) (f : Forecast) : Bool := !f.complete && f.area != area

theorem evictable_iff (area : Nat) (f : Forecast) :
    evictable area f = true ↔ f.complete = false ∧ f.area ≠ area := by
  simp [evictable]

/-- No record may be discarded for the collection. -/
theorem none_evictable_iff (area : Nat) (l : List Forecast) :
    l.filter (evictable area) = [] ↔ ∀ f ∈ l, f.complete = true ∨ f.area = area := by
  rw [List.filter_eq_nil_iff]
  refine forall₂_congr fun f _ => ?_
  rw [evictable_iff, not_and_or, Bool.not_eq_false, not_not]

theorem forecastToEvict_spec (d : Device) (area : Nat) :
    (d.forecastToEvict area = none ↔ d.weather.forecasts.filter (evictable area) = []) ∧
    ∀ f, d.forecastToEvict area = some f → f ∈ d.weather.forecasts.filter (evictable area) ∧
      ∀ x ∈ d.weather.forecasts.filter (evictable area),
        f.lastPart < x.lastPart ∨ f.lastPart = x.lastPart ∧ f.area ≤ x.area := by
  have hperm := sortBy_perm (fun f : Forecast => f.area) (d.weather.forecasts.filter (evictable area))
  obtain ⟨hleast, hnone⟩ := minBy_spec (fun f : Forecast => f.lastPart) (fun a b => a.area ≤ b.area)
    (fun _ => Nat.le_refl _) _
    (sortBy_sorted (fun f : Forecast => f.area) (d.weather.forecasts.filter (evictable area)))
  refine ⟨hnone.trans ?_, fun f hf => ?_⟩
  · rw [← List.length_eq_zero_iff, ← List.length_eq_zero_iff]
    exact iff_of_eq (congrArg (· = 0) hperm.length_eq)
  · obtain ⟨hmem, hfirst⟩ := hleast f hf
    exact ⟨hperm.mem_iff.1 hmem, fun x hx => hfirst x (hperm.mem_iff.2 hx)⟩

/-- The record table is full, or the Page Store refuses the pages asked for. -/
def noPlace (d : Device) (size : Nat) : Prop :=
  16 ≤ d.weather.forecasts.length ∨ ∀ id, (d.store.reserve .forecast size).1 ≠ .granted id

/-- The store after an asking that found no place: with a full table it was not asked. -/
def storeAsked (d : Device) (size : Nat) : Store :=
  if d.weather.forecasts.length < 16 then (d.store.reserve .forecast size).2 else d.store

/-- The part with the record `f` discarded for room, and that counted. -/
def evicted (d : Device) (f : Forecast) : Device :=
  (d.freeForecast f).onWeatherCounts fun c => { c with evicted := bump c.evicted }

theorem forecastRoom_granted {d : Device} {size id : Nat} {y : Store} (area n : Nat)
    (hroom : d.weather.forecasts.length < 16) (hr : d.store.reserve .forecast size = (.granted id, y)) :
    d.forecastRoom area size (n + 1) = (some id, { d with store := y }) := by
  unfold forecastRoom
  rw [if_pos hroom, reserve_of_granted hr]

/-- The search for room, once a place was asked for and none found. -/
def evictFor (d : Device) (area size n : Nat) : Option Nat × Device :=
  match d.forecastToEvict area with
  | none => (none, d)
  | some f => (d.evicted f).forecastRoom area size n

theorem evictFor_none {d : Device} {area : Nat} (size n : Nat) (h : d.forecastToEvict area = none) :
    d.evictFor area size n = (none, d) := by
  unfold evictFor
  rw [h]

theorem evictFor_some {d : Device} {area : Nat} {f : Forecast} (size n : Nat) (h : d.forecastToEvict area = some f) :
    d.evictFor area size n = (d.evicted f).forecastRoom area size n := by
  unfold evictFor
  rw [h]

theorem forecastRoom_noPlace {d : Device} {size : Nat} (area n : Nat) (hno : d.noPlace size) :
    d.forecastRoom area size (n + 1) = evictFor { d with store := d.storeAsked size } area size n := by
  rw [forecastRoom]
  unfold storeAsked
  by_cases hroom : d.weather.forecasts.length < 16
  · have hrefused := hno.resolve_left (Nat.not_le.2 hroom)
    have hasked : d.reserve .forecast size = ((d.store.reserve .forecast size).1,
        { d with store := (d.store.reserve .forecast size).2 }) := rfl
    rw [if_pos hroom, if_pos hroom, hasked]
    cases hr : (d.store.reserve .forecast size).1 with
    | granted id => exact absurd hr (hrefused id)
    | refusedCap => rfl
    | refusedPool => rfl
  · rw [if_neg hroom, if_neg hroom]
    rfl

theorem storeAsked_grants {d : Device} {size : Nat} (hno : d.noPlace size) :
    (d.storeAsked size).grants = d.store.grants := by
  unfold storeAsked
  split
  · next hroom => exact reserve_refused_grants (hno.resolve_left (Nat.not_le.2 hroom))
  · rfl

theorem forecastRoom_none {d : Device} {area size : Nat} (n : Nat) (hno : d.noPlace size)
    (hall : ∀ f ∈ d.weather.forecasts, f.complete = true ∨ f.area = area) :
    d.forecastRoom area size (n + 1) = (none, { d with store := d.storeAsked size }) := by
  have hnil := (none_evictable_iff area _).2 hall
  rw [forecastRoom_noPlace area n hno]
  exact evictFor_none _ _ ((forecastToEvict_spec { d with store := d.storeAsked size } area).1.2 hnil)

theorem evicted_collecting {f : Forecast} (d : Device) (hf : f.complete = false) : d.evicted f = { d with
    store := d.store.release f.grant,
    weather := { d.weather with
      forecasts := d.weather.forecasts.filter fun x => !(x.area == f.area && !x.complete),
      counts := { d.weather.counts with evicted := bump d.weather.counts.evicted } } } := by
  unfold evicted
  rw [freeForecast_collecting d hf]
  rfl

/-- Each discarded record is one record less that may be discarded. -/
theorem evictable_evicted_lt {d : Device} {area : Nat} {f : Forecast}
    (hf : f ∈ d.weather.forecasts.filter (evictable area)) :
    ((d.evicted f).weather.forecasts.filter (evictable area)).length
      < (d.weather.forecasts.filter (evictable area)).length := by
  have hrow : (d.evicted f).weather.forecasts
      = d.weather.forecasts.filter fun x => !(x.area == f.area && x.complete == f.complete) := rfl
  rw [hrow, List.filter_filter]
  simp only [Bool.and_comm (evictable area _)]
  rw [← List.filter_filter]
  exact List.length_filter_lt_length_iff_exists.2 ⟨f, hf, by simp⟩

/-- With more rounds than records to discard, the search for room ends with none left. -/
theorem forecastRoom_exhausts {area size : Nat} (n : Nat) : ∀ (d x : Device),
    (d.weather.forecasts.filter (evictable area)).length < n → d.forecastRoom area size n = (none, x) →
    x.weather.forecasts.filter (evictable area) = [] := by
  induction n with
  | zero => exact fun _ _ hlt => absurd hlt (Nat.not_lt_zero _)
  | succ n ih =>
    intro d x hlt hx
    by_cases hno : d.noPlace size
    · let y : Device := { d with store := d.storeAsked size }
      rw [forecastRoom_noPlace area n hno] at hx
      cases hf : y.forecastToEvict area with
      | none =>
        rw [evictFor_none _ _ hf] at hx
        obtain rfl := congrArg Prod.snd hx
        exact (y.forecastToEvict_spec area).1.1 hf
      | some f =>
        rw [evictFor_some _ _ hf] at hx
        have hfewer := evictable_evicted_lt ((y.forecastToEvict_spec area).2 f hf).1
        exact ih (y.evicted f) x (Nat.lt_of_lt_of_le hfewer (Nat.le_of_lt_succ hlt)) hx
    · simp only [noPlace, not_or, not_forall, not_not, Nat.not_le] at hno
      obtain ⟨hroom, id, hid⟩ := hno
      rw [forecastRoom_granted area n hroom (y := (d.store.reserve .forecast size).2) (Prod.ext hid rfl)] at hx
      cases congrArg Prod.fst hx

/-! ### A new collection with its first part (R134, R136) -/

theorem forecast?_collecting {d : Device} {h : ForecastHeader} {b : Burst} {id : Nat}
    (hnone : d.forecast? h.area false = none) :
    (d.collecting h b id).forecast? h.area false = some (opened h b id) ∧
    ∀ a c, (a, c) ≠ (h.area, false) → (d.collecting h b id).forecast? a c = d.forecast? a c := by
  have hfind (a : Nat) (c : Bool) : (d.collecting h b id).forecast? a c
      = (d.forecast? a c).or ([opened h b id].find? fun f => f.area == a && f.complete == c) := List.find?_append
  have hself : [opened h b id].find? (fun f => f.area == h.area && f.complete == false) = some (opened h b id) :=
    List.find?_cons_of_pos (by simp [opened])
  refine ⟨by rw [hfind, hnone, hself]; rfl, fun a c hne => ?_⟩
  rw [hfind, List.find?_cons_of_neg, List.find?_nil, Option.or_none]
  intro hc
  simp only [Bool.and_eq_true, beq_iff_eq] at hc
  exact hne (by rw [← hc.1, ← hc.2]; rfl)

/-- Of two parts or more, one is missing after the first. -/
theorem none_mem_set_replicate {α : Type} {n : Nat} (i : Nat) (x : α) (hn : 2 ≤ n) :
    none ∈ (List.replicate n none).set i (some x) := by
  obtain ⟨j, hj, hne⟩ : ∃ j, j < n ∧ i ≠ j := by
    by_cases hi : i = 0
    · exact ⟨1, by omega, by omega⟩
    · exact ⟨0, by omega, hi⟩
  refine List.mem_of_getElem? (i := j) ?_
  rw [List.getElem?_set_ne hne, List.getElem?_replicate, if_pos hj]

/-- A record is opened and holds its first part, which leads it. -/
theorem openCollection_opens {d : Device} {h : ForecastHeader} {id : Nat} {y : Store} (b : Burst)
    (old : Option Forecast) (hs : d.utcReached (issueTimes d.utcNow h.day h.hour h.minute h.validFor).2 = false)
    (hroom : (d.superseding old).weather.forecasts.length < 16)
    (hr : (d.superseding old).store.reserve .forecast (h.cnt * 102) = (.granted id, y)) (hcnt : 2 ≤ h.cnt)
    (hnone : (d.superseding old).forecast? h.area false = none) :
    let e := d.openCollection h b old
    e.forecast? h.area false = some (d.withHeader (withPart (opened h b id) h b) h) ∧
    e.store = y.writeSyms id (102 * h.idx) (b.body.drop 12) ∧ e.console = d.console ∧
    e.weather.counts = (d.superseding old).weather.counts ∧
    ∀ a c, (a, c) ≠ (h.area, false) → e.forecast? a c = (d.superseding old).forecast? a c := by
  obtain ⟨hnow, hconsole⟩ := d.superseding_frame old
  let x : Device := { d.superseding old with store := y }
  let z := x.collecting h b id
  obtain ⟨hheld, hbeside⟩ := forecast?_collecting (d := x) (b := b) (id := id) hnone
  have hempty (i : Nat) : (opened h b id).parts.getD i none = none := by
    simp [opened, List.getElem?_replicate]
    split <;> rfl
  have hutc : z.utcNow = d.utcNow := utcNow_congr hnow hconsole
  have hheader : z.withHeader (withPart (opened h b id) h b) h = d.withHeader (withPart (opened h b id) h b) h := by
    unfold withHeader
    rw [hutc]
  obtain ⟨e, hrow, he, hpart, hothers⟩ := partToCollecting_stores (d := z) (f := opened h b id) (b := b) (h := h) hheld
    (improvesPart_of fun p hp => by rw [hempty] at hp; cases hp)
    (.inl ⟨fun p hp => (by rw [hempty] at hp; cases hp), rfl⟩)
  have hmissing : none ∈ (z.withHeader (withPart (opened h b id) h b) h).parts :=
    none_mem_set_replicate h.idx (partOf b) hcnt
  have hopen : d.openCollection h b old = e := by
    rw [openCollection_fresh b old hs, forecastRoom_granted h.area 16 hroom hr]
    exact hrow.trans (completeForecast_partial hpart hmissing)
  dsimp only
  rw [hopen, ← hheader]
  refine ⟨hpart, ?_, ?_, ?_, fun a c hne => (hothers a c hne).trans (hbeside a c hne)⟩
  · rw [he]; rfl
  · rw [he]; exact hconsole
  · rw [he]; rfl

end Device
end Sys2Proof.Machine
end

section
/-! PROOF. Scores, issue numbers, and a received FORECAST (O43). -/

namespace Sys2Proof.Machine
namespace Device

/-- What a part leaves as it was, in the other areas, the warnings and the Catch Log. -/
theorem textWritten_apart {d x : Device} {f : Forecast} {h : ForecastHeader} {b : Burst}
    (hx : d.textWritten f h b x) : x.store = d.store.writeSyms f.grant (102 * h.idx) (b.body.drop 12) ∧
    x.console = d.console ∧ x.weather.counts = d.weather.counts ∧ x.weather.warnings = d.weather.warnings ∧
    x.log = d.log := by
  rw [hx]
  exact ⟨rfl, rfl, rfl, rfl, rfl⟩

theorem other_area {a x : Nat} {c k : Bool} (h : a ≠ x) : (a, c) ≠ (x, k) := fun he => h (congrArg Prod.fst he)

end Device
open Device

/-- Settles O43. -/
theorem scoresAndIssues : Obligations.ScoresAndIssues := by
  refine ⟨?numbers, ?received, ?parts, ?opening⟩
  case numbers =>
    refine ⟨fun b => rfl, fun b hp he => ?_, fun b hp he => ?_, fun b c hb hc he => ?_,
      fun f h b x hx => improvesPart_iff b hx, fun n m hn hm => newer_iff hn hm, by decide, by decide, newer_self,
      fun n m hn hm hd => newer_half hn hm hd⟩
    · simp [copyScore, hp, he]
    · simp [copyScore, hp, he]
    · simp only [copyScore, hb, hc]
      simp
      omega
  case received =>
    intro d b h counted inRange
    have hrange : forecastInRange h b.body.length = true ↔ inRange := forecastInRange_iff h b.body.length
    refine ⟨rfl, receiveForecast_short, receiveForecast_erased, fun h12 hclean => ?_⟩
    rw [receiveForecast_read h12 hclean]
    refine ⟨judgePart_foreign, fun hs hbad => judgePart_malformed hs fun hc => hbad (hrange.1 hc),
      fun hs hr => judgePart_unwanted hs (hrange.2 hr), fun hs hr ha => ⟨judgePart_otherIssuer hs (hrange.2 hr) ha,
      fun hissuer k c hk hc => ?_⟩⟩
    rw [judgePart_placed hs (hrange.2 hr) ha hissuer]
    subst hk hc
    refine ⟨fun f hf hi => ?_, fun f hf hi hno => ?_, placePart_newer b, fun hi hold => ?_⟩
    · obtain ⟨-, hcomplete⟩ := forecast?_key hf
      rw [placePart_collecting b hf hi]
      refine ⟨fun hn => ?_, partTo_otherCount d b⟩
      rw [partTo_sameCount d b hn, hcomplete]
      rfl
    · obtain ⟨-, hcomplete⟩ := forecast?_key hf
      rw [placePart_complete b hf hi hno]
      refine ⟨fun hn => ?_, partTo_otherCount d b⟩
      rw [partTo_sameCount d b hn, hcomplete]
      rfl
    · exact placePart_old b hi hold
  case parts =>
    intro d f h b part times kept leads written apart stays
    refine ⟨f.marred_iff, fun hf => ⟨fun hno => ?_, fun hs g hg => ?_⟩, fun hf => ⟨fun hno => ?_, fun hs g hg => ?_⟩⟩
    · obtain ⟨hheld, hbeside, hstore, hconsole, hcounts, hwarnings, hlog⟩ :=
        partToCollecting_notBetter hf (improvesPart_not hno)
      exact ⟨hheld, hbeside _ _ (by simp), hstore, hconsole, hcounts, hwarnings, hlog,
        fun a c ha => hbeside a c (other_area ha)⟩
    · obtain ⟨x, hrow, hx, hheld, hbeside⟩ := partToCollecting_stores hf (improvesPart_of hs) hg
      obtain ⟨hstore, hconsole, hcounts, hwarnings, hlog⟩ := textWritten_apart hx
      intro e
      have he : e = x.completeForecast f.area := hrow
      refine ⟨fun hn => ?_, fun hn => ?_⟩
      · rw [he, completeForecast_partial hheld hn]
        exact ⟨hheld, hbeside _ _ (by simp), hstore, hconsole, hcounts, hwarnings, hlog,
          fun a c ha => hbeside a c (other_area ha)⟩
      · have hold : x.forecast? f.area true = d.forecast? f.area true := hbeside _ _ (by simp)
        obtain ⟨htrue, hfalse, hothers, hfreed, hcounted, hwarned, hlogged, htold⟩ := completeForecast_whole hheld hn
        rw [he]
        refine ⟨htrue, hfalse, fun hnone => ?_, fun old hsome => ?_, ?_, ?_, fun hmark hroom => ?_⟩
        · rw [hfreed, freeComplete_none (hold.trans hnone), hstore]
        · rw [hfreed, freeComplete_some (hold.trans hsome)]
          exact congrArg (fun y : Store => y.release old.grant) hstore
        · rw [hcounted, hcounts]
        · exact ⟨hwarned.trans hwarnings, hlogged.trans hlog,
            fun a c ha => (hothers a c ha).trans (hbeside a c (other_area ha))⟩
        · rw [htold, hconsole, told_room _ hroom hmark]
    · dsimp only
      rw [partToComplete_notBetter (improvesPart_not hno)]
      exact ⟨fun _ => rfl, rfl, rfl, rfl, rfl, rfl, fun _ _ _ => rfl⟩
    · obtain ⟨x, hrow, hx, hheld, hbeside⟩ := partToComplete_stores hf (improvesPart_of hs) hg
      obtain ⟨hstore, hconsole, hcounts, hwarnings, hlog⟩ := textWritten_apart hx
      intro e
      have he : e = _ := hrow
      rw [he, report_store, report_forecast?, report_forecast?, report_weather]
      refine ⟨hheld, hbeside _ _ (by simp), hstore, hcounts, ⟨?_, ?_, fun a c ha => ?_⟩, fun hmark hroom => ?_⟩
      · rw [report_weather, hwarnings]
      · rw [report_log, hlog]
      · rw [report_forecast?, hbeside a c (other_area ha)]
      · rw [report_generalTold _ _ _ rfl, hconsole, told_room _ hroom hmark]
  case opening =>
    intro d h b old times base e hold
    have hbase : d.superseding old = base := by
      cases old with
      | none => rfl
      | some k =>
        unfold superseding
        dsimp only
        rw [freeForecast_collecting d (hold k rfl)]
        rfl
    refine ⟨openCollection_stale b old, fun hs => ⟨fun id y hroom hr hcnt hidx hnone => ?_, fun hno hall => ?_⟩,
      fun n hno hsome => ?_, fun x hlen hx => ?_⟩
    · rw [← hbase] at hroom hr hnone ⊢
      exact openCollection_opens b old hs hroom hr hcnt hnone
    · have he : e = _ := openCollection_fresh b old hs
      rw [he, hbase, forecastRoom_none 16 hno hall]
      exact ⟨rfl, storeAsked_grants hno⟩
    · let y : Device := { d with store := d.storeAsked (h.cnt * 102) }
      obtain ⟨hnone, hleast⟩ := forecastToEvict_spec y h.area
      have hevict : y.forecastToEvict h.area ≠ none := fun hnil => by
        obtain ⟨f, hmem, hcollecting, harea⟩ := hsome
        exact List.filter_eq_nil_iff.1 (hnone.1 hnil) f hmem ((evictable_iff _ _).2 ⟨hcollecting, harea⟩)
      obtain ⟨f, hf⟩ := Option.ne_none_iff_exists'.1 hevict
      obtain ⟨hmem, hfirst⟩ := hleast f hf
      obtain ⟨hheld, hmay⟩ := List.mem_filter.1 hmem
      obtain ⟨hcollecting, harea⟩ := (evictable_iff _ _).1 hmay
      refine ⟨f, hheld, hcollecting, harea, fun x hx hc ha => hfirst x
        (List.mem_filter.2 ⟨hx, (evictable_iff _ _).2 ⟨hc, ha⟩⟩), y.store, fun hroom => if_pos hroom,
        fun hfull => if_neg (Nat.not_lt.2 hfull), ?_⟩
      rw [forecastRoom_noPlace h.area n hno, evictFor_some _ _ hf, evicted_collecting y hcollecting]
    · exact (none_evictable_iff _ _).1 (forecastRoom_exhausts 17 d x
        (Nat.lt_of_le_of_lt (List.length_filter_le _ _) (Nat.lt_succ_of_le hlen)) hx)

end Sys2Proof.Machine
end

section
/-! PROOF. The weather records that a TIME ends (O56). -/

namespace Sys2Proof.Machine
namespace Device

/-! ### Records ended one after the other (R140, R143) -/

theorem utcReached_congr {d e : Device} (h : e.utcNow = d.utcNow) (v : Option Int) :
    e.utcReached v = d.utcReached v := by
  unfold utcReached
  rw [h]

/-- Where ending a record keeps UTC, the records that end are those whose valid-until it has reached at the start. -/
theorem foldl_utcReached {α : Type} (F : Device → α → Device) (validUntil : α → Option Int)
    (hF : ∀ d x, (F d x).utcNow = d.utcNow) (l : List α) : ∀ d : Device,
    l.foldl (fun d x => if d.utcReached (validUntil x) then F d x else d) d
      = (l.filter fun x => d.utcReached (validUntil x)).foldl F d := by
  induction l with
  | nil => exact fun _ => rfl
  | cons x l ih =>
    intro d
    rw [List.foldl_cons, ih]
    by_cases hx : d.utcReached (validUntil x) = true
    · rw [if_pos hx, List.filter_cons_of_pos (by exact hx), List.foldl_cons]
      simp only [utcReached_congr (hF d x)]
    · rw [if_neg hx, List.filter_cons_of_neg (by exact hx)]

/-- A forecast whose validity ends is expired when COMPLETE, discarded when COLLECTING (R140). -/
def endForecast (d : Device) (f : Forecast) : Device :=
  if f.complete then d.expireForecast f else d.discardForecast f

/-- The general lane after the end of a forecast: a COMPLETE one is reported (R146). -/
def toldEnd (l : Lane) (f : Forecast) : Lane :=
  if f.complete then l.told 24 .forecastExpired 0 (.forecast f.area) (forecastExpiredData f.area f.issuer f.issue)
  else l

theorem endForecast_eq (d : Device) (f : Forecast) : ∃ lastFreed, d.endForecast f = { d with
    store := d.store.release f.grant,
    console := { d.console with general := toldEnd d.console.general f },
    weather := { d.weather with
      forecasts := d.weather.forecasts.filter fun x => !(x.area == f.area && x.complete == f.complete),
      lastFreed := lastFreed,
      counts := { d.weather.counts with
        expired := if f.complete then bump d.weather.counts.expired else d.weather.counts.expired,
        discarded := if f.complete then d.weather.counts.discarded else bump d.weather.counts.discarded } } } := by
  refine ⟨(d.freeForecast f).weather.lastFreed, ?_⟩
  unfold endForecast toldEnd
  cases hc : f.complete with
  | true =>
    simp only [if_true]
    unfold expireForecast
    rw [report_generalTold _ _ _ rfl, ← hc]
    rfl
  | false =>
    simp only [Bool.false_eq_true, if_false]
    rw [← hc]
    rfl

/-- What the forecasts of a list leave when they end in turn. -/
theorem endForecasts_facts (l : List Forecast) : ∀ d : Device,
    let e := l.foldl endForecast d
    e = { d with
      store := (l.map fun f => f.grant).foldl Store.release d.store,
      console := { d.console with general := l.foldl toldEnd d.console.general },
      weather := e.weather } ∧
    e.weather.forecasts
      = (d.weather.forecasts.filter fun f => l.all fun g => !(f.area == g.area && f.complete == g.complete)) ∧
    e.weather.warnings = d.weather.warnings ∧
    e.weather.counts.expired = (l.filter fun f => f.complete).foldl (fun n _ => bump n) d.weather.counts.expired ∧
    e.weather.counts.discarded
      = (l.filter fun f => !f.complete).foldl (fun n _ => bump n) d.weather.counts.discarded := by
  induction l with
  | nil => exact fun d => ⟨rfl, by simp, rfl, rfl, rfl⟩
  | cons f l ih =>
    intro d
    obtain ⟨lastFreed, hrow⟩ := d.endForecast_eq f
    obtain ⟨hframe, hforecasts, hwarnings, hexpired, hdiscarded⟩ := ih (d.endForecast f)
    dsimp only
    rw [List.foldl_cons]
    refine ⟨hframe.trans (by rw [hrow]; rfl), ?_, hwarnings.trans (by rw [hrow]), ?_, ?_⟩
    · rw [hforecasts, hrow, List.filter_filter]
      exact List.filter_congr fun x _ => by rw [List.all_cons, Bool.and_comm]
    · rw [hexpired, hrow]
      cases hc : f.complete <;> simp [hc]
    · rw [hdiscarded, hrow]
      cases hc : f.complete <;> simp [hc]

/-- With room for all of them, every COMPLETE forecast that ends has its report (R146). -/
theorem toldEnds_room (l : List Forecast) : ∀ lane : Lane, lane.owed = [] →
    lane.entries.length + (l.filter fun f => f.complete).length ≤ 24 →
    (l.foldl toldEnd lane).entries = lane.entries ++ (l.filter fun f => f.complete).map fun f =>
      ⟨.forecastExpired, 0, .report [.num 1 f.area, .num 3 f.issuer, .num 2 f.issue], 0⟩ := by
  induction l with
  | nil => exact fun lane _ _ => (List.append_nil _).symm
  | cons f l ih =>
    intro lane howed hroom
    rw [List.foldl_cons]
    cases hc : f.complete with
    | true =>
      rw [List.filter_cons_of_pos (by exact hc), List.length_cons] at hroom
      have hlane : toldEnd lane f = { lane with entries := lane.entries ++
          [⟨.forecastExpired, 0, .report [.num 1 f.area, .num 3 f.issuer, .num 2 f.issue], 0⟩] } := by
        unfold toldEnd
        rw [if_pos hc]
        exact told_room _ (by omega) (by rw [howed]; exact List.not_mem_nil)
      rw [hlane, List.filter_cons_of_pos (by exact hc), ih]
      · simp
      · exact howed
      · simp only [List.length_append, List.length_singleton]
        omega
    | false =>
      have hlane : toldEnd lane f = lane := if_neg (by rw [hc]; decide)
      rw [List.filter_cons_of_neg (by simp [hc])] at hroom ⊢
      rw [hlane, ih lane howed hroom]

theorem dropWarningMark_steady (d : Device) (issuer issue : Nat) :
    (d.dropWarningMark issuer issue).console.general.entries = d.console.general.entries ∧
    (d.dropWarningMark issuer issue).weather.counts.expired = d.weather.counts.expired ∧
    (d.dropWarningMark issuer issue).weather.counts.discarded = d.weather.counts.discarded := by
  unfold dropWarningMark
  split <;> exact ⟨rfl, rfl, rfl⟩

/-- A freed warning's lost report is counted and its mark dropped; no report queued and no other count changes. -/
theorem freeWarning_steady (d : Device) (w : Warning) :
    (d.freeWarning w).console.general.entries = d.console.general.entries ∧
    (d.freeWarning w).weather.counts.expired = d.weather.counts.expired ∧
    (d.freeWarning w).weather.counts.discarded = d.weather.counts.discarded :=
  dropWarningMark_steady ((d.removeWait .warning w.issuer w.issue).withdraw .priority (isWarningItem w.issuer w.issue))
    w.issuer w.issue

/-- What the warnings of a list leave when they are freed in turn. -/
theorem freeWarnings_facts (l : List Warning) : ∀ d : Device,
    let e := l.foldl freeWarning d
    e.weather.warnings
      = (d.weather.warnings.filter fun w => l.all fun x => !(w.issuer == x.issuer && w.issue == x.issue)) ∧
    e.weather.forecasts = d.weather.forecasts ∧ e.weather.counts.expired = d.weather.counts.expired ∧
    e.weather.counts.discarded = d.weather.counts.discarded ∧
    e.store = (l.map fun w => w.grant).foldl Store.release d.store ∧
    e.waits = (d.waits.filter fun x => l.all fun w =>
      !(x.kind == .warning && x.station == w.issuer && x.number == w.issue)) ∧
    (∀ it ∈ e.access.priority.items, it ∈ d.access.priority.items ∧ ∀ w ∈ l, it.owner ≠ .warning w.issuer w.issue) ∧
    e.console.utc = d.console.utc ∧ e.console.general.entries = d.console.general.entries ∧ e.now = d.now ∧
    e.config = d.config ∧ e.log = d.log ∧ e.xfer = d.xfer ∧ e.distress = d.distress := by
  induction l with
  | nil =>
    exact fun d => ⟨by simp, rfl, rfl, rfl, rfl, by simp, fun it hit => ⟨hit, nofun⟩, rfl, rfl, rfl, rfl, rfl, rfl, rfl⟩
  | cons w l ih =>
    intro d
    obtain ⟨hwarnings, hforecasts, hexpired, hdiscarded, hstore, hwaits, hitems, hutc, hentries, hnow, hconfig, hlog,
      hxfer, hdistress⟩ := ih (d.freeWarning w)
    obtain ⟨-, -, hkept, -, hreleased, hconfigured, hthen, hset, hbeside⟩ := freeWarning_facts d w
    obtain ⟨hsaid, hexpiredOne, hdiscardedOne⟩ := d.freeWarning_steady w
    obtain ⟨console, counts, hrow, -⟩ := freeWarning_eq d w
    dsimp only
    rw [List.foldl_cons]
    refine ⟨?_, hforecasts.trans hbeside, hexpired.trans hexpiredOne, hdiscarded.trans hdiscardedOne,
      hstore.trans (by rw [hreleased]; rfl), ?_, fun it hit => ?_, hutc.trans hset, hentries.trans hsaid,
      hnow.trans hthen, hconfig.trans hconfigured, hlog.trans (by rw [hrow]), hxfer.trans (by rw [hrow]),
      hdistress.trans (by rw [hrow])⟩
    · rw [hwarnings, hrow, List.filter_filter]
      exact List.filter_congr fun x _ => by rw [List.all_cons, Bool.and_comm]
    · rw [hwaits, hrow, List.filter_filter]
      exact List.filter_congr fun x _ => by rw [List.all_cons, Bool.and_comm]
    · obtain ⟨hin, hothers⟩ := hitems it hit
      obtain ⟨hin, hown⟩ := (hkept it).1 hin
      exact ⟨hin, List.forall_mem_cons.2 ⟨hown, hothers⟩⟩

theorem endForecast_utcNow (d : Device) (f : Forecast) : (d.endForecast f).utcNow = d.utcNow := by
  obtain ⟨lastFreed, hrow⟩ := d.endForecast_eq f
  rw [hrow]
  rfl

theorem freeWarning_utcNow (d : Device) (w : Warning) : (d.freeWarning w).utcNow = d.utcNow := by
  obtain ⟨console, counts, hrow, hutc⟩ := freeWarning_eq d w
  unfold utcNow
  rw [hrow, hutc]

/-- The records whose valid-until has been reached end, the forecasts in turn and then the warnings. -/
theorem reachValidity_eq (d : Device) : d.reachValidity =
    (d.weather.warnings.filter fun w => d.utcReached w.validUntil).foldl freeWarning
      ((d.weather.forecasts.filter fun f => d.utcReached f.validUntil).foldl endForecast d) := by
  let endedF := d.weather.forecasts.filter fun f => d.utcReached f.validUntil
  obtain ⟨hframe, -, hwarnings, -⟩ := endForecasts_facts endedF d
  have hutc : (endedF.foldl endForecast d).utcNow = d.utcNow := by rw [hframe]; rfl
  have hforecasts := foldl_utcReached endForecast (fun f => f.validUntil) endForecast_utcNow d.weather.forecasts d
  have hends := foldl_utcReached freeWarning (fun w => w.validUntil) freeWarning_utcNow d.weather.warnings
    (endedF.foldl endForecast d)
  rw [List.filter_congr fun w _ => utcReached_congr hutc w.validUntil] at hends
  rw [← hends, ← hwarnings]
  unfold reachValidity
  rw [show endedF.foldl endForecast d = _ from hforecasts.symm]
  rfl

end Device
end Sys2Proof.Machine
end

section
/-! PROOF. TIME, with and without weather records held, and POSITION (O56). -/

namespace Sys2Proof.Machine

/-! ### A moment that exists (R198) -/

theorem timeInRange_iff (y mo da h mi se : Nat) : Device.timeInRange y mo da h mi se = true ↔
    2000 ≤ y ∧ y ≤ 2099 ∧ 1 ≤ mo ∧ mo ≤ 12 ∧ 1 ≤ da ∧ da ≤ monthDays y mo ∧ h ≤ 23 ∧ mi ≤ 59 ∧ se ≤ 59 := by
  simp [Device.timeInRange, and_assoc]

theorem monthDays_eq (y m : Nat) : monthDays y m = if m = 2 then (if y % 4 = 0 then 29 else 28)
    else if m = 4 ∨ m = 6 ∨ m = 9 ∨ m = 11 then 30 else 31 := by
  unfold monthDays
  simp only [leapYear_iff]

/-- A TIME's moment is counted from the epoch: from the year 2000 on none lies before it. -/
theorem secondsOf_inRange {y mo da h mi se : Nat} (hr : Device.timeInRange y mo da h mi se = true) :
    ∃ v, secondsOf y mo da h mi se = v + epochShift := by
  obtain ⟨hy, -⟩ := (timeInRange_iff ..).1 hr
  have hshift : epochShift = 1461 * 86400 := rfl
  refine ⟨secondsOf y mo da h mi se - epochShift, (Nat.sub_add_cancel ?_).symm⟩
  rw [secondsOf_eq, dayNumber_eq, hshift]
  omega

namespace Device

theorem setTime_outOfRange {y mo da h mi se : Nat} (d : Device) (hr : timeInRange y mo da h mi se = false) :
    setTime y mo da h mi se d = (.range, d) := if_neg (by rw [hr]; decide)

/-- UTC set to `v`, and the records' times computed when it was UNSET (R139, R198). -/
def timeSet (d : Device) (v : Nat) : Device :=
  if d.console.utc.isNone then computeTimes { d with console := { d.console with utc := some ⟨d.now, v⟩ } }
  else { d with console := { d.console with utc := some ⟨d.now, v⟩ } }

theorem setTime_inRange {y mo da h mi se v : Nat} (d : Device) (hr : timeInRange y mo da h mi se = true)
    (hv : secondsOf y mo da h mi se = v + epochShift) : setTime y mo da h mi se d =
      (.taken, (d.timeSet v).reachValidity.onRep fun r => { r with hourDue := (d.timeSet v).nextHour v }) := by
  refine (if_pos hr).trans ?_
  rw [hv, Nat.add_sub_cancel]
  rfl

/-- A forecast record's times once UTC is `v`. -/
def issuedForecast (first : Bool) (v : Nat) (f : Forecast) : Forecast := if first then { f with
  issued := issuedUtc v f.day f.hour f.minute,
  validUntil := (issuedUtc v f.day f.hour f.minute).map fun t => t + (f.validFor : Int) * 3600 } else f

/-- A warning record's times once UTC is `v`. -/
def issuedWarning (first : Bool) (v : Nat) (w : Warning) : Warning := if first then { w with
  issued := issuedUtc v w.day w.hour w.minute,
  validUntil := (issuedUtc v w.day w.hour w.minute).map fun t => t + (w.validFor : Int) * 3600 } else w

/-- The forecast records once UTC is `v`. -/
def issuedForecasts (d : Device) (v : Nat) : List Forecast :=
  d.weather.forecasts.map (issuedForecast d.console.utc.isNone v)

/-- The warning records once UTC is `v`. -/
def issuedWarnings (d : Device) (v : Nat) : List Warning :=
  d.weather.warnings.map (issuedWarning d.console.utc.isNone v)

theorem issueTimes_some (v day hour minute validFor : Nat) : issueTimes (some v) day hour minute validFor =
    (issuedUtc v day hour minute, (issuedUtc v day hour minute).map fun t => t + (validFor : Int) * 3600) := by
  unfold issueTimes
  dsimp only
  cases issuedUtc v day hour minute <;> rfl

theorem utcNow_set (d : Device) (v : Nat) :
    utcNow { d with console := { d.console with utc := some ⟨d.now, v⟩ } } = some v := by
  simp [utcNow]

theorem timeSet_eq (d : Device) (v : Nat) : d.timeSet v = { d with
    console := { d.console with utc := some ⟨d.now, v⟩ },
    weather := { d.weather with
      forecasts := d.issuedForecasts v, warnings := d.issuedWarnings v } } := by
  unfold timeSet issuedForecasts issuedWarnings
  cases d.console.utc.isNone with
  | true =>
    rw [if_pos rfl]
    unfold computeTimes
    simp only [utcNow_set, issueTimes_some]
    rfl
  | false =>
    have hforecasts : issuedForecast false v = id := rfl
    have hwarnings : issuedWarning false v = id := rfl
    rw [hforecasts, hwarnings, List.map_id, List.map_id]
    rfl

theorem timeSet_utcNow (d : Device) (v : Nat) : (d.timeSet v).utcNow = some v := by
  rw [timeSet_eq]
  exact utcNow_set d v

/-- UTC of the value `v` has reached the moment. -/
def reachedBy (v : Nat) : Option Int → Bool
  | none => false
  | some u => decide (u ≤ (v : Int))

theorem utcReached_of {d : Device} {v : Nat} (h : d.utcNow = some v) (t : Option Int) :
    d.utcReached t = reachedBy v t := by
  unfold utcReached
  rw [h]
  cases t <;> rfl

/-- With no record held a TIME ends none. -/
theorem timeSet_empty {d : Device} (v : Nat) (hf : d.weather.forecasts = []) (hw : d.weather.warnings = []) :
    (d.timeSet v).reachValidity = { d with console := { d.console with utc := some ⟨d.now, v⟩ } } := by
  have hforecasts : d.issuedForecasts v = [] := by unfold issuedForecasts; rw [hf]; rfl
  have hwarnings : d.issuedWarnings v = [] := by unfold issuedWarnings; rw [hw]; rfl
  rw [reachValidity_eq, timeSet_eq, hforecasts, hwarnings]
  simp only [List.filter_nil, List.foldl_nil]
  rw [← hf, ← hw]

/-- The forecast records that a UTC of `v` ends. -/
def forecastsEnded (d : Device) (v : Nat) : List Forecast :=
  (d.issuedForecasts v).filter fun f => reachedBy v f.validUntil

/-- The warning records that a UTC of `v` ends. -/
def warningsEnded (d : Device) (v : Nat) : List Warning :=
  (d.issuedWarnings v).filter fun w => reachedBy v w.validUntil

theorem timeSet_reachValidity (d : Device) (v : Nat) : (d.timeSet v).reachValidity =
    (d.warningsEnded v).foldl freeWarning ((d.forecastsEnded v).foldl endForecast (d.timeSet v)) := by
  rw [reachValidity_eq]
  simp only [utcReached_of (d.timeSet_utcNow v)]
  rw [timeSet_eq]
  rfl

/-- What a TIME leaves of the weather records and of what hangs on them. -/
theorem timeSet_facts (d : Device) (v : Nat) :
    let e := (d.timeSet v).reachValidity
    let endedF := d.forecastsEnded v
    let endedW := d.warningsEnded v
    e.weather.forecasts
      = ((d.issuedForecasts v).filter fun f => endedF.all fun g => !(f.area == g.area && f.complete == g.complete)) ∧
    e.weather.warnings
      = ((d.issuedWarnings v).filter fun w => endedW.all fun x => !(w.issuer == x.issuer && w.issue == x.issue)) ∧
    e.store = ((endedF.map fun f => f.grant) ++ endedW.map fun w => w.grant).foldl Store.release d.store ∧
    e.weather.counts.expired = (endedF.filter fun f => f.complete).foldl (fun n _ => bump n) d.weather.counts.expired ∧
    e.weather.counts.discarded
      = (endedF.filter fun f => !f.complete).foldl (fun n _ => bump n) d.weather.counts.discarded ∧
    (∀ w ∈ endedW, e.wait? .warning w.issuer w.issue = none ∧
      ∀ it ∈ e.access.priority.items, it.owner ≠ .warning w.issuer w.issue) ∧
    (d.console.general.owed = [] →
      d.console.general.entries.length + (endedF.filter fun f => f.complete).length ≤ 24 →
      e.console.general.entries = d.console.general.entries ++ (endedF.filter fun f => f.complete).map fun f =>
        ⟨.forecastExpired, 0, .report [.num 1 f.area, .num 3 f.issuer, .num 2 f.issue], 0⟩) := by
  have hset := d.timeSet_eq v
  obtain ⟨fframe, fforecasts, fwarnings, fexpired, fdiscarded⟩ :=
    endForecasts_facts (d.forecastsEnded v) (d.timeSet v)
  obtain ⟨wwarnings, wforecasts, wexpired, wdiscarded, wstore, wwaits, witems, -, wentries, -⟩ :=
    freeWarnings_facts (d.warningsEnded v) ((d.forecastsEnded v).foldl endForecast (d.timeSet v))
  rw [timeSet_reachValidity]
  refine ⟨?_, ?_, ?_, ?_, ?_, fun w hw => ⟨?_, fun it hit => (witems it hit).2 w hw⟩, fun howed hroom => ?_⟩
  · rw [wforecasts, fforecasts, hset]
  · rw [wwarnings, fwarnings, hset]
  · rw [wstore, fframe, List.foldl_append, hset]
  · rw [wexpired, fexpired, hset]
  · rw [wdiscarded, fdiscarded, hset]
  · unfold wait?
    rw [wwaits, List.find?_eq_none]
    intro x hx hkey
    have hkept := List.all_eq_true.1 (List.mem_filter.1 hx).2 w hw
    rw [hkey] at hkept
    cases hkept
  · rw [wentries, fframe, hset]
    exact toldEnds_room _ _ howed hroom

/-- What a TIME leaves alone. -/
theorem timeSet_frame (d : Device) (v : Nat) :
    let e := (d.timeSet v).reachValidity
    e.now = d.now ∧ e.console.utc = some ⟨d.now, v⟩ ∧ e.config = d.config ∧ e.log = d.log ∧ e.xfer = d.xfer ∧
    e.distress = d.distress := by
  have hset := d.timeSet_eq v
  obtain ⟨fframe, -⟩ := endForecasts_facts (d.forecastsEnded v) (d.timeSet v)
  obtain ⟨-, -, -, -, -, -, -, wutc, -, wnow, wconfig, wlog, wxfer, wdistress⟩ :=
    freeWarnings_facts (d.warningsEnded v) ((d.forecastsEnded v).foldl endForecast (d.timeSet v))
  rw [timeSet_reachValidity]
  refine ⟨wnow.trans ?_, wutc.trans ?_, wconfig.trans ?_, wlog.trans ?_, wxfer.trans ?_, wdistress.trans ?_⟩ <;>
    rw [fframe, hset]

/-! ### The next report hour (R174) -/

theorem nextHour_off {d : Device} (v : Nat) (h : d.config.reportHour = none) : d.nextHour v = none := by
  unfold nextHour
  rw [h]
  rfl

theorem nextHour_on {d : Device} {hour : Nat} (v : Nat) (h : d.config.reportHour = some hour) (hlt : hour < 24) :
    ∃ t k, d.nextHour v = some t ∧ t = d.now + k * 1000 ∧ 1 ≤ k ∧ k ≤ 86400 ∧ (v + k) % 86400 = hour * 3600 := by
  unfold nextHour
  rw [h]
  have hlast : (hour * 3600 + 86399 - v % 86400) % 86400 < 86400 := Nat.mod_lt _ (by decide)
  exact ⟨_, (hour * 3600 + 86399 - v % 86400) % 86400 + 1, rfl, rfl, Nat.le_add_left 1 _, hlast, by omega⟩

theorem timeSet_nextHour (d : Device) (v : Nat) : (d.timeSet v).nextHour v = d.nextHour v := by
  rw [timeSet_eq]
  rfl

/-! ### The fix (R199) -/

theorem setFix_outOfRange {lat lon : Int} {h mi : Nat} (d : Device)
    (hr : lat < -540000 ∨ 540000 < lat ∨ lon < -1080000 ∨ 1080000 < lon ∨ 23 < h ∨ 59 < mi) :
    setFix lat lon h mi d = (.range, d) := if_pos hr

theorem setFix_inRange {lat lon : Int} {h mi : Nat} (d : Device)
    (hr : ¬ (lat < -540000 ∨ 540000 < lat ∨ lon < -1080000 ∨ 1080000 < lon ∨ 23 < h ∨ 59 < mi)) :
    setFix lat lon h mi d = (.taken, { d with console := { d.console with
      fix := some ⟨lat, if lon = 1080000 then -1080000 else lon, h, mi, d.now⟩ } }) := if_neg hr

end Device
open Device

/-- Settles O56. -/
theorem timeAndPosition : Obligations.TimeAndPosition := by
  refine ⟨?time, ?position, ?records, issuedUtc_latest⟩
  case time =>
    intro tag y mo da h mi se s hl c
    refine ⟨fun hr => exec_of_frame _ rfl hl (setTime_outOfRange c hr), fun hr hf hw => ?_, ?_⟩
    · obtain ⟨v, hv⟩ := secondsOf_inRange hr
      refine ⟨v, hv, exec_of_frame _ rfl hl ?_⟩
      rw [setTime_inRange c hr hv, timeSet_nextHour, timeSet_empty _ hf hw]
      rfl
    · rw [timeInRange_iff, monthDays_eq]
  case position =>
    intro tag h mi lat lon s hl c
    refine ⟨fun hr => exec_of_frame _ rfl hl (setFix_outOfRange c hr), fun h1 h2 h3 h4 h5 h6 =>
      exec_of_frame _ rfl hl (setFix_inRange c (by omega))⟩
  case records =>
    intro tag y mo da h mi se s hl hr c
    obtain ⟨v, hv⟩ := secondsOf_inRange hr
    obtain ⟨hforecasts, hwarnings, hstore, hexpired, hdiscarded, hfreed, htold⟩ := timeSet_facts c v
    obtain ⟨hnow, hutc, hconfig, hlog, hxfer, hdistress⟩ := timeSet_frame c v
    refine ⟨v, (c.timeSet v).reachValidity.onRep fun r => { r with hourDue := (c.timeSet v).nextHour v }, hv,
      exec_of_frame _ rfl hl (setTime_inRange c hr hv), hnow, hutc, hforecasts, hwarnings, hstore, hexpired, hdiscarded,
      hfreed, htold, hconfig, hlog, hxfer, hdistress, fun hoff => ?_, fun hour hon hlt => ?_⟩
    · exact (timeSet_nextHour c v).trans (nextHour_off v hoff)
    · obtain ⟨t, k, hdue, hrest⟩ := nextHour_on v hon hlt
      exact ⟨t, k, (timeSet_nextHour c v).trans hdue, hrest⟩

end Sys2Proof.Machine
end

section
/-! PROOF. The Catch Log's hauls: a hard reset's empty log (O6), the grid (O45), a quota entry's state (O46), HAUL OPEN
and HAUL CLOSE (O47), CATCH LINE (O48) and HAUL DISCARD (O49). -/

namespace Sys2Proof.Machine
namespace Device

/-! ### The record that holds a haul number (R149) -/

/-- No record holds the number in OPEN or WEIGHING, or the number is 0. -/
theorem haulAt?_eq_none_iff (d : Device) (n : Nat) :
    d.haulAt? n = none ↔ n = 0 ∨ ∀ h ∈ d.log.hauls, h.st = .free ∨ h.num ≠ n := by
  unfold haulAt?
  split
  next h0 => simp [h0]
  next h0 => simp [h0, List.findIdx?_eq_none_iff, imp_iff_not_or]

theorem haulAt?_lt {d : Device} {n i : Nat} (h : d.haulAt? n = some i) : i < d.log.hauls.length := by
  unfold haulAt? at h
  rw [if_neg (haulAt?_ne_zero h)] at h
  exact (List.findIdx?_eq_some_iff_getElem.1 h).1

/-- The first record that holds the number is the one found. -/
theorem haulAt?_of_first {d : Device} {n i : Nat} {h : Haul} (h0 : n ≠ 0) (hi : d.log.hauls[i]? = some h)
    (hnum : h.num = n) (hst : h.st ≠ .free)
    (hfirst : ∀ j, j < i → ∀ x, d.log.hauls[j]? = some x → x.st = .free ∨ x.num ≠ n) : d.haulAt? n = some i := by
  obtain ⟨hlt, rfl⟩ := List.getElem?_eq_some_iff.1 hi
  unfold haulAt?
  rw [if_neg h0, List.findIdx?_eq_some_iff_getElem]
  refine ⟨hlt, by simp [hst, hnum], fun j hj => ?_⟩
  have hj' := hfirst j hj _ (List.getElem?_eq_getElem (hj.trans hlt))
  simpa [imp_iff_not_or] using hj'

/-- A change of the record found, by what the log holds there. -/
theorem onHaul_found {d : Device} {n i : Nat} (h : d.haulAt? n = some i) (f : Haul → Haul) :
    d.onHaul i f = d.onLog fun l => { l with hauls := l.hauls.set i (f (d.haul i)) } :=
  congrArg (fun hauls => d.onLog fun l => { l with hauls := hauls }) (modAt_eq_set Haul.free f (haulAt?_lt h))

/-! ### HAUL OPEN (R149, R152) -/

theorem openHaul_timeUnset {d : Device} (tag : Nat) (h : d.utcNow = none) : d.openHaul tag = (.timeUnset, d) := by
  unfold openHaul
  rw [h]

theorem openHaul_noFix {d : Device} (tag : Nat) (hu : d.utcNow ≠ none) (hf : d.console.fix = none) :
    d.openHaul tag = (.noFix, d) := by
  obtain ⟨utc, hutc⟩ := Option.ne_none_iff_exists'.1 hu
  unfold openHaul
  rw [hutc, hf]

section
variable {d : Device} {utc : Nat} {f : Fix} (hutc : d.utcNow = some utc) (hfix : d.console.fix = some f)
include hutc hfix

theorem openHaul_oneOpen (tag : Nat) (h : ∃ h ∈ d.log.hauls, h.st = .open') : d.openHaul tag = (.oneOpen, d) := by
  have hany : (d.log.hauls.any fun h => h.st == .open') = true := by simpa using h
  unfold openHaul
  rw [hutc, hfix]
  exact if_pos hany

theorem openHaul_haulFull (tag : Nat) (h : ∀ h ∈ d.log.hauls, h.st = .weighing) :
    d.openHaul tag = (.haulFull, d) := by
  have hany : ¬ (d.log.hauls.any fun h => h.st == .open') = true := by
    simpa using fun x hx => by rw [h x hx]; decide
  have hfree : (d.log.hauls.findIdx? fun h => h.st == .free) = none := by
    simpa [List.findIdx?_eq_none_iff] using fun x hx => by rw [h x hx]; decide
  unfold openHaul
  simp only [hutc, hfix, if_neg hany, hfree]

variable {i : Nat} {h : Haul} (hopen : ∀ h ∈ d.log.hauls, h.st ≠ .open') (hi : d.log.hauls[i]? = some h)
  (hst : h.st = .free) (hfirst : ∀ j, j < i → ∀ x, d.log.hauls[j]? = some x → x.st ≠ .free)
include hopen hi hst hfirst

/-- With no OPEN record and record `i` the first FREE one, the lane's room decides. -/
theorem openHaul_room (tag : Nat) : d.openHaul tag = if d.laneRoom .general then
    (.taken, (d.onLog fun l =>
      { l with hauls := l.hauls.set i (d.openedHaul utc f), counter := (d.openedHaul utc f).num }).queueEntry .general
        ⟨.haulOpened, tag, .report (haulOpenedData (d.openedHaul utc f)), 0⟩)
    else (.queueFull, d) := by
  obtain ⟨hlt, rfl⟩ := List.getElem?_eq_some_iff.1 hi
  have hany : ¬ (d.log.hauls.any fun h => h.st == .open') = true := by simpa using hopen
  have hfree : (d.log.hauls.findIdx? fun h => h.st == .free) = some i := by
    rw [List.findIdx?_eq_some_iff_getElem]
    exact ⟨hlt, by simp [hst], fun j hj => by
      simpa using hfirst j hj _ (List.getElem?_eq_getElem (hj.trans hlt))⟩
  unfold openHaul
  simp only [hutc, hfix, if_neg hany, hfree]

theorem openHaul_queueFull (tag : Nat) (hfull : 24 ≤ d.console.general.entries.length) :
    d.openHaul tag = (.queueFull, d) := by
  rw [openHaul_room hutc hfix hopen hi hst hfirst, if_neg]
  exact fun hroom => Nat.not_lt.2 hfull ((laneRoom_iff d .general).1 hroom)

theorem openHaul_taken (tag : Nat) (hroom : d.console.general.entries.length < 24) :
    d.openHaul tag = (.taken, { d with
      log := { d.log with hauls := d.log.hauls.set i (d.openedHaul utc f), counter := d.nextHaulNumber },
      console := { d.console with general := { d.console.general with entries := d.console.general.entries ++
        [⟨.haulOpened, tag, .report (haulOpenedData (d.openedHaul utc f)), 0⟩] } } }) := by
  rw [openHaul_room hutc hfix hopen hi hst hfirst, if_pos ((laneRoom_iff d .general).2 hroom)]
  exact congrArg (Prod.mk _) (queueEntry_general _ hroom)

end

/-- The place of the next haul number among the candidates after the counter. -/
theorem nextHaulNumber_first {d : Device} {k : Nat} (hk : k < 5)
    (hfree : ∀ h ∈ d.log.hauls, h.st ≠ .free → h.num ≠ (d.log.counter + k) % 4095 + 1)
    (hheld : ∀ j, j < k → ∃ h ∈ d.log.hauls, h.st ≠ .free ∧ h.num = (d.log.counter + j) % 4095 + 1) :
    d.nextHaulNumber = (d.log.counter + k) % 4095 + 1 := by
  unfold nextHaulNumber
  have hfind : ((List.range 5).map fun k => (d.log.counter + k) % 4095 + 1).find?
      (fun n => !(d.log.hauls.any fun h => h.st != .free && h.num == n)) = some ((d.log.counter + k) % 4095 + 1) := by
    rw [List.find?_map, List.find?_range_eq_some.2 ⟨?_, List.mem_range.2 hk, fun j hj => ?_⟩]
    · rfl
    · simpa using hfree
    · simpa [and_assoc] using hheld j hj
  simp only [hfind, Option.getD_some]

/-- Four records cannot hold the five candidates: one of them is free (R149). -/
theorem exists_free_candidate {d : Device} (h4 : d.log.hauls.length = 4) :
    ∃ k < 5, ∀ h ∈ d.log.hauls, h.st ≠ .free → h.num ≠ (d.log.counter + k) % 4095 + 1 := by
  by_contra hall
  push Not at hall
  have hsub : (Finset.range 5).image (fun k => (d.log.counter + k) % 4095 + 1)
      ⊆ (d.log.hauls.map fun h => h.num).toFinset := by
    intro n hn
    obtain ⟨k, hk, rfl⟩ := Finset.mem_image.1 hn
    obtain ⟨h, hmem, -, hnum⟩ := hall k (Finset.mem_range.1 hk)
    exact List.mem_toFinset.2 (List.mem_map.2 ⟨h, hmem, hnum⟩)
  have hinj : Set.InjOn (fun k => (d.log.counter + k) % 4095 + 1) (Finset.range 5 : Set Nat) := by
    intro a ha b hb hab
    simp only [Finset.coe_range, Set.mem_Iio] at ha hb hab
    omega
  have hcard := Finset.card_le_card hsub
  rw [Finset.card_image_of_injOn hinj, Finset.card_range] at hcard
  have hle := List.toFinset_card_le (d.log.hauls.map fun h => h.num)
  rw [List.length_map, h4] at hle
  omega

/-- The next haul number is the first candidate that no OPEN or WEIGHING record holds (R149). -/
theorem nextHaulNumber_spec {d : Device} (h4 : d.log.hauls.length = 4) :
    ∃ k, k < 5 ∧ d.nextHaulNumber = (d.log.counter + k) % 4095 + 1 ∧
      (∀ h ∈ d.log.hauls, h.st ≠ .free → h.num ≠ (d.log.counter + k) % 4095 + 1) ∧
      ∀ j, j < k → ∃ h ∈ d.log.hauls, h.st ≠ .free ∧ h.num = (d.log.counter + j) % 4095 + 1 := by
  classical
  have hex := exists_free_candidate h4
  obtain ⟨hk, hfree⟩ := Nat.find_spec hex
  have hheld : ∀ j, j < Nat.find hex →
      ∃ h ∈ d.log.hauls, h.st ≠ .free ∧ h.num = (d.log.counter + j) % 4095 + 1 := by
    intro j hj
    by_contra hnone
    push Not at hnone
    exact Nat.find_min hex hj ⟨hj.trans hk, hnone⟩
  exact ⟨_, hk, nextHaulNumber_first hk hfree hheld, hfree, hheld⟩

/-! ### HAUL CLOSE (R153) -/

theorem closeHaul_badParam {d : Device} {n : Nat} (h : d.haulAt? n = none) : d.closeHaul n = (.badParam, d) := by
  unfold closeHaul
  rw [h]

theorem closeHaul_state {d : Device} {n i : Nat} (h : d.haulAt? n = some i) (hst : (d.haul i).st = .weighing) :
    d.closeHaul n = (.state, d) := by
  unfold closeHaul
  rw [h]
  exact if_pos hst

theorem closedHaul_fix {d : Device} {f : Fix} (hfix : d.console.fix = some f) (h : Haul) :
    d.closedHaul h = { h with
      st := .weighing, endUtc := d.utcNow, endPos := some (f.lat, f.lon), endRect := some (rectangleOf (f.lat, f.lon)),
      estimated := h.estimated || decide (600000 ≤ d.now - f.takenAt),
      longTow := decide (h.startRect ≠ rectangleOf (f.lat, f.lon)) } := by
  have hne : (h.startRect != rectangleOf (f.lat, f.lon)) = decide (h.startRect ≠ rectangleOf (f.lat, f.lon)) := by
    rw [Bool.eq_iff_iff, bne_iff_ne, decide_eq_true_iff]
  unfold closedHaul
  simp only [hfix, hne]
  rfl

theorem closeHaul_taken {d : Device} {n i : Nat} (h : d.haulAt? n = some i) (hst : (d.haul i).st = .open') :
    d.closeHaul n = (.taken, d.onHaul i d.closedHaul) := by
  have hne : (d.haul i).st ≠ .weighing := by rw [hst]; decide
  unfold closeHaul
  simp only [h, if_neg hne, onHaul_found h]

/-! ### CATCH LINE (R154) -/

/-- A line that CATCH LINE takes: three letters, a disposition of 0 or 1, and a weight from 1 to 99,999. -/
def lineOk (sp : Species) (disp weight : Nat) : Prop :=
  sp.a < 26 ∧ sp.b < 26 ∧ sp.c < 26 ∧ disp ≤ 1 ∧ 1 ≤ weight ∧ weight ≤ 99999

theorem lineOk_iff (sp : Species) (disp weight : Nat) :
    lineOk sp disp weight ↔ ¬ (validSpecies sp = false ∨ 1 < disp ∨ weight = 0 ∨ 99999 < weight) := by
  unfold lineOk validSpecies
  simp only [Bool.and_eq_false_iff, decide_eq_false_iff_not]
  omega

theorem sameLine_iff (l x : Machine.CatchLine) :
    sameLine l x = true ↔ x.species = l.species ∧ x.retained = l.retained := by
  simp [sameLine]

theorem catchLine_badParam {d : Device} {n : Nat} (sp : Species) (disp weight : Nat) (h : d.haulAt? n = none) :
    d.catchLine n sp disp weight = (.badParam, d) := by
  unfold catchLine
  rw [h]

section
variable {d : Device} {n i : Nat} {sp : Species} {disp weight : Nat} (h : d.haulAt? n = some i)
include h

theorem catchLine_state (hst : (d.haul i).st = .open') : d.catchLine n sp disp weight = (.state, d) := by
  unfold catchLine
  rw [h]
  exact if_pos hst

variable (hst : (d.haul i).st = .weighing)
include hst

theorem catchLine_range (hbad : ¬ lineOk sp disp weight) : d.catchLine n sp disp weight = (.range, d) := by
  have hopen : ¬ (d.haul i).st = .open' := by rw [hst]; decide
  rw [lineOk_iff, not_not] at hbad
  unfold catchLine
  simp only [h, if_neg hopen, if_pos hbad]

/-- A good line to a WEIGHING haul replaces the earlier one of its species and disposition, is refused by a full haul,
or is appended. -/
theorem catchLine_good (hok : lineOk sp disp weight) :
    d.catchLine n sp disp weight =
      if (d.haul i).lines.any (sameLine ⟨sp, disp == 0, weight⟩) then
        (.taken, (d.onHaul i fun h => { h with
          lines := mapIf (sameLine ⟨sp, disp == 0, weight⟩) (fun _ => ⟨sp, disp == 0, weight⟩) h.lines }).onLogCounts
          fun c => { c with linesReplaced := bump c.linesReplaced })
      else if 12 ≤ (d.haul i).lines.length then (.linesFull, d)
      else (.taken, d.onHaul i fun h => { h with lines := h.lines ++ [⟨sp, disp == 0, weight⟩] }) := by
  have hopen : ¬ (d.haul i).st = .open' := by rw [hst]; decide
  rw [lineOk_iff] at hok
  unfold catchLine
  simp only [h, if_neg hopen, if_neg hok]

variable (hok : lineOk sp disp weight)
include hok

theorem catchLine_new (hnew : ∀ x ∈ (d.haul i).lines, ¬ (x.species = sp ∧ x.retained = decide (disp = 0)))
    (hroom : (d.haul i).lines.length < 12) : d.catchLine n sp disp weight =
      (.taken, d.onHaul i fun h => { h with lines := h.lines ++ [⟨sp, decide (disp = 0), weight⟩] }) := by
  have hany : ¬ (d.haul i).lines.any (sameLine ⟨sp, disp == 0, weight⟩) = true := by
    rw [List.any_eq_true]
    exact fun ⟨x, hx, hs⟩ => hnew x hx ((sameLine_iff _ x).1 hs)
  rw [catchLine_good h hst hok, if_neg hany, if_neg (Nat.not_le.2 hroom)]
  rfl

theorem catchLine_full (hnew : ∀ x ∈ (d.haul i).lines, ¬ (x.species = sp ∧ x.retained = decide (disp = 0)))
    (hfull : 12 ≤ (d.haul i).lines.length) : d.catchLine n sp disp weight = (.linesFull, d) := by
  have hany : ¬ (d.haul i).lines.any (sameLine ⟨sp, disp == 0, weight⟩) = true := by
    rw [List.any_eq_true]
    exact fun ⟨x, hx, hs⟩ => hnew x hx ((sameLine_iff _ x).1 hs)
  rw [catchLine_good h hst hok, if_neg hany, if_pos hfull]

theorem catchLine_again (hold : ∃ x ∈ (d.haul i).lines, x.species = sp ∧ x.retained = decide (disp = 0)) :
    d.catchLine n sp disp weight = (.taken, (d.onHaul i fun h => { h with
      lines := h.lines.map fun x => if x.species = sp ∧ x.retained = decide (disp = 0)
        then ⟨sp, decide (disp = 0), weight⟩ else x }).onLogCounts
      fun c => { c with linesReplaced := bump c.linesReplaced }) := by
  have hany : (d.haul i).lines.any (sameLine ⟨sp, disp == 0, weight⟩) = true := by
    obtain ⟨x, hx, hs⟩ := hold
    exact List.any_eq_true.2 ⟨x, hx, (sameLine_iff _ x).2 hs⟩
  rw [catchLine_good h hst hok, if_pos hany]
  simp only [mapIf, sameLine_iff]
  rfl

end

/-! ### HAUL DISCARD (R155) -/

theorem discardHaul_badParam {d : Device} {n : Nat} (h : d.haulAt? n = none) : d.discardHaul n = (.badParam, d) := by
  unfold discardHaul
  rw [h]

theorem discardHaul_taken {d : Device} {n i : Nat} (h : d.haulAt? n = some i) : d.discardHaul n = (.taken, { d with
    log := { d.log with
      hauls := d.log.hauls.set i Haul.free,
      counts := { d.log.counts with discarded := bump d.log.counts.discarded } } }) := by
  unfold discardHaul
  simp only [h, onHaul_found h]
  rfl

end Device
open Device

/-! ### The grid (R150, R151) -/

/-- The row and column of a position, south of the Pole in its own row and at the Pole in row 539. -/
theorem rectangleOf_eq (lat lon : Int) (hlat : -540000 ≤ lat) (hlon : -1080000 ≤ lon) :
    (rectangleOf (lat, lon) : Int) = min ((lat + 540000) / 2000) 539 * 540 + (lon + 1080000) / 4000 := by
  unfold rectangleOf
  push_cast
  omega

theorem midpoint_lon (p q : Int × Int) (hp1 : -1080000 ≤ p.2) (hp2 : p.2 ≤ 1079999) (hq1 : -1080000 ≤ q.2)
    (hq2 : q.2 ≤ 1079999) :
    (q.2 - p.2 ≤ 1080000 → p.2 - q.2 ≤ 1080000 → (midpoint p q).2 = (p.2 + q.2) / 2) ∧
    (1080000 < q.2 - p.2 ∨ 1080000 < p.2 - q.2 →
      (midpoint p q).2 = (if 1080000 ≤ (p.2 + q.2 + 2160000) / 2 then (p.2 + q.2 + 2160000) / 2 - 2160000
        else (p.2 + q.2 + 2160000) / 2)) := by
  unfold midpoint
  dsimp only
  refine ⟨fun h1 h2 => ?_, fun h => ?_⟩
  · rw [if_neg (Int.not_lt.2 h1), if_neg (Int.not_lt.2 h2), if_neg (by omega)]
  · rcases h with h | h
    · rw [if_pos h, if_neg (by omega : ¬ 1080000 < p.2 - q.2), show p.2 + 2160000 + q.2 = p.2 + q.2 + 2160000 by omega]
    · rw [if_pos h, if_neg (by omega : ¬ 1080000 < q.2 - p.2), ← add_assoc]

/-- Settles O45: rows and columns by floor division, the midpoint by which side of the antimeridian is moved. -/
theorem grid : Obligations.Grid := by
  refine ⟨⟨fun lat lon h1 h2 h3 h4 => ?south, fun lon h3 h4 => ?pole, fun lat lon h1 h2 h3 h4 => ?last, by decide,
    by decide, by decide⟩, fun p q hp1 hp2 hq1 hq2 => ?mid⟩
  case south =>
    have hrect := rectangleOf_eq lat lon h1 h3
    omega
  case pole =>
    have hrect := rectangleOf_eq 540000 lon (by decide) h3
    omega
  case last =>
    have hrect := rectangleOf_eq lat lon h1 h3
    omega
  case mid =>
    obtain ⟨hnear, hfar⟩ := midpoint_lon p q hp1 hp2 hq1 hq2
    have hbounds : -1080000 ≤ (midpoint p q).2 ∧ (midpoint p q).2 ≤ 1079999 := by
      by_cases h : q.2 - p.2 ≤ 1080000 ∧ p.2 - q.2 ≤ 1080000
      · rw [hnear h.1 h.2]
        omega
      · rw [hfar (by omega)]
        split <;> omega
    exact ⟨rfl, hbounds.1, hbounds.2, hnear, hfar⟩

/-! ### The states of a quota entry (R164, R165) -/

theorem quotaState_reached {consumed quota : Nat} (h : quota ≤ consumed) : quotaState consumed quota = .reached :=
  if_pos h

theorem quotaState_alert {consumed quota : Nat} (h1 : consumed < quota) (h2 : 9 * quota ≤ 10 * consumed) :
    quotaState consumed quota = .alert :=
  (if_neg (Nat.not_le.2 h1)).trans (if_pos h2)

theorem quotaState_normal {consumed quota : Nat} (h1 : consumed < quota) (h2 : 10 * consumed < 9 * quota) :
    quotaState consumed quota = .normal :=
  (if_neg (Nat.not_le.2 h1)).trans (if_neg (Nat.not_le.2 h2))

/-- Settles O46: the three ranges of an evaluation. -/
theorem quotaStates : Obligations.QuotaStates := fun consumed _ =>
  ⟨quotaState_reached, quotaState_alert, quotaState_normal, quotaState_reached consumed.zero_le,
    quotaState_alert (by decide) (by decide), quotaState_normal (by decide) (by decide)⟩

/-! ### The orders -/

/-- Settles O6: the log of the reset state, and the first two refusals of HAUL OPEN. -/
theorem hardResetCatchLog : Obligations.HardResetCatchLog := by
  refine ⟨fun s => ⟨Device.afterReset s.dev.draws, rfl, rfl, fun h hh => ?_, rfl, rfl, rfl, rfl, rfl, rfl⟩,
    fun tag d => ⟨fun hu => openHaul_timeUnset tag ?_, fun hu hf => openHaul_noFix tag ?_ hf⟩⟩
  · rw [List.eq_of_mem_replicate (hh : h ∈ List.replicate 4 Haul.free)]
    rfl
  · unfold utcNow
    rw [hu]
  · obtain ⟨u, hu⟩ := Option.ne_none_iff_exists'.1 hu
    unfold utcNow
    rw [hu]
    exact Option.some_ne_none _

/-- Settles O47: each test of HAUL OPEN and HAUL CLOSE, and one free number among five for four records. -/
theorem haulOpenAndClose : Obligations.HaulOpenAndClose := by
  refine ⟨?opens, ?closes, fun d h4 => ?number⟩
  case opens =>
    intro tag s hl c
    refine ⟨fun hu => exec_of_frame _ rfl hl (openHaul_timeUnset tag hu),
      fun hu hf => exec_of_frame _ rfl hl (openHaul_noFix tag hu hf), fun utc f hutc hfix =>
      ⟨fun h => exec_of_frame _ rfl hl (openHaul_oneOpen hutc hfix tag h),
      fun h => exec_of_frame _ rfl hl (openHaul_haulFull hutc hfix tag h),
      fun hopen i h hi hst hfirst =>
        ⟨fun hfull => exec_of_frame _ rfl hl (openHaul_queueFull hutc hfix hopen hi hst hfirst tag hfull),
        fun hroom => exec_of_frame _ rfl hl (openHaul_taken hutc hfix hopen hi hst hfirst tag hroom)⟩⟩⟩
  case closes =>
    intro tag n s hl c
    refine ⟨fun h => exec_of_frame _ rfl hl (closeHaul_badParam h), fun i h =>
      ⟨fun hst => exec_of_frame _ rfl hl (closeHaul_state h hst),
      fun f hst hfix => exec_of_frame _ rfl hl ((closeHaul_taken h hst).trans ?_)⟩⟩
    rw [funext (closedHaul_fix hfix)]
    rfl
  case number =>
    obtain ⟨k, hk, hnext, hfree, hheld⟩ := nextHaulNumber_spec h4
    intro n
    have hn : n = (d.log.counter + k) % 4095 + 1 := hnext
    exact ⟨by omega, by omega, fun h hh hst => hn ▸ hfree h hh hst, k, hk, hn, hheld⟩

/-- Settles O48: the tests of CATCH LINE in R154's order. -/
theorem catchLine : Obligations.CatchLine := by
  refine ⟨?held, ?unheld⟩
  case held =>
    intro tag n a b e disp weight i s hl c good same h
    exact ⟨fun hst => exec_of_frame _ rfl hl (catchLine_state h hst),
      fun hst hbad => exec_of_frame _ rfl hl (catchLine_range (sp := ⟨a, b, e⟩) h hst hbad),
      fun hst hgood hnew hroom => exec_of_frame _ rfl hl (catchLine_new (sp := ⟨a, b, e⟩) h hst hgood hnew hroom),
      fun hst hgood hnew hfull => exec_of_frame _ rfl hl (catchLine_full (sp := ⟨a, b, e⟩) h hst hgood hnew hfull),
      fun hst hgood hold => exec_of_frame _ rfl hl (catchLine_again (sp := ⟨a, b, e⟩) h hst hgood hold)⟩
  case unheld =>
    intro tag n a b e disp weight s hl c hnone
    exact exec_of_frame _ rfl hl (catchLine_badParam _ disp weight ((haulAt?_eq_none_iff c n).2 hnone))

/-- Settles O49: the record found is the first that holds the number, and it alone is freed. -/
theorem haulDiscard : Obligations.HaulDiscard := by
  intro tag n s hl c
  exact ⟨fun hnone => exec_of_frame _ rfl hl (discardHaul_badParam ((haulAt?_eq_none_iff c n).2 hnone.symm)),
    fun i h h0 hi hnum hst hfirst =>
      exec_of_frame _ rfl hl (discardHaul_taken (haulAt?_of_first h0 hi hnum hst hfirst))⟩

end Sys2Proof.Machine
end

section
/-! PROOF. HAUL COMMIT: its tests, what it does to the tally cells, and the evaluation of the quota entries (O50). -/

namespace Sys2Proof.Machine
namespace Device

/-! ### The species of a haul's lines (R157) -/

theorem mem_speciesOf (lines : List Machine.CatchLine) (sp : Species) :
    sp ∈ speciesOf lines ↔ ∃ l ∈ lines, l.species = sp := by
  unfold speciesOf
  rw [List.mem_eraseDups, List.mem_map]

theorem speciesOf_nodup (lines : List Machine.CatchLine) : (speciesOf lines).Nodup := eraseDups_nodup' _

/-! ### The tests of HAUL COMMIT (R156, R157) -/

theorem orderCommit_badParam {d : Device} {n : Nat} (tag : Nat) (h : d.haulAt? n = none) :
    d.orderCommit tag n = (.badParam, d) := by
  unfold orderCommit
  rw [h]

section
variable {d : Device} {n i : Nat} (tag : Nat) (h : d.haulAt? n = some i)
include h

theorem orderCommit_state (hst : (d.haul i).st ≠ .weighing) : d.orderCommit tag n = (.state, d) := by
  unfold orderCommit
  rw [h]
  exact if_pos hst

variable (hst : (d.haul i).st = .weighing)
include hst

theorem orderCommit_noLines (hl : (d.haul i).lines = []) : d.orderCommit tag n = (.noLines, d) := by
  unfold orderCommit
  simp only [h, if_neg (not_not.2 hst), hl, List.isEmpty_nil, if_true]

variable (hl : (d.haul i).lines ≠ [])
include hl

/-- A WEIGHING haul with lines is tested for the tally's room, then for the lane's. -/
theorem orderCommit_rooms : d.orderCommit tag n =
    if 60 - d.log.cells.length < (d.newKeys (haulRectangle (d.haul i)) (d.haul i).lines).length then
      (.tallyFull, d.onLogCounts fun c => { c with tallyFull := bump c.tallyFull })
    else if d.laneRoom .general then (.taken, d.commitHaul tag i)
    else (.queueFull, d) := by
  have hsome : ¬ (d.haul i).lines.isEmpty = true := fun hempty => hl (List.isEmpty_iff.1 hempty)
  unfold orderCommit
  simp only [h, if_neg (not_not.2 hst), if_neg hsome]

theorem orderCommit_tallyFull
    (hfull : 60 - d.log.cells.length < (d.newKeys (haulRectangle (d.haul i)) (d.haul i).lines).length) :
    d.orderCommit tag n = (.tallyFull, d.onLogCounts fun c => { c with tallyFull := bump c.tallyFull }) := by
  rw [orderCommit_rooms tag h hst hl, if_pos hfull]

variable (hkeys : (d.newKeys (haulRectangle (d.haul i)) (d.haul i).lines).length ≤ 60 - d.log.cells.length)
include hkeys

theorem orderCommit_queueFull (hfull : 24 ≤ d.console.general.entries.length) :
    d.orderCommit tag n = (.queueFull, d) := by
  rw [orderCommit_rooms tag h hst hl, if_neg (Nat.not_lt.2 hkeys), if_neg]
  exact fun hroom => Nat.not_lt.2 hfull ((laneRoom_iff d .general).1 hroom)

theorem orderCommit_taken (hroom : d.console.general.entries.length < 24) :
    d.orderCommit tag n = (.taken, d.commitHaul tag i) := by
  rw [orderCommit_rooms tag h hst hl, if_neg (Nat.not_lt.2 hkeys), if_pos ((laneRoom_iff d .general).2 hroom)]

end

/-! ### The tally cells of a commit (R157 to R159) -/

/-- A haul's lines added to their cells, with the saturated mark. -/
def linesAdded (d : Device) (h : Haul) : Device × Bool :=
  h.lines.foldl (commitLine (haulRectangle h)) (d, false)

/-- A haul's lines added, and the haul counted in each cell that received one, with the saturated mark. -/
def tallied (d : Device) (h : Haul) : Device × Bool :=
  (speciesOf h.lines).foldl (commitCell (haulRectangle h) h) (d.linesAdded h)

/-- A commit of record `i` before the quota entries are evaluated: the record FREE, the cells raised, the commit
counted, and HAUL COMMITTED queued. -/
def committed (tag i : Nat) (d : Device) : Device :=
  let h := d.haul i
  { d with
    log := { d.log with
      hauls := modAt d.log.hauls i fun _ => Haul.free, cells := (d.tallied h).1.log.cells,
      counts := { d.log.counts with commits := bump d.log.counts.commits } },
    console := { d.console with general := { d.console.general with
      entries := d.console.general.entries ++ [⟨.haulCommitted, tag, .report
        [.num 2 h.num, .num 3 (haulRectangle h), count16 (speciesOf h.lines).length,
         count16 (d.newKeys (haulRectangle h) h.lines).length, flagData h.estimated, flagData h.longTow,
         flagData (d.tallied h).2], 0⟩] } } }

theorem overLimit_iff (x : TallyCell) (l : Machine.CatchLine) : overLimit x l = true ↔
    9999999 < (if l.retained then x.retained.total else x.discarded.total) + l.weight :=
  decide_eq_true_iff

theorem cutsAtLimit_iff (x : TallyCell) (l : Machine.CatchLine) : cutsAtLimit x l = true ↔
    (if l.retained then x.retained.total else x.discarded.total) = 9999999 ∨
    9999999 < (if l.retained then x.retained.total else x.discarded.total) + l.weight := by
  unfold cutsAtLimit Amount.cuts kgLimit
  cases l.retained <;> simp

section
variable {h : Haul} (hn : (h.lines.map fun l => (l.species, l.retained)).Nodup) (d : Device)
include hn

theorem tallied_cellsOnly : cellsOnly d (d.tallied h).1 := by
  obtain ⟨hlines, -⟩ := commitLines_foldl (haulRectangle h) h.lines hn d false
  obtain ⟨hcells, -⟩ := commitCells_foldl (haulRectangle h) h (speciesOf h.lines) (speciesOf_nodup _)
    (d.linesAdded h).1 (d.linesAdded h).2
  exact hlines.trans hcells

/-- A commit with room in the lane. -/
theorem commitHaul_eq {i : Nat} (tag : Nat) (hi : h = d.haul i) (hroom : d.console.general.entries.length < 24) :
    d.commitHaul tag i = (d.committed tag i).commitQuotas h.lines := by
  subst hi
  have hcells : (d.tallied (d.haul i)).1 = _ := tallied_cellsOnly hn d
  have hrow : d.commitHaul tag i = ((((d.tallied (d.haul i)).1.onHaul i fun _ => Haul.free).queueEntry .general
      ⟨.haulCommitted, tag, .report
        [.num 2 (d.haul i).num, .num 3 (haulRectangle (d.haul i)), count16 (speciesOf (d.haul i).lines).length,
         count16 (d.newKeys (haulRectangle (d.haul i)) (d.haul i).lines).length, flagData (d.haul i).estimated,
         flagData (d.haul i).longTow, flagData (d.tallied (d.haul i)).2], 0⟩).onLogCounts
      fun c => { c with commits := bump c.commits }).commitQuotas (d.haul i).lines := rfl
  rw [hrow, queueEntry_general _ (by rw [onHaul, onLog_console, hcells]; exact hroom), hcells]
  rfl

/-- The cells of other keys stay. -/
theorem tallied_other {r : Nat} {sp : Species} (hkey : r ≠ haulRectangle h ∨ sp ∉ speciesOf h.lines) :
    (d.tallied h).1.cell? r sp = d.cell? r sp := by
  obtain ⟨-, -, -, -, -, -, -, hother, -⟩ := commitLines_foldl (haulRectangle h) h.lines hn d false
  obtain ⟨-, hcell, -⟩ := commitCells_foldl (haulRectangle h) h (speciesOf h.lines) (speciesOf_nodup _)
    (d.linesAdded h).1 (d.linesAdded h).2
  refine (hcell r sp).trans ((if_neg ?_).trans (hother r sp ?_))
  · exact fun hboth => hkey.elim (fun hr => hr hboth.1) fun hsp => hsp hboth.2
  · exact hkey.imp_right fun hsp l hl heq => hsp ((mem_speciesOf _ _).2 ⟨l, hl, heq⟩)

/-- The cell of a species of the haul, made or raised: by its lines' weights and one haul, cut at the limits. -/
theorem tallied_cell {sp : Species} (hsp : sp ∈ speciesOf h.lines) :
    let old := d.cellOrEmpty (haulRectangle h) sp
    ∃ x, (d.tallied h).1.cell? (haulRectangle h) sp = some x ∧
      (∀ l ∈ h.lines, l.species = sp → l.retained = true →
        x.retained = { old.retained with total := min 9999999 (old.retained.total + l.weight) }) ∧
      (∀ l ∈ h.lines, l.species = sp → l.retained = false →
        x.discarded = { old.discarded with total := min 9999999 (old.discarded.total + l.weight) }) ∧
      ((∀ l ∈ h.lines, l.species = sp → l.retained = false) → x.retained = old.retained) ∧
      ((∀ l ∈ h.lines, l.species = sp → l.retained = true) → x.discarded = old.discarded) ∧
      x.hauls = { old.hauls with total := min 65535 (old.hauls.total + 1) } ∧
      x.estimated = (old.estimated || h.estimated) ∧ x.longTow = (old.longTow || h.longTow) ∧
      (x.saturated = true ↔ old.saturated = true ∨ 65535 ≤ old.hauls.total ∨
        ∃ l ∈ h.lines, l.species = sp ∧
          9999999 < (if l.retained then old.retained.total else old.discarded.total) + l.weight) := by
  intro old
  obtain ⟨-, hretained, hdiscarded, hkeptRetained, hkeptDiscarded, hbeside, hsaturated, -, -⟩ :=
    commitLines_foldl (haulRectangle h) h.lines hn d false
  obtain ⟨-, hcell, -⟩ := commitCells_foldl (haulRectangle h) h (speciesOf h.lines) (speciesOf_nodup _)
    (d.linesAdded h).1 (d.linesAdded h).2
  obtain ⟨hhauls, hestimated, hlongTow⟩ := hbeside sp
  have hx := (hcell (haulRectangle h) sp).trans (if_pos ⟨rfl, hsp⟩)
  rw [addHaul_eq] at hx
  refine ⟨_, hx, ?_, ?_, hkeptRetained sp, hkeptDiscarded sp, ?_, ?_, ?_, ?_⟩
  · rintro l hl rfl hr
    exact hretained l hl hr
  · rintro l hl rfl hr
    exact hdiscarded l hl hr
  · exact congrArg (fun a : Amount => { a with total := min 65535 (a.total + 1) }) hhauls
  · exact congrArg (· || h.estimated) hestimated
  · exact congrArg (· || h.longTow) hlongTow
  · let raised := (d.linesAdded h).1.cellOrEmpty (haulRectangle h) sp
    have hlines : raised.saturated = true ↔ _ := hsaturated sp
    have hcount : raised.hauls = old.hauls := hhauls
    simp only [overLimit_iff] at hlines
    change (raised.saturated || decide (65535 < raised.hauls.total + 1)) = true ↔ _
    rw [Bool.or_eq_true, decide_eq_true_iff, Nat.lt_succ_iff, hcount, hlines]
    exact or_assoc.trans (or_congr_right or_comm)

/-- The saturated mark: a total that the commit raises ends cut. -/
theorem tallied_mark :
    let old := d.cellOrEmpty (haulRectangle h)
    (d.tallied h).2 = true ↔ (∃ sp ∈ speciesOf h.lines, 65535 ≤ (old sp).hauls.total) ∨ ∃ l ∈ h.lines,
      (if l.retained then (old l.species).retained.total else (old l.species).discarded.total) = 9999999 ∨
      9999999 < (if l.retained then (old l.species).retained.total else (old l.species).discarded.total)
        + l.weight := by
  intro old
  obtain ⟨-, -, -, -, -, hbeside, -, -, hmark⟩ := commitLines_foldl (haulRectangle h) h.lines hn d false
  obtain ⟨-, -, hcount⟩ := commitCells_foldl (haulRectangle h) h (speciesOf h.lines) (speciesOf_nodup _)
    (d.linesAdded h).1 (d.linesAdded h).2
  have hhauls : ∀ sp, ((d.linesAdded h).1.cellOrEmpty (haulRectangle h) sp).hauls
      = (d.cellOrEmpty (haulRectangle h) sp).hauls := fun sp => (hbeside sp).1
  simp only [hhauls] at hcount
  simp only [cutsAtLimit_iff] at hmark
  have hlines : (d.linesAdded h).2 = true ↔ _ := hmark.trans (or_iff_right Bool.false_ne_true)
  rw [hlines, or_comm] at hcount
  exact hcount

end

/-! ### The quota entries of a commit (R163 to R168) -/

theorem mem_quotaSpecies (d : Device) (lines : List Machine.CatchLine) (sp : Species) :
    sp ∈ d.quotaSpecies lines ↔ (∃ l ∈ lines, l.species = sp) ∧ (d.quota? sp).isSome = true := by
  unfold quotaSpecies
  rw [(sortBy_perm _ _).mem_iff, List.mem_filter, mem_speciesOf]

theorem quotaSpecies_nodup (d : Device) (lines : List Machine.CatchLine) : (d.quotaSpecies lines).Nodup :=
  (sortBy_perm _ _).nodup_iff.2 ((speciesOf_nodup lines).filter _)

/-- The consumed of each of the species set to what the tally holds (R164). -/
def recounted (d : Device) (sps : List Species) : Device :=
  sps.foldl (fun e sp => e.onQuota sp fun q => { q with consumed := d.consumedOf sp }) d

/-- The entries of a commit's species recounted and evaluated, and whether one changed into REACHED (R164, R165). -/
def evaluated (d : Device) (lines : List Machine.CatchLine) : Bool × Device :=
  (d.quotaSpecies lines).foldl (fun x sp => (x.1 || (x.2.evaluateQuota sp 0).1, (x.2.evaluateQuota sp 0).2))
    (false, d.recounted (d.quotaSpecies lines))

/-- Setting a consumed changes no cell, so each species is counted as at the start. -/
theorem recount_foldl {d e : Device} (h : e.log.cells = d.log.cells) (sps : List Species) :
    sps.foldl (fun e sp => e.onQuota sp fun q => { q with consumed := e.consumedOf sp }) e
      = sps.foldl (fun e sp => e.onQuota sp fun q => { q with consumed := d.consumedOf sp }) e := by
  induction sps generalizing e with
  | nil => rfl
  | cons sp r ih =>
    have hconsumed : e.consumedOf sp = d.consumedOf sp := by
      unfold consumedOf
      rw [h]
    rw [List.foldl_cons, List.foldl_cons, hconsumed]
    exact ih h

theorem commitQuotas_eq (d : Device) (lines : List Machine.CatchLine) : d.commitQuotas lines =
    if (d.evaluated lines).1 then (d.evaluated lines).2.trigger .quota else (d.evaluated lines).2 := by
  unfold evaluated recounted
  rw [← recount_foldl rfl]
  rfl

section
variable (d : Device) (lines : List Machine.CatchLine)

theorem recounted_quota? (sp : Species) : (d.recounted (d.quotaSpecies lines)).quota? sp =
    if sp ∈ d.quotaSpecies lines then (d.quota? sp).map fun q => { q with consumed := d.consumedOf sp }
    else d.quota? sp :=
  (consumed_foldl d.consumedOf _ (d.quotaSpecies_nodup lines) d).2.2 sp

theorem evaluated_quotasOnly : quotasOnly d (d.evaluated lines).2 :=
  (consumed_foldl d.consumedOf _ (d.quotaSpecies_nodup lines) d).1.trans
    (evaluate_foldl _ (d.quotaSpecies_nodup lines) (d.recounted (d.quotaSpecies lines)) false).1

variable {d lines}

theorem evaluated_unlisted {sp : Species} (h : sp ∉ d.quotaSpecies lines) :
    (d.evaluated lines).2.quota? sp = d.quota? sp := by
  obtain ⟨-, hother, -⟩ :=
    evaluate_foldl _ (d.quotaSpecies_nodup lines) (d.recounted (d.quotaSpecies lines)) false
  exact (hother sp h).trans ((d.recounted_quota? lines sp).trans (if_neg h))

theorem recounted_listed {sp : Species} {q : QuotaEntry} (hq : d.quota? sp = some q) (h : ∃ l ∈ lines, l.species = sp) :
    (d.recounted (d.quotaSpecies lines)).quota? sp = some { q with consumed := d.consumedOf sp } := by
  rw [recounted_quota?, if_pos ((d.mem_quotaSpecies lines sp).2 ⟨h, by rw [hq]; rfl⟩), hq]
  rfl

theorem evaluated_listed {sp : Species} {q : QuotaEntry} (hq : d.quota? sp = some q) (h : ∃ l ∈ lines, l.species = sp) :
    ∃ y, (d.evaluated lines).2.quota? sp = some y ∧ y.quota = q.quota ∧ y.consumed = d.consumedOf sp ∧
      y.st = quotaState (d.consumedOf sp) q.quota := by
  obtain ⟨-, -, hlisted, -⟩ :=
    evaluate_foldl _ (d.quotaSpecies_nodup lines) (d.recounted (d.quotaSpecies lines)) false
  exact hlisted sp ((d.mem_quotaSpecies lines sp).2 ⟨h, by rw [hq]; rfl⟩) _ (recounted_listed hq h)

/-- A request is made when an entry that was not REACHED has reached its quota (R167). -/
theorem evaluated_reached : (d.evaluated lines).1 = true ↔
    ∃ l ∈ lines, ∃ q, d.quota? l.species = some q ∧ q.st ≠ .reached ∧ q.quota ≤ d.consumedOf l.species := by
  obtain ⟨-, -, -, hreached⟩ :=
    evaluate_foldl _ (d.quotaSpecies_nodup lines) (d.recounted (d.quotaSpecies lines)) false
  have hsome : ∀ sp ∈ d.quotaSpecies lines, ((d.recounted (d.quotaSpecies lines)).quota? sp).isSome = true := by
    intro sp hsp
    obtain ⟨hl, hq⟩ := (d.mem_quotaSpecies lines sp).1 hsp
    obtain ⟨q, hq⟩ := Option.isSome_iff_exists.1 hq
    rw [recounted_listed hq hl]
    rfl
  refine (hreached hsome).trans ((or_iff_right Bool.false_ne_true).trans ⟨?_, ?_⟩)
  · rintro ⟨sp, hsp, x, hx, hst, hle⟩
    obtain ⟨⟨l, hl, rfl⟩, hq⟩ := (d.mem_quotaSpecies lines sp).1 hsp
    obtain ⟨q, hq⟩ := Option.isSome_iff_exists.1 hq
    rw [recounted_listed hq ⟨l, hl, rfl⟩] at hx
    cases hx
    exact ⟨l, hl, q, hq, hst, hle⟩
  · rintro ⟨l, hl, q, hq, hst, hle⟩
    exact ⟨l.species, (d.mem_quotaSpecies lines _).2 ⟨⟨l, hl, rfl⟩, by rw [hq]; rfl⟩, _,
      recounted_listed hq ⟨l, hl, rfl⟩, hst, hle⟩

end

/-! ### The request of a commit (R167, R175) -/

theorem trigger_quota? (d : Device) (k : ReportReason) (sp : Species) : (d.trigger k).quota? sp = d.quota? sp := by
  unfold quota?
  rw [show (d.trigger k).log.quotas = d.log.quotas from congrArg (fun e => e.log.quotas) (d.trigger_aside k)]

theorem commitQuotas_quota? (d : Device) (lines : List Machine.CatchLine) (sp : Species) :
    (d.commitQuotas lines).quota? sp = (d.evaluated lines).2.quota? sp := by
  rw [commitQuotas_eq]
  split
  · exact trigger_quota? _ _ sp
  · rfl

theorem commitQuotas_unasked {d : Device} {lines : List Machine.CatchLine} (h : ¬ (d.evaluated lines).1 = true) :
    d.commitQuotas lines = (d.evaluated lines).2 := by
  rw [commitQuotas_eq, if_neg h]

theorem commitQuotas_asked {d : Device} {lines : List Machine.CatchLine} (h : (d.evaluated lines).1 = true) :
    d.commitQuotas lines = (d.evaluated lines).2.trigger .quota := by
  rw [commitQuotas_eq, if_pos h]

/-- With a report in flight and no request, a trigger becomes the request. -/
theorem trigger_waits {d : Device} (k : ReportReason) (hst : d.rep.st ≠ .none) (hp : d.rep.pending = none) :
    d.trigger k = { d with rep := { d.rep with pending := some k } } := by
  unfold trigger enterPending
  rw [if_neg hst, hp]
  rfl

/-- QUOTA comes last in the merge order, so the request that waits keeps its kind. -/
theorem trigger_quota_merges {d : Device} {x : ReportReason} (hst : d.rep.st ≠ .none) (hp : d.rep.pending = some x) :
    d.trigger .quota = { d with rep := { d.rep with
      counts := { d.rep.counts with merged := bump d.rep.counts.merged } } } := by
  have hkind : (if ReportReason.quota.order < x.order then ReportReason.quota else x) = x := by cases x <;> rfl
  unfold trigger enterPending
  rw [if_neg hst, hp]
  simp only [hkind, ← hp]
  rfl

theorem trigger_quota_console {d : Device} (hst : d.rep.st ≠ .none) : (d.trigger .quota).console = d.console := by
  cases hp : d.rep.pending with
  | none => rw [trigger_waits _ hst hp]
  | some x => rw [trigger_quota_merges hst hp]

/-! ### The report of one species (R166) -/

/-- An evaluation that changes no state reports nothing; one that changes it reports it, with room in the lane and no
mark. -/
theorem evaluateQuota_entries {d : Device} {sp : Species} {q : QuotaEntry} (hq : d.quota? sp = some q)
    (hroom : d.console.general.entries.length < 24) (hm : OwedRef.quota sp ∉ d.console.general.owed) :
    let st := quotaState q.consumed q.quota
    (d.evaluateQuota sp 0).2.console.general.entries = d.console.general.entries ++
      (if st = q.st then [] else [⟨.quotaState, 0, .report
        [.num 1 sp.a, .num 1 sp.b, .num 1 sp.c, .num 3 q.quota, .num 3 q.consumed,
         .num 1 (quotaStateCode (some q.st)), .num 1 (quotaStateCode (some st)), .num 1 0], 0⟩]) := by
  intro st
  unfold evaluateQuota
  rw [hq]
  by_cases hst : st = q.st
  · rw [if_pos hst, List.append_nil]
    exact congrArg (fun x : Bool × Device => x.2.console.general.entries) (if_pos hst)
  · have hset : (d.onQuota sp fun q => { q with st := st }).quota? sp = some { q with st := st } := by
      rw [quota_setState, if_pos rfl, hq]
      rfl
    rw [if_neg hst]
    refine (congrArg (fun x : Bool × Device => x.2.console.general.entries) (if_neg hst)).trans ?_
    dsimp only
    rw [reportQuota_told hset]
    exact congrArg Lane.entries (told_room _ hroom hm)

theorem quotaSpecies_one {d : Device} {l : Machine.CatchLine} {q : QuotaEntry} (hq : d.quota? l.species = some q) :
    d.quotaSpecies [l] = [l.species] := by
  have hmem := fun sp => d.mem_quotaSpecies [l] sp
  refine List.perm_singleton.1 ((List.perm_ext_iff_of_nodup (d.quotaSpecies_nodup [l])
    (List.nodup_singleton _)).2 fun sp => (hmem sp).trans ?_)
  simp only [List.mem_singleton, exists_eq_left]
  exact ⟨fun h => h.1.symm, fun h => ⟨h.symm, by rw [h, hq]; rfl⟩⟩

/-- A commit of one line, with a report in flight: its request leaves the console to its evaluation. -/
theorem commitQuotas_one {d : Device} {l : Machine.CatchLine} {q : QuotaEntry} (hq : d.quota? l.species = some q)
    (hrep : d.rep.st ≠ .none) : (d.commitQuotas [l]).console
      = ((d.recounted (d.quotaSpecies [l])).evaluateQuota l.species 0).2.console := by
  have honly : (d.evaluated [l]).2 = _ := d.evaluated_quotasOnly [l]
  have hone : (d.evaluated [l]).2 = ((d.recounted (d.quotaSpecies [l])).evaluateQuota l.species 0).2 := by
    unfold evaluated
    rw [quotaSpecies_one hq]
    rfl
  rw [← hone, commitQuotas_eq]
  split
  · exact trigger_quota_console (by rw [honly]; exact hrep)
  · rfl

/-- The reports of a commit of one line, with a report in flight. -/
theorem commitQuotas_one_entries {d : Device} {l : Machine.CatchLine} {q : QuotaEntry}
    (hq : d.quota? l.species = some q) (hrep : d.rep.st ≠ .none)
    (hroom : d.console.general.entries.length < 24) (hm : OwedRef.quota l.species ∉ d.console.general.owed) :
    let st := quotaState (d.consumedOf l.species) q.quota
    (d.commitQuotas [l]).console.general.entries = d.console.general.entries ++
      (if st = q.st then [] else [⟨.quotaState, 0, .report
        [.num 1 l.species.a, .num 1 l.species.b, .num 1 l.species.c, .num 3 q.quota,
         .num 3 (d.consumedOf l.species), .num 1 (quotaStateCode (some q.st)), .num 1 (quotaStateCode (some st)),
         .num 1 0], 0⟩]) := by
  have hconsole : (d.recounted (d.quotaSpecies [l])).console = d.console :=
    (consumed_foldl d.consumedOf _ (d.quotaSpecies_nodup [l]) d).2.1
  rw [commitQuotas_one hq hrep, ← hconsole]
  rw [← hconsole] at hroom hm
  exact evaluateQuota_entries (recounted_listed hq ⟨l, List.mem_singleton_self l, rfl⟩) hroom hm

/-! ### The evaluation as a whole -/

theorem commitQuotas_none {d : Device} {lines : List Machine.CatchLine}
    (h : ∀ l ∈ lines, d.quota? l.species = none) : d.commitQuotas lines = d := by
  have hnil : d.quotaSpecies lines = [] := by
    refine List.eq_nil_iff_forall_not_mem.2 fun sp hsp => ?_
    obtain ⟨⟨l, hl, rfl⟩, hq⟩ := (d.mem_quotaSpecies lines sp).1 hsp
    rw [h l hl] at hq
    cases hq
  unfold commitQuotas
  rw [hnil]
  rfl

theorem commitQuotas_unlisted {d : Device} {lines : List Machine.CatchLine} {sp : Species}
    (h : ∀ l ∈ lines, l.species ≠ sp) : (d.commitQuotas lines).quota? sp = d.quota? sp := by
  refine (d.commitQuotas_quota? lines sp).trans (evaluated_unlisted fun hsp => ?_)
  obtain ⟨⟨l, hl, heq⟩, -⟩ := (d.mem_quotaSpecies lines sp).1 hsp
  exact h l hl heq

theorem commitQuotas_unreached {d : Device} {lines : List Machine.CatchLine}
    (h : ∀ l ∈ lines, ∀ q, d.quota? l.species = some q → q.st = .reached ∨ d.consumedOf l.species < q.quota) :
    (d.commitQuotas lines).rep = d.rep ∧ (d.commitQuotas lines).log.cells = d.log.cells ∧
    (d.commitQuotas lines).xfer = d.xfer := by
  have hquiet : ¬ (d.evaluated lines).1 = true := by
    rw [evaluated_reached]
    rintro ⟨l, hl, q, hq, hst, hle⟩
    exact (h l hl q hq).elim hst (Nat.not_lt.2 hle)
  have honly : (d.evaluated lines).2 = _ := d.evaluated_quotasOnly lines
  rw [commitQuotas_unasked hquiet, honly]
  exact ⟨rfl, rfl, rfl⟩

theorem commitQuotas_reached {d : Device} {lines : List Machine.CatchLine} {l : Machine.CatchLine} {q : QuotaEntry}
    (hl : l ∈ lines) (hq : d.quota? l.species = some q) (hst : q.st ≠ .reached)
    (hle : q.quota ≤ d.consumedOf l.species) (hrep : d.rep.st ≠ .none) :
    (d.rep.pending = none → (d.commitQuotas lines).rep = { d.rep with pending := some .quota }) ∧
    ∀ x, d.rep.pending = some x → (d.commitQuotas lines).rep = { d.rep with
      counts := { d.rep.counts with merged := bump d.rep.counts.merged } } := by
  have honly : (d.evaluated lines).2 = _ := d.evaluated_quotasOnly lines
  have hrepKept : (d.evaluated lines).2.rep = d.rep := by rw [honly]
  rw [← hrepKept] at hrep ⊢
  rw [commitQuotas_asked (evaluated_reached.2 ⟨l, hl, q, hq, hst, hle⟩)]
  exact ⟨fun hp => by rw [trigger_waits _ hrep hp], fun x hp => by rw [trigger_quota_merges hrep hp]⟩

end Device
open Device

/-- Settles O50: the tests of HAUL COMMIT, the cells after its two passes over the lines and the species, and the quota
entries recounted, then evaluated. -/
theorem haulCommit : Obligations.HaulCommit := by
  refine ⟨?orders, ?quotas⟩
  case orders =>
    intro tag n s hlive c
    refine ⟨fun h => exec_of_frame _ rfl hlive (orderCommit_badParam tag h), fun i h =>
      ⟨fun hst => exec_of_frame _ rfl hlive (orderCommit_state tag h hst),
      fun hst hl => exec_of_frame _ rfl hlive (orderCommit_noLines tag h hst hl),
      fun hst hl hfull => exec_of_frame _ rfl hlive (orderCommit_tallyFull tag h hst hl hfull),
      fun hst hl hkeys hfull => exec_of_frame _ rfl hlive (orderCommit_queueFull tag h hst hl hkeys hfull),
      fun hst hl hkeys hroom hn => ?_⟩⟩
    have htaken := (orderCommit_taken tag h hst hl hkeys hroom).trans
      (congrArg (Prod.mk _) (commitHaul_eq hn c tag rfl hroom))
    exact ⟨c.committed tag i, (c.tallied (c.haul i)).2, exec_of_frame _ rfl hlive htaken, rfl,
      fun r sp hkey => tallied_other hn c hkey, fun sp hsp => tallied_cell hn c hsp, tallied_mark hn c⟩
  case quotas =>
    intro d lines e consumed
    have hc : consumed = d.consumedOf := funext fun sp => Nat.min_comm _ _
    clear_value consumed
    subst hc
    refine ⟨commitQuotas_none, fun sp q hq hno => (commitQuotas_unlisted hno).trans hq, fun sp q hq hl => ?_,
      commitQuotas_unreached, fun l hl q hq hst hle => ⟨fun hrep => (commitQuotas_reached hl hq hst hle hrep).1,
      fun x hrep => (commitQuotas_reached hl hq hst hle hrep).2 x⟩, fun l q hone hq hrep => ?_⟩
    · obtain ⟨y, hy, hquota, hconsumed, hst⟩ := evaluated_listed hq hl
      rw [← hconsumed] at hst
      exact ⟨y, (d.commitQuotas_quota? lines sp).trans hy, hquota, hconsumed,
        fun h => hst.trans (quotaState_reached h), fun h1 h2 => hst.trans (quotaState_alert h1 h2),
        fun h1 h2 => hst.trans (quotaState_normal h1 h2)⟩
    · subst hone
      exact commitQuotas_one_entries hq hrep

end Sys2Proof.Machine
end

section
/-! PROOF. The triggers of a catch report: the request that waits, and a report that is built (O51, its first part). -/

namespace Sys2Proof.Machine

/-- The record with a trigger entered: the request that waits, merged with the one that waited. -/
def ReportBuilder.requested (r : ReportBuilder) (kind : ReportReason) : ReportBuilder :=
  { r with
    pending := some (match r.pending with
      | none => kind
      | some k =>
        if kind = .ordered ∨ k = .ordered then .ordered
        else if kind = .scheduled ∨ k = .scheduled then .scheduled else .quota),
    counts := match r.pending with
      | none => r.counts
      | some _ => { r.counts with merged := bump r.counts.merged } }

namespace Device

/-! ### The request that waits (R175, R177, R178) -/

/-- The kind that comes first in the merge order ORDERED, SCHEDULED, QUOTA (R175). -/
theorem firstReason_eq (a b : ReportReason) : (if a.order < b.order then a else b) =
    if a = .ordered ∨ b = .ordered then .ordered
    else if a = .scheduled ∨ b = .scheduled then .scheduled else .quota := by
  cases a <;> cases b <;> rfl

theorem enterPending_eq (d : Device) (kind : ReportReason) :
    d.enterPending kind = { d with rep := d.rep.requested kind } := by
  unfold enterPending ReportBuilder.requested
  cases d.rep.pending with
  | none => rfl
  | some k =>
    dsimp only
    rw [← firstReason_eq]
    rfl

theorem catchAllowed_false {d : Device} (h : ¬((∃ j, j < 8 ∧ (d.slot j).st = .free) ∧
    ∀ x ∈ d.xfer.slots, x.origin = .catchReport → x.st = .free)) : d.catchAllowed = false :=
  Bool.eq_false_iff.2 fun ha => h ((catchAllowed_iff d).1 ha)

/-- The cells with something unreported, as the rule names them (R176). -/
theorem makesLine_eq : (fun c : TallyCell =>
    decide (0 < c.retained.unreported ∨ 0 < c.discarded.unreported ∨ 0 < c.hauls.unreported)) = makesLine := by
  funext c
  simp only [makesLine, Bool.decide_or, Bool.or_assoc]

section
variable {d : Device} {kind : ReportReason}

theorem trigger_enters (hst : d.rep.st ≠ .none) : d.trigger kind = { d with rep := d.rep.requested kind } :=
  (if_neg hst).trans (d.enterPending_eq kind)

theorem trigger_builds (hst : d.rep.st = .none) : d.trigger kind = d.tryBuild kind := if_pos hst

/-- A report of an event with a kind and no report changes the console alone; with room and no mark it is queued. -/
theorem reportCatchKind_told (d : Device) (e : RepEvent) (kind : ReportReason) :
    d.reportCatchKind e kind = { d with console := { d.console with
      general := d.console.general.told 24 .catchReportState 0 .report
        (d.catchStateData e none (some kind) 0 none none none) } } :=
  report_generalTold d _ _ rfl

theorem tryBuild_noLines (hl : d.linesToSend = []) : d.tryBuild .quota = d.reportCatchKind .noLines .quota :=
  if_pos ⟨rfl, hl⟩

variable (hl : kind ≠ .quota ∨ d.linesToSend ≠ [])
include hl

theorem tryBuild_waits (ha : d.catchAllowed = false) : d.tryBuild kind = reportCatchKind { d with
    rep := { d.rep.requested kind with
      counts := { (d.rep.requested kind).counts with slotWaits := bump d.rep.counts.slotWaits } } } .waiting kind := by
  have hcounts : (d.rep.requested kind).counts.slotWaits = d.rep.counts.slotWaits := by
    unfold ReportBuilder.requested
    cases d.rep.pending <;> rfl
  unfold tryBuild
  rw [if_neg fun h => hl.elim (fun hk => hk h.1) fun hn => hn h.2, if_neg (by rw [ha]; decide), enterPending_eq,
    ← hcounts]
  rfl

theorem tryBuild_build {i : Nat} (ha : d.catchAllowed = true) (hi : d.freeSlot? = some i) :
    d.tryBuild kind = d.build kind i := by
  unfold tryBuild
  rw [if_neg fun h => hl.elim (fun hk => hk h.1) fun hn => hn h.2, if_pos ha, hi]

end

/-- An ORDERED trigger always has a report to build. -/
theorem trigger_ordered {d : Device} {i : Nat} (hst : d.rep.st = .none) (ha : d.catchAllowed = true)
    (hi : d.freeSlot? = some i) : d.trigger .ordered = d.build .ordered i :=
  (trigger_builds hst).trans (tryBuild_build (.inl (by decide)) ha hi)

/-! ### The slot of a report's transfer (R82) -/

theorem startRoute_only (d : Device) (i : Nat) : d.startRoute i
    = { d with access := (d.startRoute i).access, xfer := (d.startRoute i).xfer } :=
  takeAnswer_only _ i _

/-- A transfer whose route has been asked for is AWAITING ROUTE, READY or HELD. -/
theorem startRoute_held {d : Device} {i : Nat} (hi : i < d.xfer.slots.length) :
    ((d.startRoute i).slot i).st ≠ .free := by
  let asked := d.onSlot i fun s => { s with st := .awaitingRoute, hop := none }
  have hlen : i < asked.xfer.slots.length := by rw [slots_onSlot]; exact hi
  have hhop : (asked.slot i).hop = none := by rw [slot_onSlot, if_pos ⟨rfl, hi⟩]
  have hanswer : ∀ ans, ((asked.takeAnswer i ans).slot i).st ≠ .free := by
    intro ans
    cases ans with
    | none =>
      rw [takeAnswer_none hlen, settled_slot (d := asked.withdrawData i) hlen]
      exact (by decide : SlotState.awaitingRoute ≠ .free)
    | some h =>
      rw [takeAnswer_other hlen (by rw [hhop]; exact (Option.some_ne_none h).symm),
        settled_slot (d := asked.withdrawData i) hlen]
      unfold readied
      split
      · exact (by decide : SlotState.held ≠ .free)
      · exact (by decide : SlotState.ready ≠ .free)
  exact hanswer _

/-! ### A report that is built (R176, R208) -/

/-- The grant of a reservation, when one is made. -/
def grantOf : Reserved → Option Nat
  | .granted id => some id
  | _ => none

section
variable (d : Device) (kind : ReportReason)

/-- The length of the body of a report that is built now. -/
def bodyLen : Nat := 8 + 19 * d.linesToSend.length

/-- The body of a report that is built now. -/
def bodyNow : List Nat := reportBody (d.rep.counter % 4095 + 1) kind d.utcNow d.linesToSend

/-- The pages with the body of a report that is built now. -/
def builtStore : Store :=
  match grantOf (d.store.reserve .report d.bodyLen).1 with
  | none => (d.store.reserve .report d.bodyLen).2
  | some id => (d.store.reserve .report d.bodyLen).2.writeSyms id 0 (d.bodyNow kind)

/-- The record of a report that is built now. -/
def builtRecord : ReportBuilder :=
  { d.rep with
    st := .inTransfer, num := some (d.rep.counter % 4095 + 1), kind := some kind, buildUtc := d.utcNow,
    lineCount := d.linesToSend.length, grant := grantOf (d.store.reserve .report d.bodyLen).1, early := none,
    counter := d.rep.counter % 4095 + 1 }

/-- The counts with one more report built. -/
def builtCounts (c : RepCounts) : RepCounts :=
  { c with built := bump c.built, nil := if d.linesToSend = [] then bump c.nil else c.nil }

/-- The part with a report built, before it goes into its slot. -/
def built : Device :=
  { d with
    store := d.builtStore kind, rep := d.builtRecord kind,
    log := { d.log with cells := mapIf makesLine (fun c => c.onAmounts .send) d.log.cells } }

/-- The slot of a report that is built now, before its route is asked for. -/
def builtSlot : Slot :=
  d.slotTaken d.nextNumber .awaitingRoute .catchReport 0 .catchReport d.config.port d.config.own
    (grantOf (d.store.reserve .report d.bodyLen).1) d.bodyLen

/-- The part with a report built and put into slot `i`, before its route is asked for. -/
def builtInto (i : Nat) : Device :=
  (d.built kind).takeSlot i .awaitingRoute .catchReport 0 .catchReport d.config.port d.config.own
    (grantOf (d.store.reserve .report d.bodyLen).1) d.bodyLen

theorem build_eq (i : Nat) : d.build kind i
    = (((d.builtInto kind i).startRoute i).onRepCounts d.builtCounts).reportCatchState .built none := by
  have hnil : d.builtCounts = fun c =>
      { c with built := bump c.built, nil := if d.linesToSend.isEmpty then bump c.nil else c.nil } := by
    unfold builtCounts
    simp only [List.isEmpty_iff]
  rw [hnil]
  unfold builtInto built builtRecord builtStore bodyNow build bodyLen reserve onLog
  dsimp only
  cases hr : d.store.reserve .report (8 + 19 * d.linesToSend.length) with
  | mk r y => cases r <;> rfl

/-- The slot taken and its route asked for, the items and the transfers alone have changed. -/
theorem builtInto_routed (i : Nat) :
    ∃ a x, (d.builtInto kind i).startRoute i = { d.built kind with access := a, xfer := x } := by
  obtain ⟨x, htaken⟩ : ∃ x, d.builtInto kind i = { d.built kind with xfer := x } := ⟨_, rfl⟩
  have hroute := (d.builtInto kind i).startRoute_only i
  generalize (d.builtInto kind i).startRoute i = e at hroute
  rw [htaken] at hroute
  exact ⟨_, _, hroute⟩

/-- What a build leaves of the part: all but the tables of slots and items is said here. -/
theorem build_part (i : Nat) : ∃ a x, d.build kind i = { d with
    access := a, xfer := x, store := d.builtStore kind,
    rep := { d.builtRecord kind with counts := d.builtCounts d.rep.counts }, log := (d.built kind).log,
    console := { d.console with
      general := d.console.general.told 24 .catchReportState 0 .report (d.catchStateData .built
        (some (d.rep.counter % 4095 + 1)) (some kind) d.linesToSend.length d.utcNow none none) } } := by
  obtain ⟨a, x, hroute⟩ := d.builtInto_routed kind i
  rw [build_eq, hroute, reportCatchState, report_generalTold _ _ _ rfl]
  exact ⟨a, x, rfl⟩

theorem build_slot (i j : Nat) : (d.build kind i).slot j = ((d.builtInto kind i).startRoute i).slot j := by
  rw [build_eq, reportCatchState, report_generalTold _ _ _ rfl]
  rfl

variable {i : Nat}

/-- The transfer that a build starts, and the slots beside it. -/
theorem build_transfer (hi : i < d.xfer.slots.length) : sameXfer ((d.build kind i).slot i) d.builtSlot ∧
    ((d.build kind i).slot i).st ≠ .free ∧ ∀ j, j ≠ i → (d.build kind i).slot j = d.slot j := by
  have htaken : d.builtInto kind i = _ := takeSlot_eq (d := d.built kind) hi _ _ _ _ _ _ _ _
  have hlen : i < (d.builtInto kind i).xfer.slots.length := by
    rw [htaken]
    exact (List.length_set ..).symm ▸ hi
  have hslot : (d.builtInto kind i).slot i = d.builtSlot := by
    rw [htaken]
    exact slot_set (d.built kind) i _ { d.xfer with nextNum := (d.nextNumber + 1) % 64 } hi
  obtain ⟨-, hsame⟩ := startRoute_slot (d.builtInto kind i) i i
  rw [hslot] at hsame
  simp only [build_slot]
  refine ⟨hsame, startRoute_held hlen, fun j hj => ?_⟩
  exact ((startRoute_slot (d.builtInto kind i) i j).1 hj).trans (takeSlot_other (d.built kind) i j hj)

end

section
variable (d : Device) (kind : ReportReason) (i : Nat)

theorem build_rep : (d.build kind i).rep = { d.builtRecord kind with counts := d.builtCounts d.rep.counts } := by
  obtain ⟨a, x, hpart⟩ := d.build_part kind i
  rw [hpart]

theorem build_log : (d.build kind i).log = { d.log with
    cells := d.log.cells.map fun c => if makesLine c then c.onAmounts .send else c } := by
  obtain ⟨a, x, hpart⟩ := d.build_part kind i
  rw [hpart]
  rfl

variable {d}

theorem build_entries (hm : OwedRef.report ∉ d.console.general.owed) (hroom : d.console.general.entries.length < 24) :
    (d.build kind i).console.general.entries = d.console.general.entries ++ [⟨.catchReportState, 0, .report
      (d.catchStateData .built (some (d.rep.counter % 4095 + 1)) (some kind) d.linesToSend.length d.utcNow none
        none), 0⟩] := by
  obtain ⟨a, x, hpart⟩ := d.build_part kind i
  rw [hpart]
  exact congrArg Lane.entries (told_room _ hroom hm)

variable {id : Nat} {y : Store} (hr : d.store.reserve .report d.bodyLen = (.granted id, y))
include hr

theorem grantOf_reserved : grantOf (d.store.reserve .report d.bodyLen).1 = some id := by
  rw [hr]
  rfl

theorem build_store : (d.build kind i).store = y.writeSyms id 0 (d.bodyNow kind) := by
  obtain ⟨a, x, hpart⟩ := d.build_part kind i
  rw [hpart]
  dsimp only [builtStore]
  rw [hr]
  rfl

end

theorem reportBody_eq (num : Nat) (kind : ReportReason) (utc : Option Nat) (lines : List TallyCell) {mo da h mi : Nat}
    (ht : buildTimeSyms utc = [mo, da, h, mi]) : reportBody num kind utc lines
      = toSyms 2 num ++ [kind.symbol, mo, da, h, mi, lines.length] ++ lines.flatMap bodyLine := by
  unfold reportBody
  rw [ht, List.append_assoc, List.append_assoc]
  rfl

/-- The month, day, hour and minute of a build's body (R208). -/
theorem buildTimeSyms_eq (utc : Option Nat) : ∃ mo da h mi, buildTimeSyms utc = [mo, da, h, mi] ∧
    (utc = none → [mo, da, h, mi] = [63, 63, 63, 63]) ∧
    ∀ u, utc = some u → (mo, da) = (dateOf ((u + epochShift) / 86400)).2 ∧
      h = (u + epochShift) / 3600 % 24 ∧ mi = (u + epochShift) / 60 % 60 := by
  cases utc with
  | none => exact ⟨63, 63, 63, 63, rfl, fun _ => rfl, nofun⟩
  | some u =>
    have hu : buildTimeSyms (some u) = [(dateOf ((u + epochShift) / 86400)).2.1,
        (dateOf ((u + epochShift) / 86400)).2.2, (u + epochShift) / 3600 % 24, (u + epochShift) / 60 % 60] := by
      unfold buildTimeSyms
      dsimp only
    refine ⟨_, _, _, _, hu, nofun, fun v hv => ?_⟩
    obtain rfl : u = v := Option.some.inj hv
    exact ⟨Prod.mk.eta, rfl, rfl⟩

/-! ### A slot that returns to FREE (R178) -/

theorem slotFreed_triggers {d : Device} {k : ReportReason} (hst : d.rep.st = .none) (ha : d.catchAllowed = true)
    (hp : d.rep.pending = some k) :
    d.slotFreed = trigger { d with rep := { d.rep with pending := none } } k := by
  rw [slotFreed_builds hst ha hp, trigger_builds (d := { d with rep := { d.rep with pending := none } }) hst]
  rfl

end Device
end Sys2Proof.Machine
end

section
/-! PROOF. What ends a report, a transfer's outcome, and receipts (O51, its second part). -/

namespace Sys2Proof.Machine

/-- An amount settled at the end of a report (R179). -/
theorem Amount.settle_eq (a : Amount) (e : Ending) : a.settle (e == .accepted)
    = { a with reported := if e = .accepted then a.reported + a.inFlight else a.reported, inFlight := 0 } := by
  cases e <;> rfl

namespace Device

/-! ### The ends of a report (R179 to R181) -/

theorem buildPending_triggers {d : Device} {k : ReportReason} (hst : d.rep.st = .none) (hp : d.rep.pending = some k) :
    d.buildPending = trigger { d with rep := { d.rep with pending := none } } k := by
  rw [trigger_builds (d := { d with rep := { d.rep with pending := none } }) hst]
  unfold buildPending
  rw [hp]
  rfl

theorem buildPending_quiet {d : Device} (hp : d.rep.pending = none) : d.buildPending = d := by
  unfold buildPending
  rw [hp]

section
variable {d : Device} (hst : d.rep.st = .inTransfer)
include hst

theorem catchOutcome_early {e : Ending} (he : d.rep.early = some e) (o : Outcome) :
    d.catchOutcome o = d.endReport e none := by
  unfold catchOutcome
  rw [if_pos hst, he]

variable (he : d.rep.early = none)
include he

theorem catchOutcome_expired : d.catchOutcome .expired = d.endReport .lost (some .expired) := by
  unfold catchOutcome
  rw [if_pos hst, he]

theorem catchOutcome_loses : d.catchOutcome .flushed = d.endReport .lost (some .flushed) := by
  unfold catchOutcome
  rw [if_pos hst, he]

/-- A report that was delivered awaits its receipt, and its deadline runs outside the hold. -/
theorem catchOutcome_delivered : d.catchOutcome .delivered = { d with
    rep := { d.rep with
      st := .awaitingReceipt,
      deadline := some (if d.holdInForce then .paused (d.config.receipt * 60000)
        else .running (d.now + d.config.receipt * 60000)) },
    console := { d.console with
      general := d.console.general.told 24 .catchReportState 0 .report (d.catchStateData .delivered d.rep.num d.rep.kind
        d.rep.lineCount d.rep.buildUtc none (some d.config.receipt)) } } := by
  unfold catchOutcome
  rw [if_pos hst, he]
  exact report_generalTold _ _ _ rfl

end

/-- The event of a report's end, as CATCH REPORT STATE numbers it (R185). -/
theorem endingEvent_code (e : Ending) : (endingEvent e).code = match e with
    | .accepted => 2
    | .rejected => 3
    | .lost => 4 := by
  cases e <;> rfl

theorem hourReached_triggers {d : Device} {t : Time} (h : d.rep.hourDue = some t) : d.hourReached = trigger { d with
    now := max d.now t, rep := { d.rep with hourDue := some (t + 86400000) } } .scheduled := by
  unfold hourReached
  rw [h]
  rfl

theorem deadlineReached_loses {d : Device} {t : Time} (hst : d.rep.st = .awaitingReceipt)
    (hd : d.rep.deadline = some (.running t)) :
    d.deadlineReached = endReport { d with now := max d.now t } .lost (some .deadline) := by
  unfold deadlineReached
  rw [hst, hd]
  rfl

end Device

theorem exec_reportNow (tag : Nat) {s : State} (h : s.dev.live = true) : exec (.reportNow tag) s
    = .next { s with dev := ((s.dev.completeExchange.trigger .ordered).echo tag .taken).settle } :=
  exec_of_frame (fun d => (.taken, d.trigger .ordered)) rfl h rfl

theorem exec_reportHour {s : State} {x : Device} (h : s.dev.resetLow = false) (hx : s.dev.hourReached = x) :
    exec .reportHour s = .next { s with dev := x.settle } :=
  exec_of_event Device.hourReached rfl h hx

theorem exec_receiptDeadline {s : State} {x : Device} (h : s.dev.resetLow = false) (hx : s.dev.deadlineReached = x) :
    exec .receiptDeadline s = .next { s with dev := x.settle } :=
  exec_of_event Device.deadlineReached rfl h hx

namespace Device

/-! ### Reports with no record to mark (R185) -/

/-- `e` is `x` with the report queued, or counted as lost with a full lane, beside other counts. -/
def Noticed (e x : Device) (kind : ReportKind) (data : List Datum) : Prop :=
  e = { x with console := e.console, rep := { x.rep with counts := e.rep.counts } } ∧
  (x.console.general.entries.length < 24 →
    e.console.general.entries = x.console.general.entries ++ [⟨kind, 0, .report data, 0⟩] ∧
    e.rep.counts.lostReports = x.rep.counts.lostReports) ∧
  (24 ≤ x.console.general.entries.length →
    e.console = x.console ∧ e.rep.counts.lostReports = bump x.rep.counts.lostReports)

section
variable {e x : Device} {kind : ReportKind} {data : List Datum} (h : Noticed e x kind data)
include h

theorem Noticed.rest : e = { x with console := e.console, rep := e.rep } := by
  obtain ⟨console, counts, rfl⟩ : ∃ console counts, e = { x with
      console := console, rep := { x.rep with counts := counts } } := ⟨_, _, h.1⟩
  rfl

theorem Noticed.record : e.rep = { x.rep with counts := e.rep.counts } := by
  obtain ⟨console, counts, rfl⟩ : ∃ console counts, e = { x with
      console := console, rep := { x.rep with counts := counts } } := ⟨_, _, h.1⟩
  rfl

theorem Noticed.log : e.log = x.log := by rw [h.rest]

theorem Noticed.store : e.store = x.store := by rw [h.rest]

theorem Noticed.entries (hroom : x.console.general.entries.length < 24) :
    e.console.general.entries = x.console.general.entries ++ [⟨kind, 0, .report data, 0⟩] := (h.2.1 hroom).1

end

section
variable (x : Device) (f : RepCounts → RepCounts) (hf : (f x.rep.counts).lostReports = x.rep.counts.lostReports)
  {kind : ReportKind} (hk : kind.lane = .general) (data : List Datum)
include hf hk

/-- An event counted and reported. -/
theorem counted_noticed : Noticed ((x.onRepCounts f).reportNotice kind data) x kind data := by
  obtain ⟨hrest, hroom, hfull⟩ := reportNotice_queue (x.onRepCounts f) kind data hk
  refine ⟨hrest, fun h => ?_, fun h => ?_⟩
  · obtain ⟨hentries, hcounts⟩ := hroom h
    exact ⟨hentries, by rw [hcounts]; exact hf⟩
  · obtain ⟨hconsole, hcounts⟩ := hfull h
    exact ⟨hconsole, by rw [hcounts]; exact congrArg bump hf⟩

omit hf in
/-- The counts of an event reported, the lost reports aside. -/
theorem counted_counts : ∃ n, ((x.onRepCounts f).reportNotice kind data).rep.counts
    = { f x.rep.counts with lostReports := n } := by
  obtain ⟨-, hroom, hfull⟩ := reportNotice_queue (x.onRepCounts f) kind data hk
  by_cases h : x.console.general.entries.length < 24
  · exact ⟨_, (hroom h).2⟩
  · exact ⟨_, (hfull (Nat.not_lt.1 h)).2⟩

end

theorem rejectNotice_noticed (x : Device) (cls orig reason : Nat) :
    Noticed (x.rejectNotice cls orig reason) x .noticeRejected [.num 1 cls, .num 3 orig, .num 1 reason] ∧
    (x.rejectNotice cls orig reason).rep.counts.rejectedNotices = bump x.rep.counts.rejectedNotices := by
  refine ⟨counted_noticed x _ rfl rfl _, ?_⟩
  obtain ⟨n, hn⟩ := counted_counts x (fun c => { c with rejectedNotices := bump c.rejectedNotices })
    (kind := .noticeRejected) rfl [.num 1 cls, .num 3 orig, .num 1 reason]
  exact congrArg RepCounts.rejectedNotices hn

theorem lateReceipt_noticed (x : Device) (num result : Nat) :
    Noticed (x.lateReceipt num result) x .lateReceipt
      [.num 2 num, .num 1 result, .num 1 x.rep.st.code, optNum 2 x.rep.num] ∧
    (x.lateReceipt num result).rep.counts.lateReceipts = bump x.rep.counts.lateReceipts := by
  refine ⟨counted_noticed x _ rfl rfl _, ?_⟩
  obtain ⟨n, hn⟩ := counted_counts x (fun c => { c with lateReceipts := bump c.lateReceipts })
    (kind := .lateReceipt) rfl [.num 2 num, .num 1 result, .num 1 x.rep.st.code, optNum 2 x.rep.num]
  exact congrArg RepCounts.lateReceipts hn

/-! ### Receipts (R182) -/

/-- The ending that a receipt's result gives. -/
def endingOf (result : Nat) : Ending := if result = 0 then .accepted else .rejected

section
variable {x : Device} {num : Nat} (result : Nat)

theorem judgeReceipt_ends (hn : x.rep.num = some num) (hst : x.rep.st = .awaitingReceipt) :
    x.judgeReceipt num result = x.endReport (endingOf result) none := by
  unfold judgeReceipt
  rw [if_pos hn, hst]
  rfl

theorem judgeReceipt_early (hn : x.rep.num = some num) (hst : x.rep.st = .inTransfer) (he : x.rep.early = none) :
    x.judgeReceipt num result = { x with rep := { x.rep with early := some (endingOf result) } } := by
  unfold judgeReceipt
  rw [if_pos hn, hst, he]
  rfl

theorem judgeReceipt_late (h : x.rep.num ≠ some num ∨ x.rep.st = .none ∨ x.rep.st = .inTransfer ∧ x.rep.early ≠ none) :
    x.judgeReceipt num result = x.lateReceipt num result := by
  unfold judgeReceipt
  dsimp only
  split
  · next hn =>
    split
    · next hst => exact (h.elim (fun hne => hne hn) (by rw [hst]; simp)).elim
    · next hst he => exact (h.elim (fun hne => hne hn) (by rw [hst, he]; simp)).elim
    · rfl
  · rfl

end

section
variable {d : Device} {m : Message}

theorem receipt_notPort (h : m.orig ≠ d.config.port) :
    d.receipt m = (d.releaseGrant m.grant).rejectNotice 0 m.orig 0 := if_pos h

variable (hp : m.orig = d.config.port)
include hp

theorem receipt_malformed (h : ¬(m.len = 3 ∧ symsAt (d.store.readSyms m.grant 0 m.len) 0 2 ≠ 0 ∧
    symAt (d.store.readSyms m.grant 0 m.len) 2 ≤ 1)) :
    d.receipt m = (d.releaseGrant m.grant).rejectNotice 0 m.orig 1 := by
  refine (if_neg (not_not.2 hp)).trans (if_pos ?_)
  by_contra hc
  simp only [not_or, not_not, Nat.not_lt] at hc
  exact h hc

theorem receipt_judged (h : m.len = 3 ∧ symsAt (d.store.readSyms m.grant 0 m.len) 0 2 ≠ 0 ∧
    symAt (d.store.readSyms m.grant 0 m.len) 2 ≤ 1) :
    d.receipt m = (d.releaseGrant m.grant).judgeReceipt (symsAt (d.store.readSyms m.grant 0 m.len) 0 2)
      (symAt (d.store.readSyms m.grant 0 m.len) 2) := by
  obtain ⟨hlen, hnum, hresult⟩ := h
  refine (if_neg (not_not.2 hp)).trans (if_neg ?_)
  exact fun hbad => hbad.elim (fun hl => hl hlen) fun hbad => hbad.elim hnum (Nat.not_lt.2 hresult)

end
end Device
end Sys2Proof.Machine
end

section
/-! PROOF. The text of a quota notice (O51, its third part). -/

namespace Sys2Proof.Machine

/-! ### The entries of a notice (R183) -/

theorem symAt_drop (t : List Nat) (o i : Nat) : symAt (t.drop o) i = symAt t (o + i) := by
  simp [symAt, List.getD_eq_getElem?_getD]

theorem symsAt_drop (t : List Nat) (o i w : Nat) : symsAt (t.drop o) i w = symsAt t (o + i) w := by
  unfold symsAt
  rw [List.drop_drop]

/-- The species of entry `k` in the symbols of a notice from place `o` on. -/
def noticeSpecies (t : List Nat) (o k : Nat) : Species :=
  ⟨symAt t (o + 7 * k), symAt t (o + 7 * k + 1), symAt t (o + 7 * k + 2)⟩

/-- The quota of entry `k`. -/
def noticeQuota (t : List Nat) (o k : Nat) : Nat := symsAt t (o + 7 * k + 3) 4

/-- Entry `k` as it is read. -/
def noticeEntry (t : List Nat) (o k : Nat) : NoticeEntry :=
  ⟨noticeSpecies t o k, if noticeQuota t o k = 10000000 then none else some (noticeQuota t o k)⟩

/-- Entry `k` is within its ranges. -/
def entryInRange (t : List Nat) (o k : Nat) : Prop :=
  (noticeSpecies t o k).a ≤ 25 ∧ (noticeSpecies t o k).b ≤ 25 ∧ (noticeSpecies t o k).c ≤ 25 ∧
  noticeQuota t o k ≤ 10000000

/-- The first `n` entries are within their ranges, and no two are of one species. -/
def entriesGood (t : List Nat) (o n : Nat) : Prop :=
  (∀ k, k < n → entryInRange t o k) ∧ ∀ j k, j < k → k < n → noticeSpecies t o j ≠ noticeSpecies t o k

theorem noticeSpecies_succ (t : List Nat) (o k : Nat) : noticeSpecies t o (k + 1) = noticeSpecies t (o + 7) k := by
  simp only [noticeSpecies, Nat.mul_succ, ← Nat.add_assoc, Nat.add_right_comm o _ 7]

theorem noticeQuota_succ (t : List Nat) (o k : Nat) : noticeQuota t o (k + 1) = noticeQuota t (o + 7) k := by
  simp only [noticeQuota, Nat.mul_succ, ← Nat.add_assoc, Nat.add_right_comm o _ 7]

theorem noticeEntry_succ (t : List Nat) (o k : Nat) : noticeEntry t o (k + 1) = noticeEntry t (o + 7) k := by
  unfold noticeEntry
  rw [noticeSpecies_succ, noticeQuota_succ]

theorem entryInRange_succ (t : List Nat) (o k : Nat) : entryInRange t o (k + 1) ↔ entryInRange t (o + 7) k := by
  unfold entryInRange
  rw [noticeSpecies_succ, noticeQuota_succ]

/-- The first entry and the entries after it. -/
theorem entriesGood_succ (t : List Nat) (o n : Nat) : entriesGood t o (n + 1) ↔
    entryInRange t o 0 ∧ (∀ k, k < n → noticeSpecies t o 0 ≠ noticeSpecies t (o + 7) k) ∧ entriesGood t (o + 7) n := by
  constructor
  · rintro ⟨hrange, hne⟩
    refine ⟨hrange 0 n.succ_pos, fun k hk => ?_, fun k hk => ?_, fun j k hj hk => ?_⟩
    · exact noticeSpecies_succ t o k ▸ hne 0 (k + 1) k.succ_pos (Nat.succ_lt_succ hk)
    · exact (entryInRange_succ t o k).1 (hrange (k + 1) (Nat.succ_lt_succ hk))
    · exact noticeSpecies_succ t o j ▸ noticeSpecies_succ t o k ▸
        hne (j + 1) (k + 1) (Nat.succ_lt_succ hj) (Nat.succ_lt_succ hk)
  · rintro ⟨hfirst, hother, hrange, hne⟩
    refine ⟨fun k hk => ?_, fun j k hj hk => ?_⟩
    · cases k with
      | zero => exact hfirst
      | succ k => exact (entryInRange_succ t o k).2 (hrange k (Nat.lt_of_succ_lt_succ hk))
    · cases k with
      | zero => exact absurd hj (Nat.not_lt_zero j)
      | succ k =>
        rw [noticeSpecies_succ]
        cases j with
        | zero => exact hother k (Nat.lt_of_succ_lt_succ hk)
        | succ j =>
          rw [noticeSpecies_succ]
          exact hne j k (Nat.lt_of_succ_lt_succ hj) (Nat.lt_of_succ_lt_succ hk)

theorem validSpecies_iff (sp : Species) : validSpecies sp = true ↔ sp.a ≤ 25 ∧ sp.b ≤ 25 ∧ sp.c ≤ 25 := by
  simp only [validSpecies, Bool.and_eq_true, decide_eq_true_iff, Nat.lt_succ_iff, and_assoc]

/-- What one entry adds to the entries after it. -/
theorem noticeEntries_succ (t : List Nat) (o n : Nat) (es : List NoticeEntry) :
    noticeEntries (n + 1) (t.drop o) = some es ↔ ∃ r, noticeEntries n (t.drop (o + 7)) = some r ∧
      entryInRange t o 0 ∧ (∀ e ∈ r, e.species ≠ noticeSpecies t o 0) ∧ noticeEntry t o 0 :: r = es := by
  have hsp : (⟨symAt (t.drop o) 0, symAt (t.drop o) 1, symAt (t.drop o) 2⟩ : Species) = noticeSpecies t o 0 := by
    simp only [symAt_drop, noticeSpecies, Nat.mul_zero, Nat.add_zero]
  have hq : symsAt (t.drop o) 3 4 = noticeQuota t o 0 := symsAt_drop t o 3 4
  have hgood : ∀ r : List NoticeEntry, ¬(validSpecies (noticeSpecies t o 0) = false ∨ 10000000 < noticeQuota t o 0 ∨
      r.any (fun e => e.species == noticeSpecies t o 0) = true)
      ↔ entryInRange t o 0 ∧ ∀ e ∈ r, e.species ≠ noticeSpecies t o 0 := by
    intro r
    simp only [not_or, Bool.not_eq_false, validSpecies_iff, Nat.not_lt, List.any_eq_true, beq_iff_eq, not_exists,
      not_and, entryInRange, and_assoc, ne_eq]
  rw [noticeEntries, hsp, hq, List.drop_drop]
  cases noticeEntries n (t.drop (o + 7)) with
  | none => simp
  | some r =>
    simp only [Option.some.injEq, exists_eq_left']
    rw [← and_assoc, ← hgood]
    split
    · next hbad => exact iff_of_false nofun fun h => h.1 hbad
    · next hok => exact (Option.some_inj).trans (and_iff_right hok).symm

/-- The entries are read as they stand when they are good, and else not at all. -/
theorem noticeEntries_iff (t : List Nat) (o n : Nat) (es : List NoticeEntry) :
    noticeEntries n (t.drop o) = some es ↔ entriesGood t o n ∧ (List.range n).map (noticeEntry t o) = es := by
  induction n generalizing o es with
  | zero => exact (Option.some_inj).trans (and_iff_right ⟨nofun, nofun⟩).symm
  | succ n ih =>
    have htail : (List.range (n + 1)).map (noticeEntry t o)
        = noticeEntry t o 0 :: (List.range n).map (noticeEntry t (o + 7)) := by
      rw [List.range_succ_eq_map, List.map_cons, List.map_map]
      exact congrArg _ (List.map_congr_left fun k _ => noticeEntry_succ t o k)
    simp only [noticeEntries_succ, ih, entriesGood_succ, htail, and_assoc, exists_and_left, exists_eq_left',
      List.forall_mem_map, List.mem_range, noticeEntry]
    constructor
    · rintro ⟨hgood, hfirst, hne, heq⟩
      exact ⟨hfirst, fun k hk => (hne k hk).symm, hgood, heq⟩
    · rintro ⟨hfirst, hne, hgood, heq⟩
      exact ⟨hgood, hfirst, fun k hk => (hne k hk).symm, heq⟩

/-! ### The notice as a whole (R183) -/

/-- A notice's length fits its count of entries, and its entries are good. -/
def noticeGood (t : List Nat) : Prop :=
  3 ≤ t.length ∧ symAt t 2 ≤ 16 ∧ t.length = 3 + 7 * symAt t 2 ∧ entriesGood t 3 (symAt t 2)

theorem readNotice_iff (t : List Nat) (x : Nat × List NoticeEntry) : readNotice t = some x ↔
    noticeGood t ∧ (symsAt t 0 2, (List.range (symAt t 2)).map (noticeEntry t 3)) = x := by
  unfold readNotice noticeGood
  dsimp only
  split
  · next hbad => exact iff_of_false nofun fun h => by omega
  · next hok =>
    simp only [not_or, not_not, Nat.not_lt] at hok
    obtain ⟨h1, h2, h3⟩ := hok
    simp only [Option.map_eq_some_iff, noticeEntries_iff, and_assoc, exists_and_left, exists_eq_left',
      eq_true h1, eq_true h2, eq_true h3, true_and]

theorem readNotice_good {t : List Nat} (h : noticeGood t) :
    readNotice t = some (symsAt t 0 2, (List.range (symAt t 2)).map (noticeEntry t 3)) :=
  (readNotice_iff t _).2 ⟨h, rfl⟩

theorem readNotice_bad {t : List Nat} (h : ¬ noticeGood t) : readNotice t = none :=
  Option.eq_none_iff_forall_ne_some.2 fun x hx => h ((readNotice_iff t x).1 hx).1

end Sys2Proof.Machine
end

section
/-! PROOF. A quota notice: its tests, its entries one by one, and its report (O51, its fourth part). -/

namespace Sys2Proof.Machine
namespace Device

/-! ### The tests of a notice (R183) -/

theorem staleNotice_noticed (x : Device) (num last : Nat) :
    let e := (x.onRepCounts fun c => { c with stale := bump c.stale }).reportNotice .noticeStale
      [.num 2 num, .num 2 last]
    Noticed e x .noticeStale [.num 2 num, .num 2 last] ∧ e.rep.counts.stale = bump x.rep.counts.stale := by
  refine ⟨counted_noticed x _ rfl rfl _, ?_⟩
  obtain ⟨n, hn⟩ := counted_counts x (fun c => { c with stale := bump c.stale })
    (kind := .noticeStale) rfl [.num 2 num, .num 2 last]
  exact congrArg RepCounts.stale hn

section
variable {d : Device} {m : Message}

theorem quotaNotice_notPort (h : m.orig ≠ d.config.port) :
    d.quotaNotice m = (d.releaseGrant m.grant).rejectNotice 1 m.orig 0 := if_pos h

variable (hp : m.orig = d.config.port)
include hp

theorem quotaNotice_malformed (h : readNotice (d.store.readSyms m.grant 0 m.len) = none) :
    d.quotaNotice m = (d.releaseGrant m.grant).rejectNotice 1 m.orig 1 := by
  refine (if_neg (not_not.2 hp)).trans ?_
  rw [h]

variable {num : Nat} {es : List NoticeEntry} (h : readNotice (d.store.readSyms m.grant 0 m.len) = some (num, es))
include h

theorem quotaNotice_stale {last : Nat} (hl : d.rep.lastNotice = some last) (hold : newer num last = false) :
    d.quotaNotice m = ((d.releaseGrant m.grant).onRepCounts fun c => { c with stale := bump c.stale }).reportNotice
      .noticeStale [.num 2 num, .num 2 last] := by
  have hlast : (d.releaseGrant m.grant).rep.lastNotice = some last := hl
  refine (if_neg (not_not.2 hp)).trans ?_
  rw [h]
  dsimp only
  rw [hlast]
  exact if_neg (by rw [hold]; decide)

theorem quotaNotice_applies (hnew : ∀ last, d.rep.lastNotice = some last → newer num last = true) :
    d.quotaNotice m = (d.releaseGrant m.grant).applyNotice num es := by
  refine (if_neg (not_not.2 hp)).trans ?_
  rw [h]
  dsimp only
  cases hl : (d.releaseGrant m.grant).rep.lastNotice with
  | none => rfl
  | some last => exact if_pos (hnew last hl)

end

/-! ### A notice applied (R184) -/

section
variable (x : Device) (t : NoticeTally) (num : Nat)

/-- What a notice's report carries. -/
def noticeData : List Datum := [.num 2 num, count16 t.updated, count16 t.made, count16 t.removed, count16 t.ignored]

/-- The part with a notice's number kept and its report made, once its entries are applied. -/
def noticeTold : Device :=
  if t.ignored = 0 then ((x.onRep fun r => { r with lastNotice := some num }).onRepCounts fun c =>
    { c with applied := bump c.applied }).reportNotice .noticeApplied (noticeData t num)
  else ((x.onRep fun r => { r with lastNotice := some num }).onRepCounts fun c =>
    { c with partly := bump c.partly }).reportNotice .noticePartial (noticeData t num)

theorem noticeTold_noticed : Noticed (noticeTold x t num) (x.onRep fun r => { r with lastNotice := some num })
    (if t.ignored = 0 then .noticeApplied else .noticePartial) (noticeData t num) := by
  unfold noticeTold
  split
  · exact counted_noticed _ _ rfl rfl _
  · exact counted_noticed _ _ rfl rfl _

theorem noticeTold_applied (h : t.ignored = 0) :
    (noticeTold x t num).rep.counts.applied = bump x.rep.counts.applied := by
  obtain ⟨n, hn⟩ := counted_counts (x.onRep fun r => { r with lastNotice := some num })
    (fun c => { c with applied := bump c.applied }) (kind := .noticeApplied) rfl (noticeData t num)
  unfold noticeTold
  rw [if_pos h, hn]
  rfl

theorem noticeTold_partly (h : t.ignored ≠ 0) :
    (noticeTold x t num).rep.counts.partly = bump x.rep.counts.partly := by
  obtain ⟨n, hn⟩ := counted_counts (x.onRep fun r => { r with lastNotice := some num })
    (fun c => { c with partly := bump c.partly }) (kind := .noticePartial) rfl (noticeData t num)
  unfold noticeTold
  rw [if_neg h, hn]
  rfl

end

theorem applyNotice_eq (d : Device) (num : Nat) (es : List NoticeEntry) :
    let done := es.foldl applyEntry (d, ⟨0, 0, 0, 0, false⟩)
    d.applyNotice num es = if done.2.reached = true then (noticeTold done.1 done.2 num).trigger .quota
      else noticeTold done.1 done.2 num := rfl

/-! ### One entry of a notice (R164, R165, R184) -/

/-- The code of a quota entry's state, as R166 numbers it. -/
theorem quotaStateCode_some (st : QuotaState) : quotaStateCode (some st) = match st with
    | .normal => 1
    | .alert => 2
    | .reached => 3 := by
  cases st <;> rfl

/-- Of the tally, the hauls, the report, the pages and the quota entries, `x` changes at most one species' entry. -/
def QuotaChanged (sp : Species) (x d : Device) : Prop :=
  x.log.cells = d.log.cells ∧ x.log.hauls = d.log.hauls ∧ x.rep = d.rep ∧ x.store = d.store ∧
  ∀ s, s ≠ sp → x.quota? s = d.quota? s

theorem QuotaChanged.refl (sp : Species) (d : Device) : QuotaChanged sp d d := ⟨rfl, rfl, rfl, rfl, fun _ _ => rfl⟩

theorem QuotaChanged.of_quotasOnly {sp : Species} {d x : Device} (h : quotasOnly d x)
    (hother : ∀ s, s ≠ sp → x.quota? s = d.quota? s) : QuotaChanged sp x d := by
  unfold quotasOnly at h
  exact ⟨by rw [h], by rw [h], by rw [h], by rw [h], hother⟩

section
variable {d : Device} {kind : ReportKind} (hk : kind.lane = .general) (data : List Datum)
include hk

theorem reportOrLose_room (hroom : d.console.general.entries.length < 24) :
    d.reportOrLose kind 0 data = (true, { d with console := { d.console with
      general := { d.console.general with
        entries := d.console.general.entries ++ [⟨kind, 0, .report data, 0⟩] } } }) := by
  unfold reportOrLose
  rw [hk, if_pos ((laneRoom_iff d .general).2 hroom), queueEntry_general _ hroom]

theorem reportOrLose_full (hfull : 24 ≤ d.console.general.entries.length) :
    d.reportOrLose kind 0 data = (false, d) := by
  unfold reportOrLose
  rw [hk, if_neg fun h => Nat.not_lt.2 hfull ((laneRoom_iff d .general).1 h)]

end

section
variable (d : Device) (q : QuotaEntry)

/-- The part without a quota entry and its mark. -/
def quotaDropped : Device :=
  (d.dropMark .general (.quota q.species)).onLog fun l =>
    { l with quotas := l.quotas.filter fun x => x.species != q.species }

theorem removeQuota_part : ∃ counts general, d.removeQuota q = { d with
      log := { d.log with quotas := d.log.quotas.filter fun x => x.species != q.species, counts := counts },
      console := { d.console with general := general } } ∧
    (d.console.general.entries.length < 24 → general.entries = d.console.general.entries ++
      [⟨.quotaState, 0, .report (quotaData q.species q.quota q.consumed (quotaStateCode (some q.st)) 4 1), 0⟩]) := by
  let x := d.quotaDropped q
  have hrow : d.removeQuota q = match x.reportOrLose .quotaState 0
      (quotaData q.species q.quota q.consumed (quotaStateCode (some q.st)) 4 1) with
    | (true, d) => d
    | (false, d) => d.onLogCounts fun c => { c with lostReports := bump c.lostReports } := rfl
  by_cases hroom : d.console.general.entries.length < 24
  · rw [hrow, reportOrLose_room (d := x) rfl _ hroom]
    exact ⟨_, _, rfl, fun _ => rfl⟩
  · rw [hrow, reportOrLose_full (d := x) rfl _ (Nat.not_lt.1 hroom)]
    exact ⟨_, _, rfl, fun h => absurd h hroom⟩

theorem removeQuota_quota? (s : Species) :
    (d.removeQuota q).quota? s = if s = q.species then none else d.quota? s := by
  obtain ⟨counts, general, hrow, -⟩ := d.removeQuota_part q
  rw [hrow]
  split
  · next hs =>
    subst hs
    refine List.find?_eq_none.2 fun y hy heq => ?_
    simpa [beq_iff_eq.1 heq] using (List.mem_filter.1 hy).2
  · next hs =>
    refine find_filter_not (fun y : QuotaEntry => y.species == q.species) _ _ fun y hy => ?_
    rw [beq_iff_eq.1 hy]
    exact beq_eq_false_iff_ne.2 (Ne.symm hs)

theorem removeQuota_changed : QuotaChanged q.species (d.removeQuota q) d := by
  have hother := d.removeQuota_quota? q
  obtain ⟨counts, general, hrow, -⟩ := d.removeQuota_part q
  generalize d.removeQuota q = x at hrow hother
  subst hrow
  exact ⟨rfl, rfl, rfl, rfl, fun s hs => (hother s).trans (if_neg hs)⟩

theorem removeQuota_entries (hroom : d.console.general.entries.length < 24) :
    (d.removeQuota q).console.general.entries = d.console.general.entries ++
      [⟨.quotaState, 0, .report (quotaData q.species q.quota q.consumed (quotaStateCode (some q.st)) 4 1), 0⟩] := by
  obtain ⟨counts, general, hrow, hentries⟩ := d.removeQuota_part q
  rw [hrow]
  exact hentries hroom

end

/-- A report of a quota entry, with room in the lane and no mark. -/
theorem reportQuota_entries {d : Device} {sp : Species} {q : QuotaEntry} (hq : d.quota? sp = some q)
    (prev : Option QuotaState) (cause : Nat) (hroom : d.console.general.entries.length < 24)
    (hm : OwedRef.quota sp ∉ d.console.general.owed) :
    (d.reportQuota sp prev cause).console.general.entries = d.console.general.entries ++ [⟨.quotaState, 0, .report
      (quotaData sp q.quota q.consumed (quotaStateCode prev) (quotaStateCode (some q.st)) cause), 0⟩] := by
  rw [reportQuota_told hq]
  exact congrArg Lane.entries (told_room _ hroom hm)

section
variable {d : Device} {sp : Species} {q : QuotaEntry} (cause : Nat) (hq : d.quota? sp = some q)
include hq

theorem evaluateQuota_same (h : quotaState q.consumed q.quota = q.st) : d.evaluateQuota sp cause = (false, d) := by
  unfold evaluateQuota
  rw [hq]
  exact if_pos h

theorem evaluateQuota_moves (h : quotaState q.consumed q.quota ≠ q.st) (hroom : d.console.general.entries.length < 24)
    (hm : OwedRef.quota sp ∉ d.console.general.owed) :
    (d.evaluateQuota sp cause).2.console.general.entries = d.console.general.entries ++ [⟨.quotaState, 0, .report
      (quotaData sp q.quota q.consumed (quotaStateCode (some q.st))
        (quotaStateCode (some (quotaState q.consumed q.quota))) cause), 0⟩] := by
  have hset : (d.onQuota sp fun x => { x with st := quotaState q.consumed q.quota }).quota? sp
      = some { q with st := quotaState q.consumed q.quota } := by
    rw [quota_setState, if_pos rfl, hq]
    rfl
  have hrow : (d.evaluateQuota sp cause).2
      = (d.onQuota sp fun x => { x with st := quotaState q.consumed q.quota }).reportQuota sp (some q.st) cause := by
    unfold evaluateQuota
    rw [hq]
    exact congrArg Prod.snd (if_neg h)
  rw [hrow]
  exact reportQuota_entries hset _ _ hroom hm

end

theorem quota_setQuota (d : Device) (sp : Species) (n : Nat) (s : Species) :
    (d.onQuota sp fun q => { q with quota := n }).quota? s
      = if s = sp then (d.quota? s).map fun q => { q with quota := n } else d.quota? s :=
  quota_onQuota d sp (fun q => { q with quota := n }) (fun _ => rfl) s

theorem quota_setQuota_same {d : Device} {sp : Species} {q : QuotaEntry} (n : Nat) (hq : d.quota? sp = some q) :
    (d.onQuota sp fun q => { q with quota := n }).quota? sp = some { q with quota := n } := by
  rw [quota_setQuota, if_pos rfl, hq]
  rfl

/-- The part with a new quota entry in its place among the others. -/
def withQuota (d : Device) (q : QuotaEntry) : Device :=
  d.onLog fun l => { l with quotas := insertBy (fun x => speciesRank x.species) q l.quotas }

theorem withQuota_quota? {d : Device} {q : QuotaEntry} (h : d.quota? q.species = none) (s : Species) :
    (d.withQuota q).quota? s = if s = q.species then some q else d.quota? s := by
  have hnew : ∀ y ∈ d.log.quotas, y.species ≠ q.species := fun y hy heq =>
    absurd (beq_iff_eq.2 heq) (List.find?_eq_none.1 h y hy)
  refine (find_insertBy _ (fun y : QuotaEntry => y.species == s) q d.log.quotas fun y hy heq => ?_).trans ?_
  · rw [← beq_iff_eq.1 heq]
    exact beq_eq_false_iff_ne.2 (hnew y hy).symm
  · exact if_congr (beq_iff_eq.trans eq_comm) rfl rfl

theorem quotaState_reached_iff (consumed quota : Nat) : quotaState consumed quota = .reached ↔ quota ≤ consumed := by
  unfold quotaState
  split
  · next h => exact iff_of_true rfl h
  · next h =>
    refine iff_of_false (fun hc => ?_) h
    split at hc <;> cases hc

section
variable (d : Device) (t : NoticeTally) {e : NoticeEntry}

theorem applyEntry_removes {q : QuotaEntry} (he : e.quota = none) (hq : d.quota? e.species = some q) :
    applyEntry (d, t) e = (d.removeQuota q, { t with removed := t.removed + 1 }) := by
  unfold applyEntry
  dsimp only
  rw [he, hq]

theorem applyEntry_removesNone (he : e.quota = none) (hq : d.quota? e.species = none) :
    applyEntry (d, t) e = (d, { t with removed := t.removed + 1 }) := by
  unfold applyEntry
  dsimp only
  rw [he, hq]

variable {n : Nat} (he : e.quota = some n)
include he

theorem applyEntry_updates {q : QuotaEntry} (hq : d.quota? e.species = some q) :
    let r := (d.onQuota e.species fun q => { q with quota := n }).evaluateQuota e.species 1
    applyEntry (d, t) e = (r.2, { t with updated := t.updated + 1, reached := t.reached || r.1 }) := by
  unfold applyEntry
  dsimp only
  rw [he, hq]

variable (hq : d.quota? e.species = none)
include hq

theorem applyEntry_makes (hl : d.log.quotas.length < 16) :
    let q : QuotaEntry := ⟨e.species, n, d.consumedOf e.species, quotaState (d.consumedOf e.species) n, none⟩
    applyEntry (d, t) e = ((d.withQuota q).reportQuota e.species none 1,
      { t with made := t.made + 1, reached := t.reached || q.st == .reached }) := by
  unfold applyEntry
  dsimp only
  rw [he, hq]
  exact if_pos hl

theorem applyEntry_ignores (hl : 16 ≤ d.log.quotas.length) :
    applyEntry (d, t) e = (d, { t with ignored := t.ignored + 1 }) := by
  unfold applyEntry
  dsimp only
  rw [he, hq]
  exact if_neg (Nat.not_lt.2 hl)

end

/-- Whatever an entry says, it changes no other entry and nothing else of the log or the report. -/
theorem applyEntry_changed (d : Device) (t : NoticeTally) (e : NoticeEntry) :
    QuotaChanged e.species (applyEntry (d, t) e).1 d := by
  cases he : e.quota with
  | none =>
    cases hq : d.quota? e.species with
    | none =>
      rw [applyEntry_removesNone d t he hq]
      exact .refl _ d
    | some q =>
      rw [applyEntry_removes d t he hq]
      have hchanged := d.removeQuota_changed q
      rwa [(quota_some hq).2] at hchanged
  | some n =>
    cases hq : d.quota? e.species with
    | some q =>
      have hrow := applyEntry_updates d t he hq
      rw [hrow]
      refine .of_quotasOnly (.trans (e := d.onQuota e.species fun q => { q with quota := n }) rfl
        (evaluateQuota_only _ _ _)) fun s hs => ?_
      exact ((quota_evaluateQuota _ e.species 1 s).1 hs).trans ((quota_setQuota d e.species n s).trans (if_neg hs))
    | none =>
      by_cases hl : d.log.quotas.length < 16
      · rw [applyEntry_makes d t he hq hl]
        refine .of_quotasOnly (.trans (e := d.withQuota _) rfl (reportQuota_only _ _ _ _)) fun s hs => ?_
        exact ((quota_reportQuota _ e.species none 1 s).1 hs).trans ((withQuota_quota? hq s).trans (if_neg hs))
      · rw [applyEntry_ignores d t he hq (Nat.not_lt.1 hl)]
        exact .refl _ d

section
variable (d : Device) (t : NoticeTally) {e : NoticeEntry}

/-- An entry for removal leaves no entry of its species. -/
theorem applyEntry_removed (he : e.quota = none) :
    (applyEntry (d, t) e).2 = { t with removed := t.removed + 1 } ∧
    (applyEntry (d, t) e).1.quota? e.species = none := by
  cases hq : d.quota? e.species with
  | none =>
    rw [applyEntry_removesNone d t he hq]
    exact ⟨rfl, hq⟩
  | some q =>
    rw [applyEntry_removes d t he hq]
    exact ⟨rfl, (d.removeQuota_quota? q _).trans (if_pos (quota_some hq).2.symm)⟩

theorem applyEntry_removed_entries {q : QuotaEntry} (he : e.quota = none) (hq : d.quota? e.species = some q)
    (hroom : d.console.general.entries.length < 24) :
    (applyEntry (d, t) e).1.console.general.entries = d.console.general.entries ++ [⟨.quotaState, 0, .report
      (quotaData q.species q.quota q.consumed (quotaStateCode (some q.st)) 4 1), 0⟩] := by
  rw [applyEntry_removes d t he hq]
  exact d.removeQuota_entries q hroom

variable {n : Nat} (he : e.quota = some n)
include he

/-- An entry's new quota, its state evaluated anew, and whether it has changed into REACHED. -/
theorem applyEntry_updated {q : QuotaEntry} (hq : d.quota? e.species = some q) :
    (∃ q', (applyEntry (d, t) e).1.quota? e.species = some q' ∧ q'.quota = n ∧ q'.consumed = q.consumed ∧
      q'.st = quotaState q.consumed n) ∧
    ∃ r, (applyEntry (d, t) e).2 = { t with updated := t.updated + 1, reached := t.reached || r } ∧
      (r = true ↔ q.st ≠ .reached ∧ n ≤ q.consumed) := by
  have hset := quota_setQuota_same n hq
  obtain ⟨hentry, hreached⟩ := (quota_evaluateQuota _ e.species 1 e.species).2 _ hset
  have hrow := applyEntry_updates d t he hq
  rw [hrow]
  exact ⟨hentry, _, rfl, hreached⟩

theorem applyEntry_updated_console {q : QuotaEntry} (hq : d.quota? e.species = some q) :
    (quotaState q.consumed n = q.st → (applyEntry (d, t) e).1.console = d.console) ∧
    (quotaState q.consumed n ≠ q.st → OwedRef.quota e.species ∉ d.console.general.owed →
      d.console.general.entries.length < 24 →
      (applyEntry (d, t) e).1.console.general.entries = d.console.general.entries ++ [⟨.quotaState, 0, .report
        (quotaData q.species n q.consumed (quotaStateCode (some q.st))
          (quotaStateCode (some (quotaState q.consumed n))) 1), 0⟩]) := by
  have hset := quota_setQuota_same n hq
  have hrow := applyEntry_updates d t he hq
  rw [hrow, (quota_some hq).2]
  refine ⟨fun h => ?_, fun h hm hroom => evaluateQuota_moves 1 hset h hroom hm⟩
  exact congrArg (fun x : Bool × Device => x.2.console) (evaluateQuota_same 1 hset h)

variable (hq : d.quota? e.species = none) (hl : d.log.quotas.length < 16)
include hq hl

theorem applyEntry_made :
    (∃ q', (applyEntry (d, t) e).1.quota? e.species = some q' ∧ q'.quota = n ∧
      q'.consumed = d.consumedOf e.species ∧ q'.st = quotaState (d.consumedOf e.species) n) ∧
    (applyEntry (d, t) e).2
      = { t with made := t.made + 1, reached := t.reached || decide (n ≤ d.consumedOf e.species) } := by
  have hreached : (quotaState (d.consumedOf e.species) n == .reached) = decide (n ≤ d.consumedOf e.species) :=
    Bool.eq_iff_iff.2 (beq_iff_eq.trans ((quotaState_reached_iff _ n).trans decide_eq_true_iff.symm))
  rw [applyEntry_makes d t he hq hl, ← hreached]
  refine ⟨?_, rfl⟩
  obtain ⟨q', hq', hsame⟩ := (quota_reportQuota _ e.species none 1 e.species).2 _
    ((withQuota_quota? (q := ⟨e.species, n, d.consumedOf e.species, quotaState (d.consumedOf e.species) n, none⟩) hq
      e.species).trans (if_pos rfl))
  exact ⟨q', hq', by rw [hsame], by rw [hsame], by rw [hsame]⟩

theorem applyEntry_made_entries (hroom : d.console.general.entries.length < 24)
    (hm : OwedRef.quota e.species ∉ d.console.general.owed) :
    (applyEntry (d, t) e).1.console.general.entries = d.console.general.entries ++ [⟨.quotaState, 0, .report
      (quotaData e.species n (d.consumedOf e.species) 0
        (quotaStateCode (some (quotaState (d.consumedOf e.species) n))) 1), 0⟩] := by
  rw [applyEntry_makes d t he hq hl]
  exact reportQuota_entries ((withQuota_quota? hq _).trans (if_pos rfl)) none 1 hroom hm

end
end Device
end Sys2Proof.Machine
end

section
/-! PROOF. Catch reports and quota notices (O51). -/

namespace Sys2Proof.Machine

open Device

/-- Settles O51: the orders and timers that trigger a report or end it; the triggers case by case, down to the report
built; receipts and the ends of a report; a notice's text, its tests, its application and each entry's effect. -/
theorem reportEvents : Obligations.ReportEvents := by
  refine ⟨⟨fun tag s hlive => ?now, fun t s hlow hdue hst hp => ?hour⟩, fun n t s hlow hst hd hn hp => ?deadline,
    ⟨fun t s hlow hdue => exec_reportHour hlow (hourReached_triggers hdue),
      fun tag s hlive => exec_reportNow tag hlive, fun d kind => ?triggers⟩,
    fun d m => ?receipts, fun text => ⟨readNotice_good (t := text), readNotice_bad⟩, fun d m => ?notice,
    fun d num es => ?applied, fun d t e => ?entry⟩
  case now =>
    intro c
    refine ⟨fun hst hp => by rw [exec_reportNow tag hlive, trigger_waits _ hst hp],
      fun hst i ha hi hlen => ?_⟩
    have hslot : i < c.xfer.slots.length := by
      rw [hlen]
      exact freeSlot?_lt hi
    obtain ⟨⟨horigin, -⟩, hheld, -⟩ := c.build_transfer .ordered hslot
    have hrep := c.build_rep .ordered i
    have hlog := c.build_log .ordered i
    exact ⟨c.build .ordered i, by rw [exec_reportNow tag hlive, trigger_ordered hst ha hi], by rw [hrep]; rfl,
      by rw [hrep]; rfl, by rw [hrep]; rfl, by rw [hrep]; rfl, by rw [hrep]; rfl, by rw [hrep]; rfl, horigin, hheld,
      by rw [hlog, List.length_map], by rw [hlog]⟩
  case hour =>
    exact exec_reportHour hlow ((hourReached_triggers hdue).trans (trigger_waits _ hst hp))
  case deadline =>
    obtain ⟨y, hrep, hlog, hstore, hrest, -, hrow⟩ :=
      endReport_eq { s.dev with now := max s.dev.now t } .lost (some .deadline)
    have hquiet : y.rep.pending = none := by rw [hrep]; exact hp
    have hends := (deadlineReached_loses hst hd).trans (hrow.trans (buildPending_quiet hquiet))
    refine ⟨y, exec_receiptDeadline hlow hends,
      by rw [hrest], by rw [hrep], ?_, by rw [hrep], by rw [hrep], fun g hg => ?_, ?_, fun c hc => ?_, by rw [hlog],
      by rw [hlog]⟩
    · rw [hrep]
      exact congrArg (Option.map _) hn
    · rw [hstore]
      dsimp only
      rw [hg]
    · rw [hlog, List.map_map]
      rfl
    · rw [hlog] at hc
      obtain ⟨c', -, rfl⟩ := List.mem_map.1 hc
      exact ⟨rfl, rfl, rfl⟩
  case triggers =>
    rw [makesLine_eq]
    intro first entered unsent lines num taken queued
    refine ⟨trigger_enters, fun hst hk hl => ?_, fun hst ht hk => ?_,
      fun i id y hst ht hk hi hfree hbefore hlen hr => ?_,
      fun k hst ht hp => slotFreed_triggers hst ((catchAllowed_iff d).2 ht) hp,
      fun h => slotFreed_same (h.imp_right (Or.imp_left catchAllowed_false))⟩
    · subst hk
      rw [trigger_builds hst, tryBuild_noLines hl, reportCatchKind_told]
      exact ⟨rfl, fun hm hroom => congrArg Lane.entries (told_room _ hroom hm)⟩
    · rw [trigger_builds hst, tryBuild_waits hk (catchAllowed_false ht), reportCatchKind_told]
      exact ⟨rfl, fun hm hroom => congrArg Lane.entries (told_room _ hroom hm)⟩
    · have hbuild : d.trigger kind = d.build kind i := (trigger_builds hst).trans
        (tryBuild_build hk ((catchAllowed_iff d).2 ht) (freeSlot_some d i hi hfree hbefore))
      have hgrant := grantOf_reserved hr
      obtain ⟨mo, da, h, mi, htime, hunset, hset⟩ := buildTimeSyms_eq d.utcNow
      obtain ⟨⟨horigin, hcls, hdest, horig, hslotGrant, hslotLen, hcnt, hlife⟩, -, hother⟩ := d.build_transfer kind hlen
      have hrep := d.build_rep kind i
      have hstore := (build_store kind i hr).trans (congrArg (y.writeSyms id 0) (reportBody_eq num kind _ lines htime))
      rw [builtRecord, hgrant] at hrep
      rw [hbuild]
      exact ⟨hrep, d.build_log kind i, ⟨mo, da, h, mi, hunset, hset, hstore⟩, horigin, hcls, hdest, horig,
        hslotGrant.trans hgrant, hslotLen, hcnt, hlife, hother, build_entries kind i⟩
  case receipts =>
    intro queued late text num result good said x
    refine ⟨fun ho => ?_, fun ho hbad => ?_,
      fun ho hgood => ⟨fun hn hst => ?_, fun hn hst he => ?_, fun hlate => ?_⟩, fun e cause => ?_,
      fun hst o => ⟨fun e he => catchOutcome_early hst he o, fun he ho => ?_, fun he ho => ?_, fun he ho => ?_⟩⟩
    · rw [receipt_notPort ho]
      exact rejectNotice_noticed _ 0 m.orig 0
    · rw [receipt_malformed ho hbad]
      exact rejectNotice_noticed _ 0 m.orig 1
    · exact (receipt_judged ho hgood).trans (judgeReceipt_ends _ hn hst)
    · exact (receipt_judged ho hgood).trans (judgeReceipt_early _ hn hst he)
    · rw [receipt_judged ho hgood, judgeReceipt_late (x := d.releaseGrant m.grant) _ hlate]
      exact lateReceipt_noticed _ _ _
    · obtain ⟨y, hrep, hlog, hstore, hrest, hentries, hrow⟩ := endReport_eq d e cause
      rw [endingEvent_code] at hentries
      simp only [Amount.settle_eq] at hlog
      have hpending : y.rep.pending = d.rep.pending := by rw [hrep]
      have hst : y.rep.st = .none := by rw [hrep]
      exact ⟨y, hrep, hlog, hstore, hrest, hentries, fun hp => hrow.trans (buildPending_quiet (hpending.trans hp)),
        fun k hp => hrow.trans (buildPending_triggers hst (hpending.trans hp))⟩
    · subst ho
      exact catchOutcome_expired hst he
    · subst ho
      exact catchOutcome_loses hst he
    · subst ho
      exact ⟨_, catchOutcome_delivered hst he, fun hm hroom => congrArg Lane.entries (told_room _ hroom hm)⟩
  case notice =>
    intro queued text e idle
    have hidle : ∀ {kind : ReportKind} {data : List Datum} {counted : Prop},
        Noticed e (d.releaseGrant m.grant) kind data ∧ counted → idle ∧ queued e kind data ∧ counted :=
      fun ⟨h, hcount⟩ => ⟨⟨h.log, h.store, h.record⟩, h.entries, hcount⟩
    refine ⟨fun ho => ?_, fun ho hbad => ?_, fun ho num es hread =>
      ⟨fun last hl hold => ?_, quotaNotice_applies ho hread⟩⟩
    · have he : e = _ := quotaNotice_notPort ho
      exact hidle (by rw [he]; exact rejectNotice_noticed _ 1 m.orig 0)
    · have he : e = _ := quotaNotice_malformed ho hbad
      exact hidle (by rw [he]; exact rejectNotice_noticed _ 1 m.orig 1)
    · have he : e = _ := quotaNotice_stale ho hread hl hold
      exact hidle (by rw [he]; exact staleNotice_noticed _ num last)
  case applied =>
    intro done t
    have hnoticed := noticeTold_noticed done.1 t num
    exact ⟨noticeTold done.1 t num, hnoticed.rest, by rw [hnoticed.record]; rfl, hnoticed.record,
      noticeTold_applied _ _ _, noticeTold_partly _ _ _, hnoticed.entries, applyNotice_eq d num es⟩
  case entry =>
    intro x u stated rest
    refine ⟨applyEntry_changed d t e, fun he => ?_, fun n he => ⟨fun q hq => ?_, fun hq hl => ?_, fun hq hl => ?_⟩⟩
    · obtain ⟨htally, hnone⟩ := applyEntry_removed d t he
      refine ⟨htally, hnone, fun hq => congrArg Prod.fst (applyEntry_removesNone d t he hq), fun q hq => ?_⟩
      have hentries := applyEntry_removed_entries d t he hq
      rwa [quotaStateCode_some] at hentries
    · obtain ⟨hentry, r, htally, hr⟩ := applyEntry_updated d t he hq
      obtain ⟨hsame, hmoves⟩ := applyEntry_updated_console d t he hq
      rw [quotaStateCode_some, quotaStateCode_some] at hmoves
      have hu : u = { t with updated := t.updated + 1, reached := t.reached || r } := htally
      exact ⟨hentry, by rw [hu], by rw [hu], by rw [hu], by rw [hu], by rw [hu, Bool.or_eq_true, hr], hsame, hmoves⟩
    · obtain ⟨hentry, htally⟩ := applyEntry_made d t he hq hl
      have hentries := applyEntry_made_entries d t he hq hl
      rw [quotaStateCode_some] at hentries
      exact ⟨hentry, htally, fun hm hroom => hentries hroom hm⟩
    · exact ⟨congrArg Prod.fst (applyEntry_ignores d t he hq hl), congrArg Prod.snd (applyEntry_ignores d t he hq hl)⟩

end Sys2Proof.Machine
end

section
/-! PROOF. The Console Link's setup and the frames without an owner (O3, O5, O11, O53 to O55). -/

namespace Sys2Proof.Machine

/-! ### The configuration on a READY part (R196, R197) -/

theorem Device.setup_done_of_ready {d : Device} (h : d.ready = true) : d.console.setup = .done := eq_of_beq h

theorem Device.ready_of_setup_done {d : Device} (h : d.console.setup = .done) : d.ready = true := beq_iff_eq.2 h

theorem Device.setupPart_done {d : Device} (k : Nat) (take : SetupRaw → Option SetupRaw) (finish : Device → Device)
    (h : d.console.setup = .done) : d.setupPart k take finish = (.alreadySet, d) := by
  unfold setupPart
  rw [h]

theorem Device.setupHead_done {d : Device} (own port settle : Nat) (h : d.console.setup = .done) :
    d.setupHead own port settle = (.alreadySet, d) := if_pos (ready_of_setup_done h)

theorem State.act_fixed {s t : State} {f : Device → Device} (h : (f s.dev).fixed = s.dev.fixed)
    (ht : s.act f = .next t) : t.dev.fixed = s.dev.fixed := by
  injection ht with ht
  subst ht
  dsimp only
  split
  · rfl
  · exact h

theorem State.event_fixed {s t : State} {f : Device → Device} (h : (f s.dev).fixed = s.dev.fixed)
    (ht : s.event f = .next t) : t.dev.fixed = s.dev.fixed :=
  State.act_fixed (f := fun d => (f d).settle) ((Device.settle_fixed _).trans h) ht

/-- A frame on a READY part keeps the configuration when its judging keeps it on READY parts. -/
theorem State.frame_fixed {s t : State} {tag : Nat} {isSetup early : Bool} {judge : Device → Disposition × Device}
    (h : ∀ e : Device, e.ready = true → (judge e).2.fixed = e.fixed) (hready : s.dev.ready = true)
    (ht : s.frame tag isSetup early judge = .next t) : t.dev.fixed = s.dev.fixed := by
  cases hlow : s.dev.resetLow with
  | true =>
    injection ht with ht
    rw [← ht, if_pos hlow]
  | false =>
    rw [State.frame_live s tag isSetup early judge ((Device.live_iff _).2 ⟨hlow, hready⟩)] at ht
    injection ht with ht
    have hcomplete : s.dev.completeExchange.ready = true := s.dev.completeExchange_ready.trans hready
    rw [← ht, Device.settle_fixed, Device.echo_fixed, h _ hcomplete, Device.completeExchange_fixed]

/-- Settles O11: setup frames are refused on a READY part, and every other frame or event keeps the configuration by
its own meaning. -/
theorem configurationKept : Obligations.ConfigurationKept := by
  intro i s t hhard hheld hready ht
  cases i <;> dsimp only [exec] at ht
  case hardReset => exact absurd rfl hhard
  case resetnAsserted => exact absurd rfl hheld
  case cselAssert =>
    refine State.act_fixed ?_ ht
    split <;> simp
  case cselRelease => exact State.act_fixed (Device.releaseCsel_fixed _) ht
  case setupPart1 | setupPart2 | setupPart3 | setupPart4 | setupPart5 =>
    exact State.frame_fixed (fun e he => by rw [Device.setupPart_done _ _ _ (Device.setup_done_of_ready he)]) hready ht
  case readForecast | readHaul =>
    refine State.frame_fixed (fun e _ => ?_) hready ht
    repeat' split
    all_goals simp
  case characterReceived | loopStart =>
    refine State.event_fixed ?_ ht
    split <;> simp
  case noneFrame | unknownKind | readBadSelector | setup | time | position | submit | text | withdraw | readStatus
      | readNeighbours | readCases | readWarnings | readTally | readQuota | readTransfers | distress | cancel | ackCase
      | closeCase | flush | recover | loopTest | reportNow | haulOpen | haulClose | catchLine | haulDiscard
      | haulCommit | restart =>
    exact State.frame_fixed (fun e _ => by simp) hready ht
  all_goals exact State.event_fixed (by simp) ht

/-! ### Every command -/

theorem State.frame_acts (s : State) (tag : Nat) (isSetup early : Bool) (judge : Device → Disposition × Device) :
    ∃ f : Device → Device, s.frame tag isSetup early judge = s.act f := ⟨fun d => d.frame tag isSetup early judge, rfl⟩

theorem State.event_acts (s : State) (g : Device → Device) : ∃ f : Device → Device, s.event g = s.act f :=
  ⟨fun d => (g d).settle, rfl⟩

/-- Every command but the two of the reset line changes the part alone, and nothing while RESETN is low. -/
theorem exec_acts {i : Instr} (s : State) (hhard : i ≠ .hardReset) (hheld : i ≠ .resetnAsserted) :
    ∃ f : Device → Device, exec i s = s.act f := by
  cases i <;> dsimp only [exec]
  case hardReset => exact absurd rfl hhard
  case resetnAsserted => exact absurd rfl hheld
  case cselAssert => exact ⟨fun d => if d.console.exchange = .idle then d.assertCsel else d, rfl⟩
  case cselRelease => exact ⟨Device.releaseCsel, rfl⟩
  case noneFrame | unknownKind | readBadSelector | setup | setupPart1 | setupPart2 | setupPart3 | setupPart4 | setupPart5
      | time | position | submit | text | withdraw | readStatus | readNeighbours | readCases | readForecast
      | readWarnings | readTally | readQuota | readHaul | readTransfers | distress | cancel | ackCase | closeCase
      | flush | recover | loopTest | reportNow | haulOpen | haulClose | catchLine | haulDiscard | haulCommit | restart =>
    exact State.frame_acts s _ _ _ _
  all_goals exact State.event_acts s _

theorem State.act_low {s : State} (f : Device → Device) (h : s.dev.resetLow = true) : s.act f = .next s := by
  simp [State.act, h]

/-- Settles O3: the resets answer a state, and every other command acts on the part alone. -/
theorem everyCommandCompletes : Obligations.EveryCommandCompletes := by
  refine ⟨fun i s => ?_, fun i s hlow hhard hheld => ?_⟩
  · by_cases hhard : i = .hardReset
    · exact hhard ▸ ⟨_, rfl, rfl⟩
    by_cases hheld : i = .resetnAsserted
    · exact hheld ▸ ⟨_, rfl, rfl⟩
    obtain ⟨f, hf⟩ := exec_acts s hhard hheld
    exact ⟨_, hf, rfl⟩
  · obtain ⟨f, hf⟩ := exec_acts s hhard hheld
    exact hf.trans (State.act_low f hlow)

/-- Settles O5: the reset state read off, and the lane that RESTART leaves. -/
theorem hardResetConsole : Obligations.HardResetConsole := fun s =>
  ⟨Device.afterReset s.dev.draws, rfl, rfl, rfl, rfl, rfl, rfl, rfl, rfl, rfl, rfl, rfl, rfl, rfl, rfl, fun e =>
    e.restarted_facts.1⟩

/-! ### Frames without an owner (R189, R195, R196) -/

theorem Device.leaveSetup_idle {d : Device} (h : d.ready = false) : d.leaveSetup.console.setup = .idle := by
  unfold leaveSetup
  split
  · rfl
  next hno =>
    cases hs : d.console.setup with
    | idle => rfl
    | collecting n => exact absurd hs (hno n)
    | done => rw [ready_of_setup_done hs] at h; cases h

/-- Settles O53: two frames judged on an UNCONFIGURED part too, one that is not, and the setup they void. -/
theorem framesWithoutOwner : Obligations.FramesWithoutOwner := by
  refine fun tag x s hlow => ⟨exec_of_earlyFrame _ rfl hlow rfl, exec_of_earlyFrame _ rfl hlow rfl, fun hready => ?_,
    exec_notSet _ rfl hlow, fun n hn => Device.leaveSetup_idle ?_⟩
  · exact exec_of_frame _ rfl ((Device.live_iff _).2 ⟨hlow, hready⟩) rfl
  · rw [Device.completeExchange_ready, Device.ready, hn]
    rfl

/-! ### The setup sequence (R196, R197) -/

theorem badStation_iff (n : Nat) : badStation n = true ↔ n = 0 ∨ 262143 ≤ n := by
  rw [badStation, Bool.or_eq_true, beq_iff_eq, decide_eq_true_eq, allStations]

theorem badStation_eq_false (n : Nat) : badStation n = false ↔ 1 ≤ n ∧ n < 262143 := by
  rw [← Bool.not_eq_true, badStation_iff]
  omega

/-- A test of a list's first elements, place by place. -/
theorem all_take_iff {α : Type} (p : α → Bool) (l : List α) (n : Nat) :
    (l.take n).all p = true ↔ ∀ (j : Nat) (x : α), j < n → l[j]? = some x → p x = true := by
  simp only [List.all_eq_true, List.mem_iff_getElem?, List.getElem?_take]
  refine ⟨fun h j x hj hx => h x ⟨j, by rw [if_pos hj, hx]⟩, ?_⟩
  rintro h x ⟨j, hx⟩
  split at hx
  next hj => exact h j x hj hx
  next => cases hx

namespace Device

theorem goodSources_iff (r : SetupRaw) (i : Nat) (l : List Nat) : goodSources r i l = true ↔
    ∀ j x : Nat, i + j < min r.sourceCount 4 → l[j]? = some x → 1 ≤ x ∧ x < 262143 ∧ x ≠ r.own := by
  simp only [goodSources, all_take_iff, SetupRaw.sourceUse, Nat.lt_sub_iff_add_lt', Bool.and_eq_true,
    Bool.not_eq_true', badStation_eq_false, bne_iff_ne, and_assoc]

theorem goodAreas_iff (r : SetupRaw) (i : Nat) (l : List Nat) : goodAreas r i l = true ↔
    ∀ j x : Nat, i + j < min r.areaCount 12 → l[j]? = some x → 1 ≤ x ∧ x ≤ 63 := by
  simp only [goodAreas, all_take_iff, SetupRaw.areaUse, Nat.lt_sub_iff_add_lt', Bool.and_eq_true, decide_eq_true_eq]

variable {d : Device} {k : Nat} {take : SetupRaw → Option SetupRaw} {finish : Device → Device}

/-- The device with the setup state and the held values given. -/
def setupAt (d : Device) (st : SetupState) (r : SetupRaw) : Device :=
  { d with console := { d.console with setup := st, held := r } }

theorem setupHead_taken {own port : Nat} (settle : Nat) (h : d.console.setup ≠ .done) (ho : 1 ≤ own ∧ own < 262143)
    (hp : 1 ≤ port ∧ port < 262143) (hne : own ≠ port) : d.setupHead own port settle =
      (.taken, d.setupAt (.collecting 1) { SetupRaw.zero with own := own, port := port, settle := settle }) := by
  unfold setupHead
  rw [if_neg fun hr => h (setup_done_of_ready hr), if_neg]
  · rfl
  · simp [(badStation_eq_false own).2 ho, (badStation_eq_false port).2 hp, hne]

theorem setupHead_bad {own port : Nat} (settle : Nat) (h : d.console.setup ≠ .done)
    (hbad : own = 0 ∨ 262143 ≤ own ∨ port = 0 ∨ 262143 ≤ port ∨ own = port) :
    d.setupHead own port settle = (.badParam, d.setupAt .idle .zero) := by
  unfold setupHead
  rw [if_neg fun hr => h (setup_done_of_ready hr), if_pos]
  · rfl
  · simpa only [Bool.or_eq_true, badStation_iff, beq_iff_eq, or_assoc] using hbad

theorem setupPart_taken {r : SetupRaw} (h : d.console.setup = .collecting k) (hr : take d.console.held = some r) :
    d.setupPart k take finish = (.taken, finish (d.setupAt (.collecting (k + 1)) r)) := by
  unfold setupPart
  rw [h]
  dsimp only
  rw [if_pos rfl, hr]
  rfl

theorem setupPart_bad (h : d.console.setup = .collecting k) (hr : take d.console.held = none) :
    d.setupPart k take finish = (.badParam, d.setupAt .idle .zero) := by
  unfold setupPart
  rw [h]
  dsimp only
  rw [if_pos rfl, hr]
  rfl

theorem setupPart_idle (h : d.console.setup = .idle) : d.setupPart k take finish = (.state, d) := by
  unfold setupPart
  rw [h]

theorem setupPart_outOfTurn {n : Nat} (h : d.console.setup = .collecting n) (hne : n ≠ k) :
    d.setupPart k take finish = (.state, d.setupAt .idle .zero) := by
  unfold setupPart
  rw [h]
  exact if_neg hne

end Device
open Device

/-- Settles O54: SETUP by its own tests, a part in its turn by the values it carries, and a part out of turn whichever
it is. -/
theorem setupSequence : Obligations.SetupSequence := by
  intro tag s hlow c voided source area
  refine ⟨fun own port settle hst ho ho' hp hp' hne => ?_, fun own port settle hst hbad => ?_,
    fun count s1 s2 s3 hst => ⟨fun hgood => ?_, fun ⟨j, x, hj, hx, hbad⟩ => ?_⟩,
    fun s4 count a1 a2 a3 a4 a5 a6 hst => ⟨fun hsource hareas => ?_, fun hbad => ?_⟩,
    fun a7 a8 a9 a10 a11 a12 stale td tr hour hst => ⟨fun hgood => ?_, fun ⟨j, x, hj, hx, hbad⟩ => ?_⟩,
    fun d1 d2 d3 d4 rec latch retry beacon hold hst => ?_, fun k i hi => ?_⟩
  · exact exec_of_setupFrame _ rfl hlow (setupHead_taken settle hst ⟨ho, ho'⟩ ⟨hp, hp'⟩ hne)
  · exact exec_of_setupFrame _ rfl hlow (setupHead_bad settle hst hbad)
  · refine exec_of_setupFrame _ rfl hlow (setupPart_taken hst (if_pos ((goodSources_iff _ _ _).2 ?_)))
    intro j x hj
    exact hgood j x (by simpa using hj)
  · refine exec_of_setupFrame _ rfl hlow (setupPart_bad hst (if_neg fun h => hbad ?_))
    exact (goodSources_iff _ _ _).1 h j x (by simpa using hj) hx
  · refine exec_of_setupFrame _ rfl hlow (setupPart_taken hst (if_pos (Bool.and_eq_true_iff.2
      ⟨(goodSources_iff _ _ _).2 fun j x hj hx => ?_, (goodAreas_iff _ _ _).2 fun j x hj => ?_⟩)))
    · obtain ⟨rfl, rfl⟩ : j = 0 ∧ s4 = x := by simpa [List.getElem?_singleton] using hx
      exact hsource (le_min_iff.1 hj).1
    · exact hareas j x (by simpa using hj)
  · refine exec_of_setupFrame _ rfl hlow (setupPart_bad hst (if_neg fun h => ?_))
    obtain ⟨hsources, hareas⟩ := Bool.and_eq_true_iff.1 h
    obtain ⟨hcount, hno⟩ | ⟨j, x, hj, hx, hno⟩ := hbad
    · exact hno ((goodSources_iff _ _ _).1 hsources 0 s4 (lt_min_iff.2 ⟨hcount, by decide⟩) rfl)
    · exact hno ((goodAreas_iff _ _ _).1 hareas j x (by simpa using hj) hx)
  · exact exec_of_setupFrame _ rfl hlow (setupPart_taken hst (if_pos ((goodAreas_iff _ _ _).2 hgood)))
  · exact exec_of_setupFrame _ rfl hlow
      (setupPart_bad hst (if_neg fun h => hbad ((goodAreas_iff _ _ _).1 h j x hj hx)))
  · exact exec_of_setupFrame _ rfl hlow (setupPart_taken (r := { c.console.held with
      dTune := d1, dReflect := d2, dSupply := d3, dKeytime := d4, recovery := rec, latch := latch, retry := retry,
      beacon := beacon, hold := hold }) hst rfl)
  · obtain ⟨take, finish, hrow⟩ : ∃ take finish, exec i s = s.frame tag true true (Device.setupPart k take finish) := by
      rcases hi with ⟨rfl, _, _, _, _, rfl⟩ | ⟨rfl, _, _, _, _, _, _, _, _, rfl⟩ |
        ⟨rfl, _, _, _, _, _, _, _, _, _, _, rfl⟩ | ⟨rfl, _, _, _, _, _, _, _, _, _, rfl⟩ | ⟨rfl, _, _, _, _, _, rfl⟩
      all_goals exact ⟨_, _, rfl⟩
    exact ⟨fun hst => exec_of_setupFrame _ hrow hlow (setupPart_idle hst),
      fun n hst hne => exec_of_setupFrame _ hrow hlow (setupPart_outOfTurn hst hne)⟩

/-! ### Completed setup (R197) -/

theorem clamp_ne_iff {lo hi : Nat} (h : lo ≤ hi) (n : Nat) : clamp lo hi n ≠ n ↔ n < lo ∨ hi < n := by
  unfold clamp
  omega

theorem min_ne_iff (hi n : Nat) : min n hi ≠ n ↔ hi < n := by omega

theorem clampLatch_ne_iff (n : Nat) : clampLatch n ≠ n ↔ n ∉ [0, 2, 4, 8] := by
  simp only [List.mem_cons, List.not_mem_nil, or_false]
  unfold clampLatch
  split_ifs <;> omega

/-- The places below a list's length at which it holds true. -/
theorem mem_filter_getD {l : List Bool} {i : Nat} :
    i ∈ (List.range l.length).filter (fun i => l.getD i false) ↔ l[i]? = some true := by
  rw [List.mem_filter, List.mem_range, List.getD_eq_getElem?_getD]
  cases h : l[i]? with
  | none => simp
  | some b => simpa using fun _ => (List.getElem?_eq_some_iff.1 h).1

/-- The marks of R197's clamp table: one for each parameter whose value was brought into its range. -/
theorem SetupRaw.mem_clamped (r : SetupRaw) (i : Nat) : i ∈ r.clamped ↔
    i = 0 ∧ 4 < r.sourceCount ∨ i = 1 ∧ 12 < r.areaCount ∨ i = 2 ∧ 50 < r.settle ∨
    i = 3 ∧ (r.stale < 10 ∨ 120 < r.stale) ∨ i = 4 ∧ (r.retry < 1 ∨ 15 < r.retry) ∨
    i = 5 ∧ (r.beacon < 5 ∨ 60 < r.beacon) ∨ i = 6 ∧ (r.hold < 5 ∨ 30 < r.hold) ∨
    i = 7 ∧ r.latch ∉ [0, 2, 4, 8] ∨ i = 8 ∧ (r.receipt < 30 ∨ 720 < r.receipt) := by
  refine Iff.trans (mem_filter_getD (l := [_, _, _, _, _, _, _, _, _])) ?_
  have hsettle : 10 * min r.settle 50 ≠ 10 * r.settle ↔ 50 < r.settle := by omega
  rw [← min_ne_iff 4, ← min_ne_iff 12, ← hsettle, ← clamp_ne_iff (by decide) r.stale,
    ← clamp_ne_iff (by decide) r.retry, ← clamp_ne_iff (by decide) r.beacon, ← clamp_ne_iff (by decide) r.hold,
    ← clampLatch_ne_iff, ← clamp_ne_iff (by decide) r.receipt]
  match i with
  | 0 | 1 | 2 | 3 | 4 | 5 | 6 | 7 | 8 => simp [SetupRaw.config, SetupRaw.sourceUse, SetupRaw.areaUse]
  | n + 9 => simp

theorem SetupRaw.clamped_sorted (r : SetupRaw) : r.clamped.Pairwise (· < ·) := List.pairwise_lt_range.filter _

namespace Device

theorem configuredData_eq (d : Device) :
    d.configuredData = .num 1 d.console.marks.length :: d.console.marks.map fun i => .num 1 i := by
  unfold configuredData tableData
  rw [List.length_map, ← List.flatMap_def, ← List.map_eq_flatMap]

/-- The general lane after the channel has become CLEAR (R33). -/
def clearedLane (d : Device) : Lane :=
  if d.access.blocked then d.console.general.told 24 .channelCleared 0 .blocked [.num 2 d.spell] else d.console.general

theorem enterClear_clearedLane (d : Device) :
    d.enterClear = { d.cleared with console := { d.console with general := d.clearedLane } } := by
  rw [enterClear_split, clearedLane]
  split
  · exact d.cleared.report_generalTold _ _ rfl
  · rfl

/-- The part with the held values in force, CONFIGURED told in the general lane. -/
def configured (d : Device) : Device :=
  let r := d.console.held
  { d.cleared with
    config := r.config, rx := Rx.blank .hunting, draws := d.draws + 1,
    neigh := { d.neigh with beaconDue := some (d.now + (0 + Config.draw d.draws % (60 - 0 + 1)) * 1000) },
    console := { d.console with
      setup := .done, marks := r.clamped, held := .zero,
      general := d.clearedLane.told 24 .configured 0 .setup
        (.num 1 r.clamped.length :: r.clamped.map fun i => .num 1 i) } }

theorem completeSetup_eq (d : Device) : d.completeSetup = d.configured := by
  unfold completeSetup
  dsimp only
  rw [enterClear_clearedLane, report_generalTold _ _ _ rfl, configuredData_eq]
  rfl

theorem clearedLane_unblocked {d : Device} (h : d.access.blocked = false) : d.clearedLane = d.console.general :=
  if_neg (by rw [h]; decide)

/-- The first beacon is due within a minute (R71). -/
theorem configured_beacon (d : Device) :
    ∃ t, d.configured.neigh.beaconDue = some t ∧ d.now ≤ t ∧ t ≤ d.now + 60000 := by
  have hdraw : 0 + Config.draw d.draws % (60 - 0 + 1) ≤ 60 := by omega
  exact ⟨_, rfl, Nat.le_add_right _ _, Nat.add_le_add_left (Nat.mul_le_mul_right 1000 hdraw) d.now⟩

theorem configured_general {d : Device} (h : d.access.blocked = false) : d.configured.console.general =
    d.console.general.told 24 .configured 0 .setup (.num 1 d.configured.console.marks.length ::
      d.configured.console.marks.map fun i => .num 1 i) := by
  rw [← clearedLane_unblocked h]
  rfl

end Device

/-- The held values with those of SETUP_PART_5. -/
def SetupRaw.withPart5 (r : SetupRaw) (receipt position message distress warning : Nat) : SetupRaw :=
  { r with receipt := receipt, position := position, message := message, distress := distress, warning := warning }

/-- The part set up by SETUP_PART_5 in its turn. -/
def Device.setUp (d : Device) (receipt position message distress warning : Nat) : Device :=
  (d.setupAt (.collecting 6) (d.console.held.withPart5 receipt position message distress warning)).configured

theorem exec_setupPart5 {s : State} (tag receipt position message distress warning : Nat)
    (hlow : s.dev.resetLow = false) (hst : s.dev.completeExchange.console.setup = .collecting 5) :
    exec (.setupPart5 tag receipt position message distress warning) s = .next { s with dev :=
      ((s.dev.completeExchange.setUp receipt position message distress warning).echo tag .taken).settle } :=
  exec_of_setupFrame _ rfl hlow ((setupPart_taken
    (r := s.dev.completeExchange.console.held.withPart5 receipt position message distress warning) hst rfl).trans
    (congrArg (Prod.mk _) (completeSetup_eq _)))

/-- Settles O55: the completed setup field by field, and each of the six frames on a READY part. -/
theorem setupCompletes : Obligations.SetupCompletes := by
  intro tag receipt p m d w s hlow c held
  refine ⟨fun hst => ?_, fun hst i hi => ?_⟩
  · have hmarks := (held.withPart5 receipt p m d w).mem_clamped
    refine ⟨c.setUp receipt p m d w, exec_setupPart5 tag receipt p m d w hlow hst, rfl, rfl, rfl, rfl,
      configured_beacon _, rfl, rfl, rfl, rfl, rfl, rfl, rfl, rfl, rfl, rfl, rfl, rfl, rfl, rfl, rfl, rfl, rfl, rfl, rfl,
      bne_iff_ne, bne_iff_ne, bne_iff_ne, bne_iff_ne, hmarks, SetupRaw.clamped_sorted _, fun hfree hmark => ?_⟩
    rw [show (c.setUp receipt p m d w).console.general = _ from configured_general hfree]
    exact ⟨fun hroom => told_room _ hroom hmark, fun hfull => told_full _ _ _ hfull hmark⟩
  · rcases hi with ⟨own, port, settle, rfl⟩ | ⟨_, _, _, _, rfl⟩ | ⟨_, _, _, _, _, _, _, _, rfl⟩ |
      ⟨_, _, _, _, _, _, _, _, _, _, rfl⟩ | ⟨_, _, _, _, _, _, _, _, _, rfl⟩ | rfl
    · exact exec_of_setupFrame _ rfl hlow (setupHead_done own port settle hst)
    all_goals exact exec_of_setupFrame _ rfl hlow (setupPart_done _ _ _ hst)

end Sys2Proof.Machine
end

section
/-! PROOF. The twelve bytes of a down frame and the command they spell (O12, O13). -/

namespace Sys2Proof

/-! ### Operands and their bytes (R205) -/

@[simp] theorem isByte_iff {n : Nat} : isByte n = true ↔ n < 256 := decide_eq_true_iff

@[simp] theorem isWord2_iff {n : Nat} : isWord2 n = true ↔ n < 65536 := decide_eq_true_iff

@[simp] theorem isWord3_iff {n : Nat} : isWord3 n = true ↔ n < 16777216 := decide_eq_true_iff

@[simp] theorem isSigned4_iff {v : Int} : isSigned4 v = true ↔ -2147483648 ≤ v ∧ v < 2147483648 := by
  simp [isSigned4]

/-! ### Numbers in bytes (R205) -/

@[simp] theorem frameBytes_length (w v : Nat) : (frameBytes w v).length = w := by
  induction w with
  | zero => rfl
  | succ w ih => simp [frameBytes, ih]

@[simp] theorem frameBytes_all_isByte (w v : Nat) : (frameBytes w v).all isByte = true := by
  induction w with
  | zero => rfl
  | succ w ih => rw [frameBytes, List.all_cons, ih, isByte_iff.mpr (Nat.mod_lt _ (by decide)), Bool.and_self]

/-- Reading on from a number already read: what `frameBytes` writes of `v` are its last `w` digits to the base 256. -/
theorem frameBytes_foldl (w v acc : Nat) :
    (frameBytes w v).foldl (fun acc b => acc * 256 + b) acc = acc * 256 ^ w + v % 256 ^ w := by
  induction w generalizing acc with
  | zero => simp [frameBytes, Nat.mod_one]
  | succ w ih =>
    rw [frameBytes, List.foldl_cons, ih, Nat.pow_succ, Nat.mod_mul]
    ring

@[simp] theorem frameNum_cons_one (b : Nat) (bs : List Nat) : frameNum (b :: bs) 0 1 = b := by
  simp [frameNum]

@[simp] theorem frameNum_cons_succ (b : Nat) (bs : List Nat) (i w : Nat) :
    frameNum (b :: bs) (i + 1) w = frameNum bs i w := rfl

theorem frameNum_append_left {p : List Nat} {i w : Nat} (r : List Nat) (h : i + w ≤ p.length) :
    frameNum (p ++ r) i w = frameNum p i w := by
  rw [frameNum, frameNum, List.drop_append_of_le_length (by omega),
    List.take_append_of_le_length (by rw [List.length_drop]; omega)]

/-- A number that fits its bytes is read back from them. -/
@[simp] theorem frameNum_frameBytes {w v : Nat} (h : v < 256 ^ w) : frameNum (frameBytes w v) 0 w = v := by
  rw [frameNum, List.drop_zero, List.take_of_length_le (frameBytes_length w v).le, frameBytes_foldl,
    Nat.zero_mul, Nat.zero_add, Nat.mod_eq_of_lt h]

@[simp] theorem frameNum_frameBytes_append {w v : Nat} (r : List Nat) (h : v < 256 ^ w) :
    frameNum (frameBytes w v ++ r) 0 w = v := by
  rw [frameNum_append_left r (by simp), frameNum_frameBytes h]

@[simp] theorem frameNum_past_frameBytes {w i : Nat} (v : Nat) (r : List Nat) (u : Nat) (h : w ≤ i) :
    frameNum (frameBytes w v ++ r) i u = frameNum r (i - w) u := by
  rw [frameNum, List.drop_append, List.drop_of_length_le (by simpa using h), frameBytes_length, List.nil_append]
  rfl

/-- A two's-complement number is read back from its four bytes. -/
theorem frameSigned_of_frameNum {bs : List Nat} {i : Nat} {v : Int} (hv : isSigned4 v = true)
    (h : frameNum bs i 4 = (v % 4294967296).toNat) : frameSigned bs i = v := by
  obtain ⟨hlo, hhi⟩ := isSigned4_iff.mp hv
  simp only [frameSigned, h]
  omega

@[simp] theorem signedBytes_length (v : Int) : (signedBytes v).length = 4 :=
  frameBytes_length 4 _

@[simp] theorem signedBytes_all_isByte (v : Int) : (signedBytes v).all isByte = true :=
  frameBytes_all_isByte 4 _

@[simp] theorem frameNum_signedBytes_append (v : Int) (r : List Nat) :
    frameNum (signedBytes v ++ r) 0 4 = (v % 4294967296).toNat :=
  frameNum_frameBytes_append r (by omega)

@[simp] theorem frameNum_past_signedBytes {i : Nat} (v : Int) (r : List Nat) (u : Nat) (h : 4 ≤ i) :
    frameNum (signedBytes v ++ r) i u = frameNum r (i - 4) u :=
  frameNum_past_frameBytes _ r u h

/-! ### Kind, tag and payload (R205) -/

@[simp] theorem frameNum_frameOf_kind (k t : Nat) (p : List Nat) : frameNum (frameOf k t p) 0 1 = k :=
  frameNum_cons_one k _

@[simp] theorem frameNum_frameOf_tag (k t : Nat) (p : List Nat) : frameNum (frameOf k t p) 1 1 = t :=
  frameNum_cons_one t _

/-- From byte 2 on a frame is read as its payload, as far as the payload goes. -/
@[simp] theorem frameNum_frameOf_payload {i w : Nat} (k t : Nat) {p : List Nat} (h : i + w ≤ p.length) :
    frameNum (frameOf k t p) (i + 2) w = frameNum p i w :=
  calc frameNum (frameOf k t p) (i + 2) w
    _ = frameNum (p ++ List.replicate (10 - p.length) 0) i w := rfl
    _ = frameNum p i w := frameNum_append_left _ h

theorem frameOf_length {p : List Nat} (k t : Nat) (h : p.length ≤ 10) : (frameOf k t p).length = 12 := by
  simp only [frameOf, List.length_append, List.length_cons, List.length_replicate]
  omega

theorem frameOf_all_isByte {k t : Nat} {p : List Nat} (hk : k < 256) (ht : t < 256) (hp : p.all isByte = true) :
    (frameOf k t p).all isByte = true := by
  simp only [frameOf, List.cons_append, List.all_cons, List.all_append, List.all_replicate, isByte_iff.mpr hk,
    isByte_iff.mpr ht, hp]
  simp [isByte]

/-- Twelve bytes are a frame, and spell what their kind makes of them. -/
theorem decodeFrame_of_twelve {bs : List Nat} (hlen : bs.length = 12) (hbytes : bs.all isByte = true) :
    decodeFrame bs = some (decodeKind bs) :=
  if_pos ⟨hlen, hbytes⟩

/-! ### The kinds that are not in the tables, and the two payloads that are not plain numbers -/

theorem decodeKind_unknown {k : Nat} (t : Nat) (h : 27 ≤ k) : decodeKind (frameOf k t []) = .unknownKind t k := by
  obtain ⟨j, rfl⟩ := Nat.exists_eq_add_of_le' h
  simp only [decodeKind, frameNum_frameOf_kind, frameNum_frameOf_tag]

theorem decodeRead_badSelector {sel : Nat} (t n : Nat) (h : sel = 0 ∨ 10 ≤ sel) :
    decodeRead t sel n = .readBadSelector t sel := by
  obtain rfl | h := h
  · rfl
  · obtain ⟨j, rfl⟩ := Nat.exists_eq_add_of_le' h
    rfl

theorem decodeKind_text {syms : List Nat} (t : Nat) (h : syms.length = 8) :
    decodeKind (frameOf 10 t syms) = .text t syms := by
  have hsyms : ((frameOf 10 t syms).drop 2).take 8 = syms := List.take_left' h
  simp [decodeKind, hsyms]

theorem decodeKind_position {lat lon : Int} (t h mi : Nat) (hlat : isSigned4 lat = true) (hlon : isSigned4 lon = true) :
    decodeKind (frameOf 8 t (signedBytes lat ++ signedBytes lon ++ [h, mi])) = .position t lat lon h mi := by
  simp [decodeKind, frameSigned_of_frameNum hlat, frameSigned_of_frameNum hlon]

/-! ### The frame of a well-formed command (O12) -/

/-- A command's frame has a kind and a tag of one byte each and a payload of at most ten bytes. -/
theorem encodeFrame_frameOf {i : Instr} {bs : List Nat} (hwf : i.wellFormed = true) (henc : encodeFrame i = some bs) :
    ∃ k t p, bs = frameOf k t p ∧ k < 256 ∧ t < 256 ∧ p.length ≤ 10 ∧ p.all isByte = true := by
  cases i <;> cases henc <;> simp only [Instr.wellFormed, Bool.and_eq_true, isByte_iff, List.all_cons] at hwf
  case text =>
    obtain ⟨⟨ht, hlen⟩, hsyms⟩ := hwf
    exact ⟨_, _, _, rfl, by decide, ht, by simp [eq_of_beq hlen], hsyms⟩
  all_goals exact ⟨_, _, _, rfl, by simp [hwf]⟩

/-- A command's frame is read as the command: every operand stands where its kind looks for it, and fits its bytes. -/
theorem decodeKind_encodeFrame {i : Instr} {bs : List Nat} (hwf : i.wellFormed = true)
    (henc : encodeFrame i = some bs) : decodeKind bs = i := by
  cases i <;> cases henc <;>
    simp only [Instr.wellFormed, Bool.and_eq_true, Bool.or_eq_true, beq_iff_eq, decide_eq_true_eq, isByte_iff,
      isWord2_iff, isWord3_iff] at hwf
  case unknownKind t k =>
    obtain ⟨⟨-, hk⟩, -⟩ := hwf
    exact decodeKind_unknown t hk
  case text t syms =>
    obtain ⟨⟨-, hlen⟩, -⟩ := hwf
    exact decodeKind_text t hlen
  case position t lat lon h mi =>
    obtain ⟨⟨⟨⟨-, hlat⟩, hlon⟩, -⟩, -⟩ := hwf
    exact decodeKind_position t h mi hlat hlon
  case readBadSelector t sel => simp [decodeKind, decodeRead_badSelector, hwf]
  case readStatus | readNeighbours | readCases | readForecast | readWarnings | readTally | readQuota | readHaul |
      readTransfers =>
    simp [decodeKind, decodeRead, hwf]
  all_goals simp [decodeKind, hwf]

/-- Settles O12: the frame is twelve bytes by its shape, and each kind reads its operands back. -/
theorem frameRoundTrip : Obligations.FrameRoundTrip := by
  intro i bs hwf henc
  obtain ⟨k, t, p, rfl, hk, ht, hlen, hp⟩ := encodeFrame_frameOf hwf henc
  have htwelve := frameOf_length k t hlen
  have hbytes := frameOf_all_isByte hk ht hp
  exact ⟨htwelve, hbytes, (decodeFrame_of_twelve htwelve hbytes).trans
    (congrArg some (decodeKind_encodeFrame hwf henc))⟩

/-! ### Frames written out (O13) -/

theorem decodeFrame_encodeFrame {i : Instr} {bs : List Nat} (hwf : i.wellFormed = true)
    (henc : encodeFrame i = some bs) : decodeFrame bs = some i :=
  (frameRoundTrip i bs hwf henc).2.2

/-- Settles O13: five of the words are the frames of well-formed commands, and eleven bytes are too few. -/
theorem frameWords : Obligations.FrameWords :=
  ⟨decodeFrame_encodeFrame rfl rfl, decodeFrame_encodeFrame rfl rfl, decodeFrame_encodeFrame rfl rfl,
    decodeFrame_encodeFrame rfl rfl, decodeFrame_encodeFrame rfl rfl, rfl⟩

end Sys2Proof
end

section
/-! PROOF. A step runs the front command, or what the part takes by itself on an empty queue (O1, O2). -/

namespace Sys2Proof.Machine

/-- Settles O1: a step on a queue is `exec` by its definition. -/
theorem stepRunsFrontCommand : Obligations.StepRunsFrontCommand := fun _ _ _ => rfl

/-! ### What the part takes by itself (log entry 2) -/

namespace Device

variable {d : Device}

theorem takeDue_of_resetLow (hlow : d.resetLow = true) : d.takeDue = (none, d) := if_pos hlow

theorem takeDue_of_none_due (hhigh : d.resetLow = false) (hdue : d.dueEvents = []) : d.takeDue = (none, d.tick) := by
  simp [takeDue, hhigh, hdue]

theorem takeDue_of_one_due {c : Instr} (hhigh : d.resetLow = false) (hdue : d.dueEvents = [c]) :
    d.takeDue = (some c, d) := by
  simp [takeDue, hhigh, hdue]

/-- Of several due rows the one taken is the one at the place the free choice names. -/
theorem takeDue_of_several_due {c₁ c₂ : Instr} {r : List Instr} (hhigh : d.resetLow = false)
    (hdue : d.dueEvents = c₁ :: c₂ :: r) :
    d.takeDue = (some ((c₁ :: c₂ :: r).getD (Config.pick d.draws % (r.length + 2)) c₁),
      { d with draws := d.draws + 1 }) := by
  simp [takeDue, hhigh, hdue]

end Device

/-! ### The step on an empty queue -/

theorem step_of_takeDue_none {d e : Device} (htake : d.takeDue = (none, e)) : step ⟨[], d⟩ = .next ⟨[], e⟩ := by
  simp [step, htake]

theorem step_of_takeDue_some {d e : Device} {c : Instr} (htake : d.takeDue = (some c, e)) :
    step ⟨[], d⟩ = exec c ⟨[], e⟩ := by
  simp [step, htake]

/-- A number reduced by a list's length is a place of the list. -/
theorem getD_mod_length_mem {α : Type} {l : List α} (hne : l ≠ []) (n : Nat) (a : α) :
    l.getD (n % l.length) a ∈ l := by
  rw [List.getD_eq_getElem l a (Nat.mod_lt n (List.length_pos_of_ne_nil hne))]
  exact List.getElem_mem _

/-- Settles O2: a clause for each branch of `takeDue`; the free choice stays among the due rows, for it is reduced by
their number. -/
theorem emptyQueueStep : Obligations.EmptyQueueStep := by
  intro d
  refine ⟨fun hlow => ?low, fun hhigh hdue => ?none, fun c hhigh hdue => ?one, fun c₁ c₂ r hhigh hdue => ?several⟩
  case low => exact step_of_takeDue_none (Device.takeDue_of_resetLow hlow)
  case none => exact step_of_takeDue_none (Device.takeDue_of_none_due hhigh hdue)
  case one => exact step_of_takeDue_some (Device.takeDue_of_one_due hhigh hdue)
  case several =>
    refine ⟨_, ?_, step_of_takeDue_some (Device.takeDue_of_several_due hhigh hdue)⟩
    rw [hdue]
    exact getD_mod_length_mem (List.cons_ne_nil _ _) _ _

end Sys2Proof.Machine
end
